-- ==== Sys2Proof/Word.lean ====
section
/-! DEFINITION. Word.lean: the word types of the Trikel T9 and nothing else; bit-field and byte-order helpers stand in
Sys2Proof/Machine/Ops.lean. -/

namespace Sys2Proof

/-- A byte (00_scope.md, "Bits, bytes and byte order"). -/
abbrev Byte := BitVec 8
/-- A word of 32 bits. -/
abbrev Word := BitVec 32
/-- A doubleword of 64 bits. -/
abbrev DWord := BitVec 64
/-- The bits of one register tile or of the elements of one accumulator, row-major (R149, R115). -/
abbrev Elems := List Word

end Sys2Proof
end

