-- ==== Sys2Proof/Syntax.lean ====
section
/-! DEFINITION. Syntax.lean: the commands of the block, one constructor of Instr per row of spec/opcode_table.json, with the
packets and frames that arrive as operands. A docstring names the row's rule and what its operands say. -/

namespace Sys2Proof

/-- An Ewete packet (R303, R304). `port` is where it arrived: near port n as n, far port n as 64 + n, 255 for a packet of
this module itself. `spec0` is offset 0x18 (seal or limit), `spec1` 0x1C (seal header), `attempt` 0x1F, `spec2` 0x20 (six
bytes), `spec3` 0x26. -/
structure Packet where
  port    : Nat
  type    : Byte
  flags   : Byte
  hops    : Byte
  index   : Byte
  dst     : Word
  src     : Word
  tag     : Word
  address : DWord
  spec0   : Word
  spec1   : BitVec 24
  attempt : Byte
  spec2   : BitVec 48
  spec3   : BitVec 16
  channel : BitVec 16
  payload : List Byte
  deriving DecidableEq, Repr

/-- Warning, throttle and trip limit of a temperature sensor, in 0.1 °C (R496). -/
structure TempLimits where
  warning  : Int
  throttle : Int
  trip     : Int
  deriving DecidableEq, Repr

/-- The readings of the module's temperature sensors in 0.1 °C, by class (R496): `hbm` has two per stack, `optics` one per cage, the other
lists one per sensor. -/
structure Temps where
  c0     : List Int
  c1     : List Int
  hub    : List Int
  hbm    : List Int
  lpddr  : List Int
  nand   : List Int
  optics : List Int
  stages : List Int
  inlet  : List Int
  deriving DecidableEq, Repr

/-- Why a lane of a near port is to be swapped (R296): it has failed its training, or FEC has corrected symbols of it, averaged over 1 s, out of
those of its port. -/
inductive LaneFault where
  | untrained
  | errors (lane port : Nat)
  deriving DecidableEq, Repr

/-- What has no response (R314, R345): one of the module's transactions, a tile that no credit of `rank` covers, an item that the successor in a ring
has not credited. -/
inductive Awaited where
  | tx (id : Nat)
  | tile (handle rank : Nat)
  | item (ring : Nat)
  deriving DecidableEq, Repr

/-- What a read of a flash image meets (R399): how many NAND errors the flash controller's ECC has corrected, and the chunks it could not read, by
their index in the image. -/
structure NandRead where
  corrected  : Nat
  unreadable : List Nat
  deriving DecidableEq, Repr

/-- What link ECC says of one attempt of an LPDDR read (R290). -/
inductive LinkRead where
  | clean
  | corrected (lane : Nat)
  | bad
  deriving DecidableEq, Repr

/-- A memory error that a read meets: in HBM the symbol errors of a granule, as lane and difference, on the first read and on its
repetition (R247, R248); in LPDDR the attempts of the read of a granule (R290). -/
inductive ReadEvent where
  | symbols (granule : Nat) (first second : List (Nat × BitVec 16))
  | link (granule : Nat) (tries : List LinkRead)
  deriving DecidableEq, Repr

/-- What the outside says of a move's end (R192): its bytes came whole, or only on the retry of R104, or damaged both times
below every ECC and link check, or with a corrected or a repeated uncorrectable error of a slot memory (R93), or with an error of the HBM or
LPDDR read, or the transfer failed in another way. -/
inductive MoveOutcome where
  | arrived
  | onRetry
  | damaged
  | corrected
  | uncorrectable
  | memory (event : ReadEvent)
  | failed
  deriving DecidableEq, Repr

/-- How a command of the module's classes is named: the mailbox and the tag of the acknowledged command that starts. -/
inductive Instr where
  -- Host link (02_host_commands.md)
  /-- R30: the host wrote `bytes` into MB`mb`'s ring from the old producer offset on and then `ptr` to the producer pointer. -/
  | doorbell (mb : Nat) (ptr : Word) (bytes : List Byte)
  /-- R33, R37: the module takes the packet at MB`mb`'s consumer pointer. -/
  | packetAcknowledge (mb : Nat)
  /-- R29: the packet at MB`mb`'s consumer pointer is a pad. -/
  | pad (mb : Nat)
  | openSession (mb : Nat) (tag : DWord)       -- R43
  | prove (mb : Nat) (tag : DWord)             -- R44
  | closeSession (mb : Nat) (tag : DWord)      -- R46
  | provision (mb : Nat) (tag : DWord)         -- R48
  | rotate (mb : Nat) (tag : DWord)            -- R48
  /-- R44: the challenge of MB`mb` reaches the age of 1 s. -/
  | challengeExpiry (mb : Nat)
  /-- R44: the lock-out of MB`mb` ends. -/
  | lockoutExpiry (mb : Nat)
  | identify (mb : Nat) (tag : DWord)          -- R49
  | status (mb : Nat) (tag : DWord)            -- R461
  | eventMask (mb : Nat) (tag : DWord)         -- R458
  | resetCmd (mb : Nat) (tag : DWord)          -- R64
  | echo (mb : Nat) (tag : DWord)              -- R504
  | query (mb : Nat) (tag : DWord)             -- R57
  | stage (mb : Nat) (tag : DWord)             -- R57
  | verify (mb : Nat) (tag : DWord)            -- R58
  | activate (mb : Nat) (tag : DWord)          -- R58
  | write (mb : Nat) (tag : DWord)             -- R51
  | read (mb : Nat) (tag : DWord)              -- R51
  | fill (mb : Nat) (tag : DWord)              -- R51
  | writeTensor (mb : Nat) (tag : DWord)       -- R53
  | readTensor (mb : Nat) (tag : DWord)        -- R53
  | windowGrant (mb : Nat) (tag : DWord)       -- R55
  | windowRevoke (mb : Nat) (tag : DWord)      -- R56
  /-- R28: the read of host memory that command `tag` of MB`mb` issued has no completion after 50 ms. -/
  | hostReadTimeout (mb : Nat) (tag : DWord)
  | abort (mb : Nat) (tag : DWord)             -- R59
  /-- R368: the abort `tag` of MB`mb` completes. -/
  | abortComplete (mb : Nat) (tag : DWord)
  -- Resets and boot (18_power_clocks_reset.md)
  /-- R62, R448: `source` as R472 encodes it: 0 RESET command, 1 FLR, 2 hot reset, 3 link-down or PERST#. -/
  | functionReset (source : Nat)
  /-- R448: `source` 0 RESET command, 1 sideband, 2 watchdog, 3 thermal trip. -/
  | warmReset (source : Nat)
  /-- R448: `source` 0 54 V arriving, 1 MOD_RESET_N, 2 sideband. -/
  | coldReset (source : Nat)
  | powerArrival                                -- R432
  /-- R492: the input has fallen to `mv`. -/
  | powerLoss (mv : Nat)
  | modResetNAssert                             -- R507
  | modResetNRelease                            -- R507
  | sysenWatchdogExpiry                         -- R448
  | bootPower                                   -- R434
  | bootRom                                     -- R449
  | bootFirmware                                -- R449
  /-- R449: `failedHbm` and `failedLpddr` are the channels whose command or clock path fails training (R255, R290);
  `failedLanes` the HBM lanes that fail it (R254), as (channel, pseudo-channel, lane). -/
  | bootMemory (failedHbm failedLpddr : List Nat) (failedLanes : List (Nat × Nat × Nat))
  /-- R449: `failed` are the cores whose self-test fails. -/
  | bootCores (failed : List Nat)
  | bootFabric                                  -- R449
  | bootFlash                                   -- R449
  | bootReady                                   -- R449
  | thermalHoldRelease (temps : Temps)          -- R443
  /-- R434, R492: `rail` is the power stage that reports, 1 to 9 in R434's order, or 0 for the input, which has stood at `mv` without a
  break. -/
  | powerFault (rail : Nat) (mv : Nat)
  /-- R492: the input has stood at `mv` for 100 µs without a break. -/
  | inputExcursion (mv : Nat)
  /-- R440: input voltage in mV, the averages over 1 s and 10 ms in mW, and the sensors' readings. -/
  | powerSample (mv avg1s avg10ms : Nat) (temps : Temps)
  | clockRaise                                  -- R440
  | currentLimit                                -- R441
  | thermalThrottle (temps : Temps)             -- R442
  | thermalTrip (temps : Temps)                 -- R443
  | coreLight (core : Nat)                      -- R438
  | coreDim (core : Nat)                        -- R438
  | coreDark (core : Nat)                       -- R438
  | coreClockStop (core : Nat)                  -- R437
  | pwrQuery (mb : Nat) (tag : DWord)           -- R444
  | pwrLimit (mb : Nat) (tag : DWord)           -- R440
  | coreState (mb : Nat) (tag : DWord)          -- R506
  | coreFence (mb : Nat) (tag : DWord)          -- R445
  /-- R446: `pass` is what the self-test finds. -/
  | coreRetest (mb : Nat) (tag : DWord) (pass : Bool)
  | nearPort (mb : Nat) (tag : DWord)           -- R444
  | hbmMapout (mb : Nat) (tag : DWord)          -- R259
  | idleTimers (mb : Nat) (tag : DWord)         -- R438
  | standby (mb : Nat) (tag : DWord)            -- R447
  -- Fences (04_cores_tile_store_seals.md)
  | noRetireTimeout (core : Nat)                -- R106
  | correctedErrorLimit (core : Nat)            -- R106
  /-- R107: `cause` is the row of R106's trigger table. -/
  | immediateFence (core : Nat) (cause : Nat)
  /-- R108: the program of fenced core `core` starts again on the lowest idle enabled core of its die. -/
  | reissue (core : Nat)
  -- Programs (08_tile_program_isa.md)
  | progLoad (mb : Nat) (tag : DWord)           -- R181
  | progDrop (mb : Nat) (tag : DWord)           -- R180
  | progList (mb : Nat) (tag : DWord)           -- R180
  | launch (mb : Nat) (tag : DWord)             -- R183
  | halt (mb : Nat) (tag : DWord)               -- R183
  | schedLoad (mb : Nat) (tag : DWord)          -- R231
  | schedDrop (mb : Nat) (tag : DWord)          -- R228
  -- Tile instructions: the core issues the instruction at its index (R186)
  | nop (core : Nat) | endProg (core : Nat) | trap (core : Nat)
  /-- R204: a stopped core completes what it issued and reports the trap record. -/
  | trapStop (core : Nat)
  | setsh (core : Nat) | dld (core : Nat) | li (core : Nat) | xalu (core : Nat) | br (core : Nat) | loop (core : Nat)
  | brf (core : Nat) | rdst (core : Nat) | wrst (core : Nat) | drain (core : Nat)
  | mmul (core : Nat) | mload (core : Nat) | mstore (core : Nat) | xpose (core : Nat)
  | acfg (core : Nat) | aexp (core : Nat) | afold (core : Nat) | ablk (core : Nat) | aclose (core : Nat)
  | adprep (core : Nat) | abblk (core : Nat)
  | vadd (core : Nat) | vsub (core : Nat) | vmul (core : Nat) | vmin (core : Nat) | vmax (core : Nat) | vabs (core : Nat)
  | vneg (core : Nat) | vfma (core : Nat) | vdiv (core : Nat) | vsqrt (core : Nat) | vrsqrt (core : Nat)
  | vexp2 (core : Nat) | vlog2 (core : Nat) | vcmp (core : Nat) | vsel (core : Nat)
  | viadd (core : Nat) | visub (core : Nat) | vimul (core : Nat) | vimin (core : Nat) | vimax (core : Nat)
  | vand (core : Nat) | vor (core : Nat) | vxor (core : Nat) | vnot (core : Nat) | vshl (core : Nat) | vshr (core : Nat)
  | vsra (core : Nat)
  | vbcast (core : Nat) | viota (core : Nat) | vxpose (core : Nat) | vperm (core : Nat) | vrand (core : Nat)
  | rclr (core : Nat) | rrow (core : Nat) | rcol (core : Nat) | radd (core : Nat) | rtopk (core : Nat) | rhist (core : Nat)
  | rread (core : Nat)
  | scan (core : Nat) | vcvt (core : Nat)
  | fetch (core : Nat) | store (core : Nat) | movem (core : Nat) | gfetch (core : Nat) | atom (core : Nat) | msg (core : Nat)
  /-- R192: the transfer `id` of core `core` ends. -/
  | moveEnd (core : Nat) (id : Nat) (outcome : MoveOutcome)
  /-- R193: the deadline of activation fetch `id` of core `core` passes. -/
  | fetchDeadline (core : Nat) (id : Nat)
  | vldr (core : Nat) | vstr (core : Nat) | vldp (core : Nat) | vstp (core : Nat) | vgath (core : Nat) | vscat (core : Nat)
  | vscadd (core : Nat) | vrscat (core : Nat)
  | sealTile (core : Nat) | schk (core : Nat) | srec (core : Nat) | sclr (core : Nat)
  | push (core : Nat) | pop (core : Nat) | sdrop (core : Nat)
  | signal (core : Nat) | wait (core : Nat)
  | waitSatisfy (core : Nat)                    -- R199
  | syncTimeout (core : Nat)                    -- R199
  | fence (core : Nat)
  -- Stacks (09): `stack` is the index of the stack context in the job's descriptors
  | stackDrain (stack : Nat)                    -- R214
  | stackSpill (stack : Nat)                    -- R214
  /-- R216: the next spilled frame of return request `req` returns; `ok` is its arrival. -/
  | frameReturn (stack : Nat) (req : Nat) (ok : Bool)
  | returnDeadline (stack : Nat) (req : Nat)    -- R216
  -- Jobs (10_pipeline_sequencer.md)
  | jobLoad (mb : Nat) (tag : DWord)            -- R225
  | jobStart (mb : Nat) (tag : DWord)           -- R229
  | jobStop (mb : Nat) (tag : DWord)            -- R227
  | jobLengths (mb : Nat) (tag : DWord)         -- R237
  | jobStatus (mb : Nat) (tag : DWord)          -- R227
  | jobUnload (mb : Nat) (tag : DWord)          -- R227
  | jobSwap (mb : Nat) (tag : DWord)            -- R227
  | entryStart (entry : Nat)                    -- R233
  | returnRequest (entry : Nat)                 -- R235
  | wLatestStart (entry : Nat)                  -- R241
  | instanceDispatch (entry : Nat)              -- R234
  | instanceEnd (core : Nat)                    -- R239
  -- Topology and collectives (14)
  | topoRoute (mb : Nat) (tag : DWord)          -- R324
  | topoQuery (mb : Nat) (tag : DWord)          -- R295
  | collDefine (mb : Nat) (tag : DWord)         -- R333
  | collDrop (mb : Nat) (tag : DWord)           -- R343
  | reshard (mb : Nat) (tag : DWord)            -- R344
  | genInstall                                  -- R344
  | collStatus (mb : Nat) (tag : DWord)         -- R338
  | collLimitExpiry (handle : Nat)              -- R345
  | colData (p : Packet)                        -- R337
  | colCredit (p : Packet)                      -- R341
  | colResend (p : Packet)                      -- R341
  | colCounts (p : Packet)                      -- R339
  | colAbort (p : Packet)                       -- R345
  | ringBlock (p : Packet)                      -- R350
  | ringCredit (p : Packet)                     -- R350
  | ringGrad (p : Packet)                       -- R352
  | ringResend (p : Packet)                     -- R341
  | gradientHandoff (ring : Nat)                -- R352
  -- Tiers (12): `page` is the page number, (offset − 0x100_0000_0000) / 2 MiB
  | tierPool (mb : Nat) (tag : DWord)           -- R268
  | tierRegion (mb : Nat) (tag : DWord)         -- R269
  | tierHint (mb : Nat) (tag : DWord)           -- R282
  | tierFlush (mb : Nat) (tag : DWord)          -- R274
  | tierCopy (mb : Nat) (tag : DWord)           -- R288
  | tierQuery (mb : Nat) (tag : DWord)          -- R289
  | pagePromote (page : Nat)                    -- R271
  | promoteFinalStage (page : Nat)              -- R271
  | pageDemote (page : Nat)                     -- R272
  | demoteFinalStage (page : Nat)               -- R272
  | granuleCopyArrival (page : Nat) (granule : Nat) (gen : Byte)   -- R274
  | promoteDeadline (page : Nat)                -- R287
  | pinEnd (page : Nat)                         -- R283
  -- HBM and LPDDR (11, 12)
  /-- R251: the scrub reads its next granule; the symbol errors of the read and of its repetition, as lane and difference. -/
  | patrolScrub (first second : List (Nat × BitVec 16))
  /-- R251: the stacks' on-die reports: corrected counts of the period, per stack; and the LPDDR channels that report an on-die scrub
  (R290). -/
  | hbmEccCollect (counts scrubbed : List Nat)
  /-- R257: the spare takes up a lane, or has done so for 40 µs; `margin` is the lane's margin as measured, in per cent of the margin
  at its training (R252). -/
  | hbmShadowRecentre (channel pc lane margin : Nat)
  | hbmWindowedRecentre (channel pc lane : Nat) -- R257
  | hbmCaRecentre (channel : Nat)               -- R257
  | laneRepair (channel pc lane : Nat)          -- R253
  /-- R248: `failed` reissues in a row have failed on the channel. -/
  | interfaceRecovery (channel failed : Nat)
  /-- R258: the window of a channel ends; `good` says that its test patterns or its training passed, `margin` as above. -/
  | surveyWindowClose (channel : Nat) (good : Bool) (margin : Nat)
  /-- R291: `drift` is the drift since the last retrain in 1/8 unit intervals, rounded up. -/
  | lpddrOscRead (channel : Nat) (drift : Nat)
  /-- R291, R290: `failed` reissues of a write in a row have failed, 0 for none. -/
  | lpddrRetrain (channel failed : Nat)
  /-- R291: `good` says that the command and clock path passed its training (R290). -/
  | lpddrCaRecentre (channel : Nat) (good : Bool)
  | zqLatch (package : Nat)                     -- R291
  -- Near ports and the link layer (13, 21)
  | portTrained (port : Nat)                    -- R295
  /-- R300: the 64-byte capability block of the peer arrives at near port `port`. -/
  | capabilityBlock (port : Nat) (block : List Byte)
  | capabilityResend (port : Nat)               -- R300
  /-- R296: lane `lane` of the port's outbound or inbound lanes, and what is wrong with it. At a port whose window is open, the window ends. -/
  | laneSwap (port : Nat) (outbound : Bool) (lane : Nat) (fault : LaneFault)
  /-- R297: `margin` is the eye margin of the peer's receiver in percent of that at training. At a port whose window is open, the window
  ends. -/
  | txRetune (port : Nat) (margin : Nat)
  /-- R297: `relocked` says whether the retrain succeeds within its window. At a port whose retrain window is open, the window ends. -/
  | lossOfLock (port : Nat) (relocked : Bool)
  | cableRemoved (pair : Nat)                   -- R486
  | cableInserted (pair : Nat)                  -- R486
  /-- R298: the 512 bytes of a flit arrive at near port `port`. -/
  | flit (port : Nat) (bytes : List Byte)
  -- Transactions (13)
  | rdReq (p : Packet)                          -- R308
  | rdData (p : Packet)                         -- R308
  | wr (p : Packet)                             -- R309
  | wrAck (p : Packet)                          -- R309
  | atReq (p : Packet)                          -- R311
  | atResp (p : Packet)                         -- R311
  | msgPacket (p : Packet)                      -- R312
  | msgAck (p : Packet)                         -- R312
  | err (p : Packet)                            -- R305
  /-- R307: the packet has been held for 20 µs. -/
  | packetHoldExpiry (p : Packet)
  /-- R314: what the module has sent has no response within its time-out. -/
  | fabricTimeout (what : Awaited)
  | busyResend (tx : Nat)                       -- R310
  | msgRetry (tx : Nat)                         -- R312
  /-- R310: the write entry for (`src`, `tag`) has been idle for 10 ms. -/
  | writeEntryRelease (src tag : Word)
  | tagSweepStart (domain : Nat)                -- R326
  -- Far ports (15, 21)
  | farConfig (mb : Nat) (tag : DWord)          -- R372
  | farKey (mb : Nat) (tag : DWord)             -- R370
  | farControl (mb : Nat) (tag : DWord)         -- R373
  | farQuery (mb : Nat) (tag : DWord)           -- R372
  | farPaths (mb : Nat) (tag : DWord)           -- R372
  | farFrameSend (port : Nat) (peer : Nat)      -- R361
  /-- R359, R360, R358: a frame from its destination MAC address to its ICV (R356). -/
  | data (port : Nat) (frame : List Byte)
  | ack (port : Nat) (frame : List Byte)
  | hello (port : Nat) (frame : List Byte)
  | ackTimer (port : Nat) (peer : Nat)          -- R360
  | retransmitTimeout (port : Nat) (peer : Nat) -- R360
  | pathResetTimeout (port : Nat) (peer : Nat)  -- R358
  | stopResetTimeout (port : Nat)               -- R367
  | pathIdleClose (port : Nat) (peer : Nat)     -- R358
  | keepalive (port : Nat) (peer : Nat)         -- R366
  /-- R371: the far end reports `corrected` symbols that FEC has corrected out of `symbols`. -/
  | farRetune (port corrected symbols : Nat)
  | farRetrain (port : Nat) (relocked : Bool)   -- R371
  /-- R487, R496: the optic's declared maximum power in mW, or none when its management does not answer within 2 s, and the alarm
  thresholds it gives for itself. -/
  | opticInserted (port : Nat) (power : Option Nat) (own : Option TempLimits)
  | opticRemoved (port : Nat)                   -- R488
  -- Resilience (16)
  | ready                                       -- R381
  | veto                                        -- R382
  | commit                                      -- R383
  | rollback                                    -- R384
  | ask                                         -- R385
  | commitStallTimeout                          -- R385
  | vaultHello                                  -- R387
  | vaultAccept                                 -- R388
  | vaultRefuse                                 -- R389
  | vaultCopyEnd                                -- R388
  | snapshotStart                               -- R395
  | snapshotCommit                              -- R397
  | resConfig (mb : Nat) (tag : DWord)          -- R413
  | resQuery (mb : Nat) (tag : DWord)           -- R412
  | dataPos (mb : Nat) (tag : DWord)            -- R391
  | snapTake (mb : Nat) (tag : DWord)           -- R395
  | snapList (mb : Nat) (tag : DWord)           -- R412
  | snapDrop (mb : Nat) (tag : DWord)           -- R412
  | snapExport (mb : Nat) (tag : DWord) (nand : NandRead) -- R400
  /-- R401: for source 2 `nand` is what the read of the flash image meets. A RESTORE that reads the partner's vault goes on by the same row once
  its reads are answered. -/
  | restore (mb : Nat) (tag : DWord) (nand : NandRead)
  | lanternConfig (mb : Nat) (tag : DWord)      -- R412
  | takeover (mb : Nat) (tag : DWord)           -- R409
  | peerSwap (mb : Nat) (tag : DWord)           -- R410
  | lanternEvaluate                             -- R406
  -- Vision (17)
  | visOpen (mb : Nat) (tag : DWord)            -- R420
  | visClose (mb : Nat) (tag : DWord)           -- R422
  | visData (mb : Nat) (tag : DWord)            -- R421
  | visPull (mb : Nat) (tag : DWord)            -- R421
  | visBoxes (mb : Nat) (tag : DWord)           -- R423
  | visQuery (mb : Nat) (tag : DWord)           -- R422
  | decodeStart (engine : Nat)                  -- R416
  /-- R416, R417: the engine has done with its unit; `error` is a memory error that its reads of the ring and the picture buffer met. -/
  | decodeDone (engine : Nat) (error : Option ReadEvent)
  | frameTokenize (ctx : Nat)                   -- R426
  -- Telemetry (19)
  | telSteps (mb : Nat) (tag : DWord)           -- R456
  | telStream (mb : Nat) (tag : DWord)          -- R457
  | telEvents (mb : Nat) (tag : DWord)          -- R458
  | telErrors (mb : Nat) (tag : DWord)          -- R460
  | fbCounters (mb : Nat) (tag : DWord)         -- R466
  | fbHistograms (mb : Nat) (tag : DWord)       -- R466
  | fbLog (mb : Nat) (tag : DWord)              -- R463
  | fbCommit (mb : Nat) (tag : DWord)           -- R464
  | fbImage (mb : Nat) (tag : DWord)            -- R462
  | fieldBookHourlyCommit                       -- R464
  /-- R465: the input voltage in mV, averaged over the last second. -/
  | fieldBookSample (mv : Nat)
  -- Registers, interrupts, sideband (18, 20)
  | cplConsumerWrite (mb : Nat) (value : Word)  -- R475
  /-- R476: `reg` 0 CPL_BASE_LO, 1 CPL_BASE_HI, 2 CPL_SIZE. -/
  | cplRingConfig (mb : Nat) (reg : Nat) (value : Word)
  | irqHoldoffWrite (mb : Nat) (value : Word)   -- R473
  | irqHoldoffExpiry (mb : Nat)                 -- R480
  | mailboxStatusClear (mb : Nat) (value : Word)-- R478
  | errorStatusClear (value : Word)             -- R481
  | timeLoRead                                  -- R472
  /-- R468, R469: a BAR2 write of `size` bytes. -/
  | registerWrite (offset size : Nat) (value : DWord)
  | sidebandColdReset                           -- R453
  | sidebandWarmReset                           -- R453
  | sidebandTripClear                           -- R453
  | sidebandLimitWrite (value : Byte)           -- R440
  /-- R327: tag `tag` of domain `domain` becomes reusable. -/
  | t7TagQuarantineEnd (domain tag : Nat)
  | farPortTrained (port : Nat)                 -- R373
  /-- R482: a configuration write that clears the Function Mask. -/
  | functionMaskWrite
  /-- R481: `vector` is 16 or 17. -/
  | vectorSpacingExpiry (vector : Nat)
  deriving DecidableEq, Repr

end Sys2Proof
end

