-- ==== Sys2Proof/Machine/Cipher.lean ====
section
/-! DEFINITION. Cipher.lean: AES-256 in Galois/Counter Mode, which the cipher suites of the far ports run (R369, by FIPS 197 and
NIST SP 800-38D; the byte order inside is the standards', R10). -/

namespace Sys2Proof.Machine

/-! ### AES-256 (FIPS 197) -/

def aesSbox : List Byte :=
  [0x63, 0x7C, 0x77, 0x7B, 0xF2, 0x6B, 0x6F, 0xC5, 0x30, 0x01, 0x67, 0x2B, 0xFE, 0xD7, 0xAB, 0x76] ++
  [0xCA, 0x82, 0xC9, 0x7D, 0xFA, 0x59, 0x47, 0xF0, 0xAD, 0xD4, 0xA2, 0xAF, 0x9C, 0xA4, 0x72, 0xC0] ++
  [0xB7, 0xFD, 0x93, 0x26, 0x36, 0x3F, 0xF7, 0xCC, 0x34, 0xA5, 0xE5, 0xF1, 0x71, 0xD8, 0x31, 0x15] ++
  [0x04, 0xC7, 0x23, 0xC3, 0x18, 0x96, 0x05, 0x9A, 0x07, 0x12, 0x80, 0xE2, 0xEB, 0x27, 0xB2, 0x75] ++
  [0x09, 0x83, 0x2C, 0x1A, 0x1B, 0x6E, 0x5A, 0xA0, 0x52, 0x3B, 0xD6, 0xB3, 0x29, 0xE3, 0x2F, 0x84] ++
  [0x53, 0xD1, 0x00, 0xED, 0x20, 0xFC, 0xB1, 0x5B, 0x6A, 0xCB, 0xBE, 0x39, 0x4A, 0x4C, 0x58, 0xCF] ++
  [0xD0, 0xEF, 0xAA, 0xFB, 0x43, 0x4D, 0x33, 0x85, 0x45, 0xF9, 0x02, 0x7F, 0x50, 0x3C, 0x9F, 0xA8] ++
  [0x51, 0xA3, 0x40, 0x8F, 0x92, 0x9D, 0x38, 0xF5, 0xBC, 0xB6, 0xDA, 0x21, 0x10, 0xFF, 0xF3, 0xD2] ++
  [0xCD, 0x0C, 0x13, 0xEC, 0x5F, 0x97, 0x44, 0x17, 0xC4, 0xA7, 0x7E, 0x3D, 0x64, 0x5D, 0x19, 0x73] ++
  [0x60, 0x81, 0x4F, 0xDC, 0x22, 0x2A, 0x90, 0x88, 0x46, 0xEE, 0xB8, 0x14, 0xDE, 0x5E, 0x0B, 0xDB] ++
  [0xE0, 0x32, 0x3A, 0x0A, 0x49, 0x06, 0x24, 0x5C, 0xC2, 0xD3, 0xAC, 0x62, 0x91, 0x95, 0xE4, 0x79] ++
  [0xE7, 0xC8, 0x37, 0x6D, 0x8D, 0xD5, 0x4E, 0xA9, 0x6C, 0x56, 0xF4, 0xEA, 0x65, 0x7A, 0xAE, 0x08] ++
  [0xBA, 0x78, 0x25, 0x2E, 0x1C, 0xA6, 0xB4, 0xC6, 0xE8, 0xDD, 0x74, 0x1F, 0x4B, 0xBD, 0x8B, 0x8A] ++
  [0x70, 0x3E, 0xB5, 0x66, 0x48, 0x03, 0xF6, 0x0E, 0x61, 0x35, 0x57, 0xB9, 0x86, 0xC1, 0x1D, 0x9E] ++
  [0xE1, 0xF8, 0x98, 0x11, 0x69, 0xD9, 0x8E, 0x94, 0x9B, 0x1E, 0x87, 0xE9, 0xCE, 0x55, 0x28, 0xDF] ++
  [0x8C, 0xA1, 0x89, 0x0D, 0xBF, 0xE6, 0x42, 0x68, 0x41, 0x99, 0x2D, 0x0F, 0xB0, 0x54, 0xBB, 0x16]

def subByte (b : Byte) : Byte := aesSbox.getD b.toNat 0

/-- Multiplication by x in the field of AES. -/
def xtime (b : Byte) : Byte := if b.getLsbD 7 then (b <<< 1) ^^^ 0x1B#8 else b <<< 1

def xorBytes (a b : List Byte) : List Byte := List.zipWith (· ^^^ ·) a b

/-- The next eight words of the key schedule from the last eight, the round constant given. -/
def aesNextKey (k : List Byte) (rcon : Byte) : List Byte :=
  let last := (k.drop 28).map subByte
  let w0 := xorBytes (k.take 4) (xorBytes (last.drop 1 ++ last.take 1) [rcon, 0, 0, 0])
  let w1 := xorBytes (sub k 4 4) w0
  let w2 := xorBytes (sub k 8 4) w1
  let w3 := xorBytes (sub k 12 4) w2
  let w4 := xorBytes (sub k 16 4) (w3.map subByte)
  let w5 := xorBytes (sub k 20 4) w4
  let w6 := xorBytes (sub k 24 4) w5
  w0 ++ w1 ++ w2 ++ w3 ++ w4 ++ w5 ++ w6 ++ xorBytes (k.drop 28) w6

/-- The key schedule of a 32-byte key: the key, then `n` times 32 bytes more. -/
def aesSchedule : Nat → List Byte → Byte → List Byte
  | 0, k, _ => k
  | n + 1, k, rcon => k ++ aesSchedule n (aesNextKey k rcon) (xtime rcon)

/-- The fifteen round keys of a 32-byte key. -/
def aesKeys (key : List Byte) : List (List Byte) :=
  let w := aesSchedule 7 (sub key 0 32) 1
  (List.range 15).map fun i => sub w (16 * i) 16

/-- The rows of the state, which stands column by column, turned left by their number. -/
def shiftRows (s : List Byte) : List Byte := (List.range 16).map fun i => s.getD ((5 * i) % 16) 0

def mixColumn : List Byte → List Byte
  | [a, b, c, d] =>
    let t := a ^^^ b ^^^ c ^^^ d
    [a ^^^ t ^^^ xtime (a ^^^ b), b ^^^ t ^^^ xtime (b ^^^ c), c ^^^ t ^^^ xtime (c ^^^ d), d ^^^ t ^^^ xtime (d ^^^ a)]
  | s => s

def mixColumns (s : List Byte) : List Byte := (List.range 4).flatMap fun i => mixColumn (sub s (4 * i) 4)

/-- Encrypts one block under round keys. -/
def aesBlock (keys : List (List Byte)) (p : List Byte) : List Byte :=
  let round (s k : List Byte) : List Byte := xorBytes (mixColumns (shiftRows (s.map subByte))) k
  let s := (sub' keys 1 13).foldl round (xorBytes p (keys.headD []))
  xorBytes (shiftRows (s.map subByte)) (keys.getLastD [])
where
  /-- Elements `o` to `o + n - 1`. -/
  sub' (l : List (List Byte)) (o n : Nat) : List (List Byte) := (l.drop o).take n

/-! ### GCM (SP 800-38D) -/

/-- The step of multiplication in GF(2^128): the product so far and the multiple of `y`, for one bit of `x`. -/
def gcmBit (x : BitVec 128) (zv : BitVec 128 × BitVec 128) (i : Nat) : BitVec 128 × BitVec 128 :=
  let v := zv.2
  (if x.getMsbD i then zv.1 ^^^ v else zv.1, if v.getLsbD 0 then (v >>> 1) ^^^ (0xE1#128 <<< 120) else v >>> 1)

def gcmMul (x y : BitVec 128) : BitVec 128 := ((List.range 128).foldl (gcmBit x) (0, y)).1

/-- Pieces of 16 bytes, the last filled up with zeros. -/
def blocks16 (bs : List Byte) : List (List Byte) := (List.range ((bs.length + 15) / 16)).map fun i => sub bs (16 * i) 16

def toBlock (bs : List Byte) : BitVec 128 := BitVec.ofNat 128 (unbe bs)

/-- GHASH over authenticated data and ciphertext, with their lengths. -/
def ghash (h : BitVec 128) (aad c : List Byte) : BitVec 128 :=
  (blocks16 aad ++ blocks16 c ++ [be 8 (8 * aad.length) ++ be 8 (8 * c.length)]).foldl (fun y b => gcmMul (y ^^^ toBlock b) h) 0

/-- Encrypts, or decrypts, in counter mode from counter 2 on, with a 12-byte IV. -/
def gcmCrypt (keys : List (List Byte)) (iv bs : List Byte) : List Byte :=
  (blocks16 bs).zipIdx.flatMap (fun bi => xorBytes bi.1 (aesBlock keys (iv ++ be 4 (bi.2 + 2)))) |>.take bs.length

/-- The 16-byte tag of authenticated data and ciphertext. -/
def gcmTag (keys : List (List Byte)) (iv aad c : List Byte) : List Byte :=
  xorBytes (be 16 (ghash (toBlock (aesBlock keys (zeros 16))) aad c).toNat) (aesBlock keys (iv ++ be 4 1))

/-- Ciphertext and tag. -/
def gcmProtect (key iv aad plain : List Byte) : List Byte :=
  let keys := aesKeys key
  let c := gcmCrypt keys iv plain
  c ++ gcmTag keys iv aad c

/-- The plaintext, when the tag holds. -/
def gcmOpen (key iv aad bs : List Byte) : Option (List Byte) :=
  let keys := aesKeys key
  let c := bs.take (bs.length - 16)
  if bs.length < 16 || bs.drop (bs.length - 16) ≠ gcmTag keys iv aad c then none else some (gcmCrypt keys iv c)

end Sys2Proof.Machine
end

