-- ==== Sys2Proof/Machine/Ecc.lean ====
section
/-! DEFINITION. Ecc.lean: the controller symbol code of HBM (11_hbm.md, R247): a granule as 36 symbols, its four check symbols, and what a
read with symbol errors decodes to. -/

namespace Sys2Proof.Machine

/-! ### GF(2^16) (log 115) -/

abbrev Sym := BitVec 16

/-- A symbol times the element `x` of the field: the polynomial is x^16 + x^12 + x^3 + x + 1. -/
def symX (a : Sym) : Sym := if a.msb then (a <<< 1) ^^^ 0x100B#16 else a <<< 1

/-- The product of two symbols, over the bits of `b` from bit `k - 1` down. -/
def symMulTo (a b : Sym) : Nat → Sym
  | 0 => 0
  | k + 1 => symMulTo (symX a) (b >>> 1) k ^^^ (if b.getLsbD 0 then a else 0)

def symMul (a b : Sym) : Sym := symMulTo a b 16

/-- The `k`-th power of a symbol. -/
def symPow (a : Sym) : Nat → Sym
  | 0 => 1
  | k + 1 => symMul a (symPow a k)

/-! ### Beats and symbols -/

/-- Data lanes and working lanes of a pseudo-channel; the spare is lane 36 (R252). -/
def dataLanes : Nat := 32
def workLanes : Nat := 36
def spareLane : Nat := 36

/-- The point of a lane: its symbol is the coefficient of x^(35 - lane) of the codeword. -/
def lanePoint (lane : Nat) : Sym := symPow 2 (35 - lane)

/-- The symbol of data lane `l`: bit b is bit l of beat b, beat b being bytes 4b to 4b + 3 of the granule. -/
def dataSymbol (bs : List Byte) (l : Nat) : Sym :=
  (List.range 16).foldl (fun v b => if (bs.getD (4 * b + l / 8) 0).getLsbD (l % 8) then v ||| (1#16 <<< b) else v) 0

/-- The bytes of a granule from its 32 data symbols. -/
def symbolBytes (ss : List Sym) : List Byte :=
  (List.range 64).map fun k => (List.range 8).foldl (fun v j =>
    if (ss.getD (8 * (k % 4) + j) 0).getLsbD (k / 4) then v ||| (1#8 <<< j) else v) 0

/-- One step of the division by the generator (x + 1)(x + a)(x + a²)(x + a³), highest coefficient first. -/
def codeStep (gen : List Sym) (r : List Sym) (d : Sym) : List Sym :=
  let q := d ^^^ r.getD 0 0
  (List.range 4).map fun i => r.getD (i + 1) 0 ^^^ symMul q (gen.getD i 0)

/-- The generator's coefficients below x^4, highest first. -/
def codeGen : List Sym :=
  let mulBy (p : List Sym) (root : Sym) : List Sym :=
    (List.range (p.length + 1)).map fun i => (if i < p.length then p.getD i 0 else 0) ^^^ (if i = 0 then 0 else symMul root (p.getD (i - 1) 0))
  ([1, 2, symPow 2 2, symPow 2 3].foldl mulBy [1]).drop 1

/-- The 36 symbols of a granule: 32 data symbols and 4 check symbols (R247). -/
def encodeGranule (bs : List Byte) : List Sym :=
  let ds := (List.range dataLanes).map (dataSymbol bs)
  ds ++ ds.foldl (codeStep codeGen) [0, 0, 0, 0]

/-- Syndrome `j` of 36 symbols. -/
def codeSyndrome (ss : List Sym) (j : Nat) : Sym :=
  (List.range workLanes).foldl (fun v l => v ^^^ symMul (ss.getD l 0) (symPow (lanePoint l) j)) 0

/-! ### Decoding -/

/-- What the decoder finds: no error, one symbol in error and corrected, or an uncorrectable word (R247). -/
inductive Decoded where
  | clean
  | corrected (lane : Nat)
  | bad
  deriving DecidableEq, Repr

/-- Decodes 36 symbols: the finding, and the data symbols as corrected. -/
def decodeSymbols (ss : List Sym) : Decoded × List Sym :=
  let s := (List.range 4).map (codeSyndrome ss)
  let v := s.getD 0 0
  if s = [0, 0, 0, 0] then (.clean, ss.take dataLanes)
  else
    match (List.range workLanes).find? fun l => v ≠ 0 && (List.range 4).all fun j => s.getD j 0 == symMul v (symPow (lanePoint l) j) with
    | some l => (.corrected l, (ss.modify l (· ^^^ v)).take dataLanes)
    | none => (.bad, ss.take dataLanes)

/-- Symbols with errors: each names a lane and a difference. -/
def withErrors (ss : List Sym) (errs : List (Nat × Sym)) : List Sym := errs.foldl (fun ss e => ss.modify e.1 (· ^^^ e.2)) ss

/-- What a read of a granule with these symbol errors finds. More than three symbols in error lie beyond what R247 promises; the model has them
detected (log 115). -/
def readSymbols (bs : List Byte) (errs : List (Nat × Sym)) : Decoded × List Byte :=
  let r := decodeSymbols (withErrors (encodeGranule bs) errs)
  if 3 < errs.length then (.bad, bs) else (r.1, symbolBytes r.2)

end Sys2Proof.Machine
end

