-- ==== Sys2Proof/Machine/Formats.lean ====
section
/-! DEFINITION. Formats.lean: the number formats, roundings, group sums, random draws and converts of 03_number_formats.md, and the
exponential and logarithm of R126. A value is decoded exactly, computed exactly and rounded once. -/

namespace Sys2Proof.Machine

/-- An exact value: NaN, an infinity, or sign and magnitude `mant` × 2^`exp`. A zero keeps its sign (R68). -/
inductive Val where
  | nan
  | inf (neg : Bool)
  | fin (neg : Bool) (mant : Nat) (exp : Int)
  deriving DecidableEq, Repr

/-- How an encoding splits (R65): exponent and mantissa widths, bias, the greatest finite magnitude code, and whether an all-ones
exponent means infinity and NaN (IEEE), or only the all-ones code is NaN (E4M3), or nothing is special. -/
inductive Special where
  | ieee | onlyNan | none
  deriving DecidableEq, Repr

structure FloatFmt where
  ebits   : Nat
  mbits   : Nat
  bias    : Nat
  maxCode : Nat
  special : Special
  nanCode : Nat
  deriving DecidableEq, Repr

/-- The float encodings by format code (R65, R67); none for the integer formats 0xA and 0xB. -/
def floatFmt : Nat → Option FloatFmt
  | 0 => some ⟨8, 23, 127, 0x7F7FFFFF, .ieee, 0x7FC00000⟩
  | 1 => some ⟨8, 7, 127, 0x7F7F, .ieee, 0x7FC0⟩
  | 2 => some ⟨5, 10, 15, 0x7BFF, .ieee, 0x7E00⟩
  | 3 => some ⟨4, 3, 7, 0x7E, .onlyNan, 0x7F⟩
  | 4 => some ⟨5, 2, 15, 0x7B, .ieee, 0x7E⟩
  | 5 => some ⟨4, 3, 7, 0x7E, .onlyNan, 0x7F⟩
  | 6 => some ⟨5, 2, 15, 0x7B, .ieee, 0x7E⟩
  | 7 => some ⟨3, 2, 3, 0x1F, .none, 0⟩
  | 8 => some ⟨2, 3, 1, 0x1F, .none, 0⟩
  | 9 => some ⟨2, 1, 1, 0x7, .none, 0⟩
  | _ => none

/-- Bits of one element (R65). -/
def width : Nat → Nat
  | 0 => 32
  | 1 => 16 | 2 => 16
  | 7 => 6 | 8 => 6
  | 9 => 4
  | _ => 8

/-- Whether a format code is a microscaling format (R65). -/
def isMx (f : Nat) : Bool := 5 ≤ f && f ≤ 10

/-- Whether a format code is defined (R65). -/
def fmtOk (f : Nat) : Bool := f ≤ 11

/-- Decodes a float element (R66). -/
def decodeFloat (f : FloatFmt) (code : Nat) : Val :=
  let w := 1 + f.ebits + f.mbits
  let s := bit code (w - 1)
  let e := bits code (w - 2) f.mbits
  let m := code % 2 ^ f.mbits
  let top := 2 ^ f.ebits - 1
  if f.special = .ieee ∧ e = top then (if m = 0 then .inf s else .nan)
  else if f.special = .onlyNan ∧ e = top ∧ m = 2 ^ f.mbits - 1 then .nan
  else if e = 0 then .fin s m (1 - f.bias - f.mbits)
  else .fin s (2 ^ f.mbits + m) ((e : Int) - f.bias - f.mbits)

/-- An integer as an exact value at weight 2^`exp`. -/
def intVal (v : Int) (exp : Int) : Val := .fin (v < 0) v.natAbs exp

/-- Decodes one element before its block scale (R66). -/
def decodeElem (fmt code : Nat) : Val :=
  match floatFmt fmt with
  | some f => decodeFloat f code
  | none => intVal (signed 8 (code % 256)) (if fmt = 10 then -6 else 0)

/-- Applies an E8M0 block scale (R69). -/
def scaleVal (c : Nat) (v : Val) : Val :=
  if c = 255 then .nan else
  match v with
  | .fin s m e => .fin s m (e + (c : Int) - 127)
  | v => v

/-- The value of an FP32 word. -/
def f32 (w : Word) : Val := decodeElem 0 w.toNat

/-! ### Exact arithmetic -/

/-- A zero magnitude. -/
def Val.isZero : Val → Bool
  | .fin _ m _ => m == 0
  | _ => false

def Val.isNan : Val → Bool
  | .nan => true
  | _ => false

def Val.isInf : Val → Bool
  | .inf _ => true
  | _ => false

def Val.neg : Val → Val
  | .nan => .nan
  | .inf s => .inf (!s)
  | .fin s m e => .fin (!s) m e

def Val.abs : Val → Val
  | .nan => .nan
  | .inf _ => .inf false
  | .fin _ m e => .fin false m e

/-- The sign-carrying integer of a magnitude at a lower weight. -/
def scaled (s : Bool) (m : Nat) (e lo : Int) : Int :=
  let v : Nat := m * 2 ^ (e - lo).toNat
  if s then -(v : Int) else v

/-- The exact product; infinity times zero is NaN (R74 and IEEE 754). -/
def Val.mul : Val → Val → Val
  | .nan, _ => .nan
  | _, .nan => .nan
  | .inf a, .inf b => .inf (a != b)
  | .inf a, .fin b m _ => if m = 0 then .nan else .inf (a != b)
  | .fin a m _, .inf b => if m = 0 then .nan else .inf (a != b)
  | .fin a m e, .fin b n f => .fin (a != b) (m * n) (e + f)

/-- The exact sum under R76: an exact zero of unlike signs is +0, infinities of both signs give NaN. -/
def Val.add : Val → Val → Val
  | .nan, _ => .nan
  | _, .nan => .nan
  | .inf a, .inf b => if a = b then .inf a else .nan
  | .inf a, _ => .inf a
  | _, .inf b => .inf b
  | .fin a m e, .fin b n f =>
    let lo := min e f
    let v := scaled a m e lo + scaled b n f lo
    if v = 0 then .fin (a && b) 0 0 else intVal v lo

/-- Compares two finite or infinite values: less, equal, greater; none with a NaN. Zeros of both signs are equal. -/
def Val.cmp : Val → Val → Option Ordering
  | .nan, _ => none
  | _, .nan => none
  | .inf a, .inf b => some (if a = b then .eq else if a then .lt else .gt)
  | .inf a, _ => some (if a then .lt else .gt)
  | _, .inf b => some (if b then .gt else .lt)
  | .fin a m e, .fin b n f =>
    let lo := min e f
    some (compare (scaled a m e lo) (scaled b n f lo))

/-! ### Rounding -/

/-- Rounding modes (R78). `sr r` carries the sixteen bits drawn (R79). -/
inductive Round where
  | rne
  | rtz
  | sr (r : Nat)
  deriving DecidableEq, Repr

/-- floor(log2 v) for v = m × 2^e, m > 0. -/
def floorLog (m : Nat) (e : Int) : Int := (Nat.log2 m : Int) + e

/-- Rounds the magnitude m × 2^e to a multiple of 2^q (R75, R78, R79): the multiple. `sticky` stands for a nonzero remainder below
every bit of m. -/
def roundAt (mode : Round) (m : Nat) (e q : Int) (sticky : Bool) : Nat :=
  if q ≤ e then m * 2 ^ (e - q).toNat
  else
    let d := (q - e).toNat
    let k := m / 2 ^ d
    let rem := m % 2 ^ d
    match mode with
    | .rtz => k
    | .rne =>
      let half := 2 ^ (d - 1)
      if rem > half ∨ (rem = half ∧ (sticky ∨ k % 2 = 1)) then k + 1 else k
    | .sr r => if rem * 65536 / 2 ^ d + r ≥ 65536 then k + 1 else k

/-- The magnitude code of a float target with unbounded exponent: codes rise with the magnitude, and a code above `maxCode` is
beyond max. -/
def roundCode (f : FloatFmt) (mode : Round) (m : Nat) (e : Int) (sticky : Bool) : Nat :=
  if m = 0 then 0
  else
    let qmin : Int := 1 - f.bias - f.mbits
    let q := max (floorLog m e - f.mbits) qmin
    (q - qmin).toNat * 2 ^ f.mbits + roundAt mode m e q sticky

def fp32Fmt : FloatFmt := ⟨8, 23, 127, 0x7F7FFFFF, .ieee, 0x7FC00000⟩
def bf16Fmt : FloatFmt := ⟨8, 7, 127, 0x7F7F, .ieee, 0x7FC0⟩

/-- The code with its sign bit for a float format of `w` bits. -/
def signed2 (w : Nat) (s : Bool) (code : Nat) : Nat := if s then 2 ^ (w - 1) + code else code

/-- round_fp32 of R75 with its sticky bit, extended to every value: NaN is canonical. -/
def roundF32s (sticky : Bool) : Val → Word
  | .nan => 0x7FC00000#32
  | .inf s => if s then 0xFF800000#32 else 0x7F800000#32
  | .fin s m e =>
    let c := roundCode fp32Fmt .rne m e sticky
    BitVec.ofNat 32 (signed2 32 s (if c > fp32Fmt.maxCode then 0x7F800000 else c))

/-- Rounds an exact value to FP32, to nearest even. -/
def roundF32 (v : Val) : Word := roundF32s false v

/-- The IEEE binary32 addition of R76. -/
def addF32 (a b : Word) : Word := roundF32 ((f32 a).add (f32 b))
def mulF32 (a b : Word) : Word := roundF32 ((f32 a).mul (f32 b))
/-- a × b + c with one rounding. -/
def fmaF32 (a b c : Word) : Word := roundF32 (((f32 a).mul (f32 b)).add (f32 c))
def negF32 (a : Word) : Word := roundF32 (f32 a).neg
def subF32 (a b : Word) : Word := roundF32 ((f32 a).add (f32 b).neg)

/-- The exact value rounded to BF16, to nearest even, as an exact value. -/
def roundBf16 : Val → Val
  | .nan => .nan
  | .inf s => .inf s
  | .fin s m e =>
    let c := roundCode bf16Fmt .rne m e false
    if c > bf16Fmt.maxCode then .inf s else decodeFloat bf16Fmt (signed2 16 s c)

/-- IEEE division, rounded to FP32: x / 0 is an infinity, 0 / 0 and infinity / infinity are NaN. -/
def divF32 (a b : Word) : Word :=
  match f32 a, f32 b with
  | .nan, _ => roundF32 .nan
  | _, .nan => roundF32 .nan
  | .inf _, .inf _ => roundF32 .nan
  | .inf s, .fin t _ _ => roundF32 (.inf (s != t))
  | .fin s _ _, .inf t => roundF32 (.fin (s != t) 0 0)
  | .fin s m e, .fin t n f =>
    if n = 0 then (if m = 0 then roundF32 .nan else roundF32 (.inf (s != t)))
    else
      let num := m * 2 ^ 80
      roundF32s (num % n != 0) (.fin (s != t) (num / n * 2) (e - f - 81))

/-- Newton's iteration for the integer square root from above, on fuel. -/
def isqrtGo : Nat → Nat → Nat → Nat
  | 0, _, x => x
  | k + 1, n, x => let y := (x + n / x) / 2; if y < x then isqrtGo k n y else x

/-- floor(√n). -/
def isqrt (n : Nat) : Nat := if n = 0 then 0 else isqrtGo (Nat.log2 n + 2) n (2 ^ (Nat.log2 n / 2 + 1))

/-- The correctly rounded square root; of a negative number NaN, of −0 −0. -/
def sqrtF32 (a : Word) : Word :=
  match f32 a with
  | .nan => roundF32 .nan
  | .inf s => if s then roundF32 .nan else roundF32 (.inf false)
  | .fin s m e =>
    if m = 0 then roundF32 (.fin s 0 0) else if s then roundF32 .nan
    else
      let odd := (e % 2).toNat
      let n := m * 2 ^ (odd + 60)
      let r := isqrt n
      roundF32s (r * r != n) (.fin false (r * 2) ((e - odd - 60) / 2 - 1))

/-- The correctly rounded reciprocal square root; of a zero the infinity of its sign, of a negative number NaN. -/
def rsqrtF32 (a : Word) : Word :=
  match f32 a with
  | .nan => roundF32 .nan
  | .inf s => if s then roundF32 .nan else roundF32 (.fin false 0 0)
  | .fin s m e =>
    if m = 0 then roundF32 (.inf s) else if s then roundF32 .nan
    else
      let odd := (e % 2).toNat
      let d := m * 2 ^ odd
      let n := 2 ^ 160 / d
      let r := isqrt n
      roundF32s (r * r * d != 2 ^ 160) (.fin false (r * 2) ((odd - e) / 2 - 81))

/-! ### 2^x and log2 x, rounded once (R126) -/

/-- The product of the square roots of 2 that the bits of a fraction select, in 200-bit fixed point: `f` is the fraction times
2^n, `root` the current root of 2. -/
def exp2Go : Nat → Nat → Nat → Nat → Nat
  | 0, _, _, acc => acc
  | n + 1, f, root, acc =>
    let r := isqrt (root * 2 ^ 200)
    exp2Go n f r (if bit f n then acc * r / 2 ^ 200 else acc)

/-- 2^x rounded to FP32, to nearest even (R126). A magnitude below 2^−64 gives 1 with a remainder below every bit. -/
def exp2Val : Val → Word
  | .nan => roundF32 .nan
  | .inf s => if s then 0#32 else roundF32 (.inf false)
  | .fin s m e =>
    if m = 0 then 0x3F800000#32
    else if floorLog m e ≥ 9 then (if s then 0#32 else roundF32 (.inf false))
    else if floorLog m e < -64 then 0x3F800000#32
    else
      let n := (max (-e) 0).toNat
      let v := scaled s m e (-(n : Int))
      let i := v / (2 : Int) ^ n
      let f := (v % (2 : Int) ^ n).toNat
      let r := exp2Go n f (2 ^ 201) (2 ^ 200)
      roundF32s (f != 0) (.fin false (r * 2) (i - 201))

/-- The first `n` fraction bits of log2 of y / 2^320, for y / 2^320 in [1, 2), by repeated squaring. -/
def log2Go : Nat → Nat → Nat → Nat
  | 0, _, acc => acc
  | n + 1, y, acc =>
    let z := y * y / 2 ^ 320
    if z ≥ 2 ^ 321 then log2Go n (z / 2) (2 * acc + 1) else log2Go n z (2 * acc)

/-- log2 x rounded to FP32, to nearest even (R126); of both zeros and of a negative number NaN. -/
def log2F32 (a : Word) : Word :=
  match f32 a with
  | .nan => roundF32 .nan
  | .inf s => if s then roundF32 .nan else roundF32 (.inf false)
  | .fin s m e =>
    if m = 0 ∨ s then roundF32 .nan
    else
      let l := Nat.log2 m
      let i := (l : Int) + e
      if m = 2 ^ l then roundF32 (intVal i 0)
      else
        let frac := log2Go 120 (m * 2 ^ 320 / 2 ^ l) 0
        let v := i * 2 ^ 120 + frac
        if v ≥ 0 then roundF32s true (.fin false (v.natAbs * 2) (-121))
        else roundF32s true (.fin true ((v.natAbs - 1) * 2) (-121))

/-! ### Group sums (R73 to R77) -/

/-- The products of a group that are not zero, as sign, magnitude and weight. -/
def nonzero (ps : List Val) : List (Bool × Nat × Int) :=
  ps.filterMap fun p => match p with
    | .fin s m e => if m = 0 then none else some (s, m, e)
    | _ => none

/-- The greatest floor(log2 |p|) of a list of nonzero products. -/
def emaxOf : List (Bool × Nat × Int) → Int
  | [] => 0
  | [p] => floorLog p.2.1 p.2.2
  | p :: ps => max (floorLog p.2.1 p.2.2) (emaxOf ps)

/-- One product's share of the window: its signed magnitude truncated at 2^lsb and whether bits fell below (R74). -/
def windowTerm (lsb : Int) (p : Bool × Nat × Int) : Int × Bool :=
  let v := if lsb ≤ p.2.2 then (p.2.1 * 2 ^ (p.2.2 - lsb).toNat, false)
    else (p.2.1 / 2 ^ (lsb - p.2.2).toNat, p.2.1 % 2 ^ (lsb - p.2.2).toNat != 0)
  (if p.1 then -(v.1 : Int) else v.1, v.2)

/-- The group sum of a list of exact products (R74). -/
def groupSum (ps : List Val) : Word :=
  if ps.any Val.isNan || (ps.contains (.inf true) && ps.contains (.inf false)) then roundF32 .nan
  else if ps.contains (.inf true) then roundF32 (.inf true)
  else if ps.contains (.inf false) then roundF32 (.inf false)
  else
    let nz := nonzero ps
    if nz.isEmpty then roundF32 (.fin (ps.all fun p => match p with | .fin s _ _ => s | _ => false) 0 0)
    else
      let lsb := emaxOf nz - 73
      let ts := nz.map (windowTerm lsb)
      let s := ts.foldl (fun (a : Int) t => a + t.1) 0
      let sticky := ts.any (·.2)
      if s = 0 then 0#32 else roundF32s sticky (.fin (s < 0) (s.natAbs * 2) (lsb - 1))

/-- Adds group sums to an accumulator in order (R76). -/
def addGroups (acc : Word) (gs : List Word) : Word := gs.foldl addF32 acc

/-- The groups of a K tile of `kt` valid indices: each a list of exact products of `a k` and `b k` (R73). -/
def groupsOf (kt : Nat) (a b : Nat → Val) : List Word :=
  (List.range ((kt + 31) / 32)).map fun g =>
    groupSum ((List.range (min 32 (kt - 32 * g))).map fun j => (a (32 * g + j)).mul (b (32 * g + j)))

/-! ### Random draws (R80) -/

def mix (v : DWord) : DWord :=
  let a := v ^^^ (v >>> 33)
  let b := a * 0xA3B195E44C2D6F17#64
  let c := b ^^^ (b >>> 29)
  let d := c * 0x7F4A3C651D8EB2C1#64
  d ^^^ (d >>> 32)

/-- The sixteen bits of one draw: seed, step, micro-batch, layer, stream, position (R80). -/
def draw (seed : DWord) (step mb layer stream : Nat) (pos : DWord) : Nat :=
  let key := mix (seed ^^^ mix (BitVec.ofNat 64 (step * 65536 ||| mb) ^^^ mix (BitVec.ofNat 64 (layer * 256 ||| stream))))
  (mix (key ^^^ mix pos)).toNat / 2 ^ 48

/-! ### Converts (R81 to R83) -/

/-- Encodes an exact value in a float format that is not MX (R82). -/
def encodeFloat (fmt : Nat) (f : FloatFmt) (mode : Round) (sat : Bool) (v : Val) : Nat :=
  let w := width fmt
  match v with
  | .nan => f.nanCode
  | .inf s => if sat then signed2 w s f.maxCode
    else if fmt = 3 then f.nanCode else signed2 w s (f.maxCode + 1)
  | .fin s m e =>
    let c := roundCode f mode m e false
    if c ≤ f.maxCode then signed2 w s c
    else if sat ∨ fmt = 3 ∨ mode = .rtz then signed2 w s f.maxCode
    else signed2 w s (f.maxCode + 1)

/-- Encodes an exact value as an 8-bit integer at weight 2^q, saturating (R82). -/
def encodeInt (mode : Round) (q : Int) (v : Val) : Nat :=
  let pack (s : Bool) (k : Nat) : Nat := if s then (256 - min k 128) % 256 else min k 127
  match v with
  | .nan => 0
  | .inf s => pack s 128
  | .fin s m e => pack s (roundAt mode m e q false)

/-- Encodes an exact value in a format that has no block scale (R82). -/
def encode (fmt : Nat) (mode : Round) (sat : Bool) (v : Val) : Nat :=
  match floatFmt fmt with
  | some f => encodeFloat fmt f mode sat v
  | none => encodeInt mode 0 v

/-- Encodes one element of an MX block already divided by its scale, saturating to ±max (R83). -/
def encodeMx (fmt : Nat) (mode : Round) (v : Val) : Nat :=
  match floatFmt fmt with
  | some f =>
    match v with
    | .fin s m e => signed2 (width fmt) s (min (roundCode f mode m e false) f.maxCode)
    | _ => 0
  | none => encodeInt mode (-6) v

/-- emax_el of R83. -/
def emaxEl : Nat → Int
  | 5 => 8 | 6 => 15 | 7 => 4 | 8 => 2 | 9 => 2
  | _ => 0

/-- The greatest magnitude of a list of finite values. -/
def amax (xs : List Val) : Val :=
  xs.foldl (fun a x => if a.cmp x.abs = some .lt then x.abs else a) (.fin false 0 0)

/-- The FP32 max of a sign. -/
def f32Max (s : Bool) : Val := .fin s (2 ^ 24 - 1) 104

/-- Scale code and element codes of one MX block (R83); `mode i` is the rounding of element i. -/
def encodeBlock (fmt : Nat) (mode : Nat → Round) (sat : Bool) (xs : List Val) : Nat × List Nat :=
  if xs.any Val.isNan || (xs.any Val.isInf && !sat) then (255, xs.map fun _ => 0)
  else
    let ys := xs.map fun x => match x with | .inf s => f32Max s | v => v
    match amax ys with
    | .fin _ m e =>
      if m = 0 then (127, ys.mapIdx fun i y => encodeMx fmt (mode i) y)
      else
        let c := max (-127) (min 127 (floorLog m e - emaxEl fmt))
        ((c + 127).toNat, ys.mapIdx fun i y => encodeMx fmt (mode i) (match y with | .fin s n f => .fin s n (f - c) | v => v))
    | _ => (255, xs.map fun _ => 0)

/-! ### Non-finite kinds (R84, R85) -/

/-- KIND of a value written: 0 NaN, 1 +infinity, 2 −infinity. -/
def nonFinite : Val → Option Nat
  | .nan => some 0
  | .inf s => some (if s then 2 else 1)
  | .fin .. => none

/-! ### Tiles (R11, R70 to R72, R95, R97, R98) -/

/-- What a tile is: format, order, blocking, kind and valid extents. -/
structure Shape where
  fmt   : Nat
  order : Nat
  block : Nat
  kind  : Nat
  rows  : Nat
  cols  : Nat
  deriving DecidableEq, Repr

/-- Bytes of a tile's elements and of the whole tile (R71, R91). -/
def elemBytes (fmt : Nat) : Nat := 2048 * width fmt
def tileBytes (fmt kind : Nat) : Nat := if kind = 1 then 4096 else elemBytes fmt + (if isMx fmt then 512 else 0)
def tileSlots (fmt kind : Nat) : Nat := tileBytes fmt kind / 512

/-- Tile edge (R95). -/
def edge (kind : Nat) : Nat := if kind = 1 then 32 else 128

/-- Position of element (r, c) in the packing order (R11, R72). -/
def elemPos (order edge r c : Nat) : Nat := if order = 1 then c * edge + r else r * edge + c

/-- Position of the scale byte of element (r, c) among a matrix tile's scales (R71). -/
def scalePos (block r c : Nat) : Nat := if block = 1 then c * 4 + r / 32 else r * 4 + c / 32

/-- Element number `k` of packed elements of `w` bits (R72). -/
def unpackAt (w : Nat) (bs : Array Byte) (k : Nat) : Nat :=
  let o := w * k / 8
  let v := (List.range 5).foldl (fun a i => a + (bs.getD (o + i) 0).toNat * 256 ^ i) 0
  v / 2 ^ (w * k % 8) % 2 ^ w

/-- The element code at (r, c) of a matrix tile. -/
def tileCode (fmt order : Nat) (bs : Array Byte) (r c : Nat) : Nat := unpackAt (width fmt) bs (elemPos order 128 r c)

/-- The scale code of element (r, c) of an MX matrix tile. -/
def tileScale (fmt block : Nat) (bs : Array Byte) (r c : Nat) : Nat :=
  (bs.getD (elemBytes fmt + scalePos block r c) 0).toNat

/-- The exact value of element (r, c) of a matrix tile, its block scale applied (R66, R69). -/
def tileVal (s : Shape) (bs : Array Byte) (r c : Nat) : Val :=
  let v := decodeElem s.fmt (tileCode s.fmt s.order bs r c)
  if isMx s.fmt then scaleVal (tileScale s.fmt s.block bs r c) v else v

/-- Byte `i` of packed elements of `w` bits (R72). -/
def packByte (w : Nat) (code : Nat → Nat) (i : Nat) : Byte :=
  let k0 := 8 * i / w
  let n := (8 * i + 7) / w + 1 - k0
  let v := (List.range n).foldl (fun a j => a + code (k0 + j) * 2 ^ (w * j)) 0
  BitVec.ofNat 8 (v / 2 ^ (8 * i - w * k0))

/-- `n` packed elements of `w` bits. -/
def pack (w n : Nat) (code : Nat → Nat) : List Byte := (List.range (w * n / 8)).map (packByte w code)

/-- The bytes of a matrix tile from its element codes and, for MX formats, its scale codes by element, with R98's padding. -/
def packTile (s : Shape) (code : Nat → Nat → Nat) (scale : Nat → Nat → Nat) : List Byte :=
  let at' (k : Nat) : Nat :=
    let r := if s.order = 1 then k % 128 else k / 128
    let c := if s.order = 1 then k / 128 else k % 128
    if r < s.rows ∧ c < s.cols then code r c else 0
  let scaleAt (k : Nat) : Byte :=
    let r := if s.block = 1 then k % 4 * 32 else k / 4
    let c := if s.block = 1 then k / 4 else k % 4 * 32
    BitVec.ofNat 8 (if r < s.rows ∧ c < s.cols then scale r c else 0x7F)
  pack (width s.fmt) 16384 at' ++ (if isMx s.fmt then (List.range 512).map scaleAt else [])

/-- The seal header of a tile and its seal (R97). -/
def sealHeader (s : Shape) : List Byte :=
  [BitVec.ofNat 8 (s.fmt + 16 * s.order + 32 * s.block + 64 * s.kind), BitVec.ofNat 8 s.rows, BitVec.ofNat 8 s.cols, 0]

def sealOf (s : Shape) (bs : List Byte) : Word := crc32c (sealHeader s ++ bs)

/-- A tile's bytes with R98's padding put in whatever they held: elements outside the valid rows and columns are zero, scales of
blocks with no valid element are 0x7F. -/
def padTile (s : Shape) (bs : List Byte) : List Byte :=
  if s.kind = 1 then
    (List.range 4096).map fun i => if i / 128 < s.rows ∧ i % 128 / 4 < s.cols then bs.getD i 0 else 0
  else
    let a := bs.toArray
    packTile s (tileCode s.fmt s.order a) (tileScale s.fmt s.block a)

end Sys2Proof.Machine
end

