-- ==== Sys2Proof/Config.lean ====
section
/-! DEFINITION. Config.lean: what one module fixes and the manual leaves open. Every constant here is opaque: no proof can see
its value, so a theorem about the model holds for every value of it. -/

namespace Sys2Proof.Config

/-- A free byte: the value of a byte the manual calls undefined, or that comes from the entropy source. The argument is the
model's free-value counter (log 7). -/
opaque freeByte : Nat → Byte
/-- A free word: a value the manual calls undefined or does not state (log 7). -/
opaque freeWord : Nat → DWord
/-- The 16-byte serial number, fused (R471, log 10). Byte i is byte i of SERIAL. -/
opaque serial : Nat → Byte
/-- Bits 47 to 32 of the I3C target's provisioned ID: Mbonica's manufacturer code above bit 32, which R490 leaves to MIPI (log 106). -/
opaque manufacturer : BitVec 16
/-- The fused steppings of C0, C1 and H (R471, log 10). -/
opaque stepping : Nat → Byte
/-- Whether the signature of a firmware image verifies against the Mbonica root key hash fused in the H-die (R58, log 12): the
key hash is not in the manual. The argument is the image. -/
opaque signatureOk : List Byte → Bool
/-- The firmware image that slot A holds when the module leaves the factory (log 12). -/
opaque factoryImage : List Byte
/-- Byte i of a slot's entry in QUERY's response: the manual names its three fields, state, FW_VERSION and SECURITY_VERSION, and not
their places (log 12). -/
opaque slotByte : Nat → Nat → Nat → Nat → Byte
/-- What a unit of a stream is to firmware and engine (R414, R417): decodable, with a syntax error or a missing reference, or with a feature
outside the supported subsets other than a size or format. -/
inductive Verdict where
  | good
  | broken
  | unsupported
  deriving DecidableEq, Repr, Inhabited

/-- A stream as far as it has come: its units in order, each with whether it was lost (dropped, or discarded in RESYNC). -/
abbrev Stream := List (Bool × List Byte)

/-- What the next unit of a stream is (R414, R417, log 14): codec, the stream before it, the unit. -/
opaque verdict : Nat → Stream → List Byte → Verdict
/-- Width, height, bit depth and chroma format (0 monochrome, 1 for 4:2:0, larger for the others) of a unit's picture, as its headers give
them (R414, log 14). -/
opaque pictureForm : Nat → Stream → List Byte → Nat × Nat × Nat × Nat
/-- Whether a unit is a random access point that R417 names (log 14). -/
opaque randomAccess : Nat → Stream → List Byte → Bool
/-- How many pictures the output process of the standard has put out of a stream, whose end may have come (R421, log 14). -/
opaque picturesOut : Nat → Stream → Bool → Nat
/-- The unit of a stream that carries its picture of a number in output order (log 14). -/
opaque pictureUnit : Nat → Stream → Nat → Nat
/-- The picture that the decoding process of a published standard reconstructs (R415, log 14): codec, the stream so far and the picture's number
in output order in; width and height after cropping, bit depth, the planes and whether film grain was left out. A plane is given by its rows. -/
opaque decodePicture : Nat → Stream → Nat → Nat × Nat × Nat × List (List Nat) × List (List Nat) × List (List Nat) × Bool
/-- The picture-buffer bytes a stream needs under R420 once its next unit is in (firmware reads it from the sequence header, log 14). -/
opaque dpbNeed : Nat → Stream → List Byte → Nat
/-- Whether one whole access unit stands in the ring (R416, log 14): codec, the ring's bytes and end-of-stream in, the bytes of
the access unit out (0 for none). -/
opaque accessUnit : Nat → List Byte → Bool → Nat
/-- Whether the picture buffer has a free place (R416, log 14): codec, the stream so far, the pictures that wait for the path. -/
opaque dpbFree : Nat → Stream → Nat → Bool
/-- The C-die whose semaphores a context means by scope 01b (R198, R420, log 50): the manual does not say. The argument is the context. -/
opaque visDie : Nat → Nat
/-- Where the entry of a frame tag stands in the frame directory of a stack (R211: a hash of the tag that the manual does not
give, log 15). -/
opaque frameHash : DWord → Nat → Nat
/-- The smoothed round trip of a far path (R364, R366): how a new sample changes it is not in the manual. Old value and sample, in ns
(log 24). -/
opaque smooth : Nat → Nat → Nat
/-- The IPv6 flow label of the frames of a path (R356): the manual does not give it (log 132). Port and path number. -/
opaque flowLabel : Nat → Nat → BitVec 20
/-- The T9 of a site through which a far port reaches a T7 there (R355): the manual does not say which (log 24). -/
opaque gateway : Nat → Nat
/-- Whether a measure that a register gives in a coarser unit is rounded up when it is not whole (R444, R453, R472, log 109): the unit, in
steps of the measure, and the measure. -/
opaque roundsUp : Nat → Int → Bool
/-- The job status block of JOB_STATUS, whose layout and size the manual does not give (log 36). The argument is the free-value counter. -/
opaque jobStatus : Nat → List Byte

end Sys2Proof.Config
end

