-- ==== Sys2Proof/Machine/State.lean ====
section
/-! DEFINITION. State.lean: everything the manual gives the module, as plain data, in one structure per chapter or unit; the
faults and refusals of a step; the state right after a cold reset has begun. -/

namespace Sys2Proof.Machine

/-- Bytes by address, addresses strictly rising, no zero byte listed; an unlisted address reads as 0 (log 1). -/
abbrev Mem := List Host.Cell
/-- Doublewords by index in the same form: slot records by slot, where the slot index is the control-space offset over 512. -/
abbrev Recs := List (Nat × DWord)

/-! ### Host link (02_host_commands.md, 20_register_map.md) -/

/-- A command that is acknowledged and not yet completed (R34): the header fields it keeps, its payload and the module
time of its acknowledgement. `whole` says that
the last packet of its chain has arrived; `started` that it runs and completes on a later event; `aux` is what it has to
remember until then. -/
structure Cmd where
  cls     : Nat
  code    : Nat
  flags   : BitVec 16
  tag     : DWord
  seq     : Word
  arg0    : DWord
  arg1    : DWord
  payload : List Byte
  total   : Nat
  acked   : Nat
  whole   : Bool
  started : Bool
  aux     : List Nat
  deriving DecidableEq, Repr

/-- A chain whose last packet has not arrived (R38, R39). -/
structure Chain where
  cls   : Nat
  code  : Nat
  tag   : DWord
  arg0  : DWord
  arg1  : DWord
  total : Nat
  next  : Nat
  deriving DecidableEq, Repr

/-- A completion record whose ORDINAL is decided (R41). `pass` is the FLAGS bit IRQ of its command. -/
structure CplRec where
  cls     : Nat
  code    : Nat
  status  : Nat
  tag     : DWord
  seq     : Word
  index   : Nat
  r0      : DWord
  r1      : DWord
  ordinal : Nat
  more    : Bool
  irq     : Bool
  payload : List Byte
  deriving DecidableEq, Repr

/-- A pending challenge (R44): the two nonces, the completion ring registers at OPEN and the module time of OPEN. -/
structure Challenge where
  host   : List Byte
  device : List Byte
  base   : DWord
  size   : Nat
  time   : Nat
  deriving DecidableEq, Repr

/-- An open session (R43, R45, R48): its id, the SEQUENCE its next packet must carry, and the fields its proofs were computed over. -/
structure Session where
  id     : Word
  next   : Nat
  fields : List Byte
  deriving DecidableEq, Repr

/-- The registers and the state of one mailbox (R473, R478, R479). The RWL fields are locked exactly while a session is open. -/
structure Mailbox where
  cmdProd   : Word
  cmdCons   : Word
  cplProd   : Word
  cplCons   : Word
  cplBase   : DWord
  cplSize   : Nat
  status    : BitVec 6
  holdoff   : Nat
  session   : Option Session
  challenge : Option Challenge
  fails     : Nat
  lockEnd   : Option Nat
  cmds      : List Cmd
  chain     : Option Chain
  ended     : List DWord
  held      : List CplRec
  irqLast   : Option Nat
  irqWait   : Bool
  deriving DecidableEq, Repr

/-- A host window (R55): its number, the mailbox whose session granted it, base and length. -/
structure Window where
  num  : Nat
  mb   : Nat
  base : Nat
  len  : Nat
  deriving DecidableEq, Repr

/-- An entry of the MSI-X table (R482). -/
structure Msix where
  addr   : DWord
  data   : Word
  masked : Bool
  deriving DecidableEq, Repr

/-- The host link. `mem` is host memory by bus address as the module reaches it (R27). `msi` is the model's own log of the MSI-X
messages it has written: vector, address, data. `errBits` are ERROR_STATUS bits 16-21; `aer` is Completion Timeout Status of the AER
capability (R28). -/
structure HostLink where
  mbs        : List Mailbox
  ordinal    : Nat
  windows    : List Window
  msix       : List Msix
  pending    : BitVec 32
  funcMask   : Bool
  msi        : List (Nat × DWord × Word)
  errBits    : BitVec 6
  aer        : Bool
  errEnable  : BitVec 22
  errLast    : Option Nat
  errWait    : Bool
  evLast     : Option Nat
  evWait     : Bool
  mem        : Mem
  deriving DecidableEq, Repr

/-! ### Firmware slots and owner key (02_host_commands.md) -/

/-- The state of a firmware slot (the table "Firmware commands"). -/
inductive SlotState where
  | empty | staged | verified | active
  deriving DecidableEq, Repr

structure FwSlot where
  state : SlotState
  image : List Byte
  deriving DecidableEq, Repr

/-- Firmware (R57, R58, R471): `running` is the slot that booted, `next` the one active for the next warm or cold reset. -/
structure Fw where
  slots    : List FwSlot
  running  : Nat
  next     : Nat
  fallback : Bool
  version  : Word
  level    : Word
  minSec   : Nat
  ownerKey : Option (List Byte)
  deriving DecidableEq, Repr

/-! ### Power, clocks, reset, boot (18_power_clocks_reset.md, 21_module_hardware.md) -/

/-- Boot stage codes (R449). -/
inductive Stage where
  | power | rom | firmware | memory | cores | fabric | flash | ready | hold | recovery
  deriving DecidableEq, Repr

/-- The classes of temperature sensors (R496); the C-die class by die. -/
inductive SensorClass where
  | c0 | c1 | hub | hbm | lpddr | nand | optics | stage | inlet
  deriving DecidableEq, Repr

/-- Lamplighter and the pilot domain. Clocks are PLL settings in MHz, 0 for stopped; `divider` is the module time at which the
divider of R441 halved them; `temps` are the latest readings of the sensors, `hot` the sensors for which a thermal throttle holds, by class and
index (R442); powers are in mW, `energy` is in pJ, voltage in mV, temperatures in 0.1 °C; `mounted` says that stage FLASH is done;
`ibis` is the model's own log of the in-band interrupts raised on the sideband, oldest first, as cause (0 THROTTLE, 1 TRIP) and time (R453). -/
structure Pwr where
  powered     : Bool
  pinHeld     : Bool
  stage       : Stage
  rails       : Nat
  endpoint    : Bool
  level       : Nat
  source      : Nat
  timeHi      : Word
  clock0      : Nat
  clock1      : Nat
  divider     : Option Nat
  cap         : Nat
  hostLimit   : Nat
  boardLimit  : Byte
  powThrottle : Bool
  therm0      : Bool
  therm1      : Bool
  lowSince    : Option Nat
  mv          : Nat
  avg1s       : Nat
  avg10ms     : Nat
  temps       : Temps
  hot         : List (SensorClass × Nat)
  maxTemp     : Int
  overWarn    : Nat
  lastSample  : Nat
  energy      : Nat
  throttledNs : Nat
  mounted     : Bool
  curLimit    : Option Nat
  excursion   : Bool
  excursions  : List Nat
  dimAfter    : Nat
  darkAfter   : Nat
  standby     : Bool
  trip        : Bool
  fault       : Bool
  thermN      : Bool
  ibis        : List (Nat × Nat)
  deriving DecidableEq, Repr

/-! ### Telemetry and the field book (19_telemetry_field_book.md) -/

/-- A step record (R456). `phase` holds the sixteen counters, `counts` the fifteen counts. -/
structure StepRec where
  outcome    : Nat
  attempt    : Nat
  flags      : Nat
  step       : Nat
  seq        : Nat
  start      : Nat
  ready      : Nat
  stop       : Nat
  coresStart : Nat
  coresEnd   : Nat
  layoutGen  : Nat
  maxLen     : Nat
  phase      : List Nat
  counts     : List Nat
  deriving DecidableEq, Repr

/-- An event record (R458). -/
structure Event where
  cls  : Nat
  seq  : Nat
  time : Nat
  step : Nat
  data : DWord
  deriving DecidableEq, Repr

/-- An error log (R460): the number of entries since the reset and the entries kept, oldest first. -/
structure ErrLog where
  count   : Nat
  entries : List (Nat × List Byte)
  deriving DecidableEq, Repr

/-- An entry of the field-book event log (R463). -/
structure FbEntry where
  seq   : Nat
  life  : Nat
  time  : Nat
  kind  : Nat
  count : Nat
  data  : DWord
  deriving DecidableEq, Repr

/-- TEL_STREAM's destination (R457). -/
structure Stream where
  window : Nat
  offset : Nat
  length : Nat
  deriving DecidableEq, Repr

/-- Telemetry. `logs` are the four error logs in R460's order; `rate` the last time a lane's KIND 0 or 9 record was logged;
`counters` the lifetime counters in the order of the block of R466 and `hist` the 28 histograms, as accumulated; `saved` and
`savedHist` those of the newest commit image; `committedAt` its LIFE_S, `commitTime` the module time of the last commit. `hour`
holds the corrected counts of the running hour for histograms 24-27; `errTimes` and `sealTimes` are the times of the uncorrectable reads
(KIND 2) and of the seal faults; `diverged` the divergences of R213 as stack and tag; `unpopped` the two-pop frames that a W
entry took without a pop before it (R219), `leftOver` the frames a step has left (R220), `gatherFails` the privileged moves that ended FAIL (R19), `nandEcc`
the corrections and failures of the NAND ECC (R399): what the manual counts in telemetry without a place of its own; `stateArea` the free value from which the state records' bytes run
(log 12). -/
structure Tel where
  stepRec     : Option StepRec
  closed      : List StepRec
  nextSeq     : Nat
  stream      : Option Stream
  events      : List Event
  nextEvent   : Nat
  dropped     : Nat
  mask        : DWord
  logs        : List ErrLog
  rate        : List (Nat × Nat)
  fbLog       : List FbEntry
  fbNext      : Nat
  fbRate      : List (Nat × Nat × Nat)
  counters    : List Nat
  hist        : List (List Nat)
  saved       : List Nat
  savedHist   : List (List Nat)
  images      : List (Nat × List Byte)
  stateArea   : Option Nat
  committedAt : Nat
  commitTime  : Option Nat
  hour        : List Nat
  errTimes    : List Nat
  sealTimes   : List Nat
  diverged    : List (Nat × DWord)
  unpopped    : Nat
  leftOver    : Nat
  gatherFails : Nat
  nandEcc     : Nat
  deriving DecidableEq, Repr

/-! ### Cores (03 to 08, 18) -/

/-- Core power states (R436). -/
inductive CorePower where
  | lit | dimmed | dark
  deriving DecidableEq, Repr

/-- An open accumulator tile: its extents and 128 × 128 elements, row-major (R115). -/
structure Acc where
  rows : Nat
  cols : Nat
  el   : Elems
  deriving DecidableEq, Repr

/-- Modes of a reduction tile (R164). -/
inductive RedMode where
  | sumF | sumI | maxF | minF
  | topk (k : Nat)
  | hist
  deriving DecidableEq, Repr

/-- An open reduction tile: its mode and 32 × 32 elements (R164). -/
structure Red where
  mode : RedMode
  el   : Elems
  deriving DecidableEq, Repr

/-- An attention control block (R137) and the number of the ACFG that loaded it. -/
structure AttnBlock where
  serial   : Nat
  flags    : Nat
  window   : Nat
  qlen     : Nat
  klen     : Nat
  scaleC   : Word
  scaleTau : Word
  dim      : Nat
  rank     : Nat
  side     : Nat
  deriving DecidableEq, Repr

/-- The attention pipeline of a core: the block in force, how many ACFGs have loaded one, the expansion buffer (ke rows and ve
rows, R134), and the fold buffers of the query and of the output gradient with the block they were folded under (R135). -/
structure Attn where
  block  : Option AttnBlock
  acfgs  : Nat
  expand : Option (List (List Val) × List (List Val))
  foldQ  : Option (Nat × List (List Val))
  foldG  : Option (Nat × List (List Val))
  deriving DecidableEq, Repr

/-- A trap or fault that has stopped a core and is not yet reported (R204): KIND, CODE, INDEX, WORD, DETAIL, and the seal fault
record of a seal fault. -/
structure Stop where
  kind   : Nat
  code   : Nat
  index  : Nat
  word   : DWord
  detail : DWord
  report : Option (List Byte)
  since  : Nat
  deriving DecidableEq, Repr

/-- A launch in progress (R174, R178, R183). `host` names the LAUNCH command of a host launch; `sched` the schedule entry whose
instance it is, `cheaper` that it is its RECOMPUTE launch (R239); `remote` that it has issued an atomic or a message (R195), `localIn`
that it has read bytes of its tile store which it has not written itself (R108), `own` the ranges of bytes it has written, as offset and length; `seqs` the next sequence number per
semaphore, `counted` the pairs counted (R201). -/
structure Launch where
  number    : Nat
  layer     : Nat
  mb        : Nat
  entry     : Nat
  step      : Nat
  rank      : Nat
  size      : Nat
  deadline  : Nat
  waitLimit : Nat
  start     : Nat
  pc        : Nat
  prog      : Nat
  first     : Nat
  args      : List DWord
  keep      : Bool
  host      : Option (Nat × DWord)
  sched     : Option Nat
  cheaper   : Bool
  remote    : Bool
  localIn   : Bool
  own       : List (Nat × Nat)
  seqs      : List (Nat × Nat)
  counted   : List (Nat × Nat)
  deriving DecidableEq, Repr

/-- What is in flight (R191 to R197), and a SIGNAL that waits for earlier writes (R199). -/
inductive MoveKind where
  | fetch | store | movem | gfetch | atom | msg | push | pop | signal
  deriving DecidableEq, Repr

/-- A move, granule fetch, stack operation, atomic or message in flight. `order` is its place in issue order, `index` its
instruction index; `src`, `dst`, `srcSeal`, `dstSeal` are global addresses; `slots` the tile-store slots it holds (first, count);
`carried` the carried seal; `bytes` what it carries (as read at issue for STORE and PUSH, as the fabric brought it for a remote source);
`list` the granules of a GFETCH (element, address); `reg` the result register of an ATOM; `stack` and `ftag` the stack and frame;
`remote` says that its transfer runs on the fabric, `status` what the fabric answered, `since` when that answer came, or when the move was issued,
`writing` that a MOVEM has read its tile and sends it to another module. -/
structure Move where
  id       : Nat
  kind     : MoveKind
  order    : Nat
  index    : Nat
  word     : DWord
  rclass   : Nat
  sem      : Nat
  seq      : Nat
  deadline : Option Nat
  shape    : Option Shape
  src      : Nat
  srcSeal  : Nat
  dst      : Nat
  dstSeal  : Nat
  slots    : List (Nat × Nat)
  carried  : Word
  bytes    : List Byte
  list     : List (Nat × Nat)
  reg      : Nat
  stack    : Nat
  ftag     : DWord
  remote   : Bool
  status   : Option Nat
  since    : Nat
  writing  : Bool
  deriving DecidableEq, Repr

/-- One core. `pos` is its physical position; `cause` the row of R106's trigger table once it is fenced; `retested` that it passed
CORE_RETEST since; `ending` the ending of a scheduled launch that the sequencer has not acted on (R239): true with a trap's kind,
false with END's code; `hold` the CORE_STATE request 1; `corrected` the corrected errors of the hour that began at `hour`; `deferred` a
fence that waits for the end of the step; `held` that the items of KEEP are still held (R183). -/
structure Core where
  pos       : Nat
  enabled   : Bool
  cause     : Option Nat
  retested  : Bool
  deferred  : Option Nat
  power     : CorePower
  hold      : Bool
  clockOn   : Bool
  idleSince : Nat
  dimSince  : Nat
  corrected : Nat
  hour      : Nat
  retired   : Nat
  x         : List DWord
  sh        : List (BitVec 24)
  d         : List (List Byte)
  t         : List Elems
  acc       : List (Option Acc)
  u         : List (Option Red)
  attn      : Attn
  sems      : List Word
  nf0       : DWord
  nf1       : DWord
  fsw       : DWord
  fswOrder  : Nat
  insns     : List DWord
  loaded    : Option (Nat × Nat)
  held      : Bool
  launch    : Option Launch
  issued    : Nat
  moves     : List Move
  wait      : Option (Nat × Nat × Nat)
  stop      : Option Stop
  ending    : Option (Bool × Nat)
  deriving DecidableEq, Repr

/-- A loaded program (R179 to R181): number, how many loads have gone before (a core keeps a program by number and load, R182), image, and the
seals of its data tiles. -/
structure Program where
  num   : Nat
  load  : Nat
  image : List Byte
  seals : List Word
  deriving DecidableEq, Repr

/-! ### Stacks (09_backward_activation_stack.md) -/

/-- Where a frame is (R211): the location codes of the directory entry. -/
inductive Loc where
  | top | body | spilled | spilling | returning | dropped
  deriving DecidableEq, Repr

/-- A frame: tag, location, pops taken, PUSH_SEQ, SIZE in 512-byte units, seal, SHAPE as a shape register, step, the address of its
bytes (a control-space offset in the top buffer, a local offset in the body or spill region), the address it moves to while spilling or
returning, and the index of its directory entry. -/
structure Frame where
  tag   : DWord
  loc   : Loc
  pops  : Nat
  seq   : Nat
  size  : Nat
  crc   : Word
  shape : Nat
  step  : Nat
  addr  : Nat
  dest  : Nat
  slot  : Nat
  deriving DecidableEq, Repr

/-- A return request (R216): VSTAGE, MB, first layer and layer count, deadline (none for none), its number, and whether it was refused at admission
and starts no further frame (R280). -/
structure Req where
  num      : Nat
  vstage   : Nat
  mb       : Nat
  layer    : Nat
  layers   : Nat
  deadline : Option Nat
  refused  : Bool
  deriving DecidableEq, Repr

/-- A stack context (R209, R210). `nextSeq` are the next PUSH_SEQ by step; `spilling` says that
occupancy has passed HIGH_WATER and has not come down to LOW_WATER. -/
structure Stack where
  num       : Nat
  group     : Nat
  die       : Nat
  topBase   : Nat
  topLen    : Nat
  bodyBase  : Nat
  bodyLen   : Nat
  spillBase : Nat
  spillLen  : Nat
  dirBase   : Nat
  dirCount  : Nat
  high      : Nat
  low       : Nat
  frames    : List Frame
  nextSeq   : List (Nat × Nat)
  overflow  : Bool
  spilling  : Bool
  reqs      : List Req
  nextReq   : Nat
  deriving DecidableEq, Repr

/-! ### Jobs (10_pipeline_sequencer.md) -/

/-- Job states (R227), with the codes of R461 in this order. -/
inductive JobState where
  | idle | loaded | running | stopping | stopped | held
  deriving DecidableEq, Repr

/-- A schedule entry (R230), its fields as numbers. -/
structure Entry where
  kind      : Nat
  vstage    : Nat
  flags     : Nat
  mb        : Nat
  layer     : Nat
  layers    : Nat
  group     : Nat
  program   : Nat
  recompute : Nat
  instances : Nat
  real      : Nat
  planUs    : Nat
  costUs    : Nat
  leadUs    : Nat
  graceUs   : Nat
  after     : Nat
  bucket    : Nat
  waitSem   : Nat
  waitCount : Nat
  sigSem    : Nat
  sigCount  : Nat
  stackSet  : Nat
  arg       : DWord
  deriving DecidableEq, Repr

/-- An instance of a started entry (R234, R239): waiting for a core, running on one, or ended; `cheap` says that it is or was the
cheaper path, `again` that a fault has had it launched again once, `counted` the semaphore pairs kept for its launch and
`cheapCounted` those for its cheaper-path launch. -/
inductive InstPhase where
  | pending
  | running (core : Nat)
  | done
  | failed
  deriving DecidableEq, Repr

structure Inst where
  phase   : InstPhase
  cheap   : Bool
  again   : Bool
  counted : List (Nat × Nat)
  cheapCounted : List (Nat × Nat)
  deriving DecidableEq, Repr

/-- How far an entry of the walk has come (R233, R238 to R241). `deadline` is fixed when its returns are issued (R235); `gap` says that
it started under condition 2 of R241; `rerun` that it has been re-run; `order` its place among the started entries; `drops` the dropped frames
recorded against it (R215). -/
inductive EntryPhase where
  | pending | started | completed | failed
  deriving DecidableEq, Repr

structure EntryState where
  phase    : EntryPhase
  order    : Nat
  start    : Nat
  returned : Bool
  deadline : Option Nat
  gap      : Bool
  broken   : Bool
  rerun    : Bool
  insts    : List Inst
  drops    : Nat
  deriving DecidableEq, Repr

/-- The job (R225 to R238). `begun` says that the walk of its step has begun. -/
structure Job where
  phase        : JobState
  seed         : DWord
  schedule     : Nat
  vstages      : Nat
  maxInFlight  : Nat
  microBatches : Nat
  refLen       : Nat
  slackUs      : Nat
  groups       : List (Nat × List Nat)
  partition    : List (List Nat)
  purposes     : List (Nat × Nat)
  modes        : List Byte
  masks        : List Byte
  grants       : List (Nat × Nat)
  step         : Nat
  swap         : Option Nat
  lengths      : List (Nat × List Nat)
  table        : List Entry
  walk         : List EntryState
  walkStart    : Nat
  starts       : Nat
  begun        : Bool
  readyAt      : Option Nat
  deriving DecidableEq, Repr

/-! ### HBM and LPDDR (11_hbm.md, 12_memory_tiers.md) -/

/-- A survey activity of a channel (R257): its kind (0 lane repair, 1 interface recovery, 2 windowed re-centre, 3 command/address re-centre,
4 shadow re-centre), pseudo-channel and lane, and the module time at which it was asked for or began. -/
structure Survey where
  ch    : Nat
  kind  : Nat
  pc    : Nat
  lane  : Nat
  since : Nat
  deriving DecidableEq, Repr

/-- HBM. `lists` are the service lists in force, channels as numbers within the die (R244, R260), empty before stage MEMORY; `mapout` the
map-out record held (R259); `degraded` the pseudo-channels with the lane that fails; `repaired` the lanes whose place the spare has taken;
`held` the open survey windows, `waiting` those that wait, `shadows` the shadow re-centres that run (R258); `closedAt` when each channel's last window closed; `hits` the times of corrected
symbols by channel, pseudo-channel and lane within the last second, `streaks` the lane that has been the corrected symbol in the
latest accesses of a pseudo-channel and in how many, `laneCounts` all corrections of a lane (R248, R252); `lanes` the times of the last re-centres of
lanes and the stack's temperature then, `ca` those of the command/address lanes (R257); `scrub` the next granule of the patrol scrub (R251); `onDie` the corrections the stacks have
reported and `collected` when they last did. -/
structure Hbm where
  lists       : List (List Nat)
  mapout      : List Byte
  failed      : List Nat
  degraded    : List (Nat × Nat × Nat)
  repaired    : List (Nat × Nat × Nat)
  held        : List Survey
  waiting     : List Survey
  shadows     : List Survey
  closedAt    : List (Nat × Nat)
  hits        : List ((Nat × Nat × Nat) × Nat)
  streaks     : List ((Nat × Nat) × Nat × Nat)
  laneCounts  : List ((Nat × Nat × Nat) × Nat)
  lanes       : List ((Nat × Nat × Nat) × Nat × Int)
  ca          : List (Nat × Nat)
  scrub       : Nat
  onDie       : List Nat
  collected   : Nat
  selfRefresh : Bool
  deriving DecidableEq, Repr

/-- LPDDR channels and packages (R290, R291): `drift` in eighths of a unit interval since the last retrain, the times of the last
oscillator reads, retrains, command-bus re-centres and ZQ latches, when each channel's last window closed; `hits` the times of corrected reads by channel and lane within
the last second, `laneCounts` all of them. -/
structure Lpddr where
  failed     : List Nat
  degraded   : List Nat
  drift      : List Nat
  oscRead    : List Nat
  retrain    : List Nat
  ca         : List Nat
  zq         : List Nat
  closedAt   : List Nat
  hits       : List ((Nat × Nat) × Nat)
  laneCounts : List ((Nat × Nat) × Nat)
  deriving DecidableEq, Repr

/-- A tiered region (R269). `deleting` are the commands that delete it. -/
structure Region where
  num      : Nat
  flags    : Nat
  retain   : Nat
  base     : Nat
  len      : Nat
  pin      : Nat
  deleting : List (Nat × DWord)
  deriving DecidableEq, Repr

/-- A hint operation that awaits an outcome (R282, R286): its command, its place in the payload, its deadline and pin window in ns, and
whether it promotes. -/
structure HintOp where
  mb       : Nat
  tag      : DWord
  idx      : Nat
  deadline : Option Nat
  pin      : Nat
  promote  : Bool
  deriving DecidableEq, Repr

/-- A page move: waiting for a token and a frame until `started` (R286). `cls` is its tier class (0 P, 1 D, 2 N, 3 G); `frame` the frame of a
promotion; `left` the granules whose copy has not arrived; `passes` the open passes of a demotion; `heir` the page that waits for the
frame; `pin` the pin of an ON_USE promotion. -/
structure PageMove where
  promote : Bool
  started : Bool
  cls     : Nat
  ops     : List HintOp
  frame   : Option Nat
  left    : List Nat
  passes  : Nat
  heir    : Option Nat
  pin     : Option Nat
  deriving DecidableEq, Repr

/-- A page of a region, as its directory entry gives it (the table "Page directory entry"). -/
structure Page where
  num     : Nat
  region  : Nat
  high    : Bool
  dirty   : Word
  frame   : Nat
  pinEnd  : Nat
  lastUse : Nat
  defer   : Bool
  gen     : Byte
  move    : Option PageMove
  deriving DecidableEq, Repr

/-- The tier manager. The pages of no region are the directory entries of LEVEL 10b. `counts` are R289's: refused at admission, LATE,
promotions, demotions, cancelled, final-stage waits, bytes written back, ON_USE without a victim. -/
structure Tier where
  pool    : List (Nat × Nat)
  regions : List Region
  pages   : List Page
  counts  : List Nat
  deriving DecidableEq, Repr

/-! ### The fabric (13_ewete_fabric.md, 14_collectives_meridian.md) -/

/-- Near-port states (R295). -/
inductive PortState where
  | down | train | exchange | up | held | failed
  deriving DecidableEq, Repr

/-- A survey window of a near port (R297): its kind (0 transmitter re-tune, 1 lane swap, 2 retrain after loss of lock), when it opened, the lane
that a swap replaces and in which direction, and whether a retrain finds lock again. -/
structure NearWindow where
  kind  : Nat
  start : Nat
  out   : Bool
  lane  : Nat
  good  : Bool
  deriving DecidableEq, Repr

/-- A near port: whether the host holds it down, the negotiated version, the peer's capability block, when this end last sent its own,
the link's sequence numbers (next expected, last good, next to send), the replay buffer with the sent flits that no flit has confirmed, by
sequence number, the credits of the four virtual channels in 64-byte units, the packet bytes that wait for the rest of their packet, whether a
NAK is out, when its last window closed and when its transmitter was last tuned, the window that holds it, which of VC0 and VC2 was
served last, and per virtual channel whether the last packet was a forwarded one. -/
structure Near where
  state    : PortState
  hostDown : Bool
  version  : Nat
  block    : List Byte
  sentAt   : Nat
  rxNext   : Nat
  rxGood   : Nat
  txNext   : Nat
  replay   : List (Nat × List Byte)
  credits  : List Nat
  stream   : List Byte
  nak      : Bool
  since    : Nat
  tuned    : Nat
  window   : Option NearWindow
  lastVc   : Nat
  lastFwd  : List Bool
  deriving DecidableEq, Repr

/-- A port-map entry (R329). -/
structure PortMap where
  connected : Bool
  peer      : Nat
  peerPort  : Nat
  kind      : Nat
  role      : Nat
  deriving DecidableEq, Repr

/-- An exposure range (R313). -/
structure Expose where
  base  : Nat
  len   : Nat
  perm  : Nat
  scope : Nat
  deriving DecidableEq, Repr

/-- A member list (R330). -/
structure MemberList where
  num     : Nat
  kind    : Nat
  rank    : Option Nat
  members : List Nat
  deriving DecidableEq, Repr

/-- A ring record (R347). -/
structure RingRec where
  ring    : Nat
  die     : Nat
  list    : Nat
  nr      : Nat
  side    : Nat
  latent  : Nat
  sideLeg : Nat
  blocks  : Nat
  slots   : Nat
  gslots  : Nat
  own     : Nat
  seals   : Nat
  buf     : Nat
  deriving DecidableEq, Repr

/-- The topology descriptor as loaded (R328). `t7` are the device numbers it marks as T7. -/
structure Topo where
  feed        : Nat
  partner     : Option Nat
  partnerFeed : Nat
  flags       : Nat
  farBase     : Nat
  farLen      : Nat
  ports       : List PortMap
  exposure    : List Expose
  rings       : List RingRec
  lists       : List MemberList
  t7          : List Nat
  deriving DecidableEq, Repr

/-- Transactions (R308 to R312). -/
inductive TxKind where
  | read | write | atomic | message
  deriving DecidableEq, Repr

/-- Who waits for a transaction: a move of a core, a TIER_COPY command, the resilience engine with a message of a KIND (R379), or its vault
copy of a step with a write of phase 0 (zeros over the header), 1 (data, set entries, digests) or 2 (the header) (R388), or a RESTORE from the
partner's vault (R401). -/
inductive TxOwner where
  | move (core id : Nat)
  | copy (mb : Nat) (tag : DWord)
  | res (kind : Nat)
  | vault (step phase : Nat)
  | restore (mb : Nat) (tag : DWord)
  deriving DecidableEq, Repr

/-- Where a transaction stands: it waits for a tag, for its order (R318), for its next repetition (R310, R312), or for its response. -/
inductive TxWait where
  | tag | order | busy | full | response
  deriving DecidableEq, Repr

/-- A transaction (R325). `label` is the TAG field, generation and tag; `since` when it was first sent, `born` when it began, `last` when the last
packet of it left on a near port; `retry` when it goes again; `far` that its route names a far
port or another site; `data` what a write or message sends or an atomic's operands; `got` what has come back; `seal`, `shape` (a shape
register's value) and `sealAddr` those of a sealed one; `aop` of an atomic; `resent` that the retry of R104 is under way. -/
structure Tx where
  id       : Nat
  kind     : TxKind
  owner    : TxOwner
  wait     : TxWait
  domain   : Nat
  label    : Nat
  dst      : Nat
  addr     : Nat
  total    : Nat
  sealed   : Bool
  priv     : Bool
  crc      : Word
  shape    : Nat
  sealAddr : Nat
  aop      : Nat
  data     : List Byte
  got      : List Byte
  resent   : Bool
  since    : Option Nat
  born     : Nat
  last     : Option Nat
  retry    : Nat
  far      : Bool
  deriving DecidableEq, Repr

/-- A tag domain (R326, R327): whether a sweep is open, its generation and next tag; per generation its latest retirement and longest
lifetime; the T7 tags under quarantine as tag, retirement and lifetime, and the next T7 tag to try. -/
structure TagDom where
  active : Bool
  gen    : Nat
  next   : Nat
  gens   : List (Nat × Nat)
  quar   : List (Nat × Nat × Nat)
  t7next : Nat
  deriving DecidableEq, Repr

/-- A write transaction in progress at its destination (R310). -/
structure WrEntry where
  src      : Word
  tag      : Word
  addr     : Nat
  total    : Nat
  got      : Nat
  sealed   : Bool
  crc      : Word
  header   : Nat
  sealAddr : Nat
  resend   : Bool
  last     : Nat
  die      : Nat
  deriving DecidableEq, Repr

/-- What tells the packets of one transaction that a module passes on (R306): SRC, TAG, DST, TYPE, CHANNEL, and ADDRESS of the types
without a tag. -/
structure FlowKey where
  src     : Word
  tag     : Word
  dst     : Word
  type    : Byte
  channel : BitVec 16
  address : DWord
  deriving DecidableEq, Repr

/-- The fabric. `spares` are the lanes swapped, as pair, direction (outbound or not) and lane; `present` the cables by pair; `msgCounts` the messages delivered per queue
(R312); `ingress` the packets that flits have delivered and no row has taken, with the time they came; `egress` those that wait at a port, by port
and time; `flows` the ports of transactions that pass through (R322); `sent`, `flits` and
`blocks` the model's own logs of the packets, flits and capability blocks sent, by near port. `counts`: packets discarded as malformed, with HOPS 0, after
20 µs, on a version 1 link, without route; write entries released; cables removed; flits replayed. -/
structure Fab where
  device    : Option Nat
  topo      : Option Topo
  near      : List Near
  spares    : List (Nat × Bool × Nat)
  present   : List Bool
  routes    : List (List DWord)
  txs       : List Tx
  nextTx    : Nat
  doms      : List TagDom
  entries   : List WrEntry
  msgCounts : List Nat
  ingress   : List (Nat × Packet)
  egress    : List (Nat × Nat × Packet)
  flows     : List (FlowKey × Nat)
  sent      : List (Nat × Packet)
  flits     : List (Nat × List Byte)
  blocks    : List (Nat × List Byte)
  counts    : List Nat
  deriving DecidableEq, Repr

/-! ### Far ports (15_far_ports.md) -/

/-- Far-port states (R367), in the order of STATE in the port status. -/
inductive FarState where
  | down | train | up | held | stopped | failed
  deriving DecidableEq, Repr

/-- A MACsec association (R369, R370); `next` the packet number that a receiving one expects next. -/
structure Assoc where
  an   : Nat
  tx   : Bool
  ssci : Word
  salt : List Byte
  sak  : List Byte
  next : Nat
  deriving DecidableEq, Repr

/-- A DATA frame that no ACK covers (R360): its SEQ, its packets with the time each entered the transport, when it was first sent and when
last, the buffer bytes it takes. -/
structure FarSent where
  seq     : Nat
  packets : List (Nat × Packet)
  first   : Nat
  last    : Nat
  bytes   : Nat
  deriving DecidableEq, Repr

/-- A path (R358): peer, state (0 opening, 1 open, 2 resetting), EPOCH, next SEQ, SEQ expected, frames unacknowledged, packets that wait,
the VC0 bytes the peer's CREDIT admits and those sent, the VC0 credit granted to the peer in 4 KiB units and the bytes that have used it, the peer's DEMAND and
INCARNATION, the clock samples of R366 as time, offset and bound, the smoothed round trip in ns, the last TX_TIME received and when, the
last traffic, when an ACK or HELLO was last sent, the DATA frames it has not acknowledged and since when, and when a NAK was last sent. -/
structure FarPath where
  num      : Nat
  peer     : Nat
  state    : Nat
  epoch    : Nat
  nextSeq  : Nat
  expect   : Nat
  unacked  : List FarSent
  queue    : List (Nat × Packet)
  credit   : Nat
  used     : Nat
  granted  : Nat
  recv     : Nat
  demand   : Nat
  inc      : Option DWord
  samples  : List (Nat × Int × Nat)
  srtt     : Nat
  echo     : Option (Nat × Nat)
  traffic  : Nat
  lastSent : Nat
  dueCount : Nat
  dueSince : Nat
  lastNak  : Option Nat
  ackMoved : Nat
  deriving DecidableEq, Repr

/-- A far port. `config` is its port record (R373), empty before FAR_CONFIG; `optic` the optic in the cage: none, or its declared power and
whether it is powered (R487); `window` when its last survey window closed, `held` when the one under way began, `tuned` when it was last
re-tuned (R371); `stopped` when it was stopped, until that has reset its
paths; `txs` and `lost` the DATA frames sent and those lost (log 46); `busy` until when PACE holds the next DATA frame. -/
structure FarPort where
  state   : FarState
  config  : List Byte
  assocs  : List Assoc
  txAn    : Option Nat
  txPn    : Nat
  sent    : Nat
  resent  : Nat
  expired : Nat
  icv     : Nat
  resets  : Nat
  paths   : List FarPath
  nextNum : Nat
  pool    : Nat
  optic   : Option (Option Nat × Bool)
  own     : Option TempLimits
  refused : Nat
  window  : Nat
  held    : Option Nat
  tuned   : Nat
  stopped : Option Nat
  dropped : Nat
  txs     : Nat
  lost    : Nat
  busy    : Nat
  deriving DecidableEq, Repr

/-- The far ports, this module's INCARNATION, the VC0 packets of this module's own transactions under way on them (R368) as owner, time sent
and limit, and the model's own log of the frames sent, by port. -/
structure Far where
  ports  : List FarPort
  inc    : DWord
  limits : List (TxOwner × Nat × Nat)
  frames : List (Nat × List Byte)
  deriving DecidableEq, Repr

/-! ### Collectives and rings (14_collectives_meridian.md) -/

/-- A defined operation (R333): its descriptor, and the status of its latest run (R338): STATE, OUTCOME, GEN, STEP, tiles sent and
received, the first non-finite element as tile, row and column. -/
structure CollDef where
  handle   : Nat
  desc     : List Byte
  state    : Nat
  outcome  : Nat
  gen      : Nat
  step     : Nat
  sent     : Nat
  received : Nat
  nf       : Option (Nat × Nat × Nat)
  deriving DecidableEq, Repr

/-- A tile that waits to be sent, or that is kept until a credit covers it (R341): the receiver's rank, the item, bytes, seal, shape, its
place among what was sent to that receiver, and when it was sent. -/
structure Outgo where
  rcv   : Nat
  item  : Nat
  bytes : List Byte
  crc   : Word
  shape : Nat
  place : Option Nat
  since : Nat
  deriving DecidableEq, Repr

/-- Another rank of a running operation (R341): the last LIMIT it granted, what was sent to it, what of its was verified, and the credit last
given to it as ITEM and LIMIT. -/
structure Mate where
  rank     : Nat
  limit    : Nat
  sent     : Nat
  verified : Nat
  told     : Nat × Nat
  deriving DecidableEq, Repr

/-- An operation in progress over a member list: `parts` the tiles of which only some packets have come, as rank, item, next INDEX and
bytes; `asked` the tiles asked for again; `got` what was verified; `held` contributions that wait for their turn (R336); `written` the
tiles of OUT; `counts` the count entries received (R339); `near` and `far` the slots of the collective buffers that each sender has (R341). -/
structure CollRun where
  handle  : Nat
  entry   : Nat
  start   : Nat
  out     : List Outgo
  mates   : List Mate
  parts   : List (Nat × Nat × Nat × List Byte)
  asked   : List (Nat × Nat)
  got     : List (Nat × Nat)
  held    : List (Nat × Nat × List Byte)
  written : List Nat
  counts  : List (Nat × Nat × Nat)
  near    : Nat
  far     : Nat
  deriving DecidableEq, Repr

/-- One direction of items round a ring (R349, R352): what waits or is kept, the successor's LIMIT, the items it has credited; of the
predecessor's items: those under way (item, tile, next INDEX, bytes), those asked for again, those of which a first sending still comes,
those whole, how many have been announced to the consumers, and the credit last given as count and LIMIT. -/
structure RingFlow where
  out     : List Outgo
  limit   : Nat
  cred    : Nat
  parts   : List (Nat × Nat × Nat × List Byte)
  asked   : List Nat
  redo    : List Nat
  got     : List Nat
  arrived : Nat
  told    : Nat × Nat
  deriving DecidableEq, Repr

/-- RING_FORWARD or RING_BACKWARD in progress: block items and gradient items, the items each consumer has released, the hand-offs
taken. -/
structure RingRun where
  ring     : Nat
  handle   : Nat
  entry    : Nat
  start    : Nat
  backward : Bool
  blk      : RingFlow
  grad     : RingFlow
  released : List Nat
  handed   : Nat
  deriving DecidableEq, Repr

/-- A RESHARD that waits (R344): its command, the generation, the new parts. -/
structure Reshard where
  mb    : Nat
  tag   : DWord
  gen   : Nat
  lists : List MemberList
  rings : List RingRec
  deriving DecidableEq, Repr

/-- The collective engine: the current layout generation, the RESHARD that waits, definitions, runs, rings, and the tile rows dropped
beyond an OUT grid (R339). -/
structure Coll where
  gen     : Nat
  pending : Option Reshard
  defs    : List CollDef
  runs    : List CollRun
  rings   : List RingRun
  dropped : Nat
  deriving DecidableEq, Repr

/-! ### Resilience (16_resilience.md) -/

/-- A weight set (R374). -/
structure WSet where
  num    : Nat
  layer  : Nat
  layers : Nat
  side0  : Nat
  side1  : Nat
  len    : Nat
  deriving DecidableEq, Repr

/-- The resilience configuration (R413). -/
structure ResConf where
  retry      : Bool
  parent     : Option Nat
  interval   : Nat
  retain     : Nat
  retryLimit : Nat
  limitMs    : Nat
  sets       : List WSet
  children   : List Nat
  deriving DecidableEq, Repr

/-- A flash slot (R396): STATE 0 FREE, 1 WRITING, 2 VALID, 3 TORN; the image's bytes by image offset. -/
structure SnapSlot where
  state : Nat
  kind  : Nat
  step  : Nat
  pos   : DWord
  time  : Nat
  image : Mem
  deriving DecidableEq, Repr

/-- A snapshot that runs, or one that waits (R395): its KIND (1 baseline, 2 Lantern, 3 host), step, slot, start, and the SNAP_TAKE that
asked for it. -/
structure SnapRun where
  kind  : Nat
  step  : Nat
  slot  : Nat
  start : Nat
  cmd   : Option (Nat × DWord)
  deriving DecidableEq, Repr

/-- A vault copy (R387 to R389): its step, whether the holder has accepted, the steps of the images it holds, and when the copy began. -/
structure VaultCopy where
  step     : Nat
  accepted : Bool
  slot0    : Option Nat
  slot1    : Option Nat
  start    : Nat
  deriving DecidableEq, Repr

/-- A replay (R405): address, loss, tolerance. -/
structure Replay where
  addr : Nat
  loss : Word
  tol  : Word
  deriving DecidableEq, Repr

/-- A RESTORE that reads the partner's vault (R401, R402): its command, the partner, what has come of the image, what it still reads as offset and
length, and what it reads: 0 the manifest, 1 the data, 2 the chunks that differed from their digests. -/
structure VaultRead where
  mb    : Nat
  tag   : DWord
  peer  : Nat
  slot  : Nat
  img   : Mem
  todo  : List (Nat × Nat)
  phase : Nat
  deriving DecidableEq, Repr

/-- The resilience engine. `committed` is the commit epoch; `side0`, `side1` are SIDE_STEP0 and SIDE_STEP1; `rollbacks` those of the current
step; `ready` the step and attempt reported ready; `readys` the READYs of the children as child, step, attempt; `decisions` the latest two as
step, attempt, commit; `asks` the ASKs that wait; `asked` when READY or the last ASK went out, `stalled` that COMMIT_STALLED is raised; `restored` that a RESTORE has come since the
walk began; `dataPos` the data positions held and `recorded` step, position, seed and layout generation of the last two commits; `lost` that a RESTORE has failed and left
no committed weights (R404); `waiting` the snapshots that
wait; `lossAt` far frames lost and sent at past evaluations, `evalAt` the time of the last one; `pending` the device number of a TAKEOVER; `junk` the entries of queue 63
discarded. -/
structure Resil where
  conf         : Option ResConf
  committed    : Option Nat
  side0        : Option Nat
  side1        : Option Nat
  rollbacks    : Nat
  ready        : Option (Nat × Nat)
  readys       : List (Nat × Nat × Nat)
  decisions    : List (Nat × Nat × Bool)
  asks         : List (Nat × Nat × Nat)
  asked        : Nat
  stalled      : Bool
  restored     : Bool
  copy         : Option VaultCopy
  copyFailed   : Bool
  vault0       : Option Nat
  vault1       : Option Nat
  dataPos      : List (Nat × DWord)
  recorded     : List (Nat × DWord × DWord × Nat)
  lost         : Bool
  slots        : List SnapSlot
  snap         : Option SnapRun
  waiting      : List SnapRun
  replay       : Option Replay
  replayFailed : Bool
  bias         : Nat
  weights      : List Nat
  caps         : List Nat
  lantern      : Nat
  score        : Nat
  below        : Nat
  evacuate     : Bool
  lossAt       : List (Nat × Nat × Nat)
  evalAt       : Nat
  pending      : Option Nat
  reading      : Option VaultRead
  junk         : Nat
  deriving DecidableEq, Repr

/-! ### Vision front end (17_vision_front_end.md) -/

/-- Context states (R422). -/
inductive VisPhase where
  | free | running | resync | draining | ended | error
  deriving DecidableEq, Repr

/-- A picture that has been put out and is not yet a frame: its number in output order, the units of the stream that had come then, and whether
it is the first after a RESYNC. -/
structure Shot where
  index : Nat
  upto  : Nat
  disc  : Bool
  deriving DecidableEq, Repr

/-- A stream context (R416 to R423): its record; the ring's bytes by count since VIS_OPEN (read, written); the units that have left it, each with
whether it was lost, and the pictures put out of them; the unit that ended a RESYNC, until one of its pictures or of a later unit is put out; the
pictures that wait for the path; frames written, dropped pictures, error events; the static box list, an earlier one that ready frames keep, and
the lists held for frames; whether the next frame carries DISCONTINUITY, whether a draining context looks for a random access point; the
commands that wait for ring space, and the VIS_CLOSE that drains. -/
structure VisCtx where
  desc    : List Byte
  phase   : VisPhase
  cause   : Nat
  head    : Nat
  tail    : Nat
  eos     : Bool
  stream  : Config.Stream
  pics    : Nat
  resumed : Option Nat
  waiting : List Shot
  out     : Nat
  dropped : Nat
  errors  : Nat
  always  : Option (List Byte)
  taken   : List (Nat × List Byte)
  lists   : List (Nat × List Byte)
  discont : Bool
  hunt    : Bool
  waits   : List (Nat × DWord)
  drain   : Option (Nat × DWord)
  deriving DecidableEq, Repr

/-- The front end: 256 contexts; per engine the context it decodes, the bytes of the unit and whether one could not be read, and the context it
served last. -/
structure Vis where
  ctxs    : List VisCtx
  engines : List (Option (Nat × Nat × Bool))
  served  : List Nat
  deriving DecidableEq, Repr


/-! ### The module -/

/-- The state of the module. `dram` is HBM and LPDDR by local offset, `ctl` the on-chip memories by control-space offset (R92),
`recs` their slot records; `poison` the poisoned 64-byte granules by local offset (R249); `freeCount` is the model's own counter of free
values (log 7). `pending` is the queue of commands that wait, first in, first out. -/
structure State where
  time      : Nat
  pwr       : Pwr
  host      : HostLink
  fw        : Fw
  tel       : Tel
  cores     : List Core
  ctl       : Mem
  recs      : Recs
  dram      : Mem
  poison    : List Nat
  dieSems   : List (List Word)
  hubSems   : List Word
  semOver   : Nat
  programs  : List Program
  loads     : Nat
  tables    : List (Nat × List Entry)
  job       : Job
  stackSet  : List Stack
  hbm       : Hbm
  lpddr     : Lpddr
  tier      : Tier
  fab       : Fab
  far       : Far
  coll      : Coll
  res       : Resil
  vis       : Vis
  freeCount : Nat
  pending   : List Instr
  deriving DecidableEq, Repr

/-- Why a step may end in a fault. No command of this module raises one: what goes wrong in the module is a status, a trap, a
record or an interrupt, and the machine goes on (log 2). -/
inductive Fault where
  /-- Raised by no command; it keeps the type from being empty. Safe: no run ends in it. -/
  | none
  deriving DecidableEq, Repr

/-- Why a step may be refused. -/
inductive Refusal where
  /-- A command that has no meaning yet: raised by its arm of exec alone. Safe: no next state is claimed. -/
  | notModelled (mnemonic : String)
  /-- A command whose operand names a unit the module does not have (mailbox 16, core 152, port 36 and so on): raised by the
  meaning of that command. Safe: the manual numbers the units and describes no such event. -/
  | noSuchUnit
  deriving DecidableEq, Repr

/-! ### Right after a cold reset has begun -/

/-- A mailbox after cold reset (R473, R478, R479). -/
def Mailbox.reset : Mailbox :=
  ⟨0, 0, 0, 0, 0, 0, 0, 0, none, none, 0, none, [], none, [], [], none, false⟩

def HostLink.reset : HostLink :=
  { mbs := List.replicate 16 Mailbox.reset, ordinal := 0, windows := [],
    msix := List.replicate 32 ⟨0, 0, true⟩, pending := 0, funcMask := false, msi := [], errBits := 0, aer := false, errEnable := 0x3FFFFF,
    errLast := none, errWait := false, evLast := none, evWait := false, mem := [] }

def Fw.reset : Fw :=
  { slots := [⟨.active, Config.factoryImage⟩, ⟨.empty, []⟩], running := 0, next := 0, fallback := false, version := 0, level := 0,
    minSec := 0, ownerKey := none }

/-- No sensor has been read. -/
def noTemps : Temps := ⟨[], [], [], [], [], [], [], [], []⟩

def Pwr.reset : Pwr :=
  { powered := true, pinHeld := false, stage := .power, rails := 1, endpoint := false, level := 0, source := 0, timeHi := 0,
    clock0 := 0, clock1 := 0, divider := none, cap := 1850, hostLimit := 3200, boardLimit := 0xC8, powThrottle := false,
    therm0 := false, therm1 := false, lowSince := none, mv := 0, avg1s := 0, avg10ms := 0, temps := noTemps, hot := [],
    maxTemp := 0, overWarn := 0,
    lastSample := 0, energy := 0, throttledNs := 0, mounted := false, curLimit := none, excursion := false, excursions := [],
    dimAfter := 500, darkAfter := 100, standby := false, trip := false, fault := false, thermN := false, ibis := [] }

/-- Bins of each field-book histogram (R465). -/
def histBins (id : Nat) : Nat := if id < 20 then 64 else if id = 22 ∨ id = 23 then 44 else 32

def Tel.reset : Tel :=
  { stepRec := none, closed := [], nextSeq := 0, stream := none, events := [], nextEvent := 0, dropped := 0,
    mask := 0xFFFFFFFFFFFFFFFF, logs := List.replicate 4 ⟨0, []⟩, rate := [], fbLog := [], fbNext := 0, fbRate := [],
    counters := List.replicate 27 0, hist := (List.range 28).map fun i => List.replicate (histBins i) 0,
    saved := List.replicate 27 0, savedHist := (List.range 28).map fun i => List.replicate (histBins i) 0, images := [],
    stateArea := none, committedAt := 0, commitTime := none, hour := [0, 0, 0, 0],
    errTimes := [], sealTimes := [], diverged := [], unpopped := 0, leftOver := 0, gatherFails := 0, nandEcc := 0 }

def Attn.reset : Attn := ⟨none, 0, none, none, none⟩

/-- A core at core reset (R115, R149, R164, R174), in the dark (R436), with its place on its die (log 10). -/
def Core.reset (n : Nat) : Core :=
  { pos := n % 76, enabled := true, cause := none, retested := false, deferred := none, power := .dark, hold := false,
    clockOn := false, idleSince := 0, dimSince := 0, corrected := 0, hour := 0, retired := 0,
    x := List.replicate 16 0, sh := List.replicate 16 0, d := List.replicate 16 (List.replicate 32 0),
    t := List.replicate 32 (List.replicate 1024 0), acc := List.replicate 4 none, u := List.replicate 8 none,
    attn := Attn.reset, sems := List.replicate 64 0, nf0 := 0, nf1 := 0, fsw := 0, fswOrder := 0, insns := [], loaded := none,
    held := false, launch := none, issued := 0, moves := [], wait := none, stop := none, ending := none }

def Job.reset : Job :=
  { phase := .idle, seed := 0, schedule := 0, vstages := 0, maxInFlight := 0, microBatches := 0, refLen := 0,
    slackUs := 0, groups := [], partition := [], purposes := [], modes := [], masks := [], grants := [], step := 0,
    swap := none, lengths := [], table := [], walk := [], walkStart := 0, starts := 0, begun := false, readyAt := none }

def Hbm.reset : Hbm :=
  { lists := [[], []], mapout := List.replicate 48 0, failed := [], degraded := [], repaired := [], held := [], waiting := [], shadows := [],
    closedAt := [], hits := [], streaks := [], laneCounts := [], lanes := [], ca := [], scrub := 0, onDie := List.replicate 12 0, collected := 0,
    selfRefresh := false }

def Lpddr.reset : Lpddr :=
  { failed := [], degraded := [], drift := List.replicate 64 0, oscRead := List.replicate 64 0, retrain := List.replicate 64 0,
    ca := List.replicate 64 0, zq := List.replicate 16 0, closedAt := List.replicate 64 0, hits := [], laneCounts := [] }

/-- A near port with no signal (R295). The first flit of a link has sequence number 0, so the last good one before it is 1,023 (log 25). -/
def Near.reset : Near :=
  { state := .down, hostDown := false, version := 0, block := [], sentAt := 0, rxNext := 0, rxGood := 1023, txNext := 0, replay := [],
    credits := [0, 0, 0, 0], stream := [], nak := false, since := 0, tuned := 0, window := none, lastVc := 2,
    lastFwd := List.replicate 4 true }

/-- Unreachable entries in every route table (R321), no device number (R293), every cable in place (log 9). -/
def Fab.reset : Fab :=
  { device := none, topo := none, near := List.replicate 36 Near.reset, spares := [], present := List.replicate 18 true,
    routes := [32, 256, 16, 16].map fun n => List.replicate n 0x200000000000,
    txs := [], nextTx := 0, doms := List.replicate 3 ⟨true, 0, 0, List.replicate 16 (0, 0), [], 0⟩, entries := [],
    msgCounts := List.replicate 64 0, ingress := [], egress := [], flows := [], sent := [], flits := [], blocks := [], counts := List.replicate 8 0 }

/-- A far port that is DOWN, with no configuration, no association and a powered optic of no declared power in its cage (log 9). -/
def FarPort.reset : FarPort :=
  { state := .down, config := [], assocs := [], txAn := none, txPn := 1, sent := 0, resent := 0, expired := 0, icv := 0, resets := 0,
    paths := [], nextNum := 0, pool := 0x100000, optic := some (some 0, true), own := none, refused := 0, window := 0, held := none, tuned := 0, stopped := none, dropped := 0,
    txs := 0, lost := 0, busy := 0 }

/-- INCARNATION comes from the entropy source (R358): the first free word (log 7). -/
def Far.reset : Far := { ports := List.replicate 8 FarPort.reset, inc := Config.freeWord 0, limits := [], frames := [] }

/-- The resilience engine after a cold reset: no configuration, no committed step, Lantern's defaults (R406), empty flash (log 12). -/
def Resil.reset : Resil :=
  { conf := none, committed := none, side0 := none, side1 := none, rollbacks := 0, ready := none, readys := [], decisions := [], asks := [],
    asked := 0, stalled := false, restored := false, copy := none, copyFailed := false, vault0 := none, vault1 := none, dataPos := [], recorded := [], lost := false,
    slots := List.replicate 64 ⟨0, 0, 0, 0, 0, []⟩, snap := none, waiting := [], replay := none, replayFailed := false, bias := 0,
    weights := [24, 16, 96, 512, 96, 960, 48, 32, 48, 8, 128, 8, 32, 64, 512],
    caps := [384, 256, 512, 1023, 512, 1023, 512, 256, 384, 128, 512, 256, 768, 512, 512],
    lantern := 0, score := 0, below := 0, evacuate := false, lossAt := [], evalAt := 0, pending := none, reading := none, junk := 0 }

/-- A context that is not open. -/
def VisCtx.reset : VisCtx :=
  { desc := [], phase := .free, cause := 0, head := 0, tail := 0, eos := false, stream := [], pics := 0, resumed := none, waiting := [], out := 0, dropped := 0,
    errors := 0, always := none, taken := [], lists := [], discont := false, hunt := false, waits := [], drain := none }

def Vis.reset : Vis := { ctxs := List.replicate 256 VisCtx.reset, engines := List.replicate 8 none, served := List.replicate 8 255 }

/-- The module right after a cold reset has begun, 54 V present: stage POWER, module time 0, everything else at the value the manual
gives for a cold reset or that the assumption log names. -/
def State.reset : State :=
  { time := 0, pwr := Pwr.reset, host := HostLink.reset, fw := Fw.reset, tel := Tel.reset,
    cores := (List.range 152).map Core.reset, ctl := [], recs := [], dram := [], poison := [],
    dieSems := List.replicate 2 (List.replicate 1024 0), hubSems := List.replicate 1024 0, semOver := 0, programs := [],
    loads := 0,
    tables := [], job := Job.reset, stackSet := [],
    hbm := Hbm.reset, lpddr := Lpddr.reset, tier := ⟨[], [], [], List.replicate 8 0⟩,
    fab := Fab.reset,
    far := Far.reset,
    coll := ⟨0, none, [], [], [], 0⟩,
    res := Resil.reset,
    vis := Vis.reset,
    freeCount := 1, pending := [] }

end Sys2Proof.Machine
end

