-- ==== Sys2Proof/Machine/Ops.lean ====
section
/-! DEFINITION. Ops.lean: the operations every family shares: sparse memories, free values, registers and records of the state,
errors and events, interrupts, completion records, semaphores. -/

namespace Sys2Proof.Machine

/-- What a command answers. -/
abbrev Out := Host.Outcome State Fault Refusal

/-! ### Sparse memories (log 1) -/

/-- The canonical form: addresses strictly rising, no zero listed. -/
abbrev Wf {w : Nat} (m : List (Nat × BitVec w)) : Prop :=
  m.Pairwise (fun a b => a.1 < b.1) ∧ ∀ c ∈ m, c.2 ≠ 0

/-- The canonical form of a byte memory. -/
abbrev Mem.wf (m : Mem) : Prop := Wf m

/-- What an address holds: 0 where nothing is listed. -/
def rd {w : Nat} (m : List (Nat × BitVec w)) (a : Nat) : BitVec w := (m.lookup a).getD 0

/-- The cells of a run of values from address `a` on, zeros left out. -/
def runCells {w : Nat} : Nat → List (BitVec w) → List (Nat × BitVec w)
  | _, [] => []
  | a, b :: bs => if b = 0 then runCells (a + 1) bs else (a, b) :: runCells (a + 1) bs

/-- Writes a run of values from address `a` on, keeping the canonical form. -/
def writeRun {w : Nat} (m : List (Nat × BitVec w)) (a : Nat) (bs : List (BitVec w)) : List (Nat × BitVec w) :=
  m.filter (fun c => c.1 < a) ++ runCells a bs ++ m.filter (fun c => a + bs.length ≤ c.1)

/-- The values of a run of `n` addresses from `a` on. -/
def readRun {w : Nat} (m : List (Nat × BitVec w)) (a n : Nat) : List (BitVec w) := (List.range n).map fun i => rd m (a + i)

/-- Clears a run: every address of it reads 0. -/
def eraseRun {w : Nat} (m : List (Nat × BitVec w)) (a n : Nat) : List (Nat × BitVec w) :=
  m.filter fun c => c.1 < a || a + n ≤ c.1

/-- Writes one value. -/
def wr {w : Nat} (m : List (Nat × BitVec w)) (a : Nat) (v : BitVec w) : List (Nat × BitVec w) := writeRun m a [v]

/-- The little-endian number of `n` bytes at an address. -/
def rdNat (m : Mem) (a n : Nat) : Nat := unle (readRun m a n)

/-- Writes the bytes that pass a mask: byte i of `bs` lands at a + i where `keep i` says so. -/
def writeMasked (m : Mem) (a : Nat) (bs : List Byte) (keep : Nat → Bool) : Mem :=
  writeRun m a (bs.mapIdx fun i b => if keep i then b else rd m (a + i))

/-! ### Free values (log 7) -/

/-- `n` bytes that nothing constrains. -/
def freeBytes (s : State) (n : Nat) : List Byte := (List.range n).map fun i => Config.freeByte (s.freeCount + i)

/-- Uses up `n` free values. -/
def bump (s : State) (n : Nat) : State := { s with freeCount := s.freeCount + n }

/-- A doubleword that nothing constrains. -/
def freeWord (s : State) : DWord := Config.freeWord s.freeCount

/-- Makes `n` bytes of HBM or LPDDR undefined. -/
def havocDram (s : State) (a n : Nat) : State :=
  bump { s with dram := writeRun s.dram a (freeBytes s n) } n

/-- Makes `n` bytes of an on-chip memory undefined. -/
def havocCtl (s : State) (a n : Nat) : State :=
  bump { s with ctl := writeRun s.ctl a (freeBytes s n) } n

/-! ### Numbers of units -/

/-- A command on a unit the module does not have is refused by name. -/
def onUnit (n count : Nat) (k : Out) : Out := if n < count then k else .refused .noSuchUnit

/-! ### Addresses (00_scope.md) -/

def space (a : Nat) : Nat := bits a 63 62
def device (a : Nat) : Nat := bits a 61 41
def offset (a : Nat) : Nat := bits a 40 0
def globalAddr (sp dev off : Nat) : Nat := sp * 2 ^ 62 + dev * 2 ^ 41 + off

/-- Bytes of HBM (R244) and of LPDDR (R262), and the local offset at which LPDDR begins. -/
def hbmBytes : Nat := 576 * 2 ^ 30
def lpddrBase : Nat := 2 ^ 40
def lpddrBytes : Nat := 2 ^ 40

/-- Control-space bases (R92). -/
def ctlBase : Nat := 2 ^ 63
def hubBase : Nat := 0x8000000
def tileBase (core : Nat) : Nat := 0x40000000 + core * 0x400000
/-- The global address of a byte of a core's tile store (R177). -/
def tileAddr (core byte : Nat) : Nat := ctlBase + tileBase core + byte

/-! ### Pieces of the state -/

def mbAt (s : State) (mb : Nat) : Mailbox := s.host.mbs.getD mb Mailbox.reset
def setMb (s : State) (mb : Nat) (f : Mailbox → Mailbox) : State := { s with host := { s.host with mbs := s.host.mbs.modify mb f } }
def coreAt (s : State) (n : Nat) : Core := s.cores.getD n (Core.reset n)
def setCore (s : State) (n : Nat) (f : Core → Core) : State := { s with cores := s.cores.modify n f }
def dieOf (core : Nat) : Nat := if core < 76 then 0 else 1

/-! ### Core time (R243, R455) -/

/-- Entries of the walk with how far each has come. -/
def Job.pairs (j : Job) : List (Entry × EntryState) := j.table.zip j.walk

/-- Padded length of a micro-batch in the running step (R236, R237). -/
def Job.lenOf (j : Job) (mb : Nat) : Nat := (j.lengths.find? fun l => l.1 = j.step).elim j.refLen fun l => l.2.getD mb j.refLen

/-- Whether a micro-batch is in flight in a virtual stage (R233). -/
def Job.flying (j : Job) (v mb : Nat) : Bool :=
  let mine (k : Nat) := j.pairs.filter fun p => p.1.kind = k && p.1.vstage = v && p.1.mb = mb
  (mine 1).any (fun p => p.2.phase ≠ .pending) && !(!(mine 2).isEmpty && (mine 2).all fun p => p.2.phase = .completed)

/-- Micro-batches in flight in a virtual stage. -/
def Job.inFlight (j : Job) (v : Nat) : Nat :=
  (((j.pairs.filter fun p => p.1.kind = 1 && p.1.vstage = v).map fun p => p.1.mb).eraseDups.filter fun m => j.flying v m).length

/-- Whether chapter 14 assigns a semaphore (section 5 of the job descriptor). -/
def Job.ringSem (j : Job) (sem : Nat) : Bool := j.purposes.any fun p => p.1 = sem && 0x10 ≤ p.2

/-- Whether an entry belongs to a micro-batch longer than REF_LEN: an F, B, W or SYNC entry (log 123). -/
def Job.long (j : Job) (e : Entry) : Bool := (e.kind ≤ 3 || e.kind = 6) && j.refLen < j.lenOf e.mb

def groupCores (j : Job) (g : Nat) : List Nat := (j.groups.find? fun x => x.1 = g).elim [] (·.2)

/-- Enabled cores of a group in ascending number (R226). -/
def liveCores (s : State) (g : Nat) : List Nat :=
  (List.range 152).filter fun n => (groupCores s.job g).contains n && (coreAt s n).enabled

/-- The die whose semaphores a die semaphore of an entry names: that of its group's lowest core (log 29). -/
def groupDie (s : State) (g : Nat) : Nat := dieOf ((liveCores s g).headD 0)

/-- Whether the completion of entry `x` raises the semaphore that entry `e` waits for: the same number, and for a die semaphore the same die. -/
def raisesFor (s : State) (x e : Entry) : Bool :=
  e.waitSem ≠ 0xFFF && x.sigSem = e.waitSem && (bits e.waitSem 11 10 ≠ 1 || groupDie s x.group = groupDie s e.group)

/-- The account of an idle core whose group waits for entry `e`. -/
def waitAccount (s : State) (e : Entry) : Nat :=
  if e.kind = 5 || s.job.ringSem e.waitSem then 6
  else if s.job.long e || s.job.table.any fun x => raisesFor s x e && s.job.long x then 7
  else if e.kind = 1 && s.job.maxInFlight ≤ s.job.inFlight e.vstage then 8
  else 9

/-- The class of R455 to which a core's time goes: what it runs, or what its group waits for. -/
def account (s : State) (group n : Nat) : Nat :=
  match (coreAt s n).launch.bind fun l => l.sched.bind fun e => (s.job.pairs[e]?).map fun p => (l.cheaper, p) with
  | some (true, _) => 4
  | some (false, p) => (match p.1.kind with | 1 => 0 | 2 => 1 | 3 => if p.2.gap then 5 else 2 | 4 => 3 | _ => 9)
  | none =>
    if s.job.readyAt.isSome then 10
    else match s.job.pairs.find? fun p => p.1.group = group && p.2.phase = .pending with
      | some p => waitAccount s p.1
      | none => 9

/-- The cores that a step record books, with their group. -/
def bookedCores (s : State) : List (Nat × Nat) :=
  s.job.groups.flatMap fun g => (g.2.filter fun n => (coreAt s n).enabled).map fun n => (g.1, n)

/-- Whether a throttle of R440 to R442 is in force. -/
def throttled (s : State) : Bool := s.pwr.powThrottle || s.pwr.therm0 || s.pwr.therm1 || s.pwr.divider.isSome

/-- Books `dt` ns to the open step record: core time by account, wall time by what goes on. -/
def book (s : State) (dt : Nat) : State :=
  match s.tel.stepRec with
  | none => s
  | some r =>
    let wall := [(11, true), (12, throttled s), (13, s.res.copy.isSome), (14, s.res.snap.isSome),
      (15, !s.coll.runs.isEmpty || !s.coll.rings.isEmpty)]
    let hits := ((bookedCores s).map fun c => account s c.1 c.2) ++ (wall.filter (·.2)).map (·.1)
    let r := hits.foldl (fun (r : StepRec) k => { r with phase := r.phase.modify k (· + dt) }) r
    { s with tel := { s.tel with stepRec := some r } }

/-- Counts `dt` ns of throttled time (R444). -/
def Pwr.counting (p : Pwr) (on : Bool) (dt : Nat) : Pwr := { p with throttledNs := p.throttledNs + (if on then dt else 0) }

/-- Moves module time on to `t` (log 4): an event that is due at `t` happens no earlier. -/
def advance (s : State) (t : Nat) : State :=
  if t ≤ s.time then s
  else { book s (t - s.time) with time := t, pwr := s.pwr.counting (throttled s) (t - s.time) }

/-! ### More pieces -/

/-- The rank of core `n` in its group and the group's size, 0 and 1 for a core of no group (R226). -/
def groupPlace (s : State) (n : Nat) : Nat × Nat :=
  match s.job.groups.find? fun g => g.2.contains n with
  | some g => ((liveCores s g.1).findIdx (· = n), (liveCores s g.1).length)
  | none => (0, 1)

/-- Whether two entries of one virtual stage have a layer in common (R208). -/
def sharesLayer (x e : Entry) : Bool := x.vstage = e.vstage && x.layer < e.layer + e.layers && e.layer < x.layer + x.layers

/-- The job's step counter as launch identities and records take it: 0 with no job (R183). -/
def jobStep (s : State) : Nat := if s.job.phase = .idle then 0 else s.job.step

/-- Enabled cores. -/
def enabledCores (s : State) : List Nat := (List.range 152).filter fun n => (coreAt s n).enabled
/-- Fenced cores. -/
def fencedCores (s : State) : List Nat := (List.range 152).filter fun n => (coreAt s n).cause.isSome

/-! ### Field book and counters (R463, R466) -/

/-- Adds to a lifetime counter, by its place in the block of R466. -/
def countUp (s : State) (i n : Nat) : State := { s with tel := { s.tel with counters := s.tel.counters.modify i (· + n) } }

/-- Indices of the lifetime counters, in the order of the block of R466. -/
def cLife : Nat := 0
def cEnergy : Nat := 1
def cCold : Nat := 2
def cWarm : Nat := 3
def cFunction : Nat := 4
def cPowerLoss : Nat := 5
def cTrip : Nat := 6
def cPowerFault : Nat := 7
def cCurrent : Nat := 8
def cThrottled : Nat := 9
def cHbmCorr : Nat := 10
def cHbmUnc : Nat := 11
def cHbmPoison : Nat := 12
def cLpCorr : Nat := 13
def cLpUnc : Nat := 14
def cSram : Nat := 15
def cSealRetry : Nat := 16
def cSealFault : Nat := 17
def cFec : Nat := 18
def cReplay : Nat := 19
def cFarLost : Nat := 20
def cFarIcv : Nat := 21
def cLate : Nat := 22
def cCommit : Nat := 23
def cRollback : Nat := 24

/-- Lifetime powered seconds (R466): those before this arrival of 54 V and those since, when module time began (R433). -/
def lifeS (s : State) : Nat := nth s.tel.counters cLife + s.time / 1000000000

/-- Adds a field-book entry (R463): at most 16 of one kind per second, a further one raises COUNT of the latest of its kind. -/
def fbEntry (s : State) (kind : Nat) (data : DWord) : State :=
  let sec := s.time / 1000000000
  let seen := (s.tel.fbRate.find? fun r => r.1 = kind ∧ r.2.1 = sec).elim 0 (·.2.2)
  let rate := (kind, sec, seen + 1) :: s.tel.fbRate.filter fun r => r.1 ≠ kind
  if seen < 16 then
    let e : FbEntry := ⟨s.tel.fbNext, lifeS s, s.time, kind, 1, data⟩
    let log := s.tel.fbLog ++ [e]
    { s with tel := { s.tel with fbLog := log.drop (log.length - 1048576), fbNext := s.tel.fbNext + 1, fbRate := rate } }
  else
    let last := (s.tel.fbLog.filter fun e => e.kind = kind).getLast?
    { s with tel := { s.tel with
        fbLog := s.tel.fbLog.map (fun e => if some e = last then { e with count := min (e.count + 1) 0xFFFF } else e)
        fbRate := rate } }

/-- Writes the state records of the field book anew (R462, R463); their layout is not given, so their bytes are free (log 12). -/
def fbState (s : State) : State :=
  bump { s with tel := { s.tel with stateArea := some s.freeCount } } 1048576

/-- The payload of kinds 1 and 2: core, die, position, cause (R463). -/
def coreData (s : State) (core cause : Nat) : DWord :=
  BitVec.ofNat 64 (core + 256 * dieOf core + 65536 * (coreAt s core).pos + 16777216 * cause)

/-! ### Interrupts (R480 to R482) -/

/-- Bytes posted into host memory (R27). -/
def hostWrite (s : State) (a : Nat) (bs : List Byte) : State :=
  { s with host := { s.host with mem := writeRun s.host.mem a bs } }

/-- Sends the MSI-X message of vector `v`: a posted write of its data to its address, logged. -/
def sendMsi (s : State) (v : Nat) : State :=
  let e := s.host.msix.getD v ⟨0, 0, true⟩
  let s := hostWrite s e.addr.toNat (le 4 e.data.toNat)
  { s with host := { s.host with msi := s.host.msi ++ [(v, e.addr, e.data)] } }

/-- Raises vector `v` (R482): sent, or pending while it or the function is masked. -/
def raiseVector (s : State) (v : Nat) : State :=
  if (s.host.msix.getD v ⟨0, 0, true⟩).masked || s.host.funcMask then
    { s with host := { s.host with pending := s.host.pending ||| (1#32 <<< v) } }
  else sendMsi s v

/-- Sends every pending vector that is no longer masked (R482). -/
def sendPending (s : State) : State :=
  (List.range 32).foldl (fun s v =>
    if s.host.pending.getLsbD v && !(s.host.msix.getD v ⟨0, 0, true⟩).masked && !s.host.funcMask then
      sendMsi { s with host := { s.host with pending := s.host.pending &&& ~~~(1#32 <<< v) } } v
    else s) s

/-- Whether an event at `t` still covers the present (R480, R481): less than `gap` ns have passed. -/
def within (s : State) (last : Option Nat) (gap : Nat) : Bool :=
  match last with
  | none => false
  | some t => s.time < t + gap

/-- Raises vector 17 for an error, at most once per 10 µs (R481). -/
def raiseError (s : State) : State :=
  if within s s.host.errLast 10000 then { s with host := { s.host with errWait := true } }
  else raiseVector { s with host := { s.host with errLast := some s.time } } 17

/-- Raises vector 16 for an event, at most once per 10 µs (R458). -/
def raiseEvent (s : State) : State :=
  if within s s.host.evLast 10000 then { s with host := { s.host with evWait := true } }
  else raiseVector { s with host := { s.host with evLast := some s.time } } 16

/-- Sets bit 16 + `k` of ERROR_STATUS (R481): 0 WATCHDOG, 1 THERMAL_TRIP, 2 FALLBACK_BOOT, 3 EVENT_OVERFLOW, 4 ACCESS_ERROR,
5 CPL_TIMEOUT. -/
def setError (s : State) (k : Nat) : State :=
  if s.host.errBits.getLsbD k then s
  else
    let s' := { s with host := { s.host with errBits := s.host.errBits ||| (1#6 <<< k) } }
    if s.host.errEnable.getLsbD (16 + k) then raiseError s' else s'

/-- Sets a W1C bit of a mailbox status register (R478): a bit that goes from 0 to 1 is a new error under R481. -/
def setMbStatus (s : State) (mb k : Nat) : State :=
  if (mbAt s mb).status.getLsbD k then s
  else
    let s' := setMb s mb fun m => { m with status := m.status ||| (1#6 <<< k) }
    if s.host.errEnable.getLsbD mb then raiseError s' else s'

def sBadDoorbell : Nat := 0
def sNotConfigured : Nat := 1
def sLockViolation : Nat := 2
def sNotReady : Nat := 3
def sBadRelease : Nat := 4
def sConfigRefused : Nat := 5

/-- Raises the vector of MB`mb` after a record whose command asked for it, under the holdoff of R480. -/
def raiseCompletion (s : State) (mb : Nat) : State :=
  let m := mbAt s mb
  if m.holdoff ≠ 0 ∧ within s m.irqLast (m.holdoff * 1000) then setMb s mb fun m => { m with irqWait := true }
  else raiseVector (setMb s mb fun m => { m with irqLast := some s.time }) mb

/-! ### Events (R458, R459) -/

/-- An event of class `cls` (R458): counted by its chapter, queued and signalled when the mask admits its class. -/
def event (s : State) (cls : Nat) (data : Nat) : State :=
  if s.tel.mask.getLsbD cls then
    let step := if s.job.phase = .idle then 2 ^ 64 - 1 else s.job.step
    let e : Event := ⟨cls, s.tel.nextEvent, s.time, step, BitVec.ofNat 64 data⟩
    let t := { s.tel with nextEvent := s.tel.nextEvent + 1 }
    let s' :=
      if s.tel.events.length < 1024 then { s with tel := { t with events := s.tel.events ++ [e] } }
      else setError { s with tel := { t with dropped := s.tel.dropped + 1 } } 3
    raiseEvent s'
  else s

/-- Appends an entry to an error log (R460): 0 HBM, 1 LPDDR, 2 seal faults, 3 trap reports. -/
def logError (s : State) (log : Nat) (bytes : List Byte) : State :=
  let f (l : ErrLog) : ErrLog :=
    let es := l.entries ++ [(l.count, bytes)]
    ⟨l.count + 1, es.drop (es.length - 4096)⟩
  { s with tel := { s.tel with logs := s.tel.logs.modify log f } }

/-- Whether a corrected-error record of lane `key` may enter its log now: at most once per second (R460). -/
def rateOk (s : State) (key : Nat) : Bool := !s.tel.rate.any fun r => r.1 = key && s.time < r.2 + 1000000000

def rateMark (s : State) (key : Nat) : State :=
  { s with tel := { s.tel with rate := (key, s.time) :: s.tel.rate.filter fun r => r.1 ≠ key } }

/-- Adds to a count of the open step record, saturating (R456). -/
def stepCountBy (s : State) (i k : Nat) : State :=
  let f (r : StepRec) : StepRec := { r with counts := r.counts.modify i fun n => min (n + k) 0xFFFFFFFF }
  { s with tel := { s.tel with stepRec := s.tel.stepRec.map f } }

def stepCount (s : State) (i : Nat) : State := stepCountBy s i 1

/-! ### Ring pointers (R473 to R475) -/

/-- OFFSET of a pointer in bytes, and WRAP. -/
def ptrOff (p : Word) : Nat := bits p.toNat 25 6 * 64
def ptrWrap (p : Word) : Bool := bit p.toNat 26

/-- A pointer at byte `o` of a ring of `size` bytes, on the pass that `w` names; at the end of the ring it turns to the next pass. -/
def mkPtr (size o : Nat) (w : Bool) : Word :=
  let past := decide (size ≤ o)
  BitVec.ofNat 32 ((if past then o - size else o) + (if w != past then 2 ^ 26 else 0))

/-- Bytes held between a consumer and a producer pointer of a ring. -/
def ringUsed (size : Nat) (prod cons : Word) : Nat :=
  if ptrWrap prod = ptrWrap cons then ptrOff prod - ptrOff cons else size + ptrOff prod - ptrOff cons

/-- Moves a pointer on by `n` bytes. -/
def ptrAdd (size : Nat) (p : Word) (n : Nat) : Word := mkPtr size (ptrOff p + n) (ptrWrap p)

/-! ### Completion records (R41, R42, R474) -/

/-- The 64 bytes of a completion record's header. -/
def recordHeader (mb : Nat) (phase : Bool) (r : CplRec) : List Byte :=
  let h := le 1 r.cls ++ le 1 r.code ++ le 2 r.status ++ le 4 r.payload.length ++ le 8 r.tag.toNat ++ le 4 r.seq.toNat ++
    le 4 r.index ++ le 8 r.r0.toNat ++ le 8 r.r1.toNat ++ le 8 r.ordinal ++
    le 4 (crc32c r.payload).toNat ++ le 2 (b2n phase + 2 * b2n r.more) ++ le 1 mb ++ [0]
  withCrc h ++ zeros 4

/-- Bytes a record occupies in its ring (R474). -/
def recordLen (r : CplRec) : Nat := 64 + roundUp r.payload.length 64

/-- Where a record lands: its offset and pass, and the bytes it takes up with those left before the end of the ring. -/
def recordPlace (m : Mailbox) (r : CplRec) : Nat × Bool × Nat :=
  let size := 2 ^ m.cplSize
  let o := ptrOff m.cplProd
  let n := recordLen r
  if o + n ≤ size then (o, ptrWrap m.cplProd, n) else (0, !ptrWrap m.cplProd, size - o + n)

/-- Whether the ring has room for a record (R42). -/
def hasRoom (m : Mailbox) (r : CplRec) : Bool :=
  let size := 2 ^ m.cplSize
  m.cplSize ≠ 0 && ringUsed size m.cplProd m.cplCons + (recordPlace m r).2.2 ≤ size

/-- Writes a record that has room: payload first, header last, pointer, interrupt. -/
def writeRecord (s : State) (mb : Nat) (r : CplRec) : State :=
  let m := mbAt s mb
  let (o, w, _) := recordPlace m r
  let a := m.cplBase.toNat + o
  let s := hostWrite s (a + 64) r.payload
  let s := hostWrite s a (recordHeader mb (!w) r)
  let s := setMb s mb fun m => { m with cplProd := mkPtr (2 ^ m.cplSize) (o + recordLen r) w }
  if r.irq && !r.more then raiseCompletion s mb else s

/-- Writes a due record, or holds it and every later one of the mailbox (R42). -/
def postRecord (s : State) (mb : Nat) (r : CplRec) : State :=
  let m := mbAt s mb
  if m.held.isEmpty && hasRoom m r then writeRecord s mb r
  else setMb s mb fun m => { m with held := m.held ++ [r] }

/-- Writes what the ring has room for again, in order (R475). -/
def flushHeld (s : State) (mb : Nat) : State :=
  let rs := (mbAt s mb).held
  rs.foldl (fun s r => postRecord s mb r) (setMb s mb fun m => { m with held := [] })

/-- The chunks of a response (R41): one record per 65,536 bytes, one for an empty response. -/
def chunks (p : List Byte) : List (List Byte) :=
  (List.range (max 1 ((p.length + 65535) / 65536))).map fun i => (p.drop (65536 * i)).take 65536

/-- Posts the record chain of a command (R41): each record takes its own ORDINAL, the last carries the status and the results. -/
def respond (s : State) (mb : Nat) (c : Cmd) (status : Nat) (payload : List Byte) (r0 r1 : DWord) : State :=
  let cs := chunks payload
  (cs.mapIdx fun i p => (i, p)).foldl (fun s ip =>
    let last := ip.1 + 1 = cs.length
    let r : CplRec := {
      cls := c.cls, code := c.code, status := if last then status else 0, tag := c.tag, seq := c.seq, index := ip.1,
      r0 := if last then r0 else 0, r1 := if last then r1 else 0, ordinal := s.host.ordinal, more := !last,
      irq := c.flags.getLsbD 0, payload := ip.2 }
    postRecord { s with host := { s.host with ordinal := s.host.ordinal + 1 } } mb r) s

/-- Takes a command off its mailbox's list; a chain of it that is still open is ended (R39). -/
def dropCmd (s : State) (mb : Nat) (tag : DWord) : State :=
  setMb s mb fun m =>
    let open' : Bool := match m.chain with | some c => c.tag == tag | none => false
    { m with
      cmds := m.cmds.filter fun c => c.tag ≠ tag
      chain := if open' then none else m.chain
      ended := if open' then tag :: m.ended else m.ended }

/-- Completes a command with status, response payload and results (R41). -/
def finish (s : State) (mb : Nat) (c : Cmd) (status : Nat) (payload : List Byte := []) (r0 : DWord := 0) (r1 : DWord := 0) : State :=
  respond (dropCmd s mb c.tag) mb c status payload r0 r1

/-- Completes a command with OK and nothing else. -/
def ok (s : State) (mb : Nat) (c : Cmd) : State := finish s mb c 0

/-- The outstanding command `tag` of a mailbox. -/
def findCmd (s : State) (mb : Nat) (tag : DWord) : Option Cmd := (mbAt s mb).cmds.find? fun c => c.tag = tag

/-- Completes the command `tag` of a mailbox if it is still outstanding. -/
def finishTag (s : State) (mb : Nat) (tag : DWord) (status : Nat) (payload : List Byte := []) (r0 : DWord := 0) (r1 : DWord := 0) :
    State :=
  match findCmd s mb tag with
  | some c => finish s mb c status payload r0 r1
  | none => s

/-- Marks a command as running: it completes on a later event. -/
def markStarted (s : State) (mb : Nat) (tag : DWord) (aux : List Nat) : State :=
  setMb s mb fun m => { m with cmds := m.cmds.map fun c => if c.tag = tag then { c with started := true, aux := aux } else c }

/-- Whether an abort ends this command, which completes ABORTED with the abort (R59): the second number of `aux` says so. -/
def ending (c : Cmd) : Bool := nth c.aux 1 = 1 && ((c.cls = 5 && c.code = 4) || (c.cls = 10 && c.code = 0x44))

/-- Status codes of R50. -/
def stAborted : Nat := 1
def stNothing : Nat := 2
def stNotAbortable : Nat := 3
def stMalformed : Nat := 0x10
def stHeaderCrc : Nat := 0x11
def stPayloadCrc : Nat := 0x12
def stUnknown : Nat := 0x13
def stChainBroken : Nat := 0x14
def stTooLong : Nat := 0x15
def stNoSession : Nat := 0x20
def stSequence : Nat := 0x21
def stAuth : Nat := 0x22
def stLocked : Nat := 0x23
def stNotPermitted : Nat := 0x24
def stBusy : Nat := 0x30
def stRange : Nat := 0x31
def stSeal : Nat := 0x32
def stResource : Nat := 0x33
def stSignature : Nat := 0x40
def stRollback : Nat := 0x41
def stIncomplete : Nat := 0x42
def stHostTimeout : Nat := 0x50
def stDeviceFault : Nat := 0x51

/-- The command that may start now (R35): the outstanding command with this tag, class and code, whole and not started, when every
earlier command of the mailbox has started, or has completed if its ORDERED flag is set. No command waits for an ABORT. -/
def startable (m : Mailbox) (tag : DWord) (cls code : Nat) : Option Cmd :=
  let before := (m.cmds.takeWhile fun c => c.tag ≠ tag).filter fun c => c.cls ≠ 11
  match m.cmds.find? fun c => c.tag = tag with
  | some c =>
    if c.cls = cls ∧ c.code = code ∧ c.whole ∧ ¬ c.started ∧ before.all (·.started) ∧ (c.flags.getLsbD 1 → before.isEmpty) then
      some c
    else none
  | none => none

/-- Whether an ABORT has been acknowledged and has not started: it starts at its acknowledgement, so no other command starts before it (R35). -/
def abortDue (s : State) : Bool := s.host.mbs.any fun m => m.cmds.any fun c => c.cls = 11 && c.whole && !c.started

/-- The command of mailbox `mb` that may start now: `startable`, with no ABORT due. -/
def starting (s : State) (mb : Nat) (tag : DWord) (cls code : Nat) : Option Cmd :=
  if abortDue s then none else startable (mbAt s mb) tag cls code

/-- In standby only classes 0x01 and 0x02, PWR_QUERY, STANDBY and HBM_MAPOUT are accepted (R447). -/
def standbyAllows (c : Cmd) : Bool :=
  c.cls = 1 || c.cls = 2 || (c.cls = 10 && (c.code = 1 || c.code = 9 || c.code = 7))

/-- Whether the argument words have no bits outside `m0` and `m1` and a payload is absent where none is taken (R36). -/
def clean (c : Cmd) (m0 m1 : Nat) (pay : Bool) : Bool :=
  c.arg0 &&& ~~~BitVec.ofNat 64 m0 == 0 && c.arg1 &&& ~~~BitVec.ofNat 64 m1 == 0 && (pay || c.payload.isEmpty)

/-- All 64 bits of an argument word are used. -/
def all64 : Nat := 2 ^ 64 - 1

/-- A mailbox command starts (R35): `body` is what it does. Nothing happens when no such command may start. -/
def mbCommand (mb : Nat) (tag : DWord) (cls code : Nat) (body : Cmd → State → State) (s : State) : Out :=
  onUnit mb 16 <|
    match starting s mb tag cls code with
    | none => .next s
    | some c => .next (if s.pwr.standby && !standbyAllows c then finish s mb c 0x0A01 else body c s)

/-! ### Host windows (R55, R56) -/

/-- Whether `n` bytes at offset `o` of window `w` lie inside a granted window. -/
def windowHolds (s : State) (w o n : Nat) : Bool :=
  s.host.windows.any fun x => x.num = w && o + n ≤ x.len

/-- The host bus address of offset `o` of window `w`. -/
def windowAddr (s : State) (w o : Nat) : Nat := (s.host.windows.find? fun x => x.num = w).elim 0 (·.base) + o

/-! ### Semaphores (R198) -/

/-- A semaphore number: the core's own (0), the die's (1), the hub's (2), none (3 with 0x3FF). -/
def semScope (n : Nat) : Nat := bits n 11 10
def semIndex (n : Nat) : Nat := bits n 9 0
def noSem (n : Nat) : Bool := n = 0xFFF

/-- The value of a semaphore as core `core` names it. -/
def semGet (s : State) (core die n : Nat) : Nat :=
  match semScope n with
  | 0 => ((coreAt s core).sems.getD (semIndex n) 0).toNat
  | 1 => ((s.dieSems.getD die []).getD (semIndex n) 0).toNat
  | _ => (s.hubSems.getD (semIndex n) 0).toNat

def semPut (s : State) (core die n v : Nat) : State :=
  let w := BitVec.ofNat 32 v
  match semScope n with
  | 0 => setCore s core fun c => { c with sems := c.sems.set (semIndex n) w }
  | 1 => { s with dieSems := s.dieSems.modify die fun l => l.set (semIndex n) w }
  | 2 => { s with hubSems := s.hubSems.set (semIndex n) w }
  | _ => s

/-- Adds to a semaphore, saturating at 0xFFFF_FFFF; telemetry counts an overflow (R198). -/
def semAdd (s : State) (core die n k : Nat) : State :=
  if noSem n then s else
  let v := semGet s core die n + k
  if v > 0xFFFFFFFF then { semPut s core die n 0xFFFFFFFF with semOver := s.semOver + 1 } else semPut s core die n v

/-- Takes `k` from a semaphore that holds at least `k`. -/
def semTake (s : State) (core die n k : Nat) : State := semPut s core die n (semGet s core die n - k)

end Sys2Proof.Machine
end

