-- ==== Sys2Proof/Machine/Operands.lean ====
section
/-! DEFINITION. Operands.lean: what an instruction word names (08_tile_program_isa.md) and the slot memories it works on: shapes,
slots, slot records, seals, registers, and how a core issues one instruction. -/

namespace Sys2Proof.Machine

/-! ### Fault codes (R205) -/

def fIllegal : Nat := 0x01
def fDesc : Nat := 0x02
def fRange : Nat := 0x03
def fSeal : Nat := 0x04
def fMatrix : Nat := 0x05
def fAcc : Nat := 0x06
def fAttnConfig : Nat := 0x07
def fAttnForm : Nat := 0x08
def fAttnState : Nat := 0x09
def fVec : Nat := 0x0A
def fRed : Nat := 0x0B
def fStack : Nat := 0x0C
def fSync : Nat := 0x0D
def fTransfer : Nat := 0x0E

/-! ### Issue -/

/-- What a core issues: its number, its registers, its launch, the word, and the state. -/
structure Ctx where
  n : Nat
  c : Core
  l : Launch
  w : Nat
  s : State

/-- What becomes of an instruction: it waits at issue, it stops the core with a fault (code, DETAIL, seal fault record), it is done
and the next index follows, or it is done and branches. -/
inductive Res where
  | stall
  | fault (code detail : Nat) (report : Option (List Byte))
  | done (s : State)
  | jump (s : State) (target : Nat)

/-- The bits [hi:lo] of the instruction word. -/
def Ctx.f (i : Ctx) (hi lo : Nat) : Nat := bits i.w hi lo

/-- A scalar register: X0 reads as zero (R174). -/
def Ctx.x (i : Ctx) (r : Nat) : DWord := if r = 0 then 0 else i.c.x.getD r 0

/-- Writes a scalar register: X0 ignores it (R174). -/
def putX (s : State) (n r : Nat) (v : DWord) : State := if r = 0 then s else setCore s n fun c => { c with x := c.x.set r v }

/-- The scalar registers an instruction reads or writes; an instruction that touches the result register of an atomic in flight waits
for the response (R195, R203). -/
def scalarRegs (w : Nat) : List Nat :=
  let op := bits w 63 56
  if op = 0x05 then [bits w 38 35]
  else if op = 0x06 ∨ op = 0x09 ∨ op = 0x0B ∨ op = 0x0C then [bits w 55 52]
  else if op = 0x07 then [bits w 55 52, bits w 51 48, bits w 47 44]
  else if op = 0x08 then [bits w 55 52, bits w 51 48]
  else if 0x10 ≤ op ∧ op ≤ 0x13 then [bits w 17 14, bits w 13 10]
  else if 0x20 ≤ op ∧ op ≤ 0x26 then [bits w 55 52, bits w 51 48, bits w 47 44, bits w 43 40]
  else if 0x30 ≤ op ∧ op ≤ 0x54 then [bits w 15 12]
  else if 0x60 ≤ op ∧ op ≤ 0x66 then [bits w 28 25]
  else if op = 0x6C then [bits w 20 17]
  else if op = 0x70 ∨ op = 0x71 then [bits w 51 48, bits w 34 31, bits w 14 11]
  else if op = 0x72 then [bits w 51 48, bits w 14 11]
  else if op = 0x73 then [bits w 27 24, bits w 9 6]
  else if op = 0x74 then [bits w 55 52, bits w 51 48, bits w 47 44, bits w 43 40]
  else if op = 0x75 then [bits w 45 42]
  else if 0x78 ≤ op ∧ op ≤ 0x7F then [bits w 26 23]
  else if op = 0x82 then [bits w 55 52, bits w 38 35]
  else if 0x80 ≤ op ∧ op ≤ 0x83 then [bits w 38 35]
  else if 0x90 ≤ op ∧ op ≤ 0x92 then [bits w 35 32, bits w 31 28, bits w 13 10]
  else []

/-- Whether an atomic in flight will write one of these registers. -/
def awaitsAtom (c : Core) (rs : List Nat) : Bool :=
  c.moves.any fun m => m.kind = .atom && m.reg ≠ 0 && rs.contains m.reg

/-- The core stops (R204): it issues nothing more; `trapStop` completes the stop. -/
def stopCore (s : State) (n kind code index : Nat) (word : DWord) (detail : Nat) (report : Option (List Byte)) : State :=
  setCore s n fun c => { c with stop := some ⟨kind, code, index, word, BitVec.ofNat 64 detail, report, s.time⟩, wait := none }

/-- Moves a core on to instruction index `pc`, one more instruction issued. -/
def goto (s : State) (n pc : Nat) : State :=
  setCore s n fun c => { c with
    issued := c.issued + 1, retired := s.time,
    launch := c.launch.map fun l => { l with pc := pc } }

/-- What an instruction's outcome makes of the state. -/
def settle (i : Ctx) : Res → State
  | .stall => i.s
  | .fault code detail report => stopCore i.s i.n 0 code i.l.pc (BitVec.ofNat 64 i.w) detail report
  | .done s => goto s i.n (i.l.pc + 1)
  | .jump s t => goto s i.n t

/-- The launch of a core that may issue: it is lit, its clock runs, it neither waits nor has stopped nor ended. -/
def issuing (s : State) (n : Nat) : Option Launch :=
  let c := coreAt s n
  if c.enabled ∧ c.power = .lit ∧ c.clockOn ∧ c.stop.isNone ∧ c.wait.isNone ∧ c.ending.isNone then c.launch else none

/-- The depth of the queue that an instruction enters, and whether a move takes a place in it (R202): the move engine, the fabric interface, the
semaphore port. What the other units hold is done within one step. -/
def queueOf (op : Nat) : Option (Nat × (MoveKind → Bool)) :=
  if (0x70 ≤ op ∧ op ≤ 0x73) ∨ (0x90 ≤ op ∧ op ≤ 0x92) then
    some (32, fun k => match k with | .fetch | .store | .movem | .gfetch | .push | .pop => true | _ => false)
  else if op = 0x74 ∨ op = 0x75 then some (16, fun k => match k with | .atom | .msg => true | _ => false)
  else if op = 0xA0 then some (16, fun k => match k with | .signal => true | _ => false)
  else none

/-- Whether the queue of an instruction's unit is full: it waits at issue. -/
def queueFull (c : Core) (op : Nat) : Bool :=
  match queueOf op with
  | some (depth, mine) => depth ≤ (c.moves.filter fun m => mine m.kind).length
  | none => false

/-- Core `n` issues the instruction at its index when that is one of opcode `op` (log 5); past the last index the issue itself raises
ISA_ILLEGAL (R186). -/
def tileInstr (op : Nat) (body : Ctx → Res) (n : Nat) (s : State) : Out :=
  onUnit n 152 <|
    match issuing s n with
    | none => .next s
    | some l =>
      let c := coreAt s n
      if c.insns.length ≤ l.pc then .next (stopCore s n 0 fIllegal l.pc 0 0 none)
      else
        let w := (c.insns.getD l.pc 0).toNat
        if bits w 63 56 = op ∧ ¬ awaitsAtom c (scalarRegs w) ∧ ¬ queueFull c op then .next (settle ⟨n, c, l, w, s⟩ (body ⟨n, c, l, w, s⟩)) else .next s

/-! ### Shapes (R175) -/

/-- A shape register's fields. -/
def shapeOf (v : Nat) : Shape := ⟨bits v 3 0, bits v 4 4, bits v 5 5, bits v 7 6, bits v 15 8, bits v 23 16⟩

/-- The checks of R175. -/
def shapeOk (s : Shape) : Bool :=
  s.kind < 2 && 1 ≤ s.rows && 1 ≤ s.cols && s.rows ≤ edge s.kind && s.cols ≤ edge s.kind &&
  (s.block = 0 || isMx s.fmt) && (s.kind = 0 || (s.fmt = 0 && s.order = 0))

/-- The shape register `r`. -/
def Ctx.shape (i : Ctx) (r : Nat) : Shape := shapeOf (i.c.sh.getD r 0).toNat

/-- Checks a shape register at issue (R175): a bad one raises ISA_ILLEGAL with its number. -/
def Ctx.withShape (i : Ctx) (r : Nat) (k : Shape → Res) : Res :=
  if shapeOk (i.shape r) then k (i.shape r) else .fault fIllegal r none

/-- The shape of a register tile. -/
def regShape : Shape := ⟨0, 0, 0, 1, 32, 32⟩

/-! ### Where an address lies (R92) -/

/-- Whether a global address is this module's memory: space 00b, or space 01b with its own device number. -/
def isHere (s : State) (a : Nat) : Bool := space a = 0 || (space a = 1 && s.fab.device = some (device a))

/-- Whether a global address lies on another module. -/
def isAway (s : State) (a : Nat) : Bool := space a = 1 && !isHere s a

/-- The core whose tile-store window holds a global address (R92). -/
def windowCore (a : Nat) : Option Nat :=
  if space a = 2 && 0x40000000 ≤ offset a && offset a < 0x66000000 then some ((offset a - 0x40000000) / 0x400000) else none

/-! ### Slots (R176, R203) -/

/-- The effective slot: an unsigned 64-bit sum. -/
def Ctx.slot (i : Ctx) (slot xo : Nat) : Nat := (slot + (i.x xo).toNat) % 2 ^ 64

/-- Whether two ranges overlap. -/
def overlap (a n b m : Nat) : Bool := a < b + m && b < a + n && n ≠ 0 && m ≠ 0

/-- Whether a fetch, granule fetch or pop in flight holds any of these slots (R191, R203). -/
def slotsHeld (c : Core) (first n : Nat) : Bool := c.moves.any fun m => m.slots.any fun r => overlap r.1 r.2 first n

/-- Runs `k` on an operand of `n` slots: RANGE outside the tile store, a wait while a fetch holds a slot of it. -/
def Ctx.operand (i : Ctx) (first n : Nat) (k : Res) : Res :=
  if first + n > 6144 then .fault fRange (512 * first % 2 ^ 64) none
  else if slotsHeld i.c first n then .stall
  else k

/-! ### Slot records and tiles in slot memories (R97 to R102) -/

/-- The slot index of a control-space offset. -/
def slotAt (off : Nat) : Nat := off / 512

/-- Slot `k` of core `n`'s tile store among all slots. -/
def tileSlot (n k : Nat) : Nat := slotAt (tileBase n) + k

def recState (r : DWord) : Nat := bits r.toNat 63 62
def recDist (r : DWord) : Nat := bits r.toNat 6 0
def recSeal (r : DWord) : Word := r.setWidth 32
def recShape (r : DWord) : Shape := shapeOf (bits r.toNat 55 32)

/-- A shape register's 24 bits. -/
def shapeBits (s : Shape) : Nat :=
  s.fmt + 16 * s.order + 32 * s.block + 64 * s.kind + 256 * s.rows + 65536 * s.cols

/-- A head record and a continuation record. -/
def headRec (s : Shape) (crc : Word) : DWord := BitVec.ofNat 64 (2 ^ 62 + 2 ^ 32 * shapeBits s + crc.toNat)
def contRec (d : Nat) : DWord := BitVec.ofNat 64 (2 ^ 63 + d)

/-- The head slot of the sealed tile that slot `k` belongs to. -/
def headOf (r : Recs) (k : Nat) : Option Nat :=
  let v := rd r k
  if recState v = 1 then some k else if recState v = 2 then some (k - recDist v) else none

/-- Unseals the tile whose head is slot `h`. -/
def unsealTile (r : Recs) (h : Nat) : Recs :=
  let v := rd r h
  if recState v = 1 then writeRun r h (List.replicate (tileSlots (recShape v).fmt (recShape v).kind) 0) else r

/-- Unseals every tile that has a slot among these, and the slots themselves (R102, log 16). -/
def unsealTouch (r : Recs) (first n : Nat) : Recs :=
  let heads := (List.range n).filterMap fun i => headOf r (first + i)
  writeRun (heads.foldl unsealTile r) first (List.replicate n 0)

/-- The records of a sealed tile. -/
def tileRecs (s : Shape) (crc : Word) : List DWord :=
  headRec s crc :: (List.range (tileSlots s.fmt s.kind - 1)).map fun i => contRec (i + 1)

/-- Writes a sealed tile into a slot memory at a slot (R102). -/
def putTile (s : State) (slot : Nat) (sh : Shape) (bs : List Byte) (crc : Word) : State :=
  { s with
    ctl := writeRun s.ctl (512 * slot) bs
    recs := writeRun (unsealTouch s.recs slot (tileSlots sh.fmt sh.kind)) slot (tileRecs sh crc) }

/-- Unseals slots of a slot memory. -/
def unsealSlots (s : State) (slot n : Nat) : State := { s with recs := unsealTouch s.recs slot n }

/-- Writes bytes into a slot memory as a partial write: every tile touched loses its seal. -/
def putBytes (s : State) (off : Nat) (bs : List Byte) : State :=
  { s with
    ctl := writeRun s.ctl off bs
    recs := if bs.isEmpty then s.recs else unsealTouch s.recs (off / 512) ((off + bs.length - 1) / 512 + 1 - off / 512) }

/-- Reads the bytes of slots of a slot memory. -/
def getSlots (s : State) (slot n : Nat) : List Byte := readRun s.ctl (512 * slot) (512 * n)

/-- What is left of a run of bytes outside another. -/
def cutRun (r p : Nat × Nat) : List (Nat × Nat) :=
  let below := min p.2 (r.1 - p.1)
  let start := max p.1 (r.1 + r.2)
  [(p.1, below), (start, p.1 + p.2 - start)].filter fun x => x.2 ≠ 0

/-- Whether the ranges `own` cover a run of bytes. -/
def covers (own : List (Nat × Nat)) (a n : Nat) : Bool := (own.foldl (fun ps r => ps.flatMap (cutRun r)) [(a, n)]).all fun p => p.2 = 0

/-- Bytes of its tile store that a launch writes itself are no foreign input (R108). -/
def ownBytes (s : State) (n a k : Nat) : State :=
  setCore s n fun c => { c with launch := c.launch.map fun l => { l with own := (a, k) :: l.own } }

/-- The same for whole slots. -/
def ownSlots (s : State) (n first k : Nat) : State := ownBytes s n (512 * first) (512 * k)

/-- A core writes a sealed tile into its own tile store: the seal generator of the write port (R99). -/
def storeTile (s : State) (n slot : Nat) (sh : Shape) (bs : List Byte) : State :=
  ownSlots (putTile s (tileSlot n slot) sh bs (sealOf sh bs)) n slot (tileSlots sh.fmt sh.kind)

/-- A launch that reads bytes of its tile store which it has not written itself consumes an input that exists only there (R108). -/
def readBytes (s : State) (n a k : Nat) : State :=
  setCore s n fun c => { c with launch := c.launch.map fun l => { l with localIn := l.localIn || !covers l.own a k } }

/-- The same for whole slots. -/
def readSlots (s : State) (n first k : Nat) : State := readBytes s n (512 * first) (512 * k)

/-! ### Seal faults (R104) -/

/-- Identity of a checking unit. -/
def unitId (cls die inst : Nat) : Nat := cls * 2 ^ 56 + die * 2 ^ 52 + inst * 2 ^ 40

/-- The seal fault record. -/
def sealRecord (s : State) (addr unit : Nat) (expected computed : Word) (kind : Nat) (sh : Shape) : List Byte :=
  le 8 addr ++ le 8 unit ++ le 4 expected.toNat ++ le 4 computed.toNat ++ le 1 kind ++ (sealHeader sh).take 3 ++ le 4 (jobStep s)

/-- Compares a head record with what a consumer names (R101): 2 for an unsealed or continuation slot, 1 for other fields. -/
def recCheck (r : DWord) (sh : Shape) (extents : Bool) : Option Nat :=
  let t := recShape r
  if recState r ≠ 1 then some 2
  else if t.fmt = sh.fmt ∧ t.order = sh.order ∧ t.block = sh.block ∧ t.kind = sh.kind ∧ (extents → t.rows = sh.rows ∧ t.cols = sh.cols)
  then none else some 1

/-- The operand check of a core on the tile at a slot of its tile store (R101); a mismatch stops the core with fault SEAL. -/
def Ctx.check (i : Ctx) (slot : Nat) (sh : Shape) (extents : Bool) (k : Res) : Res :=
  match recCheck (rd i.s.recs (tileSlot i.n slot)) sh extents with
  | none => k
  | some kind =>
    let a := tileAddr i.n (512 * slot)
    .fault fSeal a (some (sealRecord i.s a (unitId 1 (dieOf i.n) i.n) (recSeal (rd i.s.recs (tileSlot i.n slot))) 0 kind sh))

/-- The bytes of the tile at a slot of the core's own tile store. -/
def Ctx.tile (i : Ctx) (slot : Nat) (sh : Shape) : Array Byte := (getSlots i.s (tileSlot i.n slot) (tileSlots sh.fmt sh.kind)).toArray

/-! ### Tile registers (R149, R151) -/

/-- Tile register `r`. -/
def Ctx.t (i : Ctx) (r : Nat) : Elems := i.c.t.getD r []

/-- Element `e` of a register. -/
def el (t : Elems) (e : Nat) : Word := t.getD e 0

/-- Whether element `e` is active under the instruction's mask (R151). -/
def Ctx.active (i : Ctx) (men mask : Nat) (e : Nat) : Bool := men = 0 || el (i.t mask) e ≠ 0

def putT (s : State) (n r : Nat) (t : Elems) : State := setCore s n fun c => { c with t := c.t.set r t }

/-- A register as a register tile's bytes, and back (R94). -/
def regBytes (t : Elems) : List Byte := (List.range 1024).flatMap fun e => le 4 (el t e).toNat
def bytesReg (bs : Array Byte) : Elems :=
  (List.range 1024).map fun e => BitVec.ofNat 32
    ((bs.getD (4 * e) 0).toNat + 256 * (bs.getD (4 * e + 1) 0).toNat + 65536 * (bs.getD (4 * e + 2) 0).toNat +
      16777216 * (bs.getD (4 * e + 3) 0).toNat)

/-- The address of a tile register in the records of R85 (R177). -/
def regAddr (r : Nat) : Nat := 0xFFFFFFFFFFFFFF00 + r

/-! ### Descriptors (R94 to R96) -/

structure Desc where
  legend  : Nat
  rows    : Nat
  cols    : Nat
  rowStep : Nat
  colStep : Nat
  sealOff : Nat
  base    : Nat
  deriving DecidableEq, Repr

/-- Reads a descriptor's 32 bytes. -/
def parseDesc (bs : List Byte) : Desc :=
  ⟨field bs 0 4, field bs 4 4, field bs 8 4, field bs 12 4, field bs 16 2, field bs 18 6, field bs 24 8⟩

def Desc.fmt (d : Desc) : Nat := bits d.legend 3 0
def Desc.kind (d : Desc) : Nat := bits d.legend 7 6
def Desc.edge (d : Desc) : Nat := Sys2Proof.Machine.edge d.kind
def Desc.own (d : Desc) : Nat := tileBytes d.fmt d.kind
/-- Tile rows and columns, the step from tile to tile (R95). -/
def Desc.tr (d : Desc) : Nat := (d.rows + d.edge - 1) / d.edge
def Desc.tc (d : Desc) : Nat := (d.cols + d.edge - 1) / d.edge
def Desc.ts (d : Desc) : Nat := if d.colStep = 0 then d.own else 512 * d.colStep
/-- Address of tile (i, j) and of its seal (R95). -/
def Desc.addr (d : Desc) (i j : Nat) : Nat := (d.base + i * 512 * d.rowStep + j * d.ts) % 2 ^ 64
def Desc.sealAddr (d : Desc) (i j : Nat) : Nat := d.base / 2 ^ 41 * 2 ^ 41 + d.sealOff + 4 * (i * d.tc + j)
/-- Shape of tile (i, j) (R95). -/
def Desc.shape (d : Desc) (i j : Nat) : Shape :=
  ⟨d.fmt, bits d.legend 4 4, bits d.legend 5 5, d.kind, min d.edge (d.rows - i * d.edge), min d.edge (d.cols - j * d.edge)⟩

/-- The checks of R96 that do not concern where tiles and seals lie. -/
def descOk (d : Desc) : Bool :=
  bits d.legend 31 28 = 0 && bits d.legend 27 24 = 1 && bits d.legend 23 8 = 0 && fmtOk d.fmt && d.kind < 2 &&
  (bits d.legend 5 5 = 0 || isMx d.fmt) && (d.kind = 0 || (d.fmt = 0 && bits d.legend 5 4 = 0)) &&
  d.rows ≠ 0 && d.cols ≠ 0 && space d.base ≠ 3 && d.base % 512 = 0 && d.own ≤ d.ts &&
  (d.tr ≤ 1 || d.tc * d.ts ≤ 512 * d.rowStep) &&
  d.sealOff < 2 ^ 41 && d.sealOff % 4 = 0 && (space d.base ≠ 2 || d.sealOff = 0)

/-- Whether every tile and, outside control space, the whole seal table pass a test of address and length (R96). -/
def descPlaced (d : Desc) (here : Nat → Nat → Bool) : Bool :=
  ((List.range d.tr).all fun i => (List.range d.tc).all fun j =>
      offset d.base + i * 512 * d.rowStep + j * d.ts + d.own ≤ 2 ^ 41 && here (d.addr i j) d.own) &&
  (space d.base = 2 || (d.sealOff + 4 * d.tr * d.tc ≤ 2 ^ 41 && here (d.sealAddr 0 0) (4 * d.tr * d.tc)))

end Sys2Proof.Machine
end

