-- ==== Sys2Proof/Machine/Memory.lean ====
section
/-! DEFINITION. Memory.lean: HBM and LPDDR as every requester reaches them (11_hbm.md, 12_memory_tiers.md): where bytes lie, poison and
failed channels, the page directory, writes through it. -/

namespace Sys2Proof.Machine

/-! ### Addresses (R244, R245, R260, R262) -/

/-- Entry j of a die's native service list, as a channel number within the die. -/
def nativeList : List Nat := (List.range 192).map fun j => 32 * (j % 6) + j / 6

/-- Bytes that one die's half of HBM holds in the map in force. -/
def halfBytes (s : State) (die : Nat) : Nat := (s.hbm.lists.getD die []).length * 0x60000000

/-- Start of C1's half. -/
def half1 : Nat := 0x4800000000

/-- Whether a range of local offsets exists: in HBM, whose halves meet where nothing of the first is mapped out, or in LPDDR. -/
def localExists (s : State) (a n : Nat) : Bool :=
  (a + n ≤ halfBytes s 0) || ((half1 ≤ a || halfBytes s 0 = half1) && a + n ≤ half1 + halfBytes s 1) || (lpddrBase ≤ a && a + n ≤ lpddrBase + lpddrBytes)

/-- Where an HBM offset lies: module channel, pseudo-channel, bank, row (R245). -/
def hbmDecode (s : State) (a : Nat) : Nat × Nat × Nat × Nat :=
  let die := if a < half1 then 0 else 1
  let o := a - die * half1
  let l := s.hbm.lists.getD die []
  let line := o / 1024 / l.length
  (192 * die + nth l (o / 1024 % l.length), bits o 9 9, ((line / 4) ^^^ (line / 256)) % 64, line / 256)

/-- The byte of a 2 KiB row at which an HBM offset lies (R245). -/
def hbmCol (s : State) (a : Nat) : Nat :=
  let o := if a < half1 then a else a - half1
  o / 1024 / (s.hbm.lists.getD (if a < half1 then 0 else 1) []).length % 4 * 512 + o % 512

/-- Where an LPDDR offset lies: module channel (package × 4 + channel), bank, row (R262). -/
def lpddrDecode (a : Nat) : Nat × Nat × Nat :=
  let o := a - lpddrBase
  let half := o / 2 ^ 39
  let chunk := o % 2 ^ 39 / 2048
  let line := chunk / 32
  (4 * (8 * half + chunk % 8) + chunk / 8 % 4, (line ^^^ (line / 16)) % 16, line / 16)

/-- The byte of a 2 KiB row at which an LPDDR offset lies (R262). -/
def lpddrCol (a : Nat) : Nat := (a - lpddrBase) % 2048

/-- The stack of a module channel. -/
def stackOf (ch : Nat) : Nat := ch / 32

/-! ### Reserved ranges (R264, R265, R267) -/

/-- Firmware-reserved ranges of LPDDR and HBM (R264, R265, R312). -/
def fixedRanges : List (Nat × Nat) :=
  [(0, 0x800000), (half1, 0x800000), (0x10000000000, 0x1000000), (0x10001000000, 0x20000000), (0x18000000000, 0x20000000),
   (0x16800000000, 0x1800000000), (0x1E800000000, 0x1800000000), (0x800000, 0x100000)]

/-- All reserved ranges: the fixed ones and the frame pool while it is granted. -/
def reservedRanges (s : State) : List (Nat × Nat) := fixedRanges ++ s.tier.pool

def touches (rs : List (Nat × Nat)) (a n : Nat) : Bool := rs.any fun r => overlap r.1 r.2 a n

/-- Whether a range exists and touches nothing reserved. -/
def freeRange (s : State) (a n : Nat) : Bool := localExists s a n && !touches (reservedRanges s) a n

/-! ### Pages (R266 to R270) -/

/-- Bytes of a page and of a granule. -/
def pageBytes : Nat := 0x200000
def pageNo (a : Nat) : Nat := (a - lpddrBase) / pageBytes

def findPage (s : State) (p : Nat) : Option Page := s.tier.pages.find? fun x => x.num = p

def setPage (s : State) (p : Nat) (f : Page → Page) : State :=
  { s with tier := { s.tier with pages := s.tier.pages.map fun x => if x.num = p then f x else x } }

/-- The address of frame `f` (R268). -/
def frameAddr (s : State) (f : Nat) : Nat :=
  let rec go : List (Nat × Nat) → Nat → Nat
    | [], _ => 0
    | (b, n) :: rs, f => if f < n / pageBytes then b + f * pageBytes else go rs (f - n / pageBytes)
  go s.tier.pool f

/-- Where the byte at a local offset lies now (R266). -/
def physOf (s : State) (a : Nat) : Nat :=
  if a < lpddrBase then a
  else
    match findPage s (pageNo a) with
    | some p => if p.high then frameAddr s p.frame + a % pageBytes else a
    | none => a

/-- A range cut at page boundaries: where each piece lies and how long it is. -/
def pieces (s : State) (a n : Nat) : List (Nat × Nat) :=
  if n = 0 then []
  else if s.tier.pages.isEmpty || a < lpddrBase then [(a, n)]
  else
    (List.range ((a + n - 1) / pageBytes - a / pageBytes + 1)).map fun k =>
      let start := max a ((a / pageBytes + k) * pageBytes)
      let stop := min (a + n) ((a / pageBytes + k + 1) * pageBytes)
      (physOf s start, stop - start)

/-- The bytes of a range of local offsets. -/
def readLocal (s : State) (a n : Nat) : List Byte := (pieces s a n).flatMap fun p => readRun s.dram p.1 p.2

/-! ### Uncorrectable reads (R248 to R250, R255, R290) -/

/-- Whether the channel of a physical byte has failed. -/
def deadAt (s : State) (a : Nat) : Bool :=
  if a < lpddrBase then s.hbm.failed.contains (hbmDecode s a).1 else s.lpddr.failed.contains (lpddrDecode a).1

/-- The 64-byte granules that a run of bytes touches. -/
def granules (a n : Nat) : List Nat := if n = 0 then [] else (List.range ((a + n - 1) / 64 - a / 64 + 1)).map fun k => 64 * (a / 64 + k)

/-- Whether a read of a physical granule answers with an uncorrectable memory error: it is poisoned or its channel has failed. -/
def granuleBad (s : State) (g : Nat) : Bool := s.poison.contains g || deadAt s g

/-- The first granule of a range whose read answers with an uncorrectable memory error. -/
def badGranule (s : State) (a n : Nat) : Option Nat :=
  if s.poison.isEmpty && s.hbm.failed.isEmpty && s.lpddr.failed.isEmpty then none
  else (pieces s a n).findSome? fun p => (granules p.1 p.2).find? (granuleBad s)

/-- All granules of a range whose reads answer so. -/
def badGranules (s : State) (a n : Nat) : List Nat :=
  if s.poison.isEmpty && s.hbm.failed.isEmpty && s.lpddr.failed.isEmpty then []
  else (pieces s a n).flatMap fun p => (granules p.1 p.2).filter (granuleBad s)

/-- The identity of the memory unit of a granule (R250, R290). -/
def memUnit (s : State) (g : Nat) : Nat :=
  if g < lpddrBase then let st := stackOf (hbmDecode s g).1; unitId 5 (if st < 6 then 0 else 1) st
  else unitId 6 2 ((lpddrDecode g).1 / 4)

/-- An HBM error record (the table under R251). -/
def hbmRecord (s : State) (kind ch lane row bank off : Nat) : List Byte :=
  le 1 kind ++ le 1 (stackOf ch) ++ le 1 (ch % 32) ++ le 1 lane ++ le 2 row ++ le 1 bank ++ [0] ++ le 8 off ++ le 8 s.time

/-- The time of an uncorrectable read of KIND 2, which Lantern counts (R406). -/
def markUnc (s : State) : State := { s with tel := { s.tel with errTimes := s.tel.errTimes ++ [s.time] } }

/-- LANE of a record that concerns no lane (R251). -/
def noLane : Nat := 0x3F

/-- The record of an access to the granule at an HBM offset, logged and counted. -/
def hbmAccess (s : State) (kind g lane : Nat) : State :=
  let (ch, pc, bank, row) := hbmDecode s g
  let key := 128 * ch + 64 * pc + lane
  let limited := kind = 0 || kind = 9
  let logged := logError s 0 (hbmRecord s kind ch (128 * pc + lane) row bank g)
  let s := if !limited then logged else if rateOk s key then rateMark logged key else s
  match kind with
  | 0 | 9 => countUp s cHbmCorr 1
  | 2 => markUnc (countUp s cHbmUnc 1)
  | 10 => countUp s cHbmUnc 1
  | 3 => countUp s cHbmPoison 1
  | _ => s

/-- An LPDDR error record (the table under R290). -/
def lpddrRecord (s : State) (kind ch lane row bank off : Nat) : List Byte :=
  le 1 kind ++ le 1 (ch / 4) ++ le 1 (ch % 4) ++ le 1 lane ++ le 4 row ++ le 1 bank ++ zeros 7 ++ le 8 off ++ le 8 s.time

/-- The record of an access to the granule at an LPDDR offset, logged and counted; `lane` is 0xFF for none. -/
def lpddrAccess (s : State) (kind g lane : Nat) : State :=
  let (ch, bank, row) := lpddrDecode g
  let key := 1000000 + 16 * ch + lane
  let logged := logError s 1 (lpddrRecord s kind ch lane row bank g)
  let s := if kind ≠ 0 then logged else if rateOk s key then rateMark logged key else s
  match kind with
  | 0 => countUp s cLpCorr 1
  | 2 => markUnc (countUp s cLpUnc 1)
  | _ => s

/-- The record of an uncorrectable read of a granule: of a poisoned one, or of one whose channel has failed (R249, R255, R290). -/
def uncorrectable (s : State) (g : Nat) : State :=
  if g < lpddrBase then hbmAccess s (if s.poison.contains g then 3 else 2) g noLane else lpddrAccess s 2 g 0xFF

/-- The records of every uncorrectable granule that the read of a range meets (R249, R250). -/
def uncorrectables (s : State) (a n : Nat) : State := (badGranules s a n).foldl uncorrectable s

/-- A granule whose second read was uncorrectable too: in HBM it is poisoned (R248). -/
def spoilGranule (s : State) (g : Nat) : State :=
  if g < lpddrBase then hbmAccess { s with poison := g :: s.poison } 2 g noLane else lpddrAccess s 2 g 0xFF

/-! ### Writes (R249, R270, R271) -/

/-- The granules of a run that it covers whole are no longer poisoned. -/
def clearPoison (s : State) (a n : Nat) : State :=
  if s.poison.isEmpty then s else { s with poison := s.poison.filter fun g => !(a ≤ g && g + 64 ≤ a + n) || deadAt s g }

/-- The poisoned granules that a run covers in part: their write is a read-modify-write, whose read is a poison read (R249). -/
def partPoisoned (s : State) (a n : Nat) : List Nat :=
  if s.poison.isEmpty then []
  else s.poison.filter fun g => overlap g 64 a n && !(a ≤ g && g + 64 ≤ a + n) && !deadAt s g

/-- A run of physical bytes; a failed channel takes none of its own (R255), and a poisoned granule that it covers in part stays poisoned. -/
def writePhys (s : State) (a : Nat) (bs : List Byte) : State :=
  let dram :=
    if s.hbm.failed.isEmpty && s.lpddr.failed.isEmpty then writeRun s.dram a bs
    else writeMasked s.dram a bs fun i => !deadAt s (a + i)
  clearPoison { (partPoisoned s a bs.length).foldl uncorrectable s with dram } a bs.length

/-- Dirty bits of the 64 KiB granules that a range of one page touches. -/
def granuleBits (a n : Nat) : Word :=
  (List.range 32).foldl (fun w g =>
    if overlap (65536 * g) 65536 (a % pageBytes) n then w ||| (1#32 <<< g) else w) 0

/-- LAST_USE is kept to the millisecond (the directory table). -/
def touchTime (s : State) (p : Page) : Nat := if p.lastUse + 1000000 ≤ s.time then s.time else p.lastUse

/-- What a write of a range makes of a page's entry. -/
def Page.written (p : Page) (s : State) (a n : Nat) : Page :=
  let b := lpddrBase + p.num * pageBytes
  let first := max a b
  let moving := p.move.any fun m => m.promote && m.started
  if !overlap b pageBytes a n then p
  else { p with
    lastUse := touchTime s p
    dirty := if p.high || moving then p.dirty ||| granuleBits first (min (a + n) (b + pageBytes) - first) else p.dirty }

def mapPages (s : State) (f : Page → Page) : State := { s with tier := { s.tier with pages := s.tier.pages.map f } }

/-- A write through the directory marks what it touches in a page at level H or in a promotion (R270, R271). -/
def markDirty (s : State) (a n : Nat) : State :=
  if s.tier.pages.isEmpty || a < lpddrBase then s else mapPages s fun p => p.written s a n

/-- Writes bytes at a local offset, through the directory. -/
def writeLocal (s : State) (a : Nat) (bs : List Byte) : State :=
  ((pieces s a bs.length).foldl (fun (t : State × List Byte) p => (writePhys t.1 p.1 (t.2.take p.2), t.2.drop p.2))
    (markDirty s a bs.length, bs)).1

/-- Writes free values over a range of local offsets. -/
def havocLocal (s : State) (a n : Nat) : State := bump (writeLocal s a (freeBytes s n)) n

/-- What a read of a range makes of a page's entry: a page at level L of an ON_USE region asks for its promotion (R285). -/
def Page.readBy (p : Page) (s : State) (a n : Nat) : Page :=
  let r := s.tier.regions.find? fun r => r.num = p.region
  let use := !p.high && p.move.isNone && r.any fun r => bit r.flags 1 && r.deleting.isEmpty
  if !overlap (lpddrBase + p.num * pageBytes) pageBytes a n then p
  else { p with
    lastUse := touchTime s p
    move := if use then some ⟨true, false, 3, [], none, [], 0, none, some ((r.elim 0 (·.pin)) * 1000)⟩ else p.move }

def touchRead (s : State) (a n : Nat) : State :=
  if s.tier.pages.isEmpty || a < lpddrBase then s else mapPages s fun p => p.readBy s a n

/-- Adds to a count of R289, and to the one of the open step record that follows it (R456). -/
def tierCount (s : State) (i n : Nat) : State :=
  let s := { s with tier := { s.tier with counts := s.tier.counts.modify i (· + n) } }
  match i with
  | 0 => stepCountBy s 4 n
  | 1 => stepCountBy s 5 n
  | 2 => stepCountBy s 6 n
  | 3 => stepCountBy s 7 n
  | 4 => stepCountBy s 8 n
  | 6 => stepCountBy s 9 (n / 65536)
  | _ => s

/-! ### Channels under survey (R253, R258) -/

/-- Whether a range of local offsets has a byte on a channel that a survey window holds: its request is queued and served after the window. -/
def heldRange (s : State) (a n : Nat) : Bool :=
  !s.hbm.held.isEmpty && n ≠ 0 && (pieces s a n).any fun p => p.1 < lpddrBase &&
    (List.range (min 384 ((p.1 + p.2 - 1) / 1024 - p.1 / 1024 + 1))).any fun k =>
      s.hbm.held.any fun h => h.ch = (hbmDecode s (1024 * (p.1 / 1024 + k))).1

/-! ### Admission of class D requests (R279) -/

/-- Whether a local offset lies in LPDDR half `half` and its bytes come from there now. -/
def fromHalf (s : State) (half a : Nat) : Bool := lpddrBase ≤ physOf s a && (a - lpddrBase) / 2 ^ 39 = half

/-- The frame that a POP in flight is to take. -/
def popFrame (s : State) (c : Core) (m : Move) : Option Frame :=
  (s.stackSet[m.stack]?).bind fun st => st.frames.find? fun f => f.tag = m.ftag && some f.step = c.launch.map fun l => l.step % 65536

/-- Bytes that a move reads from LPDDR half `half`, as a class P request (a parameter gather) or as a class D one due by `t` (R276). -/
def moveBytes (s : State) (half t : Nat) (c : Core) (m : Move) : Nat :=
  let due := m.deadline.any (· ≤ t)
  let n := m.shape.elim 0 fun sh => tileBytes sh.fmt sh.kind
  match m.kind with
  | .fetch | .movem => if (due || m.rclass = 2) && space m.src ≠ 2 && isHere s m.src && fromHalf s half (offset m.src) then n else 0
  | .pop => if due && (popFrame s c m).any (fun f => (f.loc = .spilled || f.loc = .returning) && fromHalf s half f.addr) then n else 0
  | _ => 0

/-- Bytes of a page move due by `t`, those that it still has to copy. -/
def promotionBytes (half t : Nat) (p : Page) : Nat :=
  match p.move with
  | some m =>
    if m.promote && p.num / 262144 = half && m.ops.any (fun o => o.deadline.any (· ≤ t)) then
      65536 * (if m.started then m.left.length else 32) else 0
  | none => 0

/-- Bytes of the frames that return from a half for requests due by `t` (R216). -/
def returnBytes (s : State) (half t : Nat) (st : Stack) : Nat :=
  let due (f : Frame) : Bool := st.reqs.any fun r =>
    r.deadline.any (· ≤ t) && bits f.tag.toNat 61 59 = r.vstage && bits f.tag.toNat 55 40 = r.mb && r.layer ≤ bits f.tag.toNat 39 24 &&
      bits f.tag.toNat 39 24 < r.layer + r.layers
  st.frames.foldl (fun n f => if f.loc = .returning && fromHalf s half f.addr && due f then n + 512 * f.size else n) 0

/-- Bytes queued on one LPDDR half at or before deadline `t`: class P requests and class D requests due by then. -/
def deadlineBytes (s : State) (half t : Nat) : Nat :=
  s.tier.pages.foldl (fun n p => n + promotionBytes half t p) 0 + s.stackSet.foldl (fun n st => n + returnBytes s half t st) 0 +
    s.cores.foldl (fun n c => c.moves.foldl (fun n m => n + moveBytes s half t c m) n) 0

/-- Whether a class D request for `n` bytes from LPDDR at `a` is admitted: the bytes queued before it and its own fit at 518.4 bytes
per nanosecond until its deadline. -/
def admitted (s : State) (a n deadline : Nat) : Bool :=
  physOf s a < lpddrBase || 10 * (deadlineBytes s ((a - lpddrBase) / 2 ^ 39) deadline + n) ≤ 5184 * (deadline - s.time)

end Sys2Proof.Machine
end

