-- ==== Sys2Proof/Machine/Near.lean ====
section
/-! DEFINITION. Near.lean: packets, and near ports as links: flits, credits, virtual channels, survey windows (13_ewete_fabric.md, R295 to
R304, R323). -/

namespace Sys2Proof

/-! ### Packet fields (R303, R304) -/

def Packet.target (p : Packet) : Nat := Machine.bits p.dst.toNat 20 0
def Packet.sender (p : Packet) : Nat := Machine.bits p.src.toNat 20 0
def Packet.domain (p : Packet) : Nat := Machine.bits p.src.toNat 22 21
def Packet.label (p : Packet) : Nat := Machine.bits p.tag.toNat 19 0
def Packet.addr (p : Packet) : Nat := Machine.bits p.address.toNat 40 0
def Packet.status (p : Packet) : Nat := Machine.bits p.spec2.toNat 15 0
def Packet.total (p : Packet) : Nat := p.spec3.toNat
def Packet.priv (p : Packet) : Bool := p.flags.getLsbD 0
def Packet.sealed (p : Packet) : Bool := p.flags.getLsbD 1
def Packet.resend (p : Packet) : Bool := p.flags.getLsbD 2

end Sys2Proof

namespace Sys2Proof.Machine

/-! ### Packet types, virtual channels, header checks -/

def tRdReq : Byte := 0x01
def tRdData : Byte := 0x02
def tWr : Byte := 0x03
def tWrAck : Byte := 0x04
def tAtReq : Byte := 0x05
def tAtResp : Byte := 0x06
def tMsg : Byte := 0x07
def tMsgAck : Byte := 0x08
def tErr : Byte := 0x09

/-- Statuses of responses (R305). -/
def rOk : Nat := 0
def rResend : Nat := 1
def rSeal : Nat := 2
def rAccess : Nat := 3
def rRange : Nat := 4
def rMemory : Nat := 5
def rFull : Nat := 6
def rBusy : Nat := 7
def rUnreachable : Nat := 8
def rMalformed : Nat := 9
def rNoDevice : Nat := 10

def isRequest (t : Byte) : Bool := t = tRdReq || t = tWr || t = tAtReq || t = tMsg
def isResponse (t : Byte) : Bool := t = tRdData || t = tWrAck || t = tAtResp || t = tMsgAck || t = tErr
/-- The collective and ring types (R340). -/
def isColl (t : Byte) : Bool := (0x20 ≤ t.toNat && t.toNat ≤ 0x24) || (0x30 ≤ t.toNat && t.toNat ≤ 0x33)

/-- The virtual channel of a type (R299). -/
def vcOf (t : Byte) : Nat := if isRequest t then 0 else if isResponse t then 1 else 2

/-- Whether the SPEC bytes, TAG, ADDRESS and CHANNEL that the type of a packet does not name are zero (R304, R340). -/
def specOk (p : Packet) : Bool :=
  let seals := p.type = tRdData || p.type = tWr
  let addressed := p.type = tRdReq || p.type = tWr
  if isColl p.type then
    p.tag = 0 && bits p.addr 40 32 = 0 && bits p.channel.toNat 14 12 = 0 && (!p.channel.getLsbD 15 || bits p.channel.toNat 11 3 = 0) &&
      (p.type = 0x20 || p.type = 0x30 || p.type = 0x32 || p.spec1 = 0)
  else
    p.channel = 0 && p.attempt = 0 && (p.spec1 = 0 || (seals && p.sealed)) &&
      (p.spec0 = 0 || (seals && p.sealed) || (p.type = tAtReq && p.spec0.toNat < 16)) &&
      (if isResponse p.type then p.spec2.toNat < 2 ^ 16 else p.spec2 = 0 || (addressed && p.sealed && p.spec2.toNat < 2 ^ 41))

/-- The header checks of R304 but for HCRC. -/
def packetOk (p : Packet) : Bool :=
  let n := p.payload.length
  (isRequest p.type || isResponse p.type || isColl p.type) && bits p.flags.toNat 7 3 = 0 && bits p.dst.toNat 31 21 = 0 &&
    bits p.src.toNat 31 23 = 0 && p.domain ≠ 3 && bits p.tag.toNat 31 20 = 0 && bits p.address.toNat 63 41 = 0 && n % 8 = 0 && n ≤ 4096 &&
    specOk p

def fabCount (s : State) (i n : Nat) : State := { s with fab := { s.fab with counts := s.fab.counts.modify i (· + n) } }

/-- Fields of a device number (00_scope.md). -/
def siteOf (d : Nat) : Nat := bits d 20 16
def groupOf (d : Nat) : Nat := bits d 15 8
def cellOf (d : Nat) : Nat := bits d 7 4
def slotNoOf (d : Nat) : Nat := bits d 3 0

/-- Whether the topology marks a device as a T7 (R302). -/
def isT7 (s : State) (d : Nat) : Bool := s.fab.topo.any fun t => t.t7.contains d

/-! ### Near ports -/

def nearAt (s : State) (n : Nat) : Near := s.fab.near.getD n Near.reset
def setNear (s : State) (n : Nat) (f : Near → Near) : State := { s with fab := { s.fab with near := s.fab.near.modify n f } }

/-! ### Flits (R298) -/

/-- A packet as it lies on a link (R303); HCRC is computed with HOPS taken as 0. -/
def packetBytes (p : Packet) : List Byte :=
  let h := le 1 p.type.toNat ++ le 1 p.flags.toNat ++ le 1 p.hops.toNat ++ le 1 p.index.toNat ++ le 4 p.dst.toNat ++ le 4 p.src.toNat ++
    le 4 p.tag.toNat ++ le 8 p.address.toNat ++ le 4 p.spec0.toNat ++ le 3 p.spec1.toNat ++ le 1 p.attempt.toNat ++ le 6 p.spec2.toNat ++
    le 2 p.spec3.toNat ++ le 2 p.payload.length ++ le 2 p.channel.toNat
  h ++ le 4 (crc32c (h.take 2 ++ [0] ++ h.drop 3)).toNat ++ p.payload

/-- A packet out of the bytes of a link: its 48-byte header and its payload. -/
def parsePacket (port : Nat) (b : List Byte) : Packet :=
  { port, type := BitVec.ofNat 8 (field b 0 1), flags := BitVec.ofNat 8 (field b 1 1), hops := BitVec.ofNat 8 (field b 2 1),
    index := BitVec.ofNat 8 (field b 3 1), dst := BitVec.ofNat 32 (field b 4 4), src := BitVec.ofNat 32 (field b 8 4),
    tag := BitVec.ofNat 32 (field b 0xC 4), address := BitVec.ofNat 64 (field b 0x10 8), spec0 := BitVec.ofNat 32 (field b 0x18 4),
    spec1 := BitVec.ofNat 24 (field b 0x1C 3), attempt := BitVec.ofNat 8 (field b 0x1F 1), spec2 := BitVec.ofNat 48 (field b 0x20 6),
    spec3 := BitVec.ofNat 16 (field b 0x26 2), channel := BitVec.ofNat 16 (field b 0x2A 2), payload := (b.drop 48).take (field b 0x28 2) }

/-- HCRC: over bytes 0x00 to 0x2B with HOPS taken as 0. -/
def hcrcOk (b : List Byte) : Bool := field b 0x2C 4 = (crc32c (b.take 2 ++ [0] ++ sub b 3 0x29)).toNat

/-- Credits and flits that a packet takes (R298, R299). -/
def packetUnits (p : Packet) : Nat := (48 + p.payload.length + 63) / 64
def packetFlits (p : Packet) : Nat := (48 + p.payload.length + 503) / 504

/-- Whether the link layer of a port runs. -/
def linked (s : State) (n : Nat) : Bool := (nearAt s n).state = .exchange || (nearAt s n).state = .up || (nearAt s n).state = .held

/-- Sends one flit: up to 504 packet bytes, the credits returned to a virtual channel in 64-byte units, whether it is a NAK. It is kept for a
replay until it is confirmed. -/
def sendFlit (s : State) (n : Nat) (bs : List Byte) (vc units : Nat) (nak : Bool) : State :=
  if !linked s n then s
  else
    let x := nearAt s n
    let h := x.txNext + 2 ^ 10 * x.rxGood + 2 ^ 20 * b2n nak + 2 ^ 21 * vc + 2 ^ 24 * units
    let f := withCrc (le 4 h ++ bs ++ zeros (504 - bs.length))
    let s := { s with fab := { s.fab with flits := s.fab.flits ++ [(n, f)] } }
    setNear s n fun x => { x with txNext := (x.txNext + 1) % 1024, replay := x.replay ++ [(x.txNext, f)], nak := x.nak || nak }

/-- The room that a packet took in the ingress buffer of a near port goes back to the peer (R299). -/
def roomBack (s : State) (p : Packet) : State := if p.port < 36 then sendFlit s p.port [] (vcOf p.type) (packetUnits p) false else s

/-! ### Egress (R299, R306, R323) -/

def flowKey (p : Packet) : FlowKey := ⟨p.src, p.tag, p.dst, p.type, p.channel, if isColl p.type then p.address else 0⟩

/-- Flits of the replay buffer of a port: 64 KiB. -/
def replayFlits : Nat := 128

/-- Whether a packet came from another module. -/
def passing (p : Packet) : Bool := p.port ≠ 255

/-- Whether a port may send a packet now: it holds the credits, and its replay buffer the flits. -/
def mayLeave (s : State) (n : Nat) (p : Packet) : Bool :=
  let x := nearAt s n
  packetUnits p ≤ nth x.credits (vcOf p.type) && x.replay.length + packetFlits p ≤ replayFlits

/-- The packet of a virtual channel whose turn it is at a port: the oldest of those of this module and of those it passes on, in
alternation. -/
def vcHead (s : State) (n vc : Nat) : Option (Nat × Nat × Packet) :=
  let first (b : Bool) := s.fab.egress.find? fun e => e.1 = n && vcOf e.2.2.type = vc && passing e.2.2 = b
  let last := (nearAt s n).lastFwd.getD vc true
  (first (!last)).or (first last)

/-- The packet that leaves a port next: VC1 before VC0 and VC2, which alternate. -/
def nextOut (s : State) (n : Nat) : Option (Nat × Nat × Packet) :=
  let can (vc : Nat) := (vcHead s n vc).filter fun e => mayLeave s n e.2.2
  (can 1).or (if (nearAt s n).lastVc = 0 then (can 2).or (can 0) else (can 0).or (can 2))

/-- Remembers when a request packet of this module's own transaction left (R316). -/
def noteLeft (s : State) (p : Packet) : State :=
  if vcOf p.type = 0 && !passing p then
    { s with fab := { s.fab with txs := s.fab.txs.map fun t =>
        if t.wait = .response && t.domain = p.domain && t.label = p.label then { t with last := some s.time } else t } }
  else s

/-- Puts a packet on the link of a port: its credits are taken, and its flits go out. -/
def putOut (s : State) (n : Nat) (p : Packet) : State :=
  let vc := vcOf p.type
  let s := setNear s n fun x => { x with
    credits := x.credits.modify vc (· - packetUnits p), lastVc := if vc = 1 then x.lastVc else vc, lastFwd := x.lastFwd.set vc (passing p) }
  let bs := packetBytes p
  let s := (List.range (packetFlits p)).foldl (fun s i => sendFlit s n ((bs.drop (504 * i)).take 504) 0 0 false) s
  roomBack (noteLeft { s with fab := { s.fab with sent := s.fab.sent ++ [(n, p)] } } p) p

/-- One packet leaves a port, if one may. -/
def drainOne (s : State) (n : Nat) : State :=
  match nextOut s n with
  | some e => putOut { s with fab := { s.fab with egress := s.fab.egress.erase e } } n e.2.2
  | none => s

/-- Sends what waits at a port that is UP, as far as its credits go. -/
def drainEgress (s : State) (n : Nat) : State :=
  if (nearAt s n).state = .up then (s.fab.egress.filter fun e => e.1 = n).foldl (fun s _ => drainOne s n) s else s

/-- A packet joins those that wait at port `n`, and leaves when it may. -/
def nearSend (s : State) (n : Nat) (p : Packet) : State :=
  drainEgress { s with fab := { s.fab with egress := s.fab.egress ++ [(n, s.time, p)] } } n

/-- Takes the packets that `gone` names out of what waits at the near ports (R316). -/
def nearStrip (s : State) (gone : Packet → Bool) : State :=
  { s with fab := { s.fab with egress := s.fab.egress.filter fun e => !gone e.2.2 } }

/-! ### What a version 1 link carries (R301) -/

/-- The KIND of the member list of an operation that is defined here. -/
def listKind (s : State) (h : Nat) : Option Nat :=
  (s.coll.defs.find? fun d => d.handle = h).bind fun d => (s.fab.topo.bind fun t => t.lists.find? fun l => l.num = field d.desc 4 2).map (·.kind)

/-- Whether a collective packet may be one of a data-parallel operation. That of an operation of this module says so by the KIND of its list; of
a packet in transit, or of one for an operation that is not defined here, nothing here tells, and it passes (log 129). -/
def mayBeParallel (s : State) (p : Packet) : Bool :=
  let mine := some p.sender = s.fab.device || some p.target = s.fab.device
  p.type.toNat < 0x30 && (!mine || (listKind s (bits p.channel.toNat 11 0)).all (· = 0))

/-- What a version 1 link carries (the table under R301): data-parallel collectives, short payloads, tags of its own, no seals. -/
def v1Ok (s : State) (p : Packet) : Bool :=
  p.payload.length ≤ 2048 && bits p.flags.toNat 1 0 = 0 &&
    (if isColl p.type then mayBeParallel s p
    else 0xF000 ≤ p.label && p.label < 0x10000 &&
      (!(p.type = tWr || p.type = tRdReq || p.type = tRdData) || (p.spec0 = 0 && p.spec1 = 0 && (p.type = tRdData || p.spec2 = 0))))

/-- Whether a packet is not for the link of port `n`. -/
def barred (s : State) (n : Nat) (p : Packet) : Bool := n < 36 && (nearAt s n).version = 1 && !v1Ok s p

/-! ### Ports without a link, failed ports (R295, R296) -/

/-- A port without a link: what its link layer held is gone, and the packets that waited at it are dropped. -/
def linkDown (s : State) (n : Nat) (st : PortState) : State :=
  let lost := s.fab.egress.filter fun e => e.1 = n
  let s := fabCount { s with fab := { s.fab with egress := s.fab.egress.filter fun e => e.1 ≠ n } } 2 lost.length
  let s := setNear s n fun x => { Near.reset with state := st, hostDown := x.hostDown, since := s.time }
  lost.foldl (fun s e => roomBack s e.2.2) s

/-- Port and lane in a field-book entry. -/
def portData (port lane : Nat) : DWord := BitVec.ofNat 64 (port + 256 * lane)

/-- A port goes FAILED (R296, R297): reported, and written to the field book. -/
def failPort (s : State) (n lane : Nat) : State :=
  event (fbState (fbEntry (linkDown s n .failed) 9 (portData n lane))) 16 n

/-! ### Survey windows (R297) -/

/-- How long a window lasts, in ns, by its kind. -/
def nearNs (kind : Nat) : Nat := if kind = 0 then 30000 else 150000

/-- The other port of the pair. -/
def otherPort (n : Nat) : Nat := if n % 2 = 0 then n + 1 else n - 1

/-- Whether a packet that waits at a port belongs to a transaction whose first packet has left. -/
def begun (s : State) (n : Nat) (p : Packet) : Bool :=
  p.index ≠ 0 && !s.fab.egress.any fun e => e.1 = n && e.2.2.index = 0 && flowKey e.2.2 = flowKey p

/-- Whether a port has finished sending every transaction it has started. -/
def drained (s : State) (n : Nat) : Bool := s.fab.egress.all fun e => e.1 ≠ n || !begun s n e.2.2

/-- What waits at a port takes the other port of the pair, if that is UP. -/
def steer (s : State) (n : Nat) : State :=
  let m := otherPort n
  if (nearAt s m).state ≠ .up then s
  else
    let other (k : Nat) : Nat := if k = n then m else k
    drainEgress { s with fab := { s.fab with
      egress := s.fab.egress.map fun e => (other e.1, e.2)
      flows := s.fab.flows.map fun f => (f.1, other f.2) } } m

/-- The lane that a window has swapped: its spare is in service for the life of the module (R294). -/
def swapped (s : State) (n : Nat) (out : Bool) (lane : Nat) : State :=
  fbState (fbEntry { s with fab := { s.fab with spares := s.fab.spares ++ [(n / 2, out, 4 * (n % 2) + lane)] } } 8 (portData n lane))

/-- The window of a port has lasted its time: the port serves again, or it has not found lock and fails. -/
def closeNear (s : State) (n : Nat) : State :=
  match (nearAt s n).window with
  | none => s
  | some w =>
    let s := advance s (w.start + nearNs w.kind)
    if w.kind = 2 && !w.good then failPort s n 0
    else
      let s := setNear s n fun x => { x with
        state := .up, window := none, since := s.time, tuned := if w.kind = 1 then x.tuned else s.time }
      drainEgress (if w.kind = 1 then swapped s n w.out w.lane else s) n

/-- A window opens at a port that is UP, no sooner than 10 ms after its last and at `due`: the port is HELD, and what waits there takes the other
port of the pair. At most one port of a pair is HELD. A port that has not finished a transaction it has started keeps serving, unless it
has lost lock. -/
def openNear (s : State) (n due : Nat) (w : NearWindow) : State :=
  if w.kind ≠ 2 && !drained s n then s
  else
    let s := closeNear s (otherPort n)
    let s := advance s (max due ((nearAt s n).since + 10000000))
    steer (setNear s n fun x => { x with state := .held, window := some { w with start := s.time } }) n

/-- Closes the window of a port when its time is over. -/
def endWindow (s : State) (n : Nat) : State :=
  if (nearAt s n).window.any fun w => w.start + nearNs w.kind ≤ s.time then closeNear s n else s

/-- Closes every window whose time is over. -/
def endWindows (s : State) : State := (List.range 36).foldl endWindow s

end Sys2Proof.Machine
end

