-- ==== Sys2Proof/Machine/Frames.lean ====
section
/-! DEFINITION. Frames.lean: far frames as they stand on the wire: MACsec, IPv6, UDP, transport header, payload (15_far_ports.md, R354 to R357,
R369). The fields of IPv6, UDP and MACsec are in the order of their standards, all others little-endian (R10). -/

namespace Sys2Proof.Machine

/-! ### Port records (R373) -/

def pXpn (c : List Byte) : Bool := bit (field c 1 1) 0
def pReplay (c : List Byte) : Bool := bit (field c 1 1) 1
def pUdp (c : List Byte) : Nat := field c 2 2
def pMtu (c : List Byte) : Nat := field c 6 2
/-- MAC addresses and prefixes are byte strings in the order of transmission (log 132). -/
def pOwnMac (c : List Byte) : List Byte := sub c 8 6
def pNextMac (c : List Byte) : List Byte := sub c 0xE 6
def pPrefix (c : List Byte) (site : Nat) : List Byte := sub c (0x40 + 8 * site) 8

/-! ### Transport header and payload (R357) -/

/-- A far frame's transport header and payload. `broken` says that a DATA payload ends with bytes that are no packet. -/
structure FarFrame where
  version     : Byte
  kind        : Byte
  epoch       : BitVec 16
  src         : Word
  dst         : Word
  expiry      : Word
  seq         : DWord
  ack         : Word
  credit      : BitVec 16
  txTime      : DWord
  echoTime    : DWord
  echoHold    : DWord
  demand      : Word
  incarnation : DWord
  packets     : List Packet
  broken      : Bool
  deriving DecidableEq, Repr

/-- Device number and port of an end of a path, as SRC, DST and PEER give them. -/
def farAddr (dev port : Nat) : Word := BitVec.ofNat 32 (dev + 2 ^ 21 * port)

/-- The payload: the packets of DATA, the times of ACK and HELLO, with DEMAND or INCARNATION. -/
def farPayload (f : FarFrame) : List Byte :=
  match f.kind.toNat % 16 with
  | 1 => f.packets.flatMap packetBytes
  | 2 => le 8 f.txTime.toNat ++ le 8 f.echoTime.toNat ++ le 8 f.echoHold.toNat ++ le 4 f.demand.toNat ++ zeros 4
  | _ => le 8 f.txTime.toNat ++ le 8 f.echoTime.toNat ++ le 8 f.echoHold.toNat ++ le 8 f.incarnation.toNat

/-- Transport header and payload. -/
def farMessage (f : FarFrame) : List Byte :=
  let pay := farPayload f
  le 1 f.version.toNat ++ le 1 f.kind.toNat ++ le 2 f.epoch.toNat ++ le 4 f.src.toNat ++ le 4 f.dst.toNat ++ le 4 f.expiry.toNat ++
    le 8 f.seq.toNat ++ le 4 f.ack.toNat ++ le 2 f.credit.toNat ++ le 2 pay.length ++ pay

/-- Cuts whole packets off a DATA payload, `fuel` at most: the packets, and whether bytes are left that are none. -/
def wholePackets : Nat → List Byte → List Packet × Bool
  | 0, b => ([], !b.isEmpty)
  | fuel + 1, b =>
    let len := field b 0x28 2
    if b.isEmpty then ([], false)
    else if b.length < 48 + len || !hcrcOk b || 4096 < len then ([], true)
    else
      let (ps, bad) := wholePackets fuel (b.drop (48 + len))
      (parsePacket 255 b :: ps, bad)

/-- The transport header and payload of a UDP payload; none where LENGTH, VERSION, KIND or a reserved field is wrong. -/
def parseMessage (u : List Byte) : Option FarFrame :=
  let kind := field u 1 1
  let k := kind % 16
  let n := field u 0x1E 2
  let pay := u.drop 32
  let (packets, broken) := if k = 1 then wholePackets 200 pay else ([], false)
  let ok := 32 ≤ u.length && pay.length = n && field u 0 1 = 1 && (k = 1 || k = 2 || k = 3) && bits kind 7 6 = 0 && (k = 2 || !bit kind 4) &&
    (k = 3 || !bit kind 5) && bits (field u 4 4) 31 24 = 0 && bits (field u 8 4) 31 24 = 0 &&
    (k = 1 || (n = 32 && field u 0xC 4 = 0 && field u 0x10 8 = 0)) && (k ≠ 2 || sub pay 28 4 == zeros 4)
  if !ok then none
  else some {
    version := 1, kind := BitVec.ofNat 8 kind, epoch := BitVec.ofNat 16 (field u 2 2), src := BitVec.ofNat 32 (field u 4 4)
    dst := BitVec.ofNat 32 (field u 8 4), expiry := BitVec.ofNat 32 (field u 0xC 4), seq := BitVec.ofNat 64 (field u 0x10 8)
    ack := BitVec.ofNat 32 (field u 0x18 4), credit := BitVec.ofNat 16 (field u 0x1C 2)
    txTime := if k = 1 then 0 else BitVec.ofNat 64 (field pay 0 8), echoTime := if k = 1 then 0 else BitVec.ofNat 64 (field pay 8 8)
    echoHold := if k = 1 then 0 else BitVec.ofNat 64 (field pay 16 8), demand := if k = 2 then BitVec.ofNat 32 (field pay 24 4) else 0
    incarnation := if k = 3 then BitVec.ofNat 64 (field pay 24 8) else 0, packets, broken }

/-! ### IPv6 and UDP (R354 to R356) -/

/-- The IPv6 address of far port `n` of device `d`, with the prefixes of a port record. -/
def farIp (c : List Byte) (d n : Nat) : List Byte := pPrefix c (siteOf d) ++ be 8 (d + 2 ^ 21 * n)

/-- The sum of a byte string's big-endian halfwords. -/
def sum16 : List Byte → Nat
  | a :: b :: rest => 256 * a.toNat + b.toNat + sum16 rest
  | [a] => 256 * a.toNat
  | [] => 0

/-- One's complement: carries come back at the low end. -/
def foldCarry (n : Nat) : Nat :=
  let once (k : Nat) : Nat := k % 65536 + k / 65536
  once (once (once n))

/-- The sum of a UDP datagram with its pseudo-header (RFC 8200). -/
def udpSum (src dst udp : List Byte) : Nat := foldCarry (sum16 (src ++ dst ++ be 4 udp.length ++ be 4 17 ++ udp))

/-- A UDP datagram with its checksum, which is never 0. -/
def udpDatagram (src dst : List Byte) (from' to' : Nat) (body : List Byte) : List Byte :=
  let head := be 2 from' ++ be 2 to' ++ be 2 (8 + body.length)
  let c := 0xFFFF - udpSum src dst (head ++ zeros 2 ++ body)
  head ++ be 2 (if c = 0 then 0xFFFF else c) ++ body

/-- EtherType, IPv6 header and UDP datagram. The flow label is not stated (log 132). -/
def ipPacket (c : List Byte) (n own peer num : Nat) (body : List Byte) : List Byte :=
  let src := farIp c own n
  let dst := farIp c peer n
  let udp := udpDatagram src dst (0xC000 + num % 16384) (pUdp c) body
  be 2 0x86DD ++ be 4 (6 * 2 ^ 28 + 2 ^ 22 * bits (field c 4 1) 5 0 + (Config.flowLabel n num).toNat) ++ be 2 udp.length ++ [17] ++ le 1 (field c 5 1) ++
    src ++ dst ++ udp

/-- The UDP payload of a packet that the port takes: IPv6 without extension header, for its own address and UDP port, whole, the checksum
right. -/
def ipBody (c : List Byte) (n own : Nat) (b : List Byte) : Option (List Byte) :=
  let udp := b.drop 42
  let src := sub b 10 16
  let dst := sub b 26 16
  if be 2 0x86DD == b.take 2 && bits (field b 2 1) 7 4 = 6 && unbe (sub b 6 2) = udp.length && field b 8 1 = 17 && dst == farIp c own n &&
      8 ≤ udp.length && unbe (sub udp 2 2) = pUdp c && unbe (sub udp 4 2) = udp.length && unbe (sub udp 6 2) ≠ 0 && udpSum src dst udp = 0xFFFF then
    some (udp.drop 8)
  else none

/-! ### MACsec (R369, IEEE 802.1AE) -/

/-- Secure channel identifier of a port: its MAC address and port identifier 1. -/
def sciOf (mac : List Byte) : List Byte := mac ++ be 2 1

/-- The IV of a packet number: with XPN out of SSCI and the whole number, masked with SALT; else out of SCI and the low 32 bits. -/
def macIv (xpn : Bool) (a : Assoc) (sci : List Byte) (pn : Nat) : List Byte :=
  if xpn then xorBytes (be 4 a.ssci.toNat ++ be 8 pn) a.salt else sci ++ be 4 pn

/-- Addresses and SecTAG: what is authenticated and not encrypted. TCI: SC, E and C are set. -/
def macHead (c : List Byte) (an pn : Nat) : List Byte :=
  pNextMac c ++ pOwnMac c ++ be 2 0x88E5 ++ le 1 (0x2C + an) ++ [0] ++ be 4 (pn % 2 ^ 32) ++ sciOf (pOwnMac c)

/-- A protected frame, from the destination MAC address to the ICV. -/
def macProtect (c : List Byte) (a : Assoc) (pn : Nat) (plain : List Byte) : List Byte :=
  let head := macHead c a.an pn
  head ++ gcmProtect a.sak (macIv (pXpn c) a (sciOf (pOwnMac c)) pn) head plain

/-- The whole packet number of a received one: under XPN its upper half is that of the next one expected, or one more where the lower half
has wrapped (log 132). -/
def wholePn (xpn : Bool) (next pn : Nat) : Nat :=
  if xpn then pn + 2 ^ 32 * (next / 2 ^ 32 + b2n (bit next 31 && !bit pn 31)) else pn

/-- What a port makes of a frame it receives: nothing, for one that is not its own, of flow control, or tagged (R354); a loss (R369); or the
protected bytes, with the association number and the packet number they came under. -/
inductive Reception where
  | ignored
  | lost
  | plain (an pn : Nat) (bs : List Byte)

/-- EtherTypes of MAC control and of VLAN tags (IEEE 802.3, 802.1Q). -/
def ignoredTypes : List Nat := [0x8808, 0x8100, 0x88A8]

/-- The checks of MACsec: a SecTAG with SCI and encryption, an association that is installed, replay protection, the ICV. -/
def macReceive (c : List Byte) (assocs : List Assoc) (b : List Byte) : Reception :=
  let type := unbe (sub b 12 2)
  let tci := field b 14 1
  let sci := sub b 20 8
  if b.take 6 ≠ pOwnMac c || ignoredTypes.contains type then .ignored
  else if type ≠ 0x88E5 || b.length < 44 || tci / 4 ≠ 0x2C / 4 || field b 15 1 ≠ 0 then .lost
  else
    match assocs.find? fun a => !a.tx && a.an = tci % 4 with
    | none => .lost
    | some a =>
      let pn := wholePn (pXpn c) a.next (unbe (sub b 16 4))
      if pn = 0 || (pReplay c && pn + field c 0x18 4 < a.next) then .lost
      else
        match gcmOpen a.sak (macIv (pXpn c) a sci pn) (b.take 28) (b.drop 28) with
        | none => .lost
        | some bs => .plain a.an pn bs

end Sys2Proof.Machine
end

