-- ==== Sys2Proof/Machine/Fabric.lean ====
section
/-! DEFINITION. Fabric.lean: far ports as the transport of packets, routing, tags and the source side of transactions (13_ewete_fabric.md,
15_far_ports.md). -/

namespace Sys2Proof.Machine

/-! ### Far ports as carriers (R358, R361 to R364) -/

def farAt (s : State) (n : Nat) : FarPort := s.far.ports.getD n FarPort.reset
def setFar (s : State) (n : Nat) (f : FarPort → FarPort) : State := { s with far := { s.far with ports := s.far.ports.modify n f } }
def pathAt (s : State) (n peer : Nat) : Option FarPath := (farAt s n).paths.find? fun q => q.peer = peer
def setPath (s : State) (n peer : Nat) (f : FarPath → FarPath) : State :=
  setFar s n fun x => { x with paths := x.paths.map fun q => if q.peer = peer then f q else q }

/-- Retransmission buffer of a port and the bytes held in it (R361). -/
def farBuffer : Nat := 0x8000000
def farUsed (x : FarPort) : Nat := x.paths.foldl (fun n q => q.unacked.foldl (fun n f => n + f.bytes) n) 0

/-- The device at which the path of a packet ends (R355, log 24). -/
def farPeer (s : State) (dst : Nat) : Nat := if isT7 s dst then Config.gateway (siteOf dst) % 2 ^ 21 else dst

/-- Whether a packet takes credit on the path to `peer` (R363): VC0, or for another module than the peer. -/
def needsCredit (peer : Nat) (p : Packet) : Bool := vcOf p.type = 0 || p.target ≠ peer

/-- A frame of a path with its header filled in. -/
def farFrame (s : State) (n : Nat) (q : FarPath) (kind : Nat) : FarFrame :=
  { version := 1, kind := BitVec.ofNat 8 kind, epoch := BitVec.ofNat 16 q.epoch,
    src := farAddr (s.fab.device.getD 0) n, dst := farAddr q.peer n, expiry := 0, seq := 0, ack := BitVec.ofNat 32 q.expect,
    credit := BitVec.ofNat 16 q.granted, txTime := BitVec.ofNat 64 s.time, echoTime := BitVec.ofNat 64 (q.echo.elim 0 (·.1)),
    echoHold := BitVec.ofNat 64 (q.echo.elim 0 fun e => s.time - e.2), demand := BitVec.ofNat 32 (q.queue.foldl (fun k e =>
      if needsCredit q.peer e.2 then k + 48 + e.2.payload.length else k) 0),
    incarnation := s.far.inc, packets := [], broken := false }

/-- Whether frames leave a port (R367, R370, R373): it is UP, HELD or STOPPED, the module has a device number, an association transmits, and
no packet number has to be used again. -/
def farSends (s : State) (x : FarPort) : Bool :=
  (x.state = .up || x.state = .held || x.state = .stopped) && s.fab.device.isSome && x.txAn.isSome &&
    (pXpn x.config || x.txPn < 2 ^ 32)

/-- The bytes of a frame of a path under the transmitting association: the frame without its ICV where the association is not there. -/
def farWire (s : State) (n : Nat) (q : FarPath) (f : FarFrame) : List Byte :=
  let x := farAt s n
  let plain := ipPacket x.config n (s.fab.device.getD 0) q.peer q.num (farMessage f)
  match x.assocs.find? fun a => a.tx && some a.an = x.txAn with
  | some a => macProtect x.config a x.txPn plain
  | none => plain

/-- A frame leaves a port: it takes the next packet number, and 130 bytes more than its payload (R356). -/
def farEmit (s : State) (n : Nat) (q : FarPath) (f : FarFrame) : State :=
  let x := farAt s n
  if farSends s x then
    let s := { s with far := { s.far with frames := s.far.frames ++ [(n, farWire s n q f)] } }
    let s := setFar s n fun x => { x with txPn := x.txPn + 1, sent := x.sent + 130 + (farPayload f).length }
    if !pXpn x.config && x.txPn + 1 = 0xC0000000 then event s 13 (n + 256 * x.txAn.getD 0) else s
  else s

/-- Sends an ACK (kind 2, with NAK 0x12) or a HELLO (3, with REPLY 0x23) on a path. -/
def farControlFrame (s : State) (n peer kind : Nat) : State :=
  match pathAt s n peer with
  | none => s
  | some q => setPath (farEmit s n q (farFrame s n q kind)) n peer fun q => { q with
      lastSent := s.time, dueCount := if kind % 16 = 2 then 0 else q.dueCount }

/-- A new path in state opening. -/
def newPath (num peer now : Nat) : FarPath :=
  { num, peer, state := 0, epoch := 0, nextSeq := 0, expect := 0, unacked := [], queue := [], credit := 0, used := 0, granted := 0, recv := 0, demand := 0,
    inc := none, samples := [], srtt := 0, echo := none, traffic := now, lastSent := now, dueCount := 0, dueSince := 0, lastNak := none,
    ackMoved := now }

/-- Opens a path to `peer` unless there is one: HELLO goes out (R358). A port holds at most 1,024. -/
def farOpen (s : State) (n peer : Nat) : State :=
  if (pathAt s n peer).isSome || 1024 ≤ (farAt s n).paths.length then s
  else
    let s := setFar s n fun x => { x with paths := x.paths ++ [newPath x.nextNum peer s.time], nextNum := x.nextNum + 1 }
    farControlFrame s n peer 3

/-- A packet enters the far transport of a port. -/
def farEnter (s : State) (n : Nat) (p : Packet) : State :=
  let peer := farPeer s p.target
  setPath (farOpen s n peer) n peer fun q => { q with queue := q.queue ++ [(s.time, p)], traffic := s.time }

/-- Free credits of a far port toward a peer, in bytes (R363). -/
def farFree (s : State) (n peer : Nat) (vc : Nat) : Nat :=
  if vc = 0 then (pathAt s n peer).elim 0 fun q => q.credit - q.used else farBuffer - farUsed (farAt s n)

/-! ### Routing (R321, R322) -/

/-- The route entry of a destination; none for this module itself. -/
def routeEntry (s : State) (own dst : Nat) : Option DWord :=
  let t (k i : Nat) := (s.fab.routes.getD k []).getD i 0x200000000000
  if dst = own then none
  else if siteOf dst ≠ siteOf own then some (t 0 (siteOf dst))
  else if groupOf dst ≠ groupOf own then some (t 1 (groupOf dst))
  else if cellOf dst ≠ cellOf own then some (t 2 (cellOf dst))
  else some (t 3 (slotNoOf dst))

/-- Live ports of an entry, near ports as 0-35 and far ports as 64-71, with their free credits in bytes. -/
def livePorts (s : State) (e : DWord) (dst vc : Nat) : List (Nat × Nat) :=
  ((List.range 36).filter (fun n => e.getLsbD n && (nearAt s n).state = .up)).map (fun n => (n, 64 * nth (nearAt s n).credits vc)) ++
  ((List.range 8).filter (fun n => e.getLsbD (36 + n) && (farAt s n).state = .up)).map
    (fun n => (64 + n, farFree s n (farPeer s dst) (if farPeer s dst = dst then vc else 0)))

/-- The ports of an entry that a survey window holds (R322). -/
def heldPorts (s : State) (e : DWord) : List Nat :=
  (List.range 36).filter (fun n => e.getLsbD n && (nearAt s n).state = .held) ++
    ((List.range 8).filter fun n => e.getLsbD (36 + n) && (farAt s n).state = .held).map (64 + ·)

/-- The port that a transaction to `dst` takes, or none where it is unreachable. With no live port but a HELD one it takes that and waits
there. -/
def pickPort (s : State) (dst vc : Nat) : Option Nat :=
  match routeEntry s (s.fab.device.getD 0) dst with
  | none => none
  | some e =>
    let mode := bits e.toNat 45 44
    let live := livePorts s e dst vc
    let best := live.foldl (fun best x => match best with | none => some x | some b => if b.2 < x.2 then some x else best) none
    if mode = 1 then (live.head?.map (·.1)).or (heldPorts s e).head?
    else if mode = 0 then (best.map (·.1)).or (heldPorts s e).head?
    else none

/-- Whether a destination's site differs or its route names a far port (R314, R325). -/
def isFar (s : State) (dst : Nat) : Bool :=
  let own := s.fab.device.getD 0
  siteOf dst ≠ siteOf own || (routeEntry s own dst).any fun e => bits e.toNat 43 36 ≠ 0

/-- Puts packets of one transaction at the port that was chosen for it. -/
def putAt (s : State) (port : Nat) (ps : List Packet) : State :=
  ps.foldl (fun s p => if port < 64 then nearSend s port p else roomBack (farEnter s (port - 64) p) p) s

/-- A response to a packet, with its status. -/
def answer (s : State) (p : Packet) (type : Byte) (status : Nat) : Packet :=
  { port := 255, type, flags := 0, hops := 32, index := 0, dst := BitVec.ofNat 32 p.sender,
    src := BitVec.ofNat 32 (s.fab.device.getD 0 + 2 ^ 21 * p.domain), tag := p.tag, address := p.address, spec0 := 0, spec1 := 0, attempt := 0,
    spec2 := BitVec.ofNat 48 status, spec3 := p.spec3, channel := 0, payload := [] }

/-- Answers the source of a discarded request with ERR; its later packets are not answered again. -/
def replyErr (s : State) (p : Packet) (status : Nat) : State :=
  if !isRequest p.type || p.index ≠ 0 then s
  else if s.fab.device.isNone then putAt s p.port [answer s p tErr status]
  else
    match pickPort s p.sender 1 with
    | some port => putAt s port [answer s p tErr status]
    | none => fabCount s 4 1

/-- A packet that the version 1 link of its port does not carry is discarded, and its source told (R301). -/
def turnAway (s : State) (p : Packet) : State :=
  let s := fabCount s 3 1
  if passing p then replyErr (roomBack s p) p rMalformed else s

/-- Sends packets of one transaction on the port that was chosen for it. -/
def sendOn (s : State) (port : Nat) (ps : List Packet) : State :=
  ps.foldl (fun s p => if barred s port p then turnAway s p else putAt s port [p]) s

/-! ### Packets of this module -/

/-- A packet of this module with nothing in it but who sends what to whom. -/
def ownPacket (s : State) (type : Byte) (dst domain label addr : Nat) : Packet :=
  { port := 255, type, flags := 0, hops := 32, index := 0, dst := BitVec.ofNat 32 dst,
    src := BitVec.ofNat 32 (s.fab.device.getD 0 + 2 ^ 21 * domain), tag := BitVec.ofNat 32 label, address := BitVec.ofNat 64 addr,
    spec0 := 0, spec1 := 0, attempt := 0, spec2 := 0, spec3 := 0, channel := 0, payload := [] }

/-- Cuts bytes into pieces of at most `k`, with their offsets; one empty piece for no bytes. -/
def slices (k : Nat) (bs : List Byte) : List (Nat × List Byte) :=
  if bs.isEmpty then [(0, [])]
  else (List.range ((bs.length + k - 1) / k)).map fun i => (k * i, (bs.drop (k * i)).take k)

/-- Largest payload toward a destination (R301). -/
def maxPayload (s : State) (dst : Nat) : Nat := if isT7 s dst then 2048 else 4096

/-- The packets that carry `bs` from `p`'s address on. -/
def dataPackets (s : State) (p : Packet) (bs : List Byte) : List Packet :=
  (slices (maxPayload s p.target) bs).mapIdx fun i x =>
    { p with index := BitVec.ofNat 8 i, address := BitVec.ofNat 64 (p.addr + x.1), payload := x.2 }

/-! ### Tags (R325 to R327) -/

/-- Lifetimes in ns (R307). -/
def lNear : Nat := 1000000
def lFar : Nat := 8000000

def domAt (s : State) (d : Nat) : TagDom := s.fab.doms.getD d ⟨false, 0, 0, [], [], 0⟩
def setDom (s : State) (d : Nat) (f : TagDom → TagDom) : State := { s with fab := { s.fab with doms := s.fab.doms.modify d f } }

/-- Allocates a label in a domain for a destination, or none while it has to wait. -/
def takeTag (s : State) (d dst : Nat) : Option (Nat × State) :=
  let x := domAt s d
  if isT7 s dst then
    let busy (t : Nat) := x.quar.any (fun q => q.1 = t) || s.fab.txs.any fun y => y.domain = d && y.wait = .response && y.label = t
    (((List.range 4096).map fun i => 0xF000 + (x.t7next + i) % 4096).find? fun t => !busy t).map fun t =>
      (t, setDom s d fun x => { x with t7next := (t - 0xF000 + 1) % 4096 })
  else if x.active then
    some (65536 * x.gen + x.next, setDom s d fun x => { x with next := x.next + 1, active := x.next + 1 < 0xF000 })
  else none

/-- Retires a transaction's label (R325). -/
def retireTag (s : State) (t : Tx) : State :=
  let life := if t.far then lFar else lNear
  if t.since.isNone then s
  else if t.label % 65536 ≥ 0xF000 then
    setDom s t.domain fun x => { x with quar := (t.label, s.time, life) :: x.quar.filter fun q => q.1 ≠ t.label }
  else setDom s t.domain fun x => { x with gens := x.gens.modify (t.label / 65536) fun g => (s.time, max g.2 life) }

/-! ### Transactions at the source (R308 to R318) -/

def setTx (s : State) (id : Nat) (f : Tx → Tx) : State :=
  { s with fab := { s.fab with txs := s.fab.txs.map fun t => if t.id = id then f t else t } }

def findTx (s : State) (id : Nat) : Option Tx := s.fab.txs.find? fun t => t.id = id

def dropTx (s : State) (id : Nat) : State := { s with fab := { s.fab with txs := s.fab.txs.filter fun t => t.id ≠ id } }

/-- The packets of a transaction (R304). Toward a T7 they take version 1 form (R302). -/
def txPackets (s : State) (t : Tx) : List Packet :=
  let v1 := isT7 s t.dst
  let sealed := t.sealed && !v1
  let flags := if v1 then 0 else b2n t.priv + 2 * b2n t.sealed + 4 * b2n t.resent
  let type := match t.kind with | .read => tRdReq | .write => tWr | .atomic => tAtReq | .message => tMsg
  let p := { ownPacket s type t.dst t.domain t.label t.addr with flags := BitVec.ofNat 8 flags, spec3 := BitVec.ofNat 16 t.total }
  match t.kind with
  | .read => [{ p with spec2 := if sealed then BitVec.ofNat 48 t.sealAddr else 0 }]
  | .write => dataPackets s { p with
      spec0 := if sealed then t.crc else 0
      spec1 := if sealed then BitVec.ofNat 24 t.shape else 0
      spec2 := if sealed then BitVec.ofNat 48 t.sealAddr else 0 } t.data
  | .atomic => [{ p with spec0 := BitVec.ofNat 32 t.aop, payload := t.data }]
  | .message => [{ p with payload := t.data }]

/-- What orders a transaction with others to its destination (R318): its core, its command, or the resilience engine. -/
def coreOf (o : TxOwner) : Option Nat := match o with | .move c _ => some c | .copy mb _ => some (200 + mb) | .res _ | .vault _ _ | .restore _ _ => none

/-- Whether a write of a vault copy waits for the acknowledgement of the zeros over the header (R388). -/
def behindHeader (s : State) (o : TxOwner) : Bool :=
  match o with
  | .vault n 1 => s.fab.txs.any fun u => u.owner = .vault n 0
  | _ => false

/-- Whether transaction `u` was issued before `t` by the same unit: two of one core in the order of their instructions. -/
def issuedBefore (u t : Tx) : Bool :=
  match u.owner, t.owner with
  | .move a i, .move b j => a = b && i < j
  | _, _ => u.id < t.id && coreOf u.owner = coreOf t.owner

/-- Whether an earlier MOVEM of a core to a module still reads its source, so that its write is not yet a transaction (R318). -/
def movemAhead (s : State) (o : TxOwner) (dst : Nat) : Bool :=
  match o with
  | .move n id => (coreAt s n).moves.any fun m => m.kind = .movem && !m.writing && m.id < id && isAway s m.dst && device m.dst = dst
  | _ => false

/-- Whether the order of R318 holds an atomic or message back, or that of R388 a write of a vault copy. -/
def heldBack (s : State) (t : Tx) : Bool :=
  ((t.kind = .atomic || t.kind = .message) &&
    (movemAhead s t.owner t.dst ||
      s.fab.txs.any fun u => issuedBefore u t && u.dst = t.dst && u.kind ≠ .read)) || behindHeader s t.owner

/-- The status that a move's transfer ends with; its MOVE_END acts on it. -/
def moveStatus (s : State) (core id st : Nat) (bs : List Byte) (crc : Word) : State :=
  setCore s core fun c => { c with moves := c.moves.map fun m =>
    if m.id = id then { m with status := some st, since := s.time, bytes := if bs.isEmpty then m.bytes else bs, carried := crc } else m }

/-- The destination range of a TIER_COPY record is undefined when it does not end OK (R288). -/
def copyUndefined (s : State) (c : Cmd) : State :=
  if field c.payload 0 1 = 0 then havocLocal s (field c.payload 16 8) (field c.payload 24 8) else s

/-- Protection (R386, R389, the RES_QUERY table): 0 FULL, 1 DEGRADED, 2 FLASH, 3 NONE. -/
def protection (s : State) : Nat :=
  match s.fab.topo with
  | none => 3
  | some t =>
    if t.partner.isNone || s.res.copyFailed then 2
    else if t.feed = t.partnerFeed then 1 else 0

/-- Drops the writes of a vault copy that have not been sent. -/
def dropVaultWrites (s : State) (n : Nat) : State :=
  let mine (t : Tx) : Bool := t.wait ≠ .response && (t.owner = .vault n 0 || t.owner = .vault n 1)
  { s with fab := { s.fab with txs := s.fab.txs.filter fun t => !mine t } }

/-- A vault copy ends failed (R389): FLASH protection and the PROTECTION event. -/
def copyFails (s : State) : State :=
  let s := s.res.copy.elim s fun c => dropVaultWrites s c.step
  let s := { s with res := { s.res with copy := none, copyFailed := true } }
  event s 6 (protection s)

/-- A message of the resilience engine could not be delivered: a VAULT_HELLO that is lost ends its copy; the tree's other messages are
asked for again (R385). -/
def vaultLost (s : State) (kind : Nat) : State := if kind = 6 && s.res.copy.isSome then copyFails s else s

/-- A write of the vault copy of step `n` fails (R389): the copy ends failed; where it was the header, the copy is no longer held. -/
def vaultWriteFails (s : State) (n phase : Nat) : State :=
  if phase = 2 then
    let s := { s with res := { s.res with
      copyFailed := true
      vault0 := if s.res.vault0 = some n then none else s.res.vault0
      vault1 := if s.res.vault1 = some n then none else s.res.vault1 } }
    event s 6 (protection s)
  else if s.res.copy.any fun c => c.step = n then copyFails s
  else s

/-! ### A RESTORE that reads the partner's vault (R401, R404) -/

/-- Where slot `k` of a vault begins (R264). -/
def vaultBase (k : Nat) : Nat := if k = 0 then 0x16800000000 else 0x1E800000000

def setReading (s : State) (r : Option VaultRead) : State := { s with res := { s.res with reading := r } }

/-- A restore from sources 1 to 3 that fails (R404): both sides are undefined, and nothing is committed. -/
def restoreLost (s : State) : State :=
  let s := (s.res.conf.elim [] (·.sets)).foldl (fun s w => havocLocal (havocLocal s w.side0 w.len) w.side1 w.len) s
  { s with res := { s.res with committed := none, side0 := none, side1 := none, lost := true, reading := none } }

/-- A read of the vault fails: the partner cannot be reached, or does not serve it. -/
def restoreFails (s : State) (mb : Nat) (tag : DWord) : State :=
  match findCmd s mb tag with
  | some c => finish (restoreLost s) mb c 0x0709
  | none => setReading s none

/-- The status a transaction without an answer ends with, in this model's own numbering. -/
def rTimeout : Nat := 0xFFFF

/-- How a TIER_COPY ends: TIER_UNREACHABLE where the module has not answered, or cannot; DEVICE_FAULT where it has answered that it does not serve
the copy (R288, R314, log 130). -/
def copyStatus (st : Nat) : Nat := if st = rUnreachable || st = rNoDevice || st = rTimeout then 0x0A44 else stDeviceFault

/-- A transaction fails: its owner learns the status. One that cannot be sent at all ends as one to an unreachable module (R322, R503). -/
def failOwner (s : State) (o : TxOwner) (st : Nat) : State :=
  match o with
  | .move c id => moveStatus s c id st [] 0
  | .copy mb tag =>
    match findCmd s mb tag with
    | some c => if ending c then s else finish (copyUndefined s c) mb c (copyStatus st) [] (BitVec.ofNat 64 (field c.payload 8 8))
    | none => s
  | .res k => vaultLost s k
  | .vault n phase => vaultWriteFails s n phase
  | .restore mb tag => restoreFails s mb tag

/-- Sends a waiting transaction if its order, a tag and a route allow. -/
def tryTx (s : State) (id : Nat) : State :=
  match findTx s id with
  | none => s
  | some t =>
    if t.wait ≠ .tag ∧ t.wait ≠ .order then s
    else if heldBack s t then setTx s id fun t => { t with wait := .order }
    else
      match pickPort s t.dst 0 with
      | none => failOwner (fabCount (dropTx s id) 4 1) t.owner rUnreachable
      | some port =>
        match takeTag s t.domain t.dst with
        | none => setTx s id fun t => { t with wait := .tag }
        | some (label, s) =>
          let t := { t with label, wait := .response, got := [], since := some (t.since.getD s.time), far := isFar s t.dst, last := none }
          let ps := txPackets s t
          if ps.any (barred s port) then failOwner (fabCount (dropTx (retireTag s t) id) 3 ps.length) t.owner rMalformed
          else sendOn (setTx s id fun _ => t) port ps

/-- Tries every transaction that waits at this module, oldest first. -/
def pumpTx (s : State) : State := (s.fab.txs.map (·.id)).foldl tryTx s

/-- Starts a transaction; without a device number it is unreachable at once (R503). -/
def newTx (s : State) (t : Tx) : State :=
  if s.fab.device.isNone then failOwner s t.owner rUnreachable
  else
    let id := s.fab.nextTx
    tryTx { s with fab := { s.fab with nextTx := id + 1, txs := s.fab.txs ++ [{ t with id, wait := .tag, since := none, born := s.time }] } } id

/-- A bare transaction. -/
def bareTx (kind : TxKind) (owner : TxOwner) (domain dst addr total : Nat) : Tx :=
  { id := 0, kind, owner, wait := .tag, domain, label := 0, dst, addr, total, sealed := false, priv := false, crc := 0, shape := 0,
    sealAddr := 0, aop := 0, data := [], got := [], resent := false, since := none, born := 0, last := none, retry := 0, far := false }

/-- Sends a transaction again under a new tag (R104, R310, R312). -/
def repeatTx (s : State) (t : Tx) (resent : Bool) : State :=
  tryTx (setTx (retireTag s t) t.id fun t => { t with wait := .tag, resent := t.resent || resent, got := [] }) t.id

/-- The tag domain of a core. -/
def coreDomain (core : Nat) : Nat := dieOf core

/-! ### Atomics and messages where they land (R311, R312) -/

/-- What an atomic leaves in a doubleword: AOP, what stands there, operand, compare value. -/
def atomResult (aop : Nat) (old v w : DWord) : DWord :=
  match aop with
  | 0 => old + v
  | 1 => old &&& v
  | 2 => old ||| v
  | 3 => old ^^^ v
  | 4 => v
  | 5 => if old = w then v else old
  | 6 => if old.toNat < v.toNat then v else old
  | 7 => if v.toNat < old.toNat then v else old
  | _ => old

/-- Performs an atomic on the doubleword at a local offset: what stood there, and the state after. `arg` holds the operand and the
compare value. -/
def atomLocal (s : State) (a aop : Nat) (arg : List Byte) : List Byte × State :=
  let old := readLocal s a 8
  let v := atomResult aop (BitVec.ofNat 64 (unle old)) (BitVec.ofNat 64 (field arg 0 8)) (BitVec.ofNat 64 (field arg 8 8))
  (old, writeLocal (touchRead s a 8) a (le 8 v.toNat))

/-- Hub semaphore of message queue `q`. -/
def queueSem (q : Nat) : Nat := 960 + q
/-- SEM of a hub semaphore (R198). -/
def hubSem (n : Nat) : Nat := 2048 + n

/-- Delivers a message to queue `q`, unless its semaphore holds 64 (R312). -/
def deliver (s : State) (q : Nat) (bs : List Byte) : Option State :=
  if 64 ≤ (s.hubSems.getD (queueSem q) 0).toNat then none
  else
    let k := nth s.fab.msgCounts q
    let s := writeLocal s (0x800000 + 16384 * q + 128 * (k % 128)) bs
    let s := { s with fab := { s.fab with msgCounts := s.fab.msgCounts.set q (k + 1) } }
    some (semAdd s 0 0 (hubSem (queueSem q)) 1)

/-! ### The reads of a RESTORE -/

/-- The next privileged read of at most 64 KiB of the vault. -/
def readNext (s : State) : State :=
  match s.res.reading with
  | none => s
  | some r =>
    match r.todo with
    | [] => s
    | x :: _ => newTx s { bareTx .read (.restore r.mb r.tag) 2 r.peer (vaultBase r.slot + x.1) (min x.2 65536 / 64) with priv := true }

/-- What a read has brought takes its place in the image. -/
def VaultRead.took (r : VaultRead) (bs : List Byte) : VaultRead :=
  match r.todo with
  | [] => r
  | x :: rest => { r with
      img := writeRun r.img x.1 bs
      todo := if x.2 ≤ 65536 then rest else (x.1 + 65536, x.2 - 65536) :: rest }

/-- A read of the vault has been answered, and the next goes out. -/
def readAnswered (s : State) (mb : Nat) (tag : DWord) (bs : List Byte) : State :=
  readNext (setReading s (s.res.reading.map fun r => if r.mb = mb && r.tag = tag then r.took bs else r))

/-! ### Stopping a function's far traffic (R368) -/

/-- Takes the packets that `gone` names out of everything that is still to be sent (R368). -/
def farStrip (s : State) (gone : Packet → Bool) : State :=
  let keep (ps : List (Nat × Packet)) := ps.filter fun e => !gone e.2
  { s with far := { s.far with ports := s.far.ports.map fun x => { x with paths := x.paths.map fun q => { q with
      queue := keep q.queue, unacked := q.unacked.map fun f => { f with packets := keep f.packets } } } } }

/-- Whether a packet is a request of a transaction that `mine` owns. -/
def farOwned (s : State) (mine : TxOwner → Bool) (p : Packet) : Bool :=
  vcOf p.type = 0 && some p.sender = s.fab.device && s.fab.txs.any fun t => mine t.owner && t.domain = p.domain && t.label = p.label

/-- The last limit of the VC0 packets that `mine` has sent since `start`, 0 for none (R368). -/
def farLast (s : State) (mine : TxOwner → Bool) (start : Nat) : Nat :=
  (s.far.limits.filter fun x => mine x.1 && start ≤ x.2.1).foldl (fun n x => max n x.2.2) 0

/-! ### TIER_COPY over the fabric (R288) -/

/-- The next piece of a copy to or from another module; the command's progress is its `aux`. A transaction moves at most 64 KiB. -/
def copyStep (s : State) (mb : Nat) (tag : DWord) : State :=
  match findCmd s mb tag with
  | none => s
  | some c =>
    let done := nth c.aux 0
    let n := min 65536 (field c.payload 24 8 - done)
    let far := field c.payload 8 8 + done
    let near := field c.payload 16 8 + done
    if n = 0 then finish s mb c 0
    else if field c.payload 0 1 = 1 ∧ (badGranule s near n).isSome then
      let g := (badGranule s near n).getD 0
      finish (uncorrectables s near n) mb c stDeviceFault [] (BitVec.ofNat 64 g) (BitVec.ofNat 64 (memUnit s g))
    else
      let t := bareTx (if field c.payload 0 1 = 0 then .read else .write) (.copy mb tag) 2 (device far) (offset far) (n / 64)
      newTx (if field c.payload 0 1 = 0 then s else touchRead s near n)
        { t with data := if field c.payload 0 1 = 0 then [] else readLocal s near n }

/-- A piece has been copied. -/
def copyDone (s : State) (mb : Nat) (tag : DWord) (bs : List Byte) : State :=
  match findCmd s mb tag with
  | none => s
  | some c =>
    if ending c then s else
    let done := nth c.aux 0
    let n := min 65536 (field c.payload 24 8 - done)
    let s := if field c.payload 0 1 = 0 then writeLocal s (field c.payload 16 8 + done) bs else s
    copyStep (markStarted s mb tag [done + n]) mb tag

end Sys2Proof.Machine
end

