-- ==== Sys2Proof/Machine/Chains.lean ====
section
/-! DEFINITION. Chains.lean: the targets of the commands that take a chained payload, and what such a command leaves of them when it ends
with a status other than OK (02_host_commands.md, R40, R57, R61; R452). -/

namespace Sys2Proof.Machine

/-! ### Firmware slots -/

/-- Bytes of a slot. -/
def fwSlotBytes : Nat := 16 * 2 ^ 20
def fwSlotAt (s : State) (k : Nat) : FwSlot := s.fw.slots.getD k ⟨.empty, []⟩
def setSlot (s : State) (k : Nat) (x : FwSlot) : State := { s with fw := { s.fw with slots := s.fw.slots.set k x } }

/-- Whether a slot runs: in RECOVERY none does (R451). -/
def slotRuns (s : State) (k : Nat) : Bool := s.pwr.stage ≠ .recovery && s.fw.running = k

/-! ### Tensors (R53) -/

/-- Tile coordinates in tile-row-major order. -/
def tileGrid (d : Desc) : List (Nat × Nat) :=
  (List.range d.tr).flatMap fun i => (List.range d.tc).map fun j => (i, j)

/-- Checks the descriptor in the two stages of R53. -/
def tensorCheck (s : State) (d : Desc) : Option Nat :=
  if !descOk d then some stMalformed
  else if 2 ^ 41 ≤ d.base || !descPlaced d (freeRange s) then some stRange
  else none

/-- The bytes that a WRITE_TENSOR writes: each tile and its seal-table entry. -/
def tensorRanges (d : Desc) : List (Nat × Nat) :=
  (tileGrid d).flatMap fun ij => [(d.addr ij.1 ij.2, d.own), (d.sealAddr ij.1 ij.2, 4)]

/-! ### A chained command that does not end OK (R40) -/

/-- Whether a command came as a chain. -/
def chained (c : Cmd) : Bool := 65536 < c.total

/-- The local ranges that a WRITE, FILL or WRITE_TENSOR was to write, where its checks let it write at all. -/
def writeTargets (s : State) (c : Cmd) : List (Nat × Nat) :=
  match c.cls, c.code with
  | 4, 1 => if clean c all64 0 true && freeRange s c.arg0.toNat c.total then [(c.arg0.toNat, c.total)] else []
  | 4, 4 =>
    let d := parseDesc (c.payload.take 32)
    if clean c 0 0 true && (tensorCheck s d).isNone && c.total = 32 + (tileGrid d).length * d.own then tensorRanges d else []
  | _, _ => []

/-- Makes a list of local ranges undefined. -/
def havocRanges (s : State) (rs : List (Nat × Nat)) : State := rs.foldl (fun s r => havocLocal s r.1 r.2) s

/-- The slot of a STAGE that is interrupted is empty (R57): it was invalidated before the first byte. -/
def stageSpoil (s : State) (c : Cmd) : State :=
  let k := c.arg0.toNat
  if clean c 1 0 true && c.total ≤ fwSlotBytes && !slotRuns s k then setSlot s k ⟨.empty, []⟩ else s

/-- What a chained command that ends with a status other than OK leaves of its target: it may have begun to act on its payload (R40, log
114). -/
def chainSpoil (s : State) (c : Cmd) : State :=
  if !chained c then s
  else if c.cls = 3 && c.code = 2 then stageSpoil s c
  else havocRanges s (writeTargets s c)

end Sys2Proof.Machine
end

