-- ==== Sys2Proof/Machine/Mailbox.lean ====
section
/-! DEFINITION. Mailbox.lean: command rings, the packet checks, chains, sessions (02_host_commands.md) and the mailbox and interrupt
registers (20_register_map.md). -/

namespace Sys2Proof.Machine

/-! ### Rings and doorbells (R29 to R33) -/

/-- Whether a mailbox takes doorbells and register writes (R470): from READY on, and MB0 in stage RECOVERY. -/
def serving (s : State) (mb : Nat) : Bool := s.pwr.stage = .ready || (s.pwr.stage = .recovery && mb = 0)

/-- Bytes of a command ring: in its LPDDR range, or in hub SRAM in stage RECOVERY (R451, log 6). -/
def ringRead (s : State) (mb off n : Nat) : List Byte :=
  if s.pwr.stage = .recovery then readRun s.ctl (hubBase + off) n else readRun s.dram (lpddrBase + mb * 2 ^ 20 + off) n

def ringWrite (s : State) (mb off : Nat) (bs : List Byte) : State :=
  if s.pwr.stage = .recovery then { s with ctl := writeRun s.ctl (hubBase + off) bs }
  else { s with dram := writeRun s.dram (lpddrBase + mb * 2 ^ 20 + off) bs }

/-- Bytes from pointer `b` on to pointer `a`, over the two passes that WRAP tells apart. -/
def ptrDist (size : Nat) (a b : Word) : Nat :=
  let place (p : Word) := ptrOff p + (if ptrWrap p then size else 0)
  (place a + 2 * size - place b) % (2 * size)

/-- Whether R32 refuses a producer pointer. -/
def badDoorbell (cons ptr : Word) : Bool :=
  bits ptr.toNat 31 27 ≠ 0 || bits ptr.toNat 25 20 ≠ 0 || bits ptr.toNat 5 0 ≠ 0 || 2 ^ 20 < ptrDist (2 ^ 20) ptr cons

/-- A write to the command producer pointer (R30, R32, R470). -/
def doorbell (s : State) (mb : Nat) (ptr : Word) : State :=
  let m := mbAt s mb
  if !s.pwr.endpoint then s
  else if !serving s mb then setMbStatus s mb sNotReady
  else
    let bad := badDoorbell m.cmdCons ptr
    let s := if bad then setMbStatus s mb sBadDoorbell else s
    if m.cplSize = 0 then setMbStatus s mb sNotConfigured
    else if bad then s
    else setMb s mb fun m => { m with cmdProd := ptr }

/-- DOORBELL: the host writes ring bytes, in order, and then the pointer. BAR0 writes before READY are discarded (R450). -/
def execDoorbell (mb : Nat) (ptr : Word) (bytes : List Byte) (s : State) : Out :=
  onUnit mb 16 <|
    let o := ptrOff (mbAt s mb).cmdProd
    let bs := bytes.take (2 ^ 20)
    let s := if s.pwr.endpoint && serving s mb then
      ringWrite (ringWrite s mb o (bs.take (2 ^ 20 - o))) mb 0 (bs.drop (2 ^ 20 - o)) else s
    .next (doorbell s mb ptr)

/-! ### The commands (R49 and the class tables of the chapters) -/

/-- Class, code, on MB0 only, takes a chained payload (R504), allowed without a session. -/
def commandTable : List (Nat × Nat × Bool × Bool × Bool) :=
  let plain (cls : Nat) (mb0 : Bool) (codes : List Nat) := codes.map fun c => (cls, c, mb0, false, false)
  let chained (cls : Nat) (mb0 : Bool) (codes : List Nat) := codes.map fun c => (cls, c, mb0, true, false)
  [(1, 1, false, false, true), (1, 2, false, false, true), (1, 3, false, false, false), (1, 4, true, false, true),
   (1, 5, true, false, false), (2, 1, false, false, true)] ++
  plain 2 false [2, 3] ++ plain 2 true [4] ++ chained 2 false [5] ++
  plain 3 true [1, 3, 4] ++ chained 3 true [2] ++
  chained 4 false [1, 4] ++ plain 4 false [2, 3, 5, 6, 7] ++
  chained 5 false [1, 0x10] ++ plain 5 false [2, 3, 4, 5, 0x11] ++
  chained 6 true [1, 4, 0x22, 0x24] ++ plain 6 true [2, 3, 5, 6, 7, 0x20, 0x21, 0x23, 0x25] ++
  plain 7 true [1, 2, 3, 4, 5, 6, 7, 8, 9, 10, 11] ++
  chained 8 false [3, 5] ++ plain 8 false [1, 2, 4, 6] ++
  plain 9 false [1, 2, 3, 4, 5, 6, 7, 9] ++ plain 9 true [8] ++
  plain 10 true [1, 2, 3, 4, 5, 6, 7, 8, 9, 0x40, 0x41, 0x42, 0x43, 0x44, 0x45, 0x50, 0x51, 0x52, 0x53, 0x54] ++
  plain 11 false [1]

/-- What stage RECOVERY accepts (R451). -/
def recoveryAllows (cls code : Nat) (arg0 arg1 : DWord) : Bool :=
  (cls = 2 && code = 1) || (cls = 3 && (code = 1 || code = 2 || code = 3 || (code = 4 && !arg1.getLsbD 0))) ||
    (cls = 2 && code = 4 && arg0 = 1)

/-! ### Packet checks (R36 to R39) -/

/-- The fields of a packet header (R36). -/
structure Header where
  cls   : Nat
  code  : Nat
  flags : Nat
  plen  : Nat
  tag   : DWord
  seq   : Nat
  cidx  : Nat
  total : Nat
  pcrc  : Nat
  arg0  : DWord
  arg1  : DWord
  clear : Bool
  deriving DecidableEq, Repr

def parseHeader (h : List Byte) : Header :=
  { cls := field h 0 1, code := field h 1 1, flags := field h 2 2, plen := field h 4 4, tag := BitVec.ofNat 64 (field h 8 8),
    seq := field h 0x10 4, cidx := field h 0x14 4, total := field h 0x18 8, pcrc := field h 0x20 4,
    arg0 := BitVec.ofNat 64 (field h 0x28 8), arg1 := BitVec.ofNat 64 (field h 0x30 8),
    clear := bits (field h 2 2) 15 3 = 0 && field h 0x24 4 = 0 && field h 0x3C 4 = 0 }

/-- The command that a packet starts, or that its record names. -/
def Header.cmd (h : Header) (payload : List Byte) (now : Nat) : Cmd :=
  { cls := h.cls, code := h.code, flags := BitVec.ofNat 16 h.flags, tag := h.tag, seq := BitVec.ofNat 32 h.seq, arg0 := h.arg0,
    arg1 := h.arg1, payload, total := h.total, acked := now, whole := !bit h.flags 2, started := false, aux := [] }

/-- What stands at the consumer pointer, and the ring bytes it takes (R29): a pad, a header that fails its CRC, a header whose size
cannot be trusted (log 21), a packet. -/
inductive Found where
  | pad | badCrc | odd | packet
  deriving DecidableEq, Repr

def findPacket (h : List Byte) (off : Nat) : Found × Nat :=
  let len := field h 4 4
  if (crc32c (h.take 0x38)).toNat ≠ field h 0x38 4 then (.badCrc, 64)
  else if field h 0 2 = 0 then
    if (h.drop 2).take 0x36 = zeros 0x36 ∧ field h 0x3C 4 = 0 then (.pad, 2 ^ 20 - off) else (.odd, 64)
  else if len > 65536 ∨ off + 64 + roundUp len 64 > 2 ^ 20 then (.odd, 64)
  else (.packet, 64 + roundUp len 64)

/-- Whether the session of a mailbox takes packets: it is open, and no CLOSE has been acknowledged (R46). -/
def inSession (m : Mailbox) : Option Session :=
  if m.cmds.any fun c => c.cls = 1 && c.code = 3 && c.arg0 = 0 && c.arg1 = 0 && c.payload.isEmpty then none else m.session

/-- Steps 2 to 6 of R37: the status of the first failure. -/
def checkHeader (s : State) (mb : Nat) (h : Header) : Option Nat :=
  let m := mbAt s mb
  let rom := s.pwr.stage = .recovery
  if !h.clear then some stMalformed
  else
    match commandTable.find? fun c => c.1 = h.cls ∧ c.2.1 = h.code with
    | none => some stUnknown
    | some (_, _, mb0, _, free) =>
      let isOpen := h.cls = 1 ∧ (h.code = 1 ∨ h.code = 2)
      if (mb0 ∧ mb ≠ 0) ∨ (rom ∧ !recoveryAllows h.cls h.code h.arg0 h.arg1) ∨ (h.cls = 1 ∧ h.code = 4 ∧ s.fw.ownerKey.isSome) ∨
          (isOpen ∧ s.fw.ownerKey.isNone) then some stNotPermitted
      else if isOpen ∧ m.lockEnd.any (s.time < ·) then some stLocked
      else
        match inSession m with
        | none => if !free && !rom then some stNoSession else if h.seq ≠ 0 then some stSequence else none
        | some q => if h.seq ≠ q.next then some stSequence else none

/-- Whether a packet goes on with the open chain (R38, R39). -/
def continues (m : Mailbox) (h : Header) : Bool :=
  match m.chain with
  | none => false
  | some c => h.tag = c.tag && h.cls = c.cls && h.code = c.code && h.arg0 = c.arg0 && h.arg1 = c.arg1 && h.total = c.total &&
      h.cidx = c.next

/-- Steps 7 to 9 of R37. -/
def checkChain (m : Mailbox) (h : Header) (payload : List Byte) : Option Nat :=
  let more := bit h.flags 2
  let badCrc := if (crc32c payload).toNat ≠ h.pcrc then some stPayloadCrc else none
  if continues m h then
    let rest := h.total - 65536 * h.cidx
    if more then if h.plen ≠ 65536 ∨ rest ≤ 65536 then some stMalformed else badCrc
    else if h.plen ≠ rest then some stMalformed else badCrc
  else
    let broken := m.ended.contains h.tag || (match m.chain with | some c => c.tag = h.tag | none => false)
    if h.cidx ≠ 0 then some (if broken then stChainBroken else stMalformed)
    else
      let takes := commandTable.any fun c => c.1 = h.cls && c.2.1 = h.code && c.2.2.2.1
      let chainOk := if more then takes && h.plen = 65536 && 65536 < h.total && h.total ≤ 2 ^ 32 else h.total = h.plen
      let open' := if m.chain.isSome then 1 else 0
      if !chainOk then some stMalformed
      else if h.cls ≠ 11 ∧ 256 ≤ m.cmds.length - open' then some stBusy
      else badCrc

/-- A command that has not started ends early: a chained one may have begun to act on its payload (R40). -/
def endEarly (s : State) (mb : Nat) (tag : DWord) (status : Nat) : State :=
  match findCmd s mb tag with
  | some c => finish (chainSpoil s c) mb c status
  | none => s

/-- The open chain of a mailbox ends CHAIN_BROKEN (R39). -/
def breakChain (s : State) (mb : Nat) : State :=
  match (mbAt s mb).chain with
  | some c => endEarly s mb c.tag stChainBroken
  | none => s

/-- A packet that a check has failed: the open chain ends, and one record says why (R37, R39). -/
def reject (s : State) (mb : Nat) (h : Header) (irq : Bool) (status : Nat) : State :=
  let s := breakChain s mb
  let s := if irq && bit h.flags 2 && h.cidx = 0 then setMb s mb fun m => { m with ended := h.tag :: m.ended } else s
  respond s mb { h.cmd [] s.time with flags := if irq then BitVec.ofNat 16 h.flags else 0 } status [] 0 0

/-- A packet that has passed every check: the session's number moves on, and it starts a command or goes on with its chain. -/
def accept (s : State) (mb : Nat) (h : Header) (payload : List Byte) : State :=
  let cont := continues (mbAt s mb) h
  let more := bit h.flags 2
  let s := if cont then s else breakChain s mb
  let up (m : Mailbox) : Mailbox :=
    { m with session := if (inSession m).isSome then m.session.map fun q => { q with next := q.next + 1 } else m.session }
  setMb (setMb s mb up) mb fun m =>
    if cont then
      { m with
        cmds := m.cmds.map fun c => if c.tag = h.tag then { c with payload := c.payload ++ payload, whole := !more } else c
        chain := if more then m.chain.map fun c => { c with next := c.next + 1 } else none }
    else
      { m with
        cmds := m.cmds ++ [h.cmd payload s.time]
        chain := if more then some ⟨h.cls, h.code, h.tag, h.arg0, h.arg1, h.total, 1⟩ else none
        ended := m.ended.filter fun t => t ≠ h.tag }

/-- The module takes the packet at the consumer pointer, once the producer pointer covers all of it (R33). -/
def takePacket (s : State) (mb : Nat) : State :=
  let m := mbAt s mb
  let o := ptrOff m.cmdCons
  let hdr := ringRead s mb o 64
  let (found, size) := findPacket hdr o
  if !serving s mb || m.cmdProd = m.cmdCons || ptrDist (2 ^ 20) m.cmdProd m.cmdCons < size then s
  else
    let h := parseHeader hdr
    let payload := ringRead s mb (o + 64) h.plen
    let s := setMb s mb fun m => { m with cmdCons := ptrAdd (2 ^ 20) m.cmdCons size }
    match found with
    | .pad => s
    | .badCrc => reject s mb h false stHeaderCrc
    | .odd => reject s mb h true stMalformed
    | .packet =>
      match checkHeader s mb h with
      | some e => reject s mb h true e
      | none =>
        match checkChain (mbAt s mb) h payload with
        | some e => reject s mb h true e
        | none => accept s mb h payload

def execPacketAcknowledge (mb : Nat) (s : State) : Out := onUnit mb 16 (.next (takePacket s mb))

/-- PAD (R29): a whole pad at the consumer pointer takes the rest of the ring and leaves no record. -/
def execPad (mb : Nat) (s : State) : Out :=
  onUnit mb 16 <|
    let o := ptrOff (mbAt s mb).cmdCons
    .next (if (findPacket (ringRead s mb o 64) o).1 = .pad then takePacket s mb else s)

/-! ### Sessions (R43 to R48) -/

/-- The 16 bytes of the serial number (R471, log 10). -/
def serialBytes : List Byte := (List.range 16).map Config.serial

/-- The fields both proofs are computed over (R43). -/
def sessionFields (mb : Nat) (ch : Challenge) (base : DWord) (size : Nat) : List Byte :=
  le 1 mb ++ serialBytes ++ ch.device ++ ch.host ++ le 8 base.toNat ++ le 1 size

/-- An AUTH_FAILED result counts; from the third on it locks the mailbox out (R44). -/
def authFailed (s : State) (mb : Nat) : State :=
  let n := (mbAt s mb).fails + 1
  setMb s mb fun m => { m with
    fails := n
    lockEnd := if 3 ≤ n then some (s.time + 1000000000 * min 64 (2 ^ (n - 3))) else m.lockEnd }

/-- OPEN: a new challenge of fresh nonces. -/
def openBody (mb : Nat) (c : Cmd) (s : State) : State :=
  let m := mbAt s mb
  if !clean c 0 0 true || c.payload.length ≠ 32 then finish s mb c stMalformed
  else if m.session.isSome then finish s mb c stResource
  else
    let nonce := freeBytes s 32
    let s := setMb (bump s 32) mb fun m => { m with challenge := some ⟨c.payload, nonce, m.cplBase, m.cplSize, s.time⟩ }
    finish s mb c 0 (nonce ++ serialBytes)

def execOpenSession (mb : Nat) (tag : DWord) (s : State) : Out := mbCommand mb tag 1 1 (openBody mb) s

/-- Whether a proof opens the session (R44). -/
def proofHolds (s : State) (mb : Nat) (mac : List Byte) : Bool :=
  let m := mbAt s mb
  match m.challenge, s.fw.ownerKey with
  | some ch, some key =>
    s.time ≤ ch.time + 1000000000 && ch.base = m.cplBase && ch.size = m.cplSize &&
      mac = hmac key (ascii "TK9-OPEN" ++ sessionFields mb ch m.cplBase m.cplSize)
  | _, _ => false

/-- PROVE consumes the challenge; a proof that holds opens the session and locks the ring registers in the same instant (R477). -/
def proveBody (mb : Nat) (c : Cmd) (s : State) : State :=
  let m := mbAt s mb
  if !clean c 0 0 true || c.payload.length ≠ 48 then finish s mb c stMalformed
  else if m.session.isSome then finish s mb c stResource
  else if proofHolds s mb c.payload then
    let fields := m.challenge.elim [] fun ch => sessionFields mb ch m.cplBase m.cplSize
    let id := (freeWord s).setWidth 32
    let idb := le 4 id.toNat
    let mac := hmac (s.fw.ownerKey.getD []) (ascii "TK9-PROVE" ++ fields ++ idb)
    let s := setMb (bump s 1) mb fun m =>
      { m with session := some ⟨id, 1, fields⟩, challenge := none, fails := 0, lockEnd := none }
    finish s mb c 0 (idb ++ mac)
  else finish (authFailed (setMb s mb fun m => { m with challenge := none }) mb) mb c stAuth

def execProve (mb : Nat) (tag : DWord) (s : State) : Out := mbCommand mb tag 1 2 (proveBody mb) s

/-- PROVISION: the payload becomes the owner key. -/
def provisionBody (mb : Nat) (c : Cmd) (s : State) : State :=
  if !clean c 0 0 true || c.payload.length ≠ 48 then finish s mb c stMalformed
  else if s.fw.ownerKey.isSome then finish s mb c stNotPermitted
  else finish (fbEntry { s with fw := { s.fw with ownerKey := some c.payload } } 18 0) mb c 0

def execProvision (mb : Nat) (tag : DWord) (s : State) : Out := mbCommand mb tag 1 4 (provisionBody mb) s

/-- ROTATE (R48): the new key counts once its confirmation verifies under it. -/
def rotateBody (mb : Nat) (c : Cmd) (s : State) : State :=
  if !clean c 0 0 true || c.payload.length ≠ 96 then finish s mb c stMalformed
  else
    match (mbAt s mb).session, s.fw.ownerKey with
    | some q, some key =>
      let new := List.zipWith (· ^^^ ·) (c.payload.take 48) (hmac key (ascii "TK9-ROTATE" ++ q.fields))
      if c.payload.drop 48 = hmac new (ascii "TK9-CONFIRM" ++ le 4 q.id.toNat) then
        finish (fbEntry { s with fw := { s.fw with ownerKey := some new } } 18 0) mb c 0
      else finish (authFailed s mb) mb c stAuth
    | _, _ => finish s mb c stNoSession

def execRotate (mb : Nat) (tag : DWord) (s : State) : Out := mbCommand mb tag 1 5 (rotateBody mb) s

/-- CHALLENGE_EXPIRY (R44): a challenge of 1 s is of no more use. -/
def execChallengeExpiry (mb : Nat) (s : State) : Out :=
  onUnit mb 16 <|
    match (mbAt s mb).challenge with
    | some ch => .next (setMb (advance s (ch.time + 1000000000)) mb fun m => { m with challenge := none })
    | none => .next s

/-- LOCKOUT_EXPIRY (R44): OPEN and PROVE are answered again; the count stays. -/
def execLockoutExpiry (mb : Nat) (s : State) : Out :=
  onUnit mb 16 <|
    match (mbAt s mb).lockEnd with
    | some t => .next (setMb (advance s t) mb fun m => { m with lockEnd := none })
    | none => .next s

/-! ### ECHO and EVENT_MASK (R49, R504, R458) -/

def echoBody (mb : Nat) (c : Cmd) (s : State) : State :=
  if !clean c 0 0 true then finish s mb c stMalformed
  else if 2 ^ 20 < c.payload.length then finish s mb c stTooLong
  else finish s mb c 0 c.payload

def execEcho (mb : Nat) (tag : DWord) (s : State) : Out := mbCommand mb tag 2 5 (echoBody mb) s

def eventMaskBody (mb : Nat) (c : Cmd) (s : State) : State :=
  if !clean c all64 0 false then finish s mb c stMalformed
  else finish { s with tel := { s.tel with mask := c.arg0 } } mb c 0

def execEventMask (mb : Nat) (tag : DWord) (s : State) : Out := mbCommand mb tag 2 3 (eventMaskBody mb) s

/-! ### Mailbox registers (R473 to R478) -/

/-- CPL_CONSUMER (R475): a value that the rule admits releases ring space, and held records are written. -/
def cplConsumer (s : State) (mb : Nat) (v : Word) : State :=
  let m := mbAt s mb
  let size := if m.cplSize = 0 then 0 else 2 ^ m.cplSize
  if !serving s mb then s
  else if bits v.toNat 31 27 ≠ 0 ∨ bits v.toNat 5 0 ≠ 0 ∨ size ≤ ptrOff v ∨
      ptrDist size m.cplProd m.cplCons < ptrDist size m.cplProd v then setMbStatus s mb sBadRelease
  else flushHeld (setMb s mb fun m => { m with cplCons := v }) mb

def execCplConsumerWrite (mb : Nat) (value : Word) (s : State) : Out :=
  onUnit mb 16 (.next (if s.pwr.endpoint then cplConsumer s mb value else s))

/-- A write to CPL_BASE_LO (0), CPL_BASE_HI (1) or CPL_SIZE (2) (R476). -/
def cplConfig (s : State) (mb reg : Nat) (v : Word) : State :=
  let m := mbAt s mb
  let busy := !m.cmds.isEmpty || !m.held.isEmpty
  let size := bits v.toNat 7 0
  let badSize := reg = 2 && size ≠ 0 && (size < 20 || 26 < size)
  if !serving s mb then s
  else if m.session.isSome || busy || badSize then
    let s := if m.session.isSome then setMbStatus s mb sLockViolation else s
    if busy || badSize then setMbStatus s mb sConfigRefused else s
  else setMb s mb fun m => { m with
    cplBase := match reg with
      | 0 => BitVec.ofNat 64 (2 ^ 32 * bits m.cplBase.toNat 63 32 + 4096 * bits v.toNat 31 12)
      | 1 => BitVec.ofNat 64 (2 ^ 32 * v.toNat + bits m.cplBase.toNat 31 0)
      | _ => m.cplBase
    cplSize := if reg = 2 then size else m.cplSize
    cplProd := 0
    cplCons := 0 }

def execCplRingConfig (mb reg : Nat) (value : Word) (s : State) : Out :=
  onUnit mb 16 (onUnit reg 3 (.next (if s.pwr.endpoint then cplConfig s mb reg value else s)))

/-- IRQ_HOLDOFF (R473). -/
def irqHoldoff (s : State) (mb : Nat) (v : Word) : State :=
  let us := bits v.toNat 15 0
  if !serving s mb then s
  else if 10000 < us then setMbStatus s mb sConfigRefused
  else setMb s mb fun m => { m with holdoff := us }

def execIrqHoldoffWrite (mb : Nat) (value : Word) (s : State) : Out :=
  onUnit mb 16 (.next (if s.pwr.endpoint then irqHoldoff s mb value else s))

/-- IRQ_HOLDOFF_EXPIRY (R480): one vector for every record written during the holdoff. -/
def execIrqHoldoffExpiry (mb : Nat) (s : State) : Out :=
  onUnit mb 16 <|
    let m := mbAt s mb
    if m.irqWait then
      let s := advance s (m.irqLast.getD 0 + m.holdoff * 1000)
      .next (raiseVector (setMb s mb fun m => { m with irqWait := false, irqLast := some s.time }) mb)
    else .next s

/-- Write-one-to-clear of the mailbox status (R478). -/
def clearMbStatus (s : State) (mb : Nat) (v : Word) : State :=
  if serving s mb then setMb s mb fun m => { m with status := m.status &&& ~~~v.setWidth 6 } else s

def execMailboxStatusClear (mb : Nat) (value : Word) (s : State) : Out :=
  onUnit mb 16 (.next (if s.pwr.endpoint then clearMbStatus s mb value else s))

/-! ### Error registers, time and MSI-X (R472, R481, R482) -/

def clearErrors (s : State) (v : Word) : State :=
  { s with host := { s.host with errBits := s.host.errBits &&& ~~~(v >>> 16).setWidth 6 } }

def execErrorStatusClear (value : Word) (s : State) : Out := .next (if s.pwr.endpoint then clearErrors s value else s)

/-- TIME_HI is latched (R472). -/
def latchTime (s : State) : State := { s with pwr := { s.pwr with timeHi := BitVec.ofNat 32 (s.time / 2 ^ 32) } }

/-- FUNCTION_MASK_WRITE (R482): the pending vectors that no entry masks are sent. -/
def execFunctionMaskWrite (s : State) : Out :=
  .next (if s.pwr.endpoint then sendPending { s with host := { s.host with funcMask := false } } else s)

/-- VECTOR_SPACING_EXPIRY (R458, R481): one message for what came within the 10 µs. -/
def execVectorSpacingExpiry (vector : Nat) (s : State) : Out :=
  if vector = 16 then
    .next <| if s.host.evWait then
      let s := advance s (s.host.evLast.getD 0 + 10000)
      raiseVector { s with host := { s.host with evWait := false, evLast := some s.time } } 16 else s
  else if vector = 17 then
    .next <| if s.host.errWait then
      let s := advance s (s.host.errLast.getD 0 + 10000)
      raiseVector { s with host := { s.host with errWait := false, errLast := some s.time } } 17 else s
  else .refused .noSuchUnit

/-- A write to word `w` of an MSI-X table entry. -/
def msixWrite (s : State) (k w : Nat) (v : Word) : State :=
  let f (e : Msix) : Msix :=
    match w with
    | 0 => { e with addr := BitVec.ofNat 64 (2 ^ 32 * bits e.addr.toNat 63 32 + 4 * bits v.toNat 31 2) }
    | 1 => { e with addr := BitVec.ofNat 64 (2 ^ 32 * v.toNat + bits e.addr.toNat 31 0) }
    | 2 => { e with data := v }
    | _ => { e with masked := v.getLsbD 0 }
  sendPending { s with host := { s.host with msix := s.host.msix.modify k f } }

/-- A 4-byte write to BAR2 (R468, R473, R481, R482); read-only and reserved offsets ignore it. -/
def barWrite (s : State) (off : Nat) (v : Word) : State :=
  if off = 0x2000 then clearErrors s v
  else if off = 0x2004 then { s with host := { s.host with errEnable := v.setWidth 22 } }
  else if 0x20000 ≤ off ∧ off < 0x20200 then msixWrite s ((off - 0x20000) / 16) (off % 16 / 4) v
  else if 0x10000 ≤ off ∧ off < 0x11000 then
    let mb := (off - 0x10000) / 0x100
    match off % 0x100 with
    | 0x00 => doorbell s mb v
    | 0x0C => cplConsumer s mb v
    | 0x10 => cplConfig s mb 0 v
    | 0x14 => cplConfig s mb 1 v
    | 0x18 => cplConfig s mb 2 v
    | 0x1C => clearMbStatus s mb v
    | 0x28 => irqHoldoff s mb v
    | _ => s
  else s

/-- REGISTER_WRITE (R469): 4 bytes, or 8 as two of 4 with the lower offset first; anything else writes nothing and sets
ACCESS_ERROR. -/
def execRegisterWrite (offset size : Nat) (value : DWord) (s : State) : Out :=
  .next <|
    if !s.pwr.endpoint then s
    else if size = 4 ∧ offset % 4 = 0 then barWrite s offset (value.setWidth 32)
    else if size = 8 ∧ offset % 8 = 0 then barWrite (barWrite s offset (value.setWidth 32)) (offset + 4) ((value >>> 32).setWidth 32)
    else setError s 4

end Sys2Proof.Machine
end

