-- ==== Sys2Proof/Machine/Far.lean ====
section
/-! DEFINITION. Far.lean: far ports, their paths and frames, MACsec associations, optics (15_far_ports.md; 21_module_hardware.md, R487, R488). -/

namespace Sys2Proof.Machine

def stFarState : Nat := 0x0A50
def stFarKeyState : Nat := 0x0A51

/-! ### Clocks, limits, expiry (R364 to R366) -/

/-- The estimate in use on a path: the offset of the peer's clock and its error bound e, from the samples of the last second. -/
def farClock (s : State) (q : FarPath) : Option (Int × Nat) :=
  let fresh := q.samples.filter fun x => s.time ≤ x.1 + 1000000000
  (fresh.foldl (fun (best : Option (Int × Nat)) x =>
    match best with
    | none => some x.2
    | some b => if x.2.2 < b.2 then some x.2 else best) none).map fun x => (x.1, x.2 + 1000)

/-- Whether a path carries DATA: it is open, and its estimate is within 1 ms (R358, R366). -/
def farReady (s : State) (q : FarPath) : Bool := q.state = 1 && (farClock s q).any fun x => x.2 ≤ 1000000

/-- The limit of a packet that entered at `entry` and is transmitted now (R364). -/
def farLimit (s : State) (entry : Nat) (p : Packet) : Nat :=
  if vcOf p.type = 0 then min (entry + 8000000) (s.time + 3000000) else entry + 8000000

/-- The packets of a frame that can still arrive before their limits. -/
def farAlive (s : State) (q : FarPath) (ps : List (Nat × Packet)) : List (Nat × Packet) :=
  ps.filter fun e => s.time + q.srtt / 2 ≤ farLimit s e.1 e.2

/-- EXPIRY of a frame (R365). Of an empty one nothing depends on it, and the manual does not give it: it is free. -/
def farExpiry (s : State) (q : FarPath) (ps : List (Nat × Packet)) : Word :=
  match (ps.map fun e => farLimit s e.1 e.2).min? with
  | none => (freeWord s).setWidth 32
  | some l =>
    let (off, e) := (farClock s q).getD (0, 0)
    BitVec.ofInt 32 (((l : Int) + off - (e : Int)) / 1000)

/-- Remembers the limits of the VC0 packets of this module's transactions that go out (R368). -/
def noteLimits (s : State) (ps : List (Nat × Packet)) : State :=
  let mine := ps.filterMap fun e =>
    if vcOf e.2.type = 0 && some e.2.sender = s.fab.device then
      (s.fab.txs.find? fun t => t.domain = e.2.domain && t.label = e.2.label).map fun t => (t.owner, s.time, farLimit s e.1 e.2)
    else none
  { s with far := { s.far with limits := (s.far.limits.filter fun x => s.time ≤ x.2.2) ++ mine } }

/-! ### Paths (R358) -/

/-- Gives the credit a path holds and has not used back to its port's pool. -/
def farReturn (s : State) (n : Nat) (q : FarPath) : State := setFar s n fun x => { x with pool := x.pool + (4096 * q.granted - q.recv) }

/-- Resets a path: the next EPOCH from SEQ 0, what was sent and not acknowledged is discarded, HELLO goes out. -/
def resetPath (s : State) (n peer : Nat) : State :=
  match pathAt s n peer with
  | none => s
  | some q =>
    let s := setFar (farReturn s n q) n fun x => { x with resets := x.resets + 1 }
    let s := setPath s n peer fun q => { q with
      state := 2, epoch := (q.epoch + 1) % 65536, nextSeq := 0, expect := 0, unacked := [], credit := 0, used := 0, granted := 0, recv := 0,
      demand := 0, dueCount := 0, lastNak := none, ackMoved := s.time }
    farControlFrame s n peer 3

def resetPaths (s : State) (n : Nat) : State := ((farAt s n).paths.map (·.peer)).foldl (fun s p => resetPath s n p) s

/-- A port leaves service for DOWN or FAILED: nothing leaves it, and its paths are reset. -/
def farDown (s : State) (n : Nat) (st : FarState) : State := resetPaths (setFar s n fun x => { x with state := st, stopped := none, held := none }) n

/-- Grants free pool to the paths that report DEMAND, in equal shares, up to 256 KiB a path (R363); an ACK brings the credit. -/
def farGrant (s : State) (n : Nat) : State :=
  let wants := (farAt s n).paths.filter fun q => q.demand ≠ 0
  let share := (farAt s n).pool / (4096 * wants.length)
  wants.foldl (fun s q =>
    let more := min share (64 - (4096 * q.granted - q.recv + 4095) / 4096)
    if more = 0 then s
    else
      let s := setFar s n fun x => { x with pool := x.pool - 4096 * more }
      farControlFrame (setPath s n q.peer fun q => { q with granted := q.granted + more }) n q.peer 2) s

/-! ### Survey windows (R371) -/

/-- A survey window of a port is over: the port serves again (R371). -/
def closeFar (s : State) (n : Nat) : State :=
  match (farAt s n).held with
  | none => s
  | some t =>
    let s := advance s (t + 20000)
    setFar s n fun x => { x with state := if x.state = .held then .up else x.state, held := none, window := s.time, tuned := s.time }

/-- Closes the window of a port when its time is over. -/
def endFarWindow (s : State) (n : Nat) : State := if (farAt s n).held.any fun t => t + 20000 ≤ s.time then closeFar s n else s

/-- Closes every window of a far port whose time is over. -/
def endFarWindows (s : State) : State := (List.range 8).foldl endFarWindow s

/-! ### Sending DATA (R356, R360, R361, R363) -/

/-- Takes packets for a frame, in the order in which they entered: how much room is left in the frame, how much credit, whether a packet that
needs credit waits already. What is taken and what stays. -/
def farPick (peer : Nat) : Nat → Nat → Bool → List (Nat × Packet) → List (Nat × Packet) × List (Nat × Packet)
  | _, _, _, [] => ([], [])
  | room, credit, waits, e :: rest =>
    let n := 48 + e.2.payload.length
    let pays := needsCredit peer e.2
    if pays && (waits || credit < n) then
      let (a, b) := farPick peer room credit true rest
      (a, e :: b)
    else if room < n then ([], e :: rest)
    else
      let (a, b) := farPick peer (room - n) (if pays then credit - n else credit) waits rest
      (e :: a, b)

/-- Bytes of packets, and of those that take credit. -/
def farBytes (ps : List (Nat × Packet)) : Nat := ps.foldl (fun k e => k + 48 + e.2.payload.length) 0
def farPaid (peer : Nat) (ps : List (Nat × Packet)) : Nat := farBytes (ps.filter fun e => needsCredit peer e.2)

/-- Puts a DATA frame on the fibre. -/
def farData (s : State) (n : Nat) (q : FarPath) (seq : Nat) (ps : List (Nat × Packet)) : State :=
  let f := farFrame s n q 1
  let s := farEmit (noteLimits s ps) n q { f with
    expiry := farExpiry s q ps, seq := BitVec.ofNat 64 seq, txTime := 0, echoTime := 0, echoHold := 0, demand := 0, incarnation := 0,
    packets := ps.map (·.2) }
  let s := if ps.isEmpty then bump s 1 else s
  let wire := 150 + farBytes ps
  setFar s n fun x => { x with txs := x.txs + 1, busy := s.time + (1000 * wire + field x.config 0x14 4 - 1) / field x.config 0x14 4 }

/-- Whether DATA may leave: a port whose next packet number is the last sends none (R370). -/
def farMayData (s : State) (x : FarPort) : Bool := farSends s x && (pXpn x.config || x.txPn < 0xFFFFFFFF)

/-- FAR_FRAME_SEND: one new DATA frame on a path; where only credit is missing, an ACK reports the DEMAND. -/
def farSend (s : State) (n peer : Nat) : State :=
  let s := endFarWindow (advance s (farAt s n).busy) n
  let x := farAt s n
  match pathAt s n peer with
  | none => s
  | some q =>
    if x.state ≠ .up || !farMayData s x || !farReady s q then s
    else
      let live := farAlive s q q.queue
      let (now, later) := farPick peer (field x.config 6 2 - 80) (q.credit - q.used) false live
      let bytes := roundUp (32 + farBytes now) 64 + 64
      if now.isEmpty then
        let s := setPath s n peer fun q => { q with queue := live }
        if live.isEmpty then s else farControlFrame s n peer 2
      else if farBuffer < farUsed x + bytes then s
      else
        let s := farData s n q q.nextSeq now
        setPath s n peer fun q => { q with
          queue := later, nextSeq := q.nextSeq + 1, used := q.used + farPaid peer now, traffic := s.time
          ackMoved := if q.unacked.isEmpty then s.time else q.ackMoved
          unacked := q.unacked ++ [⟨q.nextSeq, now, s.time, s.time, bytes⟩] }

def execFarFrameSend (port peer : Nat) (s : State) : Out := onUnit port 8 (.next (farSend s port peer))

/-- Sends one unacknowledged frame again, stripped of what would come too late. -/
def farAgain (s : State) (n peer : Nat) (f : FarSent) : State :=
  match pathAt s n peer with
  | none => s
  | some q =>
    let ps := farAlive s q f.packets
    let s := farData s n q f.seq ps
    let s := setFar s n fun x => { x with resent := x.resent + 130 + farBytes ps }
    setPath s n peer fun q => { q with
      unacked := q.unacked.map fun g => if g.seq = f.seq then { g with packets := ps, last := s.time } else g }

/-- Go-back-N: every unacknowledged frame again, from the oldest. The oldest counts as lost (log 46). -/
def goBack (s : State) (n peer : Nat) : State :=
  match pathAt s n peer with
  | none => s
  | some q =>
    let x := farAt s n
    if q.unacked.isEmpty || !(x.state = .up || x.state = .stopped) || !farMayData s x || !farReady s q then s
    else
      let s := countUp (setFar s n fun x => { x with lost := x.lost + 1 }) cFarLost 1
      let s := q.unacked.foldl (fun s f => farAgain s n peer f) s
      setPath s n peer fun q => { q with ackMoved := s.time }

/-! ### Receiving (R356 to R360, R366, R369) -/

/-- A frame that MACsec discards counts as lost (R369). -/
def farIcv (s : State) (n : Nat) : State :=
  countUp (countUp (setFar s n fun x => { x with icv := x.icv + 1, lost := x.lost + 1 }) cFarIcv 1) cFarLost 1

/-- Whether a header is for this port and from the same port of another module (R355, R357). -/
def farHeaderOk (s : State) (n : Nat) (f : FarFrame) : Bool :=
  f.dst = farAddr (s.fab.device.getD 0) n && bits f.src.toNat 23 21 = n

/-- A receiving association has taken a packet number. -/
def farTook (s : State) (n an pn : Nat) : State :=
  setFar s n fun x => { x with assocs := x.assocs.map fun a => if !a.tx && a.an = an then { a with next := max a.next (pn + 1) } else a }

/-- What the transport of a port gets out of a frame: nothing, or a header and payload. What is not IPv6 and UDP for this port is discarded
(R354); a frame whose header is wrong, or another port's, is counted (R357). -/
def farReceive (s : State) (n : Nat) (b : List Byte) : State × Option FarFrame :=
  let x := farAt s n
  match macReceive x.config x.assocs b with
  | .ignored => (s, none)
  | .lost => (farIcv s n, none)
  | .plain an pn bs =>
    let s := farTook s n an pn
    match ipBody x.config n (s.fab.device.getD 0) bs with
    | none => (s, none)
    | some u =>
      match (parseMessage u).filter (farHeaderOk s n) with
      | some f => (s, some f)
      | none => (setFar s n fun x => { x with dropped := x.dropped + 1 }, none)

/-- Whether a port receives (R367, R373). -/
def farListens (s : State) (x : FarPort) : Bool := s.fab.device.isSome && (x.state = .up || x.state = .held || x.state = .stopped)

/-- A frame of KIND `k` reaches a port: `take` is what becomes of one that passes, with its sender. A frame of another KIND is no such event. -/
def farArrive (k n : Nat) (b : List Byte) (take : FarFrame → State → Nat → State) (s : State) : Out :=
  onUnit n 8 <| .next <|
    let s := endFarWindow s n
    if !farListens s (farAt s n) then s
    else
      match farReceive s n b with
      | (t, some f) => if f.kind.toNat % 16 = k then take f t (bits f.src.toNat 20 0) else s
      | (t, none) => t

/-- The CREDIT field of a frame: cumulative, modulo 2^16 units. -/
def farCredit (s : State) (n peer : Nat) (f : FarFrame) : State :=
  setPath s n peer fun q =>
    let more := (f.credit.toNat + 65536 - q.credit / 4096 % 65536) % 65536
    if more < 32768 then { q with credit := q.credit + 4096 * more } else q

/-- The ACK field of a frame: frames before it are released; one that names a SEQ never sent resets the path. -/
def farAck (s : State) (n peer : Nat) (f : FarFrame) : State :=
  match pathAt s n peer with
  | none => s
  | some q =>
    let base := q.nextSeq - q.unacked.length
    let k := (f.ack.toNat + 2 ^ 32 - base % 2 ^ 32) % 2 ^ 32
    if k ≤ q.unacked.length then
      setPath s n peer fun q => { q with unacked := q.unacked.drop k, ackMoved := if k = 0 then q.ackMoved else s.time }
    else if k < 2 ^ 31 then resetPath s n peer
    else s

/-- The clock sample and the round trip that an ACK or HELLO brings (R366), and its TX_TIME to be echoed. -/
def farSample (s : State) (n peer : Nat) (f : FarFrame) : State :=
  let t1 := f.echoTime.toNat
  let hold := f.echoHold.toNat
  let t3 := f.txTime.toNat
  setPath s n peer fun q =>
    let q := { q with echo := some (t3, s.time) }
    if t1 = 0 || s.time < t1 + hold then q
    else
      let off : Int := (((t3 : Int) - hold - t1) + ((t3 : Int) - s.time)) / 2
      let rtt := s.time - t1 - hold
      let fresh := q.samples.filter fun x => s.time ≤ x.1 + 1000000000
      { q with samples := fresh ++ [(s.time, off, rtt / 2)], srtt := if q.srtt = 0 then rtt else Config.smooth q.srtt rtt }

/-- One more DATA frame to acknowledge: the sixteenth brings the ACK. -/
def farDue (s : State) (n peer : Nat) : State :=
  let s := setPath s n peer fun q => { q with
    dueCount := q.dueCount + 1, dueSince := if q.dueCount = 0 then s.time else q.dueSince }
  if (pathAt s n peer).any fun q => 16 ≤ q.dueCount then farControlFrame s n peer 2 else s

/-- The payload of an accepted frame: delivered, or absorbed when EXPIRY has passed. -/
def farDeliver (s : State) (n peer : Nat) (f : FarFrame) : State :=
  let own := s.fab.device.getD 0
  let paid := f.packets.foldl (fun k p => if needsCredit own p then k + 48 + p.payload.length else k) 0
  let s := setPath s n peer fun q => { q with recv := q.recv + paid }
  let s := if f.broken then fabCount s 0 1 else s
  if 0 < (f.expiry - BitVec.ofNat 32 (s.time / 1000)).toInt then
    { s with fab := { s.fab with ingress := s.fab.ingress ++ f.packets.map fun p => (s.time, { p with port := 64 + n }) } }
  else setFar s n fun x => { x with expired := x.expired + 1, pool := x.pool + paid }

/-- DATA (R359). -/
def takeFarData (n : Nat) (f : FarFrame) (s : State) (peer : Nat) : State :=
  match pathAt s n peer with
  | none => s
  | some q =>
    if f.epoch.toNat ≠ q.epoch then s
    else if f.seq.toNat = q.expect then
      let s := setPath s n peer fun q => { q with expect := q.expect + 1, traffic := s.time }
      farDue (farCredit (farAck (farDeliver s n peer f) n peer f) n peer f) n peer
    else if q.expect < f.seq.toNat && q.lastNak.all (fun t => t + 100000 ≤ s.time) then
      farControlFrame (setPath s n peer fun q => { q with lastNak := some s.time }) n peer 0x12
    else s

def execData (port : Nat) (frame : List Byte) (s : State) : Out := farArrive 1 port frame (takeFarData port) s

/-- ACK (R360), with NAK a request to go back. -/
def takeAck (n : Nat) (f : FarFrame) (s : State) (peer : Nat) : State :=
  match pathAt s n peer with
  | none => s
  | some q =>
    if f.epoch.toNat ≠ q.epoch then s
    else
      let s := setPath (farSample s n peer f) n peer fun q => { q with demand := f.demand.toNat }
      let s := farCredit (farAck s n peer f) n peer f
      farGrant (if f.kind.getLsbD 4 then goBack s n peer else s) n

def execAck (port : Nat) (frame : List Byte) (s : State) : Out := farArrive 2 port frame (takeAck port) s

/-- HELLO (R358): a new INCARNATION resets the path; the ends meet at the later EPOCH (log 47); one without REPLY is answered. -/
def takeHello (n : Nat) (f : FarFrame) (s : State) (peer : Nat) : State :=
  let s :=
    if (pathAt s n peer).isSome || 1024 ≤ (farAt s n).paths.length then s
    else setFar s n fun x => { x with paths := x.paths ++ [newPath x.nextNum peer s.time], nextNum := x.nextNum + 1 }
  match pathAt s n peer with
  | none => s
  | some q =>
    let s :=
      if q.inc.any (· ≠ f.incarnation) then resetPath (setPath s n peer fun q => { q with samples := [], echo := none }) n peer else s
    let ahead := (f.epoch.toNat + 65536 - ((pathAt s n peer).elim 0 (·.epoch))) % 65536
    let s :=
      if 0 < ahead && ahead < 32768 then
        let s := if q.state = 1 then resetPath s n peer else s
        setPath s n peer fun q => { q with epoch := f.epoch.toNat }
      else s
    let s := setPath (farSample s n peer f) n peer fun q => { q with inc := some f.incarnation }
    let same := (pathAt s n peer).any fun q => q.epoch = f.epoch.toNat
    let s := if same then farCredit (farAck (setPath s n peer fun q => { q with state := 1 }) n peer f) n peer f else s
    if f.kind.getLsbD 5 then s else farControlFrame s n peer 0x23

def execHello (port : Nat) (frame : List Byte) (s : State) : Out := farArrive 3 port frame (takeHello port) s

/-! ### Timers -/

/-- An event of a path that is due at a time the path gives. -/
def onPath (n peer : Nat) (k : FarPath → State → State) (s : State) : Out :=
  onUnit n 8 <| .next <| match pathAt s n peer with | none => s | some q => k q s

/-- ACK_TIMER: 10 µs after the first DATA frame that is not acknowledged (R360). -/
def execAckTimer (port peer : Nat) (s : State) : Out :=
  onPath port peer (fun q s => if q.dueCount = 0 then s else farControlFrame (advance s (q.dueSince + 10000)) port peer 2) s

/-- RETRANSMIT_TIMEOUT: the ACK has not advanced for the round trip plus 200 µs (R360). -/
def execRetransmitTimeout (port peer : Nat) (s : State) : Out :=
  onPath port peer (fun q s => if q.unacked.isEmpty then s else goBack (advance s (q.ackMoved + q.srtt + 200000)) port peer) s

/-- PATH_RESET_TIMEOUT: the oldest frame is 8 ms old (R358). -/
def execPathResetTimeout (port peer : Nat) (s : State) : Out :=
  onPath port peer (fun q s => match q.unacked.head? with
    | none => s
    | some f => resetPath (advance s (f.first + 8000000)) port peer) s

/-- STOP_RESET_TIMEOUT: 8 ms after a stop (R367). -/
def execStopResetTimeout (port : Nat) (s : State) : Out :=
  onUnit port 8 <| .next <|
    match (farAt s port).stopped with
    | none => s
    | some t => resetPaths (setFar (advance s (t + 8000000)) port fun x => { x with stopped := none }) port

/-- PATH_IDLE_CLOSE: after 60 s without traffic (R358). -/
def execPathIdleClose (port peer : Nat) (s : State) : Out :=
  onPath port peer (fun q s =>
    setFar (farReturn (advance s (q.traffic + 60000000000)) port q) port fun x => { x with paths := x.paths.filter fun y => y.peer ≠ peer }) s

/-- KEEPALIVE: after 10 ms (R366). A path that is not open sends HELLO again. -/
def execKeepalive (port peer : Nat) (s : State) : Out :=
  onPath port peer (fun q s => farControlFrame (advance s (q.lastSent + 10000000)) port peer (if q.state = 1 then 2 else 3)) s

/-! ### Ports (R367, R371, R373, R487, R488) -/

/-- A survey window opens at a port that is UP: at `due`, no sooner than 10 ms after its last, with no other far port HELD, and once the port
has finished the frame it sends, which takes 1 µs at most (R371). -/
def openFar (s : State) (n due : Nat) : State :=
  let s := (List.range 8).foldl closeFar s
  let s := advance s (max due ((farAt s n).window + 10000000) + 1000)
  setFar s n fun x => { x with state := .held, held := some s.time }

/-- FAR_RETUNE: every 60 s, or at once when the far end reports more than 1 in 10⁵ symbols corrected; of a HELD port, the end of its window. -/
def farRetune (s : State) (n corrected symbols : Nat) : State :=
  let x := farAt s n
  if x.state = .held then closeFar s n
  else if x.state = .up then openFar s n (if symbols < 100000 * corrected then s.time else x.tuned + 60000000000)
  else s

def execFarRetune (port corrected symbols : Nat) (s : State) : Out := onUnit port 8 (.next (farRetune s port corrected symbols))

/-- A far port goes FAILED (R371). -/
def failFar (s : State) (n : Nat) : State :=
  event (fbState (fbEntry (farDown s n .failed) 10 (BitVec.ofNat 64 n))) 16 (128 + n)

def execFarRetrain (port : Nat) (relocked : Bool) (s : State) : Out :=
  onUnit port 8 <| .next <|
    let st := (farAt s port).state
    if (st = .up || st = .held || st = .stopped) && !relocked then failFar (advance s (s.time + 5000000)) port else s

/-- A port comes UP: paths that are not open exchange HELLO. -/
def farUp (s : State) (n : Nat) : State :=
  let s := setFar s n fun x => { x with state := .up, stopped := none, tuned := s.time }
  ((farAt s n).paths.filter fun q => q.state ≠ 1).foldl (fun s q => farControlFrame s n q.peer 3) s

def execFarPortTrained (port : Nat) (s : State) : Out :=
  onUnit port 8 (.next (if (farAt s port).state = .train then farUp s port else s))

/-- OPTIC_INSERTED (R487): powered within 16 W. Management that does not answer takes 2 s. -/
def execOpticInserted (port : Nat) (power : Option Nat) (own : Option TempLimits) (s : State) : Out :=
  onUnit port 8 <| .next <|
    if (farAt s port).optic.isSome then s
    else
      let good := power.any fun p => p ≤ 16000
      setFar (if power.isNone then advance s (s.time + 2000000000) else s) port fun x => { x with
        optic := some (power, good), own, refused := if good then x.refused else x.refused + 1 }

def execOpticRemoved (port : Nat) (s : State) : Out :=
  onUnit port 8 <| .next <|
    if (farAt s port).optic.isSome then farDown (setFar s port fun x => { x with optic := none, own := none }) port .down else s

/-! ### Commands (R372, R373) -/

/-- Checks of a port record. -/
def farRecordOk (r : List Byte) : Bool :=
  field r 0 1 ≤ 7 && bits (field r 1 1) 7 2 = 0 && field r 2 2 ≠ 0 && bits (field r 4 1) 7 6 = 0 && 1 ≤ field r 5 1 &&
    4224 ≤ field r 6 2 && field r 6 2 ≤ 8368 && 1000 ≤ field r 0x14 4 && field r 0x14 4 ≤ 100000 &&
    (if bit (field r 1 1) 1 then field r 0x18 4 ≤ 4095 else field r 0x18 4 = 0) && sub r 0x1C 36 == zeros 36

def farConfigBody (mb : Nat) (c : Cmd) (s : State) : State :=
  let k := c.payload.length / 320
  let rs := (List.range k).map fun i => sub c.payload (320 * i) 320
  let open' (r : List Byte) : Bool :=
    let st := (farAt s (field r 0 1)).state
    st = .down || st = .stopped
  if !clean c 0 0 true || c.payload.length % 320 ≠ 0 || k = 0 || 8 < k || !rs.all farRecordOk then finish s mb c stMalformed
  else if !rs.all open' then finish s mb c stFarState
  else finish (rs.foldl (fun s r => setFar s (field r 0 1) fun x => { x with config := r }) s) mb c 0

def execFarConfig (mb : Nat) (tag : DWord) (s : State) : Out := mbCommand mb tag 10 0x50 (farConfigBody mb) s

/-- The secure association key of a key record (the row WRAPPED_SAK). -/
def farSak (s : State) (mb : Nat) (c : Cmd) : List Byte :=
  let id := (mbAt s mb).session.elim 0 fun q => q.id.toNat
  List.zipWith (· ^^^ ·) (sub c.payload 0x20 32)
    (hmac (s.fw.ownerKey.getD []) (ascii "TK9-SAK" ++ le 4 id ++ le 4 c.seq.toNat))

/-- FAR_KEY (R370). The association that a new one takes over from is gone (log 48). -/
def farKeyBody (mb : Nat) (c : Cmd) (s : State) : State :=
  let p := c.payload
  let n := field p 0 1
  let an := field p 1 1
  let tx := field p 2 1 = 0
  let act := field p 3 1
  let x := farAt s n
  let same (a : Assoc) : Bool := a.an = an && a.tx == decide tx
  let on := tx && x.txAn = some an
  if !clean c 0 0 true || p.length ≠ 64 || 7 < n || 3 < an || 1 < field p 2 1 || 2 < act || (act = 1 && !tx) || !(sub p 0x14 12 == zeros 12) then
    finish s mb c stMalformed
  else
    match act with
    | 0 =>
      if on then finish s mb c stFarKeyState
      else
        let rest := x.assocs.filter fun a => !same a
        if 2 ≤ (rest.filter fun a => a.tx == decide tx).length then finish s mb c stResource
        else
          let a : Assoc := ⟨an, tx, BitVec.ofNat 32 (field p 4 4), sub p 8 12, farSak s mb c, 1⟩
          finish (setFar s n fun x => { x with assocs := rest ++ [a] }) mb c 0
    | 1 =>
      if on then finish s mb c 0
      else if x.assocs.any same then
        finish (setFar s n fun x => { x with
          txAn := some an, txPn := 1, assocs := x.assocs.filter fun a => !(a.tx && x.txAn = some a.an) }) mb c 0
      else finish s mb c stFarKeyState
    | _ => if on then finish s mb c stFarKeyState else finish (setFar s n fun x => { x with assocs := x.assocs.filter fun a => !same a }) mb c 0

def execFarKey (mb : Nat) (tag : DWord) (s : State) : Out := mbCommand mb tag 10 0x51 (farKeyBody mb) s

/-- What FAR_CONTROL does to one port: 0 start, 1 stop, 2 down. -/
def farRequest (s : State) (n how : Nat) : State :=
  let s := if how = 1 then closeFar s n else s
  let x := farAt s n
  match how with
  | 0 =>
    if x.state = .down && x.optic.any (·.2) then setFar s n fun x => { x with state := .train }
    else if x.state = .stopped then farUp s n
    else s
  | 1 => if x.state = .up then setFar s n fun x => { x with state := .stopped, stopped := some s.time } else s
  | _ => farDown s n .down

def farControlBody (mb : Nat) (c : Cmd) (s : State) : State :=
  let ns := (List.range 8).filter fun n => c.arg0.getLsbD n
  if !clean c 0xFF 3 false || c.arg1 = 3 then finish s mb c stMalformed
  else if c.arg1 = 0 && ns.any (fun n => (farAt s n).config.isEmpty || (farAt s n).txAn.isNone) then finish s mb c stFarState
  else finish (ns.foldl (fun s n => farRequest s n c.arg1.toNat) s) mb c 0

def execFarControl (mb : Nat) (tag : DWord) (s : State) : Out := mbCommand mb tag 10 0x52 (farControlBody mb) s

def farCode : FarState → Nat
  | .down => 0
  | .train => 1
  | .up => 2
  | .held => 3
  | .stopped => 4
  | .failed => 5

/-- The status of one port. -/
def farStatus (x : FarPort) : List Byte :=
  let up := x.paths.filter fun q => q.state = 1
  le 1 (farCode x.state) ++ le 1 (x.txAn.getD 0xFF) ++ le 2 up.length ++ le 4 (((up.map (·.srtt)).min?.getD 0) / 1000) ++ le 8 x.txPn ++ le 8 x.sent ++
    le 8 x.resent ++ le 8 (farUsed x) ++ le 4 x.expired ++ le 4 x.icv ++ le 4 x.resets ++ zeros 12

def farQueryBody (mb : Nat) (c : Cmd) (s : State) : State :=
  if !clean c 0 0 false then finish s mb c stMalformed else finish s mb c 0 (s.far.ports.flatMap farStatus)

def execFarQuery (mb : Nat) (tag : DWord) (s : State) : Out := mbCommand mb tag 10 0x53 (farQueryBody mb) s

/-- One path record. ERROR of a path without an estimate is all ones (log 49). -/
def farPathRecord (s : State) (n : Nat) (q : FarPath) : List Byte :=
  le 4 (farAddr q.peer n).toNat ++ le 1 q.state ++ zeros 1 ++ le 2 q.epoch ++ le 4 (q.srtt / 1000) ++ le 4 ((farClock s q).elim 0xFFFFFFFF (·.2)) ++
    le 8 q.nextSeq ++ le 8 (q.nextSeq - q.unacked.length)

def farPathsBody (mb : Nat) (c : Cmd) (s : State) : State :=
  let n := c.arg0.toNat
  if !clean c 7 0 false then finish s mb c stMalformed else finish s mb c 0 ((farAt s n).paths.flatMap (farPathRecord s n))

def execFarPaths (mb : Nat) (tag : DWord) (s : State) : Out := mbCommand mb tag 10 0x54 (farPathsBody mb) s

end Sys2Proof.Machine
end

