-- ==== Sys2Proof/Machine/Flags.lean ====
section
/-! DEFINITION. Flags.lean: the flag words of a core: the non-finite record (R84 to R87) and the fetch status word (R178). -/

namespace Sys2Proof.Machine

/-- A non-finite element of a write: row, column, KIND (R85). -/
abbrev Hit := Nat × Nat × Nat

/-- Units of the non-finite record (R85). -/
def uMatrix : Nat := 0
def uAttn : Nat := 1
def uVector : Nat := 2
def uReduce : Nat := 3
def uScan : Nat := 4
def uConvert : Nat := 5

/-- Doubleword 0 of the record for one write, COUNT and TRAP_EN apart. -/
def nfWord (unit index : Nat) (h : Hit) : Nat :=
  2 ^ 63 + 2 ^ 60 * h.2.2 + 2 ^ 56 * unit + 2 ^ 16 * index + 2 ^ 8 * h.1 + h.2.1

/-- The record after a checked write with non-finite elements `h`, … (R85, R86): the earliest-issued write since VALID was last
clear is kept, COUNT stops at 0xFFFF. -/
def nfUpdate (c : Core) (unit index dest : Nat) (h : Hit) : Core :=
  let v := c.nf0.toNat
  let n := min (bits v 47 32 + 1) 0xFFFF
  if bit v 63 then { c with nf0 := BitVec.ofNat 64 (v - 2 ^ 32 * bits v 47 32 + 2 ^ 32 * n) }
  else
    { c with
      nf0 := BitVec.ofNat 64 (nfWord unit index h + 2 ^ 62 * bits v 62 62 + 2 ^ 32 * n)
      nf1 := BitVec.ofNat 64 dest }

/-- A checked write by the instruction at `i` (R84): it enters the record when it holds a non-finite element, and traps when TRAP_EN
is set (R87). -/
def nfWrite (i : Ctx) (s : State) (unit dest : Nat) (hits : List Hit) : State :=
  match hits with
  | [] => s
  | h :: _ =>
    let s := setCore s i.n fun c => nfUpdate c unit i.l.pc dest h
    if (coreAt s i.n).nf0.getLsbD 62 then stopCore s i.n 1 0 i.l.pc (BitVec.ofNat 64 i.w) 0 none else s

/-- The non-finite elements of a matrix tile, row-major (R84). A NaN block scale counts as KIND 3. -/
def tileHits (sh : Shape) (bs : Array Byte) : List Hit :=
  (List.range (sh.rows * sh.cols)).filterMap fun k =>
    let r := k / sh.cols
    let c := k % sh.cols
    if isMx sh.fmt && tileScale sh.fmt sh.block bs r c = 255 then some (r, c, 3)
    else (nonFinite (decodeElem sh.fmt (tileCode sh.fmt sh.order bs r c))).map fun k => (r, c, k)

/-- The non-finite elements among FP32 words of a register, those that `on` admits (R150). -/
def regHits (t : Elems) (on : Nat → Bool) : List Hit :=
  (List.range 1024).filterMap fun e =>
    if on e then (nonFinite (f32 (el t e))).map fun k => (e / 32, e % 32, k) else none

/-- Records a LATE or FAIL ending in the fetch status word (R178, R193): the earliest-issued one since both were clear is kept. -/
def fswRecord (c : Core) (late : Bool) (order index slot : Nat) : Core :=
  let v := c.fsw.toNat
  let clear := !bit v 63 && !bit v 62
  let n := min ((if clear then 0 else bits v 47 32) + 1) 0xFFFF
  let first := clear || decide (order < c.fswOrder)
  let body := if first then 2 ^ 16 * index + slot else 2 ^ 16 * bits v 28 16 + bits v 12 0
  { c with
    fsw := BitVec.ofNat 64 (2 ^ 63 * b2n (late || bit v 63) + 2 ^ 62 * b2n (!late || bit v 62) + 2 ^ 32 * n + body)
    fswOrder := if first then order else c.fswOrder }

end Sys2Proof.Machine
end

