-- ==== Sys2Proof/Machine/Control.lean ====
section
/-! DEFINITION. Control.lean: the control class of tile instructions (R185, R186), the status words (R178), and how a launch ends or
stops (R183, R204). -/

namespace Sys2Proof.Machine

/-! ### A launch's end and stop -/

/-- The core is idle from now on: its launch is over and its semaphore pairs are forgotten (R201). -/
def clearLaunch (s : State) (n : Nat) : State :=
  setCore s n fun c => { c with launch := none, ending := none, wait := none, stop := none, idleSince := s.time }

/-- END reports a code (R183, R185): a host launch completes its LAUNCH, a scheduled one waits for the sequencer. -/
def endLaunch (s : State) (n : Nat) (l : Launch) (code : Nat) : State :=
  let s := if (coreAt s n).nf0.getLsbD 63 then stepCount s 11 else s
  let s := if 128 ≤ code then stepCount s 13 else s
  match l.host with
  | some (mb, tag) => finishTag (clearLaunch s n) mb tag 0 [] (BitVec.ofNat 64 code)
  | none => setCore s n fun c => { c with ending := some (false, code), idleSince := s.time }

/-- The trap record (R204). -/
def trapRecord (n : Nat) (l : Launch) (t : Stop) : List Byte :=
  le 1 t.kind ++ le 1 t.code ++ le 2 t.index ++ le 4 l.number ++ le 8 t.word.toNat ++ le 8 t.detail.toNat ++ le 4 l.step ++
    le 2 n ++ zeros 2

/-- Empties what a trap, fault, halt or program load leaves empty (R115, R134, R137, R164). -/
def emptyUnits (c : Core) : Core :=
  { c with
    acc := List.replicate 4 none
    u := List.replicate 8 none
    attn := { c.attn with block := none, expand := none, foldQ := none, foldG := none } }

/-- Logs a seal fault record and counts it (R105). -/
def logSeal (s : State) (r : List Byte) : State :=
  let s := countUp (logError s 2 r) cSealFault 1
  { s with tel := { s.tel with sealTimes := s.tel.sealTimes ++ [s.time] } }

/-- A stopped core with nothing in flight reports (R204, R183). -/
def reportStop (s : State) (n : Nat) (l : Launch) (t : Stop) : State :=
  let r := trapRecord n l t
  let c := coreAt s n
  let s := logError s 3 (r ++ le 8 c.nf0.toNat ++ le 8 c.nf1.toNat)
  let s := match t.report with | some q => logSeal s q | none => s
  let s := if c.nf0.getLsbD 63 then stepCount s 11 else s
  let s := setCore s n emptyUnits
  match l.host with
  | some (mb, tag) =>
    if (findCmd s mb tag).any ending then clearLaunch s n else finishTag (clearLaunch s n) mb tag 0x0504 r
  | none => setCore s n fun c => { c with stop := none, ending := some (true, t.kind), idleSince := s.time }

/-! ### Control instructions -/

def execNop (n : Nat) (s : State) : Out := tileInstr 0x01 (fun i => .done i.s) n s

/-- END waits until every earlier instruction and move has completed (R185). -/
def endBody (i : Ctx) : Res :=
  if i.c.moves.isEmpty then .done (endLaunch i.s i.n i.l (i.f 55 48)) else .stall

def execEndProg (n : Nat) (s : State) : Out := tileInstr 0x02 endBody n s

/-- TRAP waits as END does, then stops the core with a trap of kind 2. -/
def trapBody (i : Ctx) : Res :=
  if i.c.moves.isEmpty then .jump (stopCore i.s i.n 2 (i.f 55 48) i.l.pc (BitVec.ofNat 64 i.w) 0 none) i.l.pc else .stall

def execTrap (n : Nat) (s : State) : Out := tileInstr 0x03 trapBody n s

def setshBody (i : Ctx) : Res :=
  .done (setCore i.s i.n fun c => { c with sh := c.sh.set (i.f 55 52) (BitVec.ofNat 24 (i.f 23 0)) })

def execSetsh (n : Nat) (s : State) : Out := tileInstr 0x04 setshBody n s

/-- DLD: entry INDEX of a register tile of descriptors, checked as KIND 01b, FORMAT 0x0. -/
def dldBody (i : Ctx) : Res :=
  let p := i.slot (i.f 51 39) (i.f 38 35)
  i.operand p 8 <| i.check p regShape false <|
    let d := readRun i.s.ctl (tileBase i.n + 512 * p + 32 * i.f 34 28) 32
    .done (setCore (readSlots i.s i.n p 8) i.n fun c => { c with d := c.d.set (i.f 55 52) d })

def execDld (n : Nat) (s : State) : Out := tileInstr 0x05 dldBody n s

def liBody (i : Ctx) : Res :=
  let imm := i.f 31 0
  let v := if i.f 51 51 = 1 then BitVec.ofNat 64 (2 ^ 32 * imm + (i.x (i.f 55 52)).toNat % 2 ^ 32)
    else (BitVec.ofNat 32 imm).signExtend 64
  .done (putX i.s i.n (i.f 55 52) v)

def execLi (n : Nat) (s : State) : Out := tileInstr 0x06 liBody n s

/-- The XALU operations (R185). -/
def xaluOp (op : Nat) (a b : DWord) : DWord :=
  match op with
  | 0 => a + b
  | 1 => a - b
  | 2 => a * b
  | 3 => a &&& b
  | 4 => a ||| b
  | 5 => a ^^^ b
  | 6 => a <<< (b.toNat % 64)
  | 7 => a >>> (b.toNat % 64)
  | 8 => a.sshiftRight (b.toNat % 64)
  | 9 => if a.toInt ≤ b.toInt then a else b
  | 10 => if a.toInt ≤ b.toInt then b else a
  | 11 => if a.toNat ≤ b.toNat then a else b
  | 12 => if a.toNat ≤ b.toNat then b else a
  | _ => 0

def xaluBody (i : Ctx) : Res :=
  let b := if i.f 39 39 = 1 then (BitVec.ofNat 20 (i.f 19 0)).signExtend 64 else i.x (i.f 47 44)
  .done (putX i.s i.n (i.f 55 52) (xaluOp (i.f 43 40) (i.x (i.f 51 48)) b))

def execXalu (n : Nat) (s : State) : Out := tileInstr 0x07 xaluBody n s

/-- Branch conditions (R185). -/
def branchHolds (cond : Nat) (a b : DWord) : Bool :=
  match cond with
  | 0 => a == b
  | 1 => a != b
  | 2 => a.toInt < b.toInt
  | 3 => b.toInt ≤ a.toInt
  | 4 => a.toNat < b.toNat
  | 5 => b.toNat ≤ a.toNat
  | _ => true

def brBody (i : Ctx) : Res :=
  if branchHolds (i.f 47 45) (i.x (i.f 55 52)) (i.x (i.f 51 48)) then .jump i.s (i.f 12 0) else .done i.s

def execBr (n : Nat) (s : State) : Out := tileInstr 0x08 brBody n s

def loopBody (i : Ctx) : Res :=
  let v := i.x (i.f 55 52) - 1
  let s := putX i.s i.n (i.f 55 52) v
  if v ≠ 0 then .jump s (i.f 12 0) else .done s

def execLoop (n : Nat) (s : State) : Out := tileInstr 0x09 loopBody n s

/-- Whether a move that can change the fetch status word is in flight. -/
def fswBusy (c : Core) : Bool :=
  c.moves.any fun m => m.kind = .fetch || m.kind = .movem || m.kind = .gfetch || m.kind = .pop

def brfBody (i : Ctx) : Res :=
  let fail := i.f 49 49 = 1
  let late := i.f 48 48 = 1
  if (fail ∨ late) ∧ fswBusy i.c then .stall
  else if (i.f 50 50 = 1 ∧ i.c.nf0.getLsbD 63) ∨ (fail ∧ i.c.fsw.getLsbD 62) ∨ (late ∧ i.c.fsw.getLsbD 63) then
    .jump i.s (i.f 12 0)
  else .done i.s

def execBrf (n : Nat) (s : State) : Out := tileInstr 0x0A brfBody n s

/-- Status words (R178). The cycle count of selector 6 is a free value: the model keeps no cycles (log 17). -/
def statusWord (i : Ctx) (sel : Nat) : DWord :=
  match sel with
  | 0 => i.c.nf0
  | 1 => i.c.nf1
  | 2 => i.c.fsw
  | 3 => BitVec.ofNat 64 (2 ^ 32 * i.l.number + 2 ^ 16 * i.l.layer + i.l.mb)
  | 4 => BitVec.ofNat 64 (2 ^ 48 * i.l.entry + i.l.step)
  | 5 => BitVec.ofNat 64 (i.n + 2 ^ 8 * i.l.rank + 2 ^ 16 * i.l.size)
  | 6 => freeWord i.s
  | 7 => BitVec.ofNat 64 i.l.deadline
  | 8 => BitVec.ofNat 64 i.s.time
  | 9 => BitVec.ofNat 64 i.l.waitLimit
  | 10 => i.s.job.seed
  | _ => 0

def rdstBody (i : Ctx) : Res :=
  let sel := i.f 51 48
  if sel = 2 ∧ fswBusy i.c then .stall
  else .done (putX (if sel = 6 then bump i.s 1 else i.s) i.n (i.f 55 52) (statusWord i sel))

def execRdst (n : Nat) (s : State) : Out := tileInstr 0x0B rdstBody n s

/-- WRST to the non-finite record (R85): bit 63 clears VALID and COUNT, bit 62 is TRAP_EN. -/
def wrstNf (v w : Nat) : Nat :=
  let v := v - 2 ^ 62 * bits v 62 62 + 2 ^ 62 * bits w 62 62
  if bit w 63 then v - 2 ^ 63 * bits v 63 63 - 2 ^ 32 * bits v 47 32 else v

/-- WRST to the fetch status word (R178): bits 63 and 62 clear; with both clear COUNT clears. -/
def wrstFsw (v w : Nat) : Nat :=
  let v := v - (if bit w 63 then 2 ^ 63 * bits v 63 63 else 0)
  let v := v - (if bit w 62 then 2 ^ 62 * bits v 62 62 else 0)
  if bits v 63 62 = 0 then v - 2 ^ 32 * bits v 47 32 else v

def wrstBody (i : Ctx) : Res :=
  let w := i.x (i.f 55 52)
  match i.f 51 48 with
  | 0 => .done (setCore i.s i.n fun c => { c with nf0 := BitVec.ofNat 64 (wrstNf c.nf0.toNat w.toNat) })
  | 2 => .done (setCore i.s i.n fun c => { c with fsw := BitVec.ofNat 64 (wrstFsw c.fsw.toNat w.toNat) })
  | 9 => .done (setCore i.s i.n fun c => { c with launch := c.launch.map fun l => { l with waitLimit := w.toNat } })
  | _ => .done i.s

def execWrst (n : Nat) (s : State) : Out := tileInstr 0x0C wrstBody n s

def drainBody (i : Ctx) : Res := if i.c.moves.isEmpty then .done i.s else .stall

def execDrain (n : Nat) (s : State) : Out := tileInstr 0x0D drainBody n s

end Sys2Proof.Machine
end

