-- ==== Sys2Proof/Machine/Tier.lean ====
section
/-! DEFINITION. Tier.lean: the frame pool, tiered regions, hints and page moves (12_memory_tiers.md). -/

namespace Sys2Proof.Machine

def stTierBusy : Nat := 0x0A40
def stTierOverlap : Nat := 0x0A41
def stTierWindow : Nat := 0x0A42
def stTierNoPool : Nat := 0x0A43
def stTierUnreachable : Nat := 0x0A44


def mapRegions (s : State) (f : Region → Region) : State := { s with tier := { s.tier with regions := s.tier.regions.map f } }

/-! ### Frames and pins (R268, R283, R284) -/

def frameCount (s : State) : Nat := s.tier.pool.foldl (fun n r => n + r.2 / pageBytes) 0
def frameDie (s : State) (f : Nat) : Nat := if frameAddr s f < half1 then 0 else 1
def dieFrames (s : State) (die : Nat) : List Nat := (List.range (frameCount s)).filter fun f => frameDie s f = die

/-- Frames that hold a page or are promised to one. -/
def usedFrames (s : State) : List Nat :=
  s.tier.pages.filterMap fun p => if p.high then some p.frame else p.move.bind (·.frame)

def regionOf (s : State) (p : Page) : Option Region := s.tier.regions.find? fun r => r.num = p.region

/-- Whether a region may use a frame of a die (field DIE). -/
def dieAllowed (r : Option Region) (die : Nat) : Bool :=
  match r with
  | some r => bits r.flags 4 3 = 2 || bits r.flags 4 3 = die
  | none => false

/-- The first free frame of the dies of a page's region. -/
def freeFrame (s : State) (p : Page) : Option Nat :=
  let used := usedFrames s
  (List.range (frameCount s)).find? fun f => dieAllowed (regionOf s p) (frameDie s f) && !used.contains f

def isPinned (s : State) (p : Page) : Bool := s.time < p.pinEnd

/-- Frames of a die whose page is pinned. -/
def pinnedFrames (s : State) (die : Nat) : Nat :=
  (s.tier.pages.filter fun p => p.high && isPinned s p && frameDie s p.frame = die).length

/-- Whether one more frame of the die of frame `f` may be pinned (R283). -/
def mayPin (s : State) (f : Nat) : Bool :=
  8 * (pinnedFrames s (frameDie s f) + 1) ≤ 7 * (dieFrames s (frameDie s f)).length

/-- The order in which R284 takes victims: STREAM first, then RETAIN, LAST_USE, offset. -/
def victimBefore (s : State) (a b : Page) : Bool :=
  let key (p : Page) : List Nat :=
    match regionOf s p with
    | some r => [if bit r.flags 2 then 0 else 1, r.retain, p.lastUse, p.num]
    | none => [1, 0, p.lastUse, p.num]
  decide (key a < key b)

def pickVictim (s : State) (p : Page) : Option Page :=
  (s.tier.pages.filter fun v =>
    v.high && v.move.isNone && !isPinned s v && dieAllowed (regionOf s p) (frameDie s v.frame)).foldl
    (fun best v => match best with | none => some v | some b => if victimBefore s v b then some v else best) none

/-! ### Outcomes and commands that wait (R282, R269, R274) -/

def oDone : Nat := 0
def oAlready : Nat := 1
def oLate : Nat := 2
def oDeferred : Nat := 3
def oNoFrame : Nat := 4
def oOutside : Nat := 5
def oCancelled : Nat := 6
def oPinLimit : Nat := 7

/-- Gives operation `idx` of a TIER_HINT its outcome; with the last one the command completes. An operation without an outcome stands
as 256. -/
def outcome (s : State) (mb : Nat) (tag : DWord) (idx code : Nat) : State :=
  let s := setMb s mb fun m => { m with cmds := m.cmds.map fun c => if c.tag = tag then { c with aux := c.aux.set idx code } else c }
  match findCmd s mb tag with
  | some c => if c.aux.all (· < 256) then finish s mb c 0 (c.aux.map (BitVec.ofNat 8)) else s
  | none => s

def outcomes (s : State) (ops : List HintOp) (code : HintOp → Nat) : State :=
  ops.foldl (fun s o => outcome s o.mb o.tag o.idx (code o)) s

/-- Whether a page is at rest at level L. -/
def atRest (p : Page) : Bool := !p.high && p.move.isNone

/-- A region whose deletion has demoted every page goes, and the commands that delete it complete (R269). -/
def finishDeletes (s : State) : State :=
  s.tier.regions.foldl (fun s r =>
    if !r.deleting.isEmpty && s.tier.pages.all fun p => p.region ≠ r.num || atRest p then
      r.deleting.foldl (fun s x => finishTag s x.1 x.2 0) { s with tier := { s.tier with
        regions := s.tier.regions.filter fun x => x.num ≠ r.num
        pages := s.tier.pages.filter fun p => p.region ≠ r.num } }
    else s) s

/-- Page numbers of the module. A TIER_FLUSH that demotes keeps in `aux` the numbers of its pages, those whose DEFER it has set again with this
added once, and those whose demotion it has started with this added twice (R289). -/
def pageCount : Nat := 524288

/-- Whether a command is a TIER_FLUSH that demotes and runs. -/
def flushing (c : Cmd) : Bool := c.cls = 10 && c.code = 0x43 && c.started

/-- A TIER_FLUSH that demotes completes when every page it names is at level L (R274). -/
def finishFlushes (s : State) : State :=
  (List.range 16).foldl (fun s mb => (mbAt s mb).cmds.foldl (fun s c =>
    if flushing c && c.aux.all (fun n => (findPage s n).all atRest) then finish s mb c 0 else s) s) s

def tierSettle (s : State) : State := finishFlushes (finishDeletes s)

/-- Whether somebody still waits for a page to reach level L, other than by an operation on its token: a deletion or a flush. -/
def demotionOwed (s : State) (p : Page) : Bool :=
  (regionOf s p).any (fun r => !r.deleting.isEmpty) || s.host.mbs.any fun m => m.cmds.any fun c => flushing c && c.aux.contains p.num

/-! ### Page moves (R271 to R274, R286, R287) -/

/-- Whether the read of the 64 KiB granule `g` of one of a page's places meets an uncorrectable memory error. -/
def granuleFails (s : State) (src g : Nat) : Bool := (badGranule s (src + 65536 * g) 65536).isSome

/-- Copies the 64 KiB granule `g` between a page's two places. What the source cannot give is recorded (R250), and its bytes are undefined at
the other place (log 125). -/
def copyGranule (s : State) (src dst g : Nat) : State :=
  let bad := badGranules s (src + 65536 * g) 65536
  let s := bad.foldl uncorrectable (writePhys s (dst + 65536 * g) (readRun s.dram (src + 65536 * g) 65536))
  bad.foldl (fun s b => if deadAt s (b - src + dst) then s else havocDram s (b - src + dst) 64) s

def pageName (p : Page) : Nat := lpddrBase + p.num * pageBytes

/-- Starts a demotion of a page at level H that has no move; it waits for its token. -/
def wantDemote (s : State) (n cls : Nat) (ops : List HintOp) (heir : Option Nat) : State :=
  setPage s n fun p => { p with move := some ⟨false, false, cls, ops, none, [], 0, heir, none⟩ }

/-- A move in progress holds a token; there are 1,024 (R278). -/
def tokens (s : State) : Nat := (s.tier.pages.filter fun p => p.move.any (·.started)).length

/-- Drops a page's promotion: its generation moves on, the frame is free, the page stays at level L (R287). -/
def cancelPromote (s : State) (n : Nat) (m : PageMove) : State :=
  tierCount (setPage s n fun p => { p with
    gen := if m.started then p.gen + 1 else p.gen
    dirty := 0, defer := false, frame := 0, move := none }) 4 1

/-- Drops a page's demotion: its generation moves on, and the page stays at level H with the granules not written back dirty. -/
def cancelDemote (s : State) (n : Nat) (m : PageMove) : State :=
  tierCount (setPage s n fun p => { p with
    gen := if m.started then p.gen + 1 else p.gen
    dirty := m.left.foldl (fun w g => w ||| (1#32 <<< g)) p.dirty
    move := none }) 4 1

/-- A promotion waits for a frame: it has none and finds none. -/
def wantsFrame (s : State) (p : Page) (m : PageMove) : Bool := !m.started && m.frame.isNone && (freeFrame s p).isNone

/-- A promotion that nobody wants any more is cancelled: what still stands on its token was to demote the page, which is at level L (R287). -/
def abandonPromote (s : State) (n : Nat) (m : PageMove) (rest : List HintOp) : State :=
  tierSettle (outcomes (cancelPromote s n m) rest fun _ => oAlready)

/-- The joined operations whose deadline has passed report LATE, or NO_FRAME while the promotion waits for a frame (R284, R287). With no
promotion left that anybody wants the promotion is cancelled. -/
def expire (s : State) (n : Nat) (past : Nat → Bool) : State :=
  match findPage s n with
  | none => s
  | some p =>
    match p.move with
    | none => s
    | some m =>
      let late := m.ops.filter fun o => o.deadline.any past
      let rest := m.ops.filter fun o => !o.deadline.any past
      if !m.promote || late.isEmpty then s
      else
        let code := if wantsFrame s p m then oNoFrame else oLate
        let s := outcomes (tierCount s 1 late.length) late fun _ => code
        if !rest.any (·.promote) && m.pin.isNone then abandonPromote s n m rest
        else setPage s n fun p => { p with move := some { m with ops := rest } }

/-- Deadlines that have passed by now. -/
def overdue (s : State) (n : Nat) : State := expire s n (· < s.time)

/-- An uncorrectable memory error ends a class D promotion (R280): every promotion that stands on its token reports LATE. -/
def failPromote (s : State) (n : Nat) (m : PageMove) : State :=
  let s := outcomes (tierCount s 1 (m.ops.filter (·.promote)).length) (m.ops.filter (·.promote)) fun _ => oLate
  abandonPromote s n m (m.ops.filter fun o => !o.promote)

/-- PAGE_PROMOTE: the page's waiting promotion takes a token and a frame; with no free frame a victim is demoted for it, and an ON_USE
promotion without a victim is dropped (R284, R285). -/
def pagePromote (s : State) (n : Nat) : State :=
  match findPage s n with
  | none => s
  | some p =>
    match p.move with
    | none => s
    | some m =>
      if !m.promote || m.started || 1024 ≤ tokens s then s
      else
        match m.frame.or (freeFrame s p) with
        | some f => setPage s n fun p => { p with
            gen := p.gen + 1, frame := f, dirty := 0
            move := some { m with started := true, frame := some f, left := List.range 32 } }
        | none =>
          if s.tier.pages.any fun v => v.move.any fun x => x.heir = some n then s
          else
            match pickVictim s p with
            | some v => wantDemote s v.num m.cls [] (some n)
            | none =>
              if m.ops.isEmpty && m.pin.isSome then tierSettle (tierCount (setPage s n fun p => { p with move := none }) 7 1) else s

def execPagePromote (page : Nat) (s : State) : Out := onUnit page pageCount (.next (pagePromote (overdue s page) page))

/-- GRANULE_COPY_ARRIVAL (R274): a copy of another generation has no effect. A promotion whose granule cannot be read ends LATE in class D;
in class G the copy of the granule is made again (R276, R280). -/
def granuleArrives (s : State) (n g : Nat) (gen : Byte) : State :=
  match findPage s n with
  | none => s
  | some p =>
    match p.move with
    | none => s
    | some m =>
      if p.gen ≠ gen || !m.left.contains g then s
      else
        let frame := frameAddr s p.frame
        let here := fun (s : State) => setPage s n fun p => { p with move := some { m with left := m.left.filter fun x => x ≠ g } }
        if !m.promote then here (tierCount (copyGranule s frame (pageName p) g) 6 65536)
        else if !granuleFails s (pageName p) g then here (copyGranule s (pageName p) frame g)
        else
          let s := uncorrectables s (pageName p + 65536 * g) 65536
          if m.cls = 3 then s else failPromote s n m

def execGranuleCopyArrival (page granule : Nat) (gen : Byte) (s : State) : Out :=
  onUnit page pageCount (onUnit granule 32 (.next (granuleArrives (overdue s page) page granule gen)))

/-- The granules whose dirty bit is set. -/
def dirtyList (w : Word) : List Nat := (List.range 32).filter fun g => w.getLsbD g

/-- Accesses in flight that look a page up in its final stage, and so wait in it: the moves that have been issued to it and have not ended (log
126). -/
def pageLookups (s : State) (p : Page) : Nat :=
  let b := globalAddr 0 0 (pageName p)
  s.cores.foldl (fun n c => n + (c.moves.filter fun m => (b ≤ m.src && m.src < b + pageBytes) || (b ≤ m.dst && m.dst < b + pageBytes)).length) 0

/-- The page lands at level H: pins, outcomes, and a demotion asked for meanwhile (R271, R283, R287). -/
def landPromotion (s : State) (p : Page) (m : PageMove) (f : Nat) : State :=
  let waits := pageLookups s p
  let s := (dirtyList p.dirty).foldl (fun s g => copyGranule s (pageName p) (frameAddr s f) g) s
  let live := m.ops.filter fun o => o.promote
  let want := max (live.foldl (fun k o => max k o.pin) 0) (m.pin.getD 0)
  let room := mayPin s f
  let pin := if want ≠ 0 ∧ room then s.time + want else 0
  let s := setPage s p.num fun x => { x with high := true, dirty := 0, frame := f, pinEnd := pin, move := none }
  let s := tierCount (tierCount s 2 1) 5 waits
  let s := outcomes s live fun o => if o.pin ≠ 0 ∧ !room then oPinLimit else oDone
  let s := outcomes s (m.ops.filter fun o => !o.promote) fun _ => oDeferred
  let deleting := (regionOf s p).any fun r => !r.deleting.isEmpty
  if (p.defer && pin = 0) || deleting then wantDemote (setPage s p.num fun x => { x with defer := false }) p.num 3 [] none else s

/-- PROMOTE_FINAL_STAGE: once every granule has been copied (R271). A granule written meanwhile that cannot be read again ends a class D
promotion LATE; in class G the final stage is tried again (R276, R280). -/
def promoteFinal (s : State) (n : Nat) : State :=
  match findPage s n with
  | none => s
  | some p =>
    match p.move with
    | none => s
    | some m =>
      match m.frame with
      | some f =>
        if !(m.promote && m.started && m.left.isEmpty) then s
        else
          match (dirtyList p.dirty).find? (granuleFails s (pageName p)) with
          | none => landPromotion s p m f
          | some g =>
            let s := uncorrectables s (pageName p + 65536 * g) 65536
            if m.cls = 3 then s else failPromote s n m
      | none => s

def execPromoteFinalStage (page : Nat) (s : State) : Out := onUnit page pageCount (.next (promoteFinal (overdue s page) page))

/-- PAGE_DEMOTE: the waiting demotion takes its token, or a further open pass begins; each pass clears the dirty bits and copies the
granules (R272). -/
def pageDemote (s : State) (n : Nat) : State :=
  match findPage s n with
  | none => s
  | some p =>
    match p.move with
    | none => s
    | some m =>
      let fits := if m.started then m.left.isEmpty && m.passes < 2 else tokens s < 1024
      if m.promote || !fits then s
      else setPage s n fun p => { p with
        gen := if m.started then p.gen else p.gen + 1
        dirty := 0
        move := some { m with started := true, left := dirtyList p.dirty, passes := m.passes + 1 } }

def execPageDemote (page : Nat) (s : State) : Out := onUnit page pageCount (.next (pageDemote s page))

/-- DEMOTE_FINAL_STAGE: what is still dirty is copied, the page is at level L, and its frame goes to the page that waits for it. -/
def demoteFinal (s : State) (n : Nat) : State :=
  match findPage s n with
  | none => s
  | some p =>
    match p.move with
    | none => s
    | some m =>
      if m.promote || !m.started || !m.left.isEmpty then s
      else
        let d := dirtyList p.dirty
        let waits := pageLookups s p
        let s := d.foldl (fun s g => copyGranule s (frameAddr s p.frame) (pageName p) g) s
        let s := tierCount (tierCount (tierCount s 3 1) 5 waits) 6 (65536 * d.length)
        let s := setPage s n fun x => { x with high := false, dirty := 0, frame := 0, pinEnd := 0, defer := false, move := none }
        let s := match m.heir with
          | some h => setPage s h fun x => { x with move := x.move.map fun y =>
              if y.promote && !y.started then { y with frame := some p.frame } else y }
          | none => s
        tierSettle (outcomes s m.ops fun _ => oDone)

def execDemoteFinalStage (page : Nat) (s : State) : Out := onUnit page pageCount (.next (demoteFinal s page))

/-- PROMOTE_DEADLINE: the earliest deadline on the token is reached (R284, R287). -/
def promoteDeadline (s : State) (n : Nat) : State :=
  match ((findPage s n).bind (·.move)).elim [] fun m => m.ops.filterMap (·.deadline) with
  | [] => s
  | d :: ds =>
    let s := advance s (ds.foldl min d)
    expire s n (· ≤ s.time)

def execPromoteDeadline (page : Nat) (s : State) : Out := onUnit page pageCount (.next (promoteDeadline s page))

/-- PIN_END: at PIN_END a page with DEFER set is demoted in class G (R283). -/
def pinEnds (s : State) (n : Nat) : State :=
  match findPage s n with
  | none => s
  | some p =>
    if p.high && p.move.isNone && (p.defer || p.pinEnd ≠ 0) then
      let s := setPage (advance s p.pinEnd) n fun p => { p with pinEnd := 0, defer := false }
      if p.defer then wantDemote s n 3 [] none else s
    else s

def execPinEnd (page : Nat) (s : State) : Out := onUnit page pageCount (.next (pinEnds s page))

/-! ### TIER_HINT (R282, R286) -/

structure Hint where
  op       : Nat
  pinMs    : Nat
  deadline : Nat
  addr     : Nat
  deriving DecidableEq, Repr

def parseHints (bs : List Byte) : List Hint :=
  (List.range (bs.length / 16)).map fun i =>
    ⟨field bs (16 * i) 1, field bs (16 * i + 1) 3, field bs (16 * i + 4) 4, field bs (16 * i + 8) 8⟩

def hintOk (h : Hint) : Bool :=
  1 ≤ h.op && h.op ≤ 3 && h.pinMs ≤ 60000 && (h.op = 1 || (h.pinMs = 0 && h.deadline = 0)) && h.addr % pageBytes = 0 &&
    lpddrBase ≤ h.addr && h.addr < lpddrBase + lpddrBytes

/-- Extends a page's pin (R282). -/
def extendPin (s : State) (p : Page) (pin : Nat) : State × Bool :=
  if pin = 0 then (s, true)
  else if !isPinned s p && !mayPin s p.frame then (s, false)
  else (setPage s p.num fun p => { p with pinEnd := max p.pinEnd (s.time + pin) }, true)

/-- One PROMOTE (R286). A demotion that it cancels is put off to the pin's end where a DEMOTE, a flush or a deletion has asked for it. -/
def hintPromote (s : State) (p : Page) (o : HintOp) : State :=
  let report (s : State) (code : Nat) := outcome s o.mb o.tag o.idx code
  let late := o.deadline.any fun d => d < s.time || (p.move.isNone && !p.high && !admitted s (pageName p) pageBytes d)
  let gone := (regionOf s p).any fun r => !r.deleting.isEmpty
  if p.high then
    let s := match p.move with
      | some m =>
        let defer := !m.ops.isEmpty || demotionOwed s p
        outcomes (setPage (cancelDemote s p.num m) p.num fun p => { p with defer := p.defer || defer }) m.ops fun _ => oDeferred
      | none => s
    let (s, ok) := extendPin s p o.pin
    report s (if ok then oAlready else oPinLimit)
  else if gone then report s oOutside
  else if !(List.range (frameCount s)).any fun f => dieAllowed (regionOf s p) (frameDie s f) then report s oNoFrame
  else if late then report (tierCount s (if o.deadline.any (· < s.time) then 1 else 0) 1) oLate
  else
    let cls := if o.deadline.isSome then 1 else 3
    setPage s p.num fun p => { p with move := some (match p.move with
      | some m => { m with cls := min m.cls cls, ops := m.ops ++ [o] }
      | none => ⟨true, false, cls, [o], none, [], 0, none, none⟩) }

/-- One DEMOTE (R286). -/
def hintDemote (s : State) (p : Page) (o : HintOp) : State :=
  let report (s : State) (code : Nat) := outcome s o.mb o.tag o.idx code
  match p.high, p.move with
  | false, none => report s oAlready
  | false, some m => setPage s p.num fun p => { p with defer := true, move := some { m with ops := m.ops ++ [o] } }
  | true, some m => setPage s p.num fun p => { p with move := some { m with ops := m.ops ++ [o] } }
  | true, none =>
    if isPinned s p then report (setPage s p.num fun p => { p with defer := true }) oDeferred
    else wantDemote s p.num 3 [o] none

/-- One UNPIN (R282). -/
def hintUnpin (s : State) (p : Page) (o : HintOp) : State :=
  let s := setPage s p.num fun p => { p with pinEnd := 0 }
  let s := if p.defer && p.high && p.move.isNone then wantDemote (setPage s p.num fun p => { p with defer := false }) p.num 3 [] none else s
  outcome s o.mb o.tag o.idx oDone

def applyHint (mb : Nat) (c : Cmd) (s : State) (ih : Nat × Hint) : State :=
  let (i, h) := ih
  let deadline := if h.deadline = 0 then none else some (c.acked + h.deadline * 1000)
  let o : HintOp := ⟨mb, c.tag, i, deadline, h.pinMs * 1000000, h.op = 1⟩
  match findPage s (pageNo h.addr) with
  | none => outcome s mb c.tag i oOutside
  | some p => if h.op = 1 then hintPromote s p o else if h.op = 2 then hintDemote s p o else hintUnpin s p o

def tierHintBody (mb : Nat) (c : Cmd) (s : State) : State :=
  let hs := parseHints c.payload
  if !clean c 0 0 true || c.payload.length % 16 ≠ 0 || c.payload.isEmpty || 65536 < c.payload.length || !hs.all hintOk then
    finish s mb c stMalformed
  else if s.tier.pool.isEmpty then finish s mb c stTierNoPool
  else
    let s := markStarted s mb c.tag (hs.map fun _ => 256)
    (hs.mapIdx fun i h => (i, h)).foldl (applyHint mb c) s

def execTierHint (mb : Nat) (tag : DWord) (s : State) : Out := mbCommand mb tag 10 0x42 (tierHintBody mb) s

/-! ### TIER_POOL, TIER_REGION, TIER_FLUSH, TIER_QUERY -/

def parsePairs (bs : List Byte) : List (Nat × Nat) :=
  (List.range (bs.length / 16)).map fun i => (field bs (16 * i) 8, field bs (16 * i + 8) 8)

/-- Stack regions of the loaded job in HBM and LPDDR. -/
def stackRanges (s : State) : List (Nat × Nat) :=
  s.stackSet.flatMap fun k => [(k.bodyBase, k.bodyLen), (k.spillBase, k.spillLen), (k.dirBase, 32 * k.dirCount)]

/-- Whether no two ranges of a list overlap. -/
def apart : List (Nat × Nat) → Bool
  | [] => true
  | r :: rs => !touches rs r.1 r.2 && apart rs

/-- TIER_POOL: a promotion that waits takes its frame from the new pool. -/
def tierPoolBody (mb : Nat) (c : Cmd) (s : State) : State :=
  let rs := parsePairs c.payload
  if !clean c 0 0 true || c.payload.length % 16 ≠ 0 || 16 < rs.length || rs.any (fun r => r.1 % pageBytes ≠ 0 || r.2 % pageBytes ≠ 0) then
    finish s mb c stMalformed
  else if s.tier.pages.any fun p => p.high || p.move.any (·.started) then finish s mb c stTierBusy
  else if rs.any (fun r => lpddrBase ≤ r.1 || !localExists s r.1 r.2 || touches fixedRanges r.1 r.2 || touches (stackRanges s) r.1 r.2) ||
      !apart rs then finish s mb c stTierOverlap
  else
    let s := mapPages s fun p => { p with move := p.move.map fun m => { m with frame := none } }
    finish { s with tier := { s.tier with pool := rs } } mb c 0

def execTierPool (mb : Nat) (tag : DWord) (s : State) : Out := mbCommand mb tag 10 0x40 (tierPoolBody mb) s

/-- The pages of a new region. -/
def newPages (r : Region) : List Page :=
  (List.range (r.len / pageBytes)).map fun i => ⟨pageNo r.base + i, r.num, false, 0, 0, 0, 0, false, 0, none⟩

/-- Deletes a region: every page at level H is demoted, one that is moving there will be; a second command that deletes it waits with the first
(R269). -/
def deleteRegion (s : State) (mb : Nat) (c : Cmd) (num : Nat) : State :=
  let s := markStarted s mb c.tag []
  let s := mapRegions s fun r => if r.num = num then { r with deleting := r.deleting ++ [(mb, c.tag)] } else r
  let waiting := s.tier.pages.filter fun p => p.region = num && p.move.any fun m => m.promote && !m.started
  let s := waiting.foldl (fun s p =>
    match p.move with
    | some m => outcomes (cancelPromote s p.num m) m.ops fun o => if o.promote then oOutside else oAlready
    | none => s) s
  let s := (s.tier.pages.filter fun p => p.region = num && p.high && p.move.isNone).foldl (fun s p => wantDemote s p.num 3 [] none) s
  tierSettle s

def tierRegionBody (mb : Nat) (c : Cmd) (s : State) : State :=
  let p := c.payload
  let num := field p 0 1
  let flags := field p 1 1
  let r : Region := ⟨num, flags, field p 2 1, field p 8 8, field p 16 8, field p 24 4, []⟩
  let old := s.tier.regions.find? fun x => x.num = num
  if !clean c 0 0 true || p.length ≠ 64 || 64 ≤ num || bits flags 7 5 ≠ 0 || bits flags 4 3 = 3 || 4 ≤ r.retain || (p.drop 3).take 5 ≠ zeros 5 ||
      p.drop 0x1C ≠ zeros 36 then finish s mb c stMalformed
  else if !bit flags 0 then
    if old.isSome then deleteRegion s mb c num else finish s mb c 0
  else if r.base % pageBytes ≠ 0 || r.len % pageBytes ≠ 0 || r.len = 0 || 60000000 < r.pin then finish s mb c stMalformed
  else if bit flags 1 && s.tier.pool.isEmpty then finish s mb c stTierNoPool
  else if old.any fun x => x.base = r.base && x.len = r.len && x.deleting.isEmpty then
    finish (mapRegions s fun x => if x.num = num then r else x) mb c 0
  else if old.isSome || r.base < lpddrBase || !localExists s r.base r.len || touches fixedRanges r.base r.len ||
      touches (s.stackSet.map fun k => (k.spillBase, k.spillLen)) r.base r.len ||
      touches (s.tier.regions.map fun x => (x.base, x.len)) r.base r.len then finish s mb c stTierOverlap
  else finish { s with tier := { s.tier with regions := s.tier.regions ++ [r], pages := s.tier.pages ++ newPages r } } mb c 0

def execTierRegion (mb : Nat) (tag : DWord) (s : State) : Out := mbCommand mb tag 10 0x41 (tierRegionBody mb) s

/-- Writes back every granule of a page that is dirty now; the page stays at level H (R274). -/
def writeBack (s : State) (p : Page) : State :=
  let left := p.move.elim [] fun m => if m.promote then [] else m.left
  let gs := (List.range 32).filter fun g => p.dirty.getLsbD g || left.contains g
  let s := gs.foldl (fun s g => copyGranule s (frameAddr s p.frame) (pageName p) g) s
  tierCount (setPage s p.num fun x => { x with dirty := 0 }) 6 (65536 * gs.length)

/-- TIER_FLUSH (R274): a pinned page, or one on its way to level H, is demoted when it may be. -/
def tierFlushBody (mb : Nat) (c : Cmd) (s : State) : State :=
  let all := c.arg0.getLsbD 8
  let hit (p : Page) : Bool := all || p.region = bits c.arg0.toNat 5 0
  if !clean c 0x33F 0 false then finish s mb c stMalformed
  else if !c.arg0.getLsbD 9 then
    finish ((s.tier.pages.filter fun p => hit p && p.high).foldl writeBack s) mb c 0
  else
    let ps := s.tier.pages.filter fun p => hit p && !atRest p
    let starts (p : Page) : Bool := p.high && p.move.isNone && !isPinned s p
    let defers (p : Page) : Bool := !starts p && !(p.high && p.move.isSome)
    let marks := (ps.filter fun p => defers p && !p.defer).map (pageCount + ·.num) ++ (ps.filter starts).map (2 * pageCount + ·.num)
    let s := markStarted s mb c.tag (ps.map (·.num) ++ marks)
    tierSettle (ps.foldl (fun s p =>
      if starts p then wantDemote s p.num 3 [] none
      else if defers p then setPage s p.num fun p => { p with defer := true }
      else s) s)

def execTierFlush (mb : Nat) (tag : DWord) (s : State) : Out := mbCommand mb tag 10 0x43 (tierFlushBody mb) s

/-- The tier summary (the table under R289). -/
def tierSummary (s : State) : List Byte :=
  let used := usedFrames s
  let row (die : Nat) := let fs := dieFrames s die
    le 4 fs.length ++ le 4 (fs.filter fun f => !used.contains f).length ++ le 4 (pinnedFrames s die)
  row 0 ++ row 1 ++ le 2 (tokens s) ++ zeros 2 ++ le 8 (s.tier.regions.foldl (fun n r => n + 2 ^ r.num) 0) ++
    le 4 (s.tier.pages.foldl (fun n p => if p.high then n + (dirtyList p.dirty).length else n) 0) ++ zeros 24

def tierQueryBody (mb : Nat) (c : Cmd) (s : State) : State :=
  if !clean c 0 0 false then finish s mb c stMalformed else finish s mb c 0 (tierSummary s)

def execTierQuery (mb : Nat) (tag : DWord) (s : State) : Out := mbCommand mb tag 10 0x45 (tierQueryBody mb) s

/-! ### What an abort leaves (R289) -/

/-- An aborted TIER_HINT: its operations leave their moves, and a promotion that nobody wants any more is cancelled. -/
def abortHint (s : State) (mb : Nat) (tag : DWord) : State :=
  tierSettle <| s.tier.pages.foldl (fun s p =>
    match p.move with
    | some m =>
      let rest := m.ops.filter fun o => !(o.mb = mb && o.tag = tag)
      if rest.length = m.ops.length then s
      else if m.promote && m.pin.isNone && !rest.any (·.promote) then outcomes (cancelPromote s p.num m) rest fun _ => oAlready
      else setPage s p.num fun p => { p with move := some { m with ops := rest } }
    | none => s) s

/-- An aborted deletion leaves its region valid, unless another command deletes it too. -/
def abortRegion (s : State) (mb : Nat) (tag : DWord) : State :=
  mapRegions s fun r => { r with deleting := r.deleting.filter fun x => x ≠ (mb, tag) }

/-- An aborted TIER_FLUSH that demotes, its command gone: the demotions it has started end, and the DEFER marks it has set are taken back, so the
pages not yet written back stay dirty at level H (R289). -/
def abortFlush (s : State) (aux : List Nat) : State :=
  s.tier.pages.foldl (fun s p =>
    let alone (m : PageMove) : Bool := !m.promote && m.ops.isEmpty && m.heir.isNone && !demotionOwed s p
    if aux.contains (2 * pageCount + p.num) then
      match p.move with
      | some m => if alone m then cancelDemote s p.num m else s
      | none => s
    else if aux.contains (pageCount + p.num) && !demotionOwed s p then setPage s p.num fun p => { p with defer := false }
    else s) s

/-! ### The directory as READ sees it (R265) -/

/-- A page's directory entry (the table "Page directory entry"). -/
def dirEntry (p : Option Page) : List Byte :=
  match p with
  | none => zeros 24 ++ le 1 2 ++ zeros 7
  | some p =>
    let started := p.move.any (·.started)
    let frame := if p.high then p.frame else if started then p.frame else 0
    le 4 p.dirty.toNat ++ le 4 frame ++ le 8 p.pinEnd ++ le 8 p.lastUse ++
      le 1 (b2n p.high + 4 * b2n started + 16 * b2n p.defer) ++ le 1 p.gen.toNat ++ le 1 p.region ++ zeros 5

/-- A byte of the page directories, by its local offset in them. -/
def dirByte (s : State) (a : Nat) : Byte :=
  let half := if a < half1 then 0 else 1
  let o := a - half * half1
  (dirEntry (findPage s (262144 * half + o / 32))).getD (o % 32) 0

/-- What a mailbox READ returns: memory, and the directories in their ranges. -/
def readDiag (s : State) (a n : Nat) : List Byte :=
  let dirs := [(0, 0x800000), (half1, 0x800000)]
  if touches dirs a n then (List.range n).map fun i => if touches dirs (a + i) 1 then dirByte s (a + i) else rd s.dram (a + i)
  else readLocal s a n

end Sys2Proof.Machine
end

