-- ==== Sys2Proof/Machine/HostMemory.lean ====
section
/-! DEFINITION. HostMemory.lean: the mailbox memory commands and host windows (02_host_commands.md). -/

namespace Sys2Proof.Machine

/-- Completes a command whose read met an uncorrectable granule (R250). -/
def deviceFault (s : State) (mb : Nat) (c : Cmd) (g : Nat) : State :=
  finish (uncorrectable s g) mb c stDeviceFault [] (BitVec.ofNat 64 g) (BitVec.ofNat 64 (memUnit s g))

/-- Completes a write; a channel that has failed answers it with an uncorrectable error (R255, log 22), and a chained command then leaves its
whole target undefined (R40). -/
def endWrite (s : State) (mb : Nat) (c : Cmd) (ranges : List (Nat × Nat)) : State :=
  match if s.hbm.failed.isEmpty && s.lpddr.failed.isEmpty then none else
      ranges.findSome? fun r => badGranule { s with poison := [] } r.1 r.2 with
  | some g => deviceFault (chainSpoil s c) mb c g
  | none => finish s mb c 0

/-- A request to a channel that a survey window holds is queued, and its command goes on once the window has closed (R253, log 116). -/
def whenServed (rs : List (Nat × Nat)) (k : State → State) (s : State) : State := if rs.any fun r => heldRange s r.1 r.2 then s else k s

def writeBody (mb : Nat) (c : Cmd) (s : State) : State :=
  let a := c.arg0.toNat
  if !clean c all64 0 true || c.payload.isEmpty then finish s mb c stMalformed
  else if !freeRange s a c.payload.length then finish s mb c stRange
  else whenServed [(a, c.payload.length)] (fun s => endWrite (writeLocal s a c.payload) mb c [(a, c.payload.length)]) s

def execWrite (mb : Nat) (tag : DWord) (s : State) : Out := mbCommand mb tag 4 1 (writeBody mb) s

/-- READ may read the page directories; every other reserved range is closed to it (R51). -/
def readable (s : State) (a n : Nat) : Bool := localExists s a n && !touches ((reservedRanges s).drop 2) a n

/-- READ completes with its bytes, or with the first granule that cannot be read; every such granule has its record (R249, R250). -/
def readEnd (mb : Nat) (c : Cmd) (a n : Nat) (s : State) : State :=
  match badGranule s a n with
  | some g => finish (uncorrectables s a n) mb c stDeviceFault [] (BitVec.ofNat 64 g) (BitVec.ofNat 64 (memUnit s g))
  | none => finish (touchRead s a n) mb c 0 (readDiag s a n)

def readBody (mb : Nat) (c : Cmd) (s : State) : State :=
  let a := c.arg0.toNat
  let n := c.arg1.toNat
  if !clean c all64 all64 false || n = 0 then finish s mb c stMalformed
  else if 2 ^ 32 < n then finish s mb c stTooLong
  else if !readable s a n then finish s mb c stRange
  else whenServed [(a, n)] (readEnd mb c a n) s

def execRead (mb : Nat) (tag : DWord) (s : State) : Out := mbCommand mb tag 4 2 (readBody mb) s

/-- Byte k of the pattern lands on every address congruent to k modulo 8 (R51). -/
def fillBytes (pat : List Byte) (a n : Nat) : List Byte := (List.range n).map fun i => pat.getD ((a + i) % 8) 0

def fillBody (mb : Nat) (c : Cmd) (s : State) : State :=
  let a := c.arg0.toNat
  let n := c.arg1.toNat
  if !clean c all64 all64 true || c.payload.length ≠ 8 || n = 0 then finish s mb c stMalformed
  else if !freeRange s a n then finish s mb c stRange
  else whenServed [(a, n)] (fun s => endWrite (writeLocal s a (fillBytes c.payload a n)) mb c [(a, n)]) s

def execFill (mb : Nat) (tag : DWord) (s : State) : Out := mbCommand mb tag 4 3 (fillBody mb) s

/-! ### Tensors (R53) -/

/-- Writes one tile, padded as R98 asks, and its seal. -/
def putTensorTile (s : State) (d : Desc) (ij : Nat × Nat) (bs : List Byte) : State :=
  let sh := d.shape ij.1 ij.2
  let bs := padTile sh bs
  writeLocal (writeLocal s (d.addr ij.1 ij.2) bs) (d.sealAddr ij.1 ij.2) (le 4 (sealOf sh bs).toNat)

/-- Writes the tiles of a tensor in order from a command's payload, which they follow the descriptor in. -/
def putTensor (s : State) (d : Desc) (payload : List Byte) : State :=
  ((tileGrid d).mapIdx fun k ij => (k, ij)).foldl (fun s x => putTensorTile s d x.2 ((payload.drop (32 + x.1 * d.own)).take d.own)) s

def writeTensorBody (mb : Nat) (c : Cmd) (s : State) : State :=
  let d := parseDesc (c.payload.take 32)
  if !clean c 0 0 true || c.payload.length < 32 then finish s mb c stMalformed
  else
    match tensorCheck s d with
    | some e => finish s mb c e
    | none =>
      let g := tileGrid d
      if c.payload.length ≠ 32 + g.length * d.own then finish s mb c stMalformed
      else whenServed (tensorRanges d) (fun s => endWrite (putTensor s d c.payload) mb c (tensorRanges d)) s

def execWriteTensor (mb : Nat) (tag : DWord) (s : State) : Out := mbCommand mb tag 4 4 (writeTensorBody mb) s

/-- What stops a READ_TENSOR: an uncorrectable granule in a range, or a tile that fails its seal with its seal fault record. -/
inductive TensorStop where
  | granule (g a n : Nat)
  | bad (addr : Nat) (record : List Byte)

/-- Reads tiles in order until one stops it. -/
def readTiles (s : State) (d : Desc) (unit : Nat) : List (Nat × Nat) → List Byte → List Byte × Option TensorStop
  | [], acc => (acc, none)
  | (i, j) :: rest, acc =>
    let a := d.addr i j
    let q := d.sealAddr i j
    match (badGranule s a d.own).map fun g => (g, a, d.own), (badGranule s q 4).map fun g => (g, q, 4) with
    | some (g, a, n), _ => (acc, some (.granule g a n))
    | none, some (g, a, n) => (acc, some (.granule g a n))
    | none, none =>
      let bs := readLocal s a d.own
      let want := BitVec.ofNat 32 (unle (readLocal s q 4))
      let sh := d.shape i j
      if sealOf sh bs = want then readTiles s d unit rest (acc ++ bs)
      else (acc, some (.bad a (sealRecord s a unit want (sealOf sh bs) 0 sh)))

/-- The tiles that have been read, and the one that stopped the read, are used (R285). -/
def touchTiles (s : State) (d : Desc) (tiles : List (Nat × Nat)) : State :=
  tiles.foldl (fun s ij => touchRead (touchRead s (d.addr ij.1 ij.2) d.own) (d.sealAddr ij.1 ij.2) 4) s

def readTensorEnd (mb : Nat) (c : Cmd) (d : Desc) (unit : Nat) (s : State) : State :=
  let (bs, stop) := readTiles s d unit (tileGrid d) []
  let s := touchTiles s d ((tileGrid d).take (bs.length / d.own + 1))
  match stop with
  | none => finish s mb c 0 bs
  | some (.granule g a n) => finish (uncorrectables s a n) mb c stDeviceFault [] (BitVec.ofNat 64 g) (BitVec.ofNat 64 (memUnit s g))
  | some (.bad a r) => finish (logSeal s r) mb c stSeal bs (BitVec.ofNat 64 a) (BitVec.ofNat 64 unit)

def readTensorBody (mb : Nat) (c : Cmd) (s : State) : State :=
  let d := parseDesc c.payload
  if !clean c 0 0 true || c.payload.length ≠ 32 then finish s mb c stMalformed
  else
    match tensorCheck s d with
    | some e => finish s mb c e
    | none =>
      whenServed (tensorRanges d) (readTensorEnd mb c d (unitId 8 2 mb)) s

def execReadTensor (mb : Nat) (tag : DWord) (s : State) : Out := mbCommand mb tag 4 5 (readTensorBody mb) s

/-! ### Host windows (R55, R56) -/

def windowGrantBody (mb : Nat) (c : Cmd) (s : State) : State :=
  let w := bits c.arg1.toNat 63 60
  let len := bits c.arg1.toNat 47 0
  if !clean c all64 0xF000FFFFFFFFFFFF false || c.arg0.toNat % 4096 ≠ 0 || len % 4096 ≠ 0 then finish s mb c stMalformed
  else if s.host.windows.any fun x => x.num = w then finish s mb c stResource
  else finish { s with host := { s.host with windows := s.host.windows ++ [⟨w, mb, c.arg0.toNat, len⟩] } } mb c 0

def execWindowGrant (mb : Nat) (tag : DWord) (s : State) : Out := mbCommand mb tag 4 6 (windowGrantBody mb) s

/-- Revokes windows: no request into them follows, and none is in flight between steps (log 23). A stream into one of them is disabled
(R457). -/
def revokeWindows (s : State) (p : Window → Bool) : State :=
  let left := s.host.windows.filter fun w => !p w
  { s with
    host := { s.host with windows := left }
    tel := { s.tel with stream := s.tel.stream.filter fun x => left.any fun w => w.num = x.window } }

/-- WINDOW_REVOKE: a window of another session stays (log 23). -/
def windowRevokeBody (mb : Nat) (c : Cmd) (s : State) : State :=
  let w := bits c.arg1.toNat 63 60
  if !clean c 0 0xF000000000000000 false then finish s mb c stMalformed
  else if s.host.windows.any fun x => x.num = w && x.mb ≠ mb then finish s mb c stResource
  else finish (revokeWindows s fun x => x.num = w) mb c 0

def execWindowRevoke (mb : Nat) (tag : DWord) (s : State) : Out := mbCommand mb tag 4 7 (windowRevokeBody mb) s

end Sys2Proof.Machine
end

