-- ==== Sys2Proof/Machine/Fence.lean ====
section
/-! DEFINITION. Fence.lean: what fencing a core does at once (R106, R107), and the power states a demand meets (R436, R437). -/

namespace Sys2Proof.Machine

/-- Drops everything a core loses in the dark (R436): its tile store reads as zero and its records are unsealed. -/
def darkenStore (s : State) (n : Nat) : State :=
  { s with ctl := eraseRun s.ctl (tileBase n) 0x300000, recs := eraseRun s.recs (tileSlot n 0) 6144 }

/-- A core that has lost its programs' state: everything of it takes its value at core reset, what the fuses, the fence logic and
Lamplighter keep apart. -/
def Core.wiped (c : Core) (n : Nat) : Core :=
  { Core.reset n with
    pos := c.pos, enabled := c.enabled, cause := c.cause, retested := c.retested, deferred := c.deferred, power := c.power,
    hold := c.hold, clockOn := c.clockOn, idleSince := c.idleSince, dimSince := c.dimSince, corrected := c.corrected, hour := c.hour,
    retired := c.retired, launch := c.launch, ending := c.ending, issued := c.issued }

/-- A core comes up lit with its clock running: from the dark that is a core reset (R436). -/
def lightCore (s : State) (n : Nat) : State :=
  let s := if (coreAt s n).power = .dark then setCore (darkenStore s n) n fun c => c.wiped n else s
  setCore s n fun c => { c with power := .lit, clockOn := true, idleSince := s.time }

/-- What a discarded write leaves (R107): its destination slots are unsealed as they were when it acquired them; a torn tile in HBM or
LPDDR keeps its previous seal-table entry. -/
def discardMove (s : State) (m : Move) : State :=
  match m.kind, m.shape with
  | .store, some sh | .movem, some sh =>
    if m.remote || space m.dst = 3 then s
    else if space m.dst = 2 then unsealSlots s (slotAt (offset m.dst)) (tileSlots sh.fmt sh.kind)
    else havocLocal s (offset m.dst) (tileBytes sh.fmt sh.kind)
  | _, _ => s

/-- The CORE_FENCE commands that wait for a fence of core `n` complete (R445). -/
def settleFences (s : State) (n : Nat) : State :=
  ((mbAt s 0).cmds.filter fun c => c.cls = 10 && c.code = 4 && c.started && nth c.aux 0 = n).foldl (fun s c => finish s 0 c 0) s

/-- The running step's record says that a core was fenced in it. -/
def markFenced (s : State) : State :=
  let f (r : StepRec) : StepRec := { r with flags := r.flags ||| 4 }
  { s with tel := { s.tel with stepRec := s.tel.stepRec.map f } }

/-- The places of running instances in their groups, as the enabled set now gives them: a fence changes them (R226). -/
def replaced (s : State) : State :=
  { s with cores := s.cores.mapIdx fun n c => { c with launch := c.launch.map fun l =>
    if l.sched.isSome && c.enabled then { l with rank := (groupPlace s n).1, size := (groupPlace s n).2 } else l } }

/-- An immediate fence (R107): steps 1 to 5, the event, the field book. The launch stays named until it is reissued (R108); one that had
stopped still reports, with its non-finite record (R85, R204). -/
def fenceCore (s : State) (n cause : Nat) : State :=
  if (coreAt s n).cause.isSome then s
  else
    let s := (coreAt s n).moves.foldl discardMove s
    let s := setCore (darkenStore s n) n fun c =>
      { c.wiped n with
        enabled := false, cause := some cause, retested := false, deferred := none, power := .dark, clockOn := false, stop := c.stop,
        nf0 := if c.stop.isSome then c.nf0 else 0, nf1 := if c.stop.isSome then c.nf1 else 0 }
    let s := fbState (fbEntry (replaced s) 1 (coreData s n cause))
    settleFences (event (markFenced s) 14 (n + 256 * cause)) n

/-! ### Memory errors of slot memories (R93, R105, R106) -/

/-- Whether a step runs, at whose end deferred fences act. -/
def stepRuns (s : State) : Bool := s.job.phase = .running || s.job.phase = .stopping

/-- `k` corrected errors of core `n`'s tile store: telemetry counts them, and more than 64 within one hour fence the core at the end of the
step, at once where none runs. The hour begins with the first error after the last hour (log 117). -/
def storeErrors (s : State) (n k : Nat) : State :=
  let c := coreAt s n
  let anew := decide (c.hour + 3600000000000 ≤ s.time)
  let total := (if anew then 0 else c.corrected) + k
  let s := setCore (countUp s cSram k) n fun c => { c with corrected := total, hour := if anew then s.time else c.hour }
  if total ≤ 64 || c.cause.isSome then s
  else if stepRuns s then setCore s n fun c => { c with deferred := c.deferred.or (some 3) }
  else fenceCore s n 3

/-- A corrected error in the slot memory that a global address lies in. -/
def correctedError (s : State) (a : Nat) : State :=
  match windowCore a with
  | some n => storeErrors s n 1
  | none => countUp s cSram 1

/-- The seal fault record of an uncorrectable error in a core's own memories beside a move (kind 4): what the tile was and where it lay, the
manual does not say for a register, an accumulator or an internal buffer, so those fields are free values (log 118). -/
def ownErrorRecord (s : State) (n : Nat) : List Byte :=
  let b := freeBytes s 15
  b.take 8 ++ le 8 (unitId 1 (dieOf n) n) ++ (b.drop 8).take 4 ++ zeros 4 ++ le 1 4 ++ b.drop 12 ++ le 4 (jobStep s)

/-- An uncorrectable error that repeats in a core's own memories: a seal fault of kind 4 is logged and counted, and the core is fenced. -/
def ownError (s : State) (n : Nat) : State :=
  if (coreAt s n).cause.isSome then s else fenceCore (bump (logSeal s (ownErrorRecord s n)) 15) n 0

/-- Whether the window of an address answers: a core that is not lit makes the access wait (R439). -/
def windowLit (s : State) (a : Nat) : Bool := (windowCore a).all fun c => !(coreAt s c).enabled || (coreAt s c).power = .lit

/-- An access to a window starts that core's idle time anew (R438). -/
def windowTouched (s : State) (a : Nat) : State :=
  match windowCore a with
  | some c => setCore s c fun c => { c with idleSince := s.time }
  | none => s

end Sys2Proof.Machine
end

