-- ==== Sys2Proof/Machine/Survey.lean ====
section
/-! DEFINITION. Survey.lean: memory errors as reads meet them, scrub, lane repair and the survey of the HBM and LPDDR interfaces
(11_hbm.md, 12_memory_tiers.md). -/

namespace Sys2Proof.Machine

/-! ### HBM channel states (R253, R255) -/

/-- DATA of MEMORY_STATE (R459). -/
def memoryStateData (lpddr failed : Bool) (stack ch : Nat) : Nat := b2n lpddr + 2 * b2n failed + 256 * stack + 65536 * ch

/-- The record of a lane or channel event, with no row, bank or offset. -/
def laneRecord (s : State) (kind ch pc lane : Nat) : List Byte := hbmRecord s kind ch (128 * pc + lane) 0xFFFF 0xFF (2 ^ 64 - 1)

/-- Logs a lane or channel event. -/
def laneEvent (s : State) (kind ch pc lane : Nat) : State := logError s 0 (laneRecord s kind ch pc lane)

/-- A lane or channel event that also enters the field book under kind `fb` (R463). -/
def laneBooked (s : State) (kind fb ch pc lane : Nat) : State :=
  fbState (fbEntry (laneEvent s kind ch pc lane) fb (BitVec.ofNat 64 (unle ((laneRecord s kind ch pc lane).take 8))))

/-- The failing lane of a degraded pseudo-channel (R255). -/
def degradedLane (s : State) (ch pc : Nat) : Option Nat := (s.hbm.degraded.find? fun d => d.1 = ch && d.2.1 = pc).map (·.2.2)

/-- A pseudo-channel becomes degraded (R255): `lane` fails and no spare takes its place. -/
def hbmDegrade (s : State) (ch pc lane : Nat) : State :=
  if (degradedLane s ch pc).isSome then s
  else
    let s := { s with hbm := { s.hbm with degraded := s.hbm.degraded ++ [(ch, pc, lane)] } }
    event (laneBooked s 7 4 ch pc lane) 15 (memoryStateData false false (stackOf ch) (ch % 32))

/-- A channel fails (R255). -/
def hbmFail (s : State) (ch : Nat) : State :=
  if s.hbm.failed.contains ch then s
  else
    let s := { s with hbm := { s.hbm with failed := s.hbm.failed ++ [ch] } }
    event (laneBooked s 8 5 ch 0 noLane) 15 (memoryStateData false true (stackOf ch) (ch % 32))

/-- Whether a pseudo-channel's spare is in service. -/
def spareUsed (s : State) (ch pc : Nat) : Bool := s.hbm.repaired.any fun r => r.1 = ch && r.2.1 = pc

/-- Records a lane repair (R253). -/
def repairLane (s : State) (ch pc lane : Nat) : State :=
  laneBooked { s with hbm := { s.hbm with repaired := s.hbm.repaired ++ [(ch, pc, lane)] } } 6 3 ch pc lane

/-! ### Windows (R257, R258) -/

/-- How long a survey activity lasts, in ns, by its kind (R257). -/
def surveyNs (kind : Nat) : Nat := nth [20000, 12000, 4000, 2000, 40000] kind

/-- Whether a window may open on a channel: no channel of its stack is held, and 100 µs have passed since its last. -/
def mayOpen (s : State) (ch : Nat) : Bool :=
  !s.hbm.selfRefresh && !s.hbm.failed.contains ch && !(s.hbm.held.any fun h => stackOf h.ch = stackOf ch) &&
    !(s.hbm.closedAt.any fun c => c.1 = ch && s.time < c.2 + 100000)

/-- The place of a window among those that wait on a stack: its kind, both re-centres being of one kind, then its channel. -/
def surveyRank (w : Survey) : Nat := 1000 * min w.kind 2 + w.ch

/-- Opens the window of stack `st` whose turn it is, if one may open. -/
def openNext (s : State) (st : Nat) : State :=
  let mine := s.hbm.waiting.filter fun w => stackOf w.ch = st && mayOpen s w.ch
  match mine.foldl (fun best w => match best with | none => some w | some b => if surveyRank w < surveyRank b then some w else best) none with
  | none => s
  | some w => { s with hbm := { s.hbm with
      waiting := s.hbm.waiting.filter (· ≠ w), held := s.hbm.held ++ [{ w with since := s.time }] } }

/-- Asks for a window, which opens at once or waits (R258). A repair ends the shadow re-centre of its pseudo-channel. -/
def askWindow (s : State) (ch kind pc lane : Nat) : State :=
  let there (w : Survey) : Bool := w.ch = ch && w.kind = kind && w.pc = pc && w.lane = lane
  if s.hbm.selfRefresh || s.hbm.failed.contains ch then s
  else
    let waiting := if s.hbm.waiting.any there || s.hbm.held.any there then s.hbm.waiting else s.hbm.waiting ++ [⟨ch, kind, pc, lane, s.time⟩]
    let shadows := if kind = 0 then s.hbm.shadows.filter fun w => !(w.ch = ch && w.pc = pc) else s.hbm.shadows
    openNext { s with hbm := { s.hbm with waiting, shadows } } (stackOf ch)

/-- Schedules the repair of a lane (R252): a window for the spare to take its place, or a degraded pseudo-channel where there is none. -/
def scheduleRepair (s : State) (ch pc lane : Nat) : State :=
  if workLanes ≤ lane || s.hbm.repaired.contains (ch, pc, lane) || s.hbm.failed.contains ch then s
  else if spareUsed s ch pc || (degradedLane s ch pc).isSome then hbmDegrade s ch pc lane
  else askWindow s ch 0 pc lane

/-! ### Reads with symbol errors (R247, R248) -/

/-- An access in which no lane is the corrected symbol ends the run of its pseudo-channel (R252). -/
def endStreak (s : State) (ch pc : Nat) : State :=
  { s with hbm := { s.hbm with streaks := s.hbm.streaks.filter fun x => x.1 ≠ (ch, pc) } }

/-- Accesses of a pseudo-channel in a row that have corrected this lane, the present one among them. -/
def streakOf (s : State) (ch pc lane : Nat) : Nat :=
  (s.hbm.streaks.find? fun x => x.1 = (ch, pc) && x.2.1 = lane).elim 1 (·.2.2 + 1)

/-- A corrected symbol is counted against its lane, and may call for its repair: 64 within 1 s, or 16 accesses in a row (R248, R252). -/
def laneHit (s : State) (ch pc lane : Nat) : State :=
  let k := (ch, pc, lane)
  let hits := (k, s.time) :: s.hbm.hits.filter fun x => s.time < x.2 + 1000000000
  let run := streakOf s ch pc lane
  let count := (s.hbm.laneCounts.find? fun x => x.1 = k).elim 1 (·.2 + 1)
  let s := { s with hbm := { s.hbm with
    hits, streaks := ((ch, pc), lane, run) :: s.hbm.streaks.filter fun x => x.1 ≠ (ch, pc)
    laneCounts := (k, count) :: s.hbm.laneCounts.filter fun x => x.1 ≠ k } }
  if 64 ≤ (hits.filter fun x => x.1 = k).length || 16 ≤ run then scheduleRepair s ch pc lane else s

/-- The symbol errors of an access: those that it meets, and that of the failing lane of a degraded pseudo-channel (R255). -/
def symbolErrors (s : State) (ch pc : Nat) (errs : List (Nat × Sym)) : List (Nat × Sym) :=
  let errs := errs.filter fun e => e.1 < workLanes && e.2 ≠ 0
  match degradedLane s ch pc with
  | some l => if errs.any fun e => e.1 = l then errs else (l, 1) :: errs
  | none => errs

/-- What the decoder makes of a read of a granule. -/
def hbmDecoded (s : State) (g : Nat) (errs : List (Nat × Sym)) : Decoded :=
  let (ch, pc, _, _) := hbmDecode s g
  (readSymbols (readRun s.dram g 64) (symbolErrors s ch pc errs)).1

/-- A read of an HBM granule (R248): whether it is uncorrectable, and the state after. An uncorrectable one is read again once. `scrubs` says
that the patrol scrub reads (R251). -/
def hbmRead (s : State) (scrubs : Bool) (g : Nat) (first second : List (Nat × Sym)) : Bool × State :=
  let (ch, pc, _, _) := hbmDecode s g
  match hbmDecoded s g first with
  | .clean => (false, endStreak s ch pc)
  | .corrected l => (false, laneHit (hbmAccess s (if scrubs then 9 else 0) g l) ch pc l)
  | .bad =>
    let s := endStreak s ch pc
    if hbmDecoded s g second = .bad then
      (true, if scrubs then hbmAccess { s with poison := g :: s.poison } 10 g noLane else spoilGranule s g)
    else (false, hbmAccess s 1 g noLane)

/-! ### LPDDR channel states and reads (R290) -/

/-- The record of an LPDDR channel event. -/
def lpddrEvent (s : State) (kind ch : Nat) : State := logError s 1 (lpddrRecord s kind ch 0xFF 0xFFFFFFFF 0xFF (2 ^ 64 - 1))

/-- A package event that also enters the field book. -/
def lpddrBooked (s : State) (kind fb ch : Nat) : State :=
  let r := lpddrRecord s kind ch 0xFF 0xFFFFFFFF 0xFF (2 ^ 64 - 1)
  fbState (fbEntry (lpddrEvent s kind ch) fb (BitVec.ofNat 64 (unle (r.take 8))))

/-- A channel fails (R290). -/
def lpddrFail (s : State) (ch : Nat) : State :=
  if s.lpddr.failed.contains ch then s
  else
    let s := { s with lpddr := { s.lpddr with failed := s.lpddr.failed ++ [ch] } }
    event (lpddrBooked s 7 7 ch) 15 (memoryStateData true true (ch / 4) (ch % 4))

/-- A channel is degraded (R290). -/
def lpddrDegrade (s : State) (ch : Nat) : State :=
  if s.lpddr.degraded.contains ch then s
  else
    let s := { s with lpddr := { s.lpddr with degraded := s.lpddr.degraded ++ [ch] } }
    event (lpddrBooked s 6 6 ch) 15 (memoryStateData true false (ch / 4) (ch % 4))

/-- A corrected read is counted against its lane; 64 within 1 s make the channel degraded (R290). -/
def lpddrHit (s : State) (ch lane : Nat) : State :=
  let k := (ch, lane)
  let hits := (k, s.time) :: s.lpddr.hits.filter fun x => s.time < x.2 + 1000000000
  let count := (s.lpddr.laneCounts.find? fun x => x.1 = k).elim 1 (·.2 + 1)
  let s := { s with lpddr := { s.lpddr with hits, laneCounts := (k, count) :: s.lpddr.laneCounts.filter fun x => x.1 ≠ k } }
  if 64 ≤ (hits.filter fun x => x.1 = k).length then lpddrDegrade s ch else s

/-- A read of an LPDDR granule with the findings of up to three attempts (R290); an attempt that is not named finds nothing wrong. -/
def lpddrRead (s : State) (g : Nat) (tries : List LinkRead) : Bool × State :=
  let at' (i : Nat) : LinkRead := tries.getD i .clean
  match at' 0 with
  | .clean => (false, s)
  | .corrected l => (false, lpddrHit (lpddrAccess s 0 g (l % 16)) (lpddrDecode g).1 (l % 16))
  | .bad => if at' 1 = .bad && at' 2 = .bad then (true, spoilGranule s g) else (false, lpddrAccess s 1 g 0xFF)

/-- A memory error in the read of a range: whether a granule of it is uncorrectable for it, and the state after. An error outside the range is
none of this read. -/
def readEvent (s : State) (a n : Nat) (e : ReadEvent) : Option Nat × State :=
  let inside (g : Nat) : Bool := g % 64 = 0 && (pieces s a n).any fun p => overlap g 64 p.1 p.2
  match e with
  | .symbols g first second =>
    if inside g && g < lpddrBase then
      let (bad, s) := hbmRead s false g first second
      (if bad then some g else none, s)
    else (none, s)
  | .link g tries =>
    if inside g && lpddrBase ≤ g then
      let (bad, s) := lpddrRead s g tries
      (if bad then some g else none, s)
    else (none, s)

/-- The read of a range by a move that ends with outcome `o`: the first granule whose answer is an uncorrectable memory error, and the state
with every record (R248 to R250, R290). -/
def readRange (s : State) (a n : Nat) (o : MoveOutcome) : Option Nat × State :=
  match badGranule s a n with
  | some g => (some g, uncorrectables s a n)
  | none =>
    match o with
    | .memory e => readEvent s a n e
    | .uncorrectable =>
      let g := physOf s a / 64 * 64
      (some g, spoilGranule s g)
    | _ => (none, s)

/-! ### HBM survey rows (R252, R253, R257, R258) -/

def onChannel (ch pc lane : Nat) (k : Out) : Out := onUnit ch 384 (onUnit pc 2 (onUnit lane 37 k))

/-- LANE_REPAIR: the window of a repair that has been scheduled opens when its turn has come. -/
def execLaneRepair (channel pc lane : Nat) (s : State) : Out :=
  onChannel channel pc lane <| .next <|
    if s.hbm.waiting.any fun w => w.ch = channel && w.kind = 0 && w.pc = pc && w.lane = lane then openNext s (stackOf channel) else s

/-- INTERFACE_RECOVERY (R248): every failed reissue is recorded, and the fourth in a row asks for a window. -/
def execInterfaceRecovery (channel failed : Nat) (s : State) : Out :=
  onUnit channel 384 <| .next <|
    if s.hbm.failed.contains channel || s.hbm.selfRefresh then s
    else
      let s := (List.range (min failed 4)).foldl (fun s _ => laneEvent s 4 channel 0 noLane) s
      if 4 ≤ failed then askWindow s channel 1 0 noLane else s

/-- The temperature of a stack: the hotter of its two sensors, 0 before a reading. -/
def stackTemp (s : State) (st : Nat) : Int := (((s.pwr.temps.hbm.drop (2 * st)).take 2).max?).getD 0

def laneTime (s : State) (ch pc lane : Nat) : State :=
  { s with hbm := { s.hbm with
    lanes := ((ch, pc, lane), s.time, stackTemp s (stackOf ch)) :: s.hbm.lanes.filter fun l => l.1 ≠ (ch, pc, lane) } }

/-- When a lane's next re-centre is due: 2 s after its last, or at once where it has had none or its stack's temperature has moved by 4 °C
(R257). -/
def laneDue (s : State) (ch pc lane : Nat) : Nat :=
  match s.hbm.lanes.find? fun l => l.1 = (ch, pc, lane) with
  | none => s.time
  | some (_, t, temp) => if 40 ≤ (stackTemp s (stackOf ch) - temp).natAbs then s.time else t + 2000000000

/-- A lane has been re-centred; a margin below a quarter of that at its training calls for its repair (R252). -/
def recentred (s : State) (ch pc lane margin : Nat) : State :=
  let s := laneTime s ch pc lane
  if margin < 25 then scheduleRepair s ch pc lane else s

/-- HBM_SHADOW_RECENTRE: the free spare takes up a lane that is due, and 40 µs later has carried it through its re-centre. -/
def shadowRecentre (s : State) (ch pc lane margin : Nat) : State :=
  match s.hbm.shadows.find? fun w => w.ch = ch && w.pc = pc with
  | some w =>
    if w.lane ≠ lane then s
    else
      let s := advance s (w.since + surveyNs 4)
      recentred { s with hbm := { s.hbm with shadows := s.hbm.shadows.filter (· ≠ w) } } ch pc lane margin
  | none =>
    let s := advance s (laneDue s ch pc lane)
    { s with hbm := { s.hbm with shadows := s.hbm.shadows ++ [⟨ch, 4, pc, lane, s.time⟩] } }

def execHbmShadowRecentre (channel pc lane margin : Nat) (s : State) : Out :=
  onChannel channel pc lane <| .next <|
    if spareUsed s channel pc || s.hbm.selfRefresh || s.hbm.failed.contains channel || lane = spareLane then s
    else shadowRecentre s channel pc lane margin

/-- HBM_WINDOWED_RECENTRE: the spare is in service, so the channel is held, every 2 s for each lane. -/
def execHbmWindowedRecentre (channel pc lane : Nat) (s : State) : Out :=
  onChannel channel pc lane <| .next <|
    if spareUsed s channel pc && !s.hbm.selfRefresh then askWindow (advance s (laneDue s channel pc lane)) channel 2 pc lane else s

/-- When a channel's next command/address re-centre is due: 1 s after its last (R257). -/
def caDue (s : State) (ch : Nat) : Nat := (s.hbm.ca.find? fun c => c.1 = ch).elim s.time (·.2 + 1000000000)

def execHbmCaRecentre (channel : Nat) (s : State) : Out :=
  onUnit channel 384 <| .next <| if s.hbm.selfRefresh then s else askWindow (advance s (caDue s channel)) channel 3 0 noLane

/-- SURVEY_WINDOW_CLOSE: the window has lasted its time, what it was for has been done, and the channel serves again. A repair whose test
patterns fail has no spare (R253, R255); a command/address lane that fails its training fails the channel (R255). -/
def closeWindow (s : State) (ch : Nat) (good : Bool) (margin : Nat) : State :=
  match s.hbm.held.find? fun h => h.ch = ch with
  | none => s
  | some w =>
    let s := advance s (w.since + surveyNs w.kind)
    let s := { s with hbm := { s.hbm with
      held := s.hbm.held.filter fun h => h.ch ≠ ch
      closedAt := (ch, s.time) :: s.hbm.closedAt.filter fun c => c.1 ≠ ch } }
    let s := match w.kind with
      | 0 => if good then repairLane s ch w.pc w.lane else hbmDegrade s ch w.pc w.lane
      | 1 => laneEvent s 5 ch w.pc w.lane
      | 2 => recentred s ch w.pc w.lane margin
      | _ => if good then { s with hbm := { s.hbm with ca := (ch, s.time) :: s.hbm.ca.filter fun c => c.1 ≠ ch } } else hbmFail s ch
    openNext s (stackOf ch)

def execSurveyWindowClose (channel : Nat) (good : Bool) (margin : Nat) (s : State) : Out :=
  onUnit channel 384 (.next (closeWindow s channel good margin))

/-- Opens every window that waits and may open: the 100 µs between two windows of a channel pass by themselves (R258). -/
def pumpSurvey (s : State) : State := if s.hbm.waiting.isEmpty then s else (List.range 12).foldl openNext s

/-- The stacks and packages leave self-refresh: every command bus is re-centred before its first request (R257, R291). -/
def leaveRefresh (s : State) : State :=
  { s with
    hbm := { s.hbm with selfRefresh := false, ca := (List.range 384).map fun c => (c, s.time) }
    lpddr := { s.lpddr with ca := s.lpddr.ca.map fun _ => s.time } }

/-! ### Scrub and on-die reports (R251) -/

/-- The granule after `g` in the order of the patrol scrub: through C0's half, then C1's, and round again (log 116). -/
def nextGranule (s : State) (g : Nat) : Nat :=
  if g + 64 < halfBytes s 0 then g + 64
  else if g + 64 < half1 || (g < half1 && half1 ≤ g + 64) then half1
  else if g + 64 < half1 + halfBytes s 1 then g + 64 else 0

/-- PATROL_SCRUB reads the next granule; it skips one on a held or failed channel. What it corrects it writes back, so the bytes stand. -/
def scrub (s : State) (first second : List (Nat × Sym)) : State :=
  let g := s.hbm.scrub
  let ch := (hbmDecode s g).1
  if s.hbm.selfRefresh || !localExists s g 64 then s
  else
    let s := { s with hbm := { s.hbm with scrub := nextGranule s g } }
    if s.hbm.failed.contains ch || s.hbm.held.any (fun h => h.ch = ch) then s
    else if s.poison.contains g then hbmAccess s 3 g noLane
    else (hbmRead s true g first second).2

def execPatrolScrub (first second : List (Nat × BitVec 16)) (s : State) : Out := .next (scrub s first second)

/-- HBM_ECC_COLLECT: twelve counts, one per stack, every 100 ms; and the on-die scrub reports of LPDDR channels (R290). -/
def execHbmEccCollect (counts scrubbed : List Nat) (s : State) : Out :=
  let s := advance s (s.hbm.collected + 100000000)
  let s := { s with hbm := { s.hbm with collected := s.time, onDie := s.hbm.onDie.mapIdx fun i n => n + nth counts i } }
  .next ((scrubbed.filter (· < 64)).foldl (fun s ch => lpddrEvent s 4 ch) s)

/-! ### LPDDR survey rows (R291) -/

/-- Whether survey runs on an LPDDR channel: its package is not in self-refresh and it has not failed. -/
def lpddrRuns (s : State) (ch : Nat) : Bool := !s.hbm.selfRefresh && !s.lpddr.failed.contains ch

/-- How long an LPDDR activity holds its channel, in ns: 0 retrain, 1 command-bus re-centre, 2 oscillator read, 3 ZQ latch. -/
def lpddrNs (kind : Nat) : Nat := nth [6000, 2000, 400, 200] kind

/-- When an activity of a channel is due; the retrain at once when the drift is beyond one-eighth of a unit interval. -/
def lpddrDue (s : State) (ch kind : Nat) : Nat :=
  match kind with
  | 0 => if 1 < nth s.lpddr.drift ch then 0 else nth s.lpddr.retrain ch + 1000000000
  | 1 => nth s.lpddr.ca ch + 2000000000
  | 2 => nth s.lpddr.oscRead ch + 20000000
  | _ => nth s.lpddr.zq (ch / 4) + 50000000

/-- The channel that a ZQ latch of a package holds: the first that serves (log 116). -/
def zqChannel (s : State) (pkg : Nat) : Nat := (((List.range 4).map (4 * pkg + ·)).find? (lpddrRuns s)).getD (4 * pkg)

/-- The first of the windows that are due on a package at time `t`: by kind, then by channel. -/
def lpddrFirst (s : State) (pkg t : Nat) : Option (Nat × Nat) :=
  ((List.range 4).flatMap fun k => if k = 3 then [(k, zqChannel s pkg)] else (List.range 4).map fun c => (k, 4 * pkg + c)).find? fun x =>
    lpddrRuns s x.2 && lpddrDue s x.2 x.1 ≤ t

/-- A window of an LPDDR channel: it opens when it is due, 200 µs after the channel's last and with no other window of its package before it;
then it lasts its time, and `done` is what it leaves. -/
def lpddrWindow (s : State) (ch kind due : Nat) (done : State → State) : State :=
  let t := max (max s.time due) (nth s.lpddr.closedAt ch + 200000)
  let ahead := (lpddrFirst s (ch / 4) t).any fun x => x.1 < kind || (x.1 = kind && x.2 < ch)
  if !lpddrRuns s ch || ahead then s
  else
    let s := done (advance s (t + lpddrNs kind))
    { s with lpddr := { s.lpddr with closedAt := s.lpddr.closedAt.set ch s.time } }

def execLpddrOscRead (channel drift : Nat) (s : State) : Out :=
  onUnit channel 64 <| .next <| lpddrWindow s channel 2 (lpddrDue s channel 2) fun s =>
    { s with lpddr := { s.lpddr with drift := s.lpddr.drift.set channel drift, oscRead := s.lpddr.oscRead.set channel s.time } }

/-- LPDDR_RETRAIN: a failed reissue is recorded, and the fourth in a row asks for the window (R290). The delays are trained anew, and the
drift counts from here. -/
def execLpddrRetrain (channel failed : Nat) (s : State) : Out :=
  onUnit channel 64 <| .next <|
    let s := if lpddrRuns s channel then (List.range (min failed 4)).foldl (fun s _ => lpddrEvent s 3 channel) s else s
    if 0 < failed ∧ failed < 4 then s
    else lpddrWindow s channel 0 (if failed = 0 then lpddrDue s channel 0 else 0) fun s =>
      let s := lpddrEvent s 5 channel
      { s with lpddr := { s.lpddr with drift := s.lpddr.drift.set channel 0, retrain := s.lpddr.retrain.set channel s.time } }

/-- LPDDR_CA_RECENTRE; a command or clock path that fails its training fails the channel (R290). -/
def execLpddrCaRecentre (channel : Nat) (good : Bool) (s : State) : Out :=
  onUnit channel 64 <| .next <| lpddrWindow s channel 1 (lpddrDue s channel 1) fun s =>
    if good then { s with lpddr := { s.lpddr with ca := s.lpddr.ca.set channel s.time } } else lpddrFail s channel

def execZqLatch (package : Nat) (s : State) : Out :=
  onUnit package 16 <| .next <|
    let ch := zqChannel s package
    lpddrWindow s ch 3 (lpddrDue s ch 3) fun s => { s with lpddr := { s.lpddr with zq := s.lpddr.zq.set package s.time } }

end Sys2Proof.Machine
end

