-- ==== Sys2Proof/Machine/Sync.lean ====
section
/-! DEFINITION. Sync.lean: completion signals, SIGNAL, WAIT and FENCE, and what becomes of a waiting WAIT (R198 to R201). -/

namespace Sys2Proof.Machine

/-- The next sequence number of a semaphore in a launch (R201). -/
def nextSeq (l : Launch) (sem : Nat) : Nat := (l.seqs.find? fun p => p.1 = sem).elim 0 (·.2)

/-- The launch with one more sequence number of a semaphore taken. -/
def takeSeq (l : Launch) (sem : Nat) : Launch :=
  { l with seqs := (sem, nextSeq l sem + 1) :: l.seqs.filter fun p => p.1 ≠ sem }

/-- Changes a core's launch. -/
def setLaunch (s : State) (n : Nat) (f : Launch → Launch) : State := setCore s n fun c => { c with launch := c.launch.map f }

/-- Applies a signal of a launch unless its pair is already counted (R201). -/
def applySignal (s : State) (n sem seq k : Nat) : State :=
  if noSem sem then s else
  match (coreAt s n).launch with
  | some l =>
    if l.counted.contains (sem, seq) then s
    else semAdd (setLaunch s n fun l => { l with counted := (sem, seq) :: l.counted }) n (dieOf n) sem k
  | none => s

/-- Whether something in flight writes memory on this module (R199): a STORE or MOVEM to another module does not, nor does an ATOM or MSG that
another module serves. -/
def writesHere (s : State) (m : Move) : Bool :=
  match m.kind with
  | .fetch | .gfetch | .push | .pop => true
  | .store | .movem => !isAway s m.dst
  | .atom | .msg => !m.remote
  | .signal => false

/-- Whether the packets of a move's write to another module have not all been accepted by an egress port (R319): a MOVEM reads its source
still, its transaction waits, or packets of it wait at a port. -/
def unsent (s : State) (n : Nat) (m : Move) : Bool :=
  (m.kind = .movem && !m.writing) ||
    s.fab.txs.any fun t => t.owner = .move n m.id &&
      (t.wait ≠ .response || s.fab.egress.any fun e => some e.2.2.sender = s.fab.device && e.2.2.domain = t.domain && e.2.2.label = t.label)

/-- What holds back a FENCE of KIND 0 to 2 (R200, R319): writes on this module, writes to others until their packets are out, atomics and messages
until their response. -/
def holdsFence (s : State) (n : Nat) (m : Move) : Bool :=
  match m.kind with
  | .signal => false
  | .store | .movem => !isAway s m.dst || unsent s n m
  | _ => true

/-- Applies, in order, the signals that no earlier write on this module holds back. -/
def applySignals (s : State) (n : Nat) : State :=
  (coreAt s n).moves.foldl (fun s m =>
    if m.kind = .signal && !(coreAt s n).moves.any (fun x => writesHere s x && x.order < m.order) then
      applySignal (setCore s n fun c => { c with moves := c.moves.filter fun x => x.id ≠ m.id }) n m.sem m.seq m.dst
    else s) s

/-- A move with nothing in it but what its kind, order and completion signal need. -/
def bareMove (i : Ctx) (kind : MoveKind) (sem : Nat) : Move :=
  { id := i.c.issued, kind, order := i.c.issued, index := i.l.pc, word := BitVec.ofNat 64 i.w, rclass := 0, sem, seq := nextSeq i.l sem,
    deadline := none, shape := none, src := 0, srcSeal := 0, dst := 0, dstSeal := 0, slots := [], carried := 0, bytes := [],
    list := [], reg := 0, stack := 0, ftag := 0, remote := false, status := none, since := i.s.time, writing := false }

/-- Puts a move in flight; its completion signal takes a sequence number at issue (R201). -/
def launchMove (s : State) (n : Nat) (m : Move) : State :=
  let s := setCore s n fun c => { c with moves := c.moves ++ [m] }
  if noSem m.sem then s else setLaunch s n fun l => takeSeq l m.sem

/-- A move ends: it is no longer in flight and signals its semaphore, whatever its outcome (R192). -/
def closeMove (s : State) (n : Nat) (m : Move) : State :=
  let s := setCore s n fun c => { c with moves := c.moves.filter fun x => x.id ≠ m.id }
  applySignals (applySignal s n m.sem m.seq 1) n

/-- SIGNAL takes effect when every earlier write on this module has completed (R199). -/
def signalBody (i : Ctx) : Res :=
  let m := { bareMove i .signal (i.f 55 44) with dst := i.f 43 28 }
  .done (applySignals (launchMove i.s i.n m) i.n)

def execSignal (n : Nat) (s : State) : Out := tileInstr 0xA0 signalBody n s

/-- Whether a wait for `k` of a semaphore is satisfied, and the state after it: a pair already counted is satisfied without
subtracting (R201). -/
def tryWait (s : State) (n sem k : Nat) : Option State :=
  match (coreAt s n).launch with
  | none => none
  | some l =>
    let seq := nextSeq l sem
    let counted := fun s => setLaunch s n fun l => { takeSeq l sem with counted := (sem, seq) :: l.counted }
    if l.counted.contains (sem, seq) then some (setLaunch s n fun l => takeSeq l sem)
    else if k ≤ semGet s n (dieOf n) sem then some (semTake (counted s) n (dieOf n) sem k)
    else none

/-- WAIT (R199): it is satisfied at once, or the core waits. -/
def waitBody (i : Ctx) : Res :=
  match tryWait i.s i.n (i.f 55 44) (i.f 43 28) with
  | some s => .done s
  | none => .jump (setCore i.s i.n fun c => { c with wait := some (i.f 55 44, i.f 43 28, i.s.time) }) i.l.pc

def execWait (n : Nat) (s : State) : Out := tileInstr 0xA1 waitBody n s

/-- WAIT_SATISFY: a waiting WAIT takes its count once the semaphore holds it. -/
def execWaitSatisfy (n : Nat) (s : State) : Out :=
  onUnit n 152 <|
    match (coreAt s n).wait, (coreAt s n).launch with
    | some (sem, k, _), some l =>
      match tryWait s n sem k with
      | some s => .next (goto (setCore s n fun c => { c with wait := none }) n (l.pc + 1))
      | none => .next s
    | _, _ => .next s

/-- SYNC_TIMEOUT: a WAIT that has lasted longer than the wait limit stops the core (R199). -/
def execSyncTimeout (n : Nat) (s : State) : Out :=
  onUnit n 152 <|
    let c := coreAt s n
    match c.wait, c.launch with
    | some (sem, k, since), some l =>
      if l.waitLimit = 0 ∨ (tryWait s n sem k).isSome then .next s
      else
        let s := advance s (since + l.waitLimit * 1000)
        .next (stopCore s n 0 fSync l.pc (c.insns.getD l.pc 0) sem none)
    | _, _ => .next s

/-- FENCE (R200): KIND 3 waits for every write, the others as `holdsFence` says. -/
def fenceBody (i : Ctx) : Res :=
  if i.c.moves.any fun m => if i.f 55 52 = 3 then m.kind != .signal else holdsFence i.s i.n m then .stall else .done i.s

def execFence (n : Nat) (s : State) : Out := tileInstr 0xA2 fenceBody n s

end Sys2Proof.Machine
end

