-- ==== Sys2Proof/Machine/Moves.lean ====
section
/-! DEFINITION. Moves.lean: tile moves, granule fetches, atomics and messages: what issues them, and how they end (08_tile_program_isa.md,
R191 to R195; 04_cores_tile_store_seals.md, R99 to R105). -/

namespace Sys2Proof.Machine

/-! ### What a tile program may name (R92, R96, R292, R502) -/

/-- Whether bytes at a control-space offset are on-chip memory that a tile program may read. -/
def ctlExists (s : State) (o n : Nat) : Bool :=
  o + n ≤ 0x4000000 || (0x4000000 ≤ o && o + n ≤ 0x8000000) || (hubBase ≤ o && o + n ≤ 0x8800000) ||
    (0x40000000 ≤ o && o < 0x66000000 && (coreAt s ((o - 0x40000000) / 0x400000)).enabled && o % 0x400000 + n ≤ 0x300000)

/-- Whether bytes at a global address exist for a tile program. -/
def tileExists (s : State) (a n : Nat) : Bool :=
  match space a with
  | 0 => device a = 0 && freeRange s (offset a) n
  | 1 => isAway s a || freeRange s (offset a) n
  | 2 => device a = 0 && ctlExists s (offset a) n
  | _ => false

/-- Whether a tile program may write bytes there: hub SRAM only inside the job's grants (R91, R92). -/
def mayWrite (s : State) (a n : Nat) : Bool :=
  let o := offset a
  !(space a = 2 && hubBase ≤ o && o < 0x9000000) ||
    (s.job.phase ≠ .idle && s.job.grants.any fun g => hubBase + g.1 ≤ o && o + n ≤ hubBase + g.1 + g.2)

/-- The first tile of a control-space descriptor that lies at an offset which R92 rejects. -/
def Desc.outOfRange (s : State) (d : Desc) : Option Nat :=
  if space d.base ≠ 2 ∨ device d.base ≠ 0 then none
  else (List.range d.tr).findSome? fun i => (List.range d.tc).findSome? fun j =>
    if ctlExists s (offset (d.addr i j)) d.own then none else some (d.addr i j)

/-- The descriptor in register `r`, checked (R96); one that names an on-chip offset which does not answer is out of range (R92). -/
def Ctx.withDesc (i : Ctx) (r : Nat) (k : Desc → Res) : Res :=
  let d := parseDesc (i.c.d.getD r [])
  if !descOk d then .fault fDesc r none
  else
    match d.outOfRange i.s with
    | some a => .fault fRange a none
    | none => if descPlaced d (tileExists i.s) then k d else .fault fDesc r none

/-- The tile coordinates in X[`xc`], checked against a grid (R191). -/
def Ctx.withTile (i : Ctx) (d : Desc) (xc : Nat) (k : Nat → Nat → Res) : Res :=
  let v := (i.x xc).toNat
  let r := bits v 31 0
  let c := bits v 63 32
  if d.tr ≤ r ∨ d.tc ≤ c then .fault fRange (d.addr r c) none else k r c

/-- The deadline that DL and XDL name (R193). -/
def Ctx.deadline (i : Ctx) (dl xdl : Nat) : Option Nat :=
  match dl with
  | 1 => if i.l.deadline = 0 then none else some i.l.deadline
  | 2 => some (i.x xdl).toNat
  | _ => none

/-! ### How a move ends -/

/-- Bytes of a tile, and the slots it takes. -/
def Shape.bytes (sh : Sys2Proof.Machine.Shape) : Nat := tileBytes sh.fmt sh.kind
def Shape.slots (sh : Sys2Proof.Machine.Shape) : Nat := tileSlots sh.fmt sh.kind

def moveShape (m : Move) : Shape := m.shape.getD regShape

/-- The unit that checks what arrives at an address (R99). -/
def arrivalUnit (s : State) (a : Nat) : Nat :=
  match windowCore a with
  | some c => unitId 2 (dieOf c) c
  | none =>
    if space a = 2 then if offset a < hubBase then unitId 3 (offset a / 0x4000000) 0 else unitId 4 2 0
    else memUnit s (physOf s (offset a))

/-- A fault of a move stops its core, once; a further seal fault is still logged (R105). -/
def stopMove (s : State) (n : Nat) (m : Move) (code detail : Nat) (report : Option (List Byte)) : State :=
  if (coreAt s n).stop.isSome then match report with | some r => logSeal s r | none => s
  else stopCore s n 0 code m.index m.word detail report

/-- Makes a move's destination undefined: slots are unsealed, a seal table keeps its entry (R193); of a gather's slots, the granules it names
(R194). -/
def spoil (s : State) (n : Nat) (m : Move) : State :=
  let p := (m.slots.headD (0, 0)).1
  let s :=
    if m.kind = .gfetch then m.list.foldl (fun s g =>
      havocCtl (unsealSlots s (tileSlot n (p + g.1 / 8)) 1) (tileBase n + 512 * p + 64 * g.1) 64) s
    else m.slots.foldl (fun s r => havocCtl (unsealSlots s (tileSlot n r.1) r.2) (tileBase n + 512 * r.1) (512 * r.2)) s
  if m.kind = .movem ∨ m.kind = .store then
    if space m.dst = 2 then
      havocCtl (unsealSlots s (slotAt (offset m.dst)) (Shape.slots (moveShape m))) (offset m.dst) (Shape.bytes (moveShape m))
    else if isHere s m.dst then havocLocal s (offset m.dst) (Shape.bytes (moveShape m))
    else s
  else s

/-- Whether a move is a class D request whose data comes from LPDDR (R276, R279). -/
def tierD (s : State) (n : Nat) (m : Move) : Bool :=
  m.deadline.isSome &&
    match m.kind with
    | .fetch | .movem => space m.src ≠ 2 && isHere s m.src && lpddrBase ≤ physOf s (offset m.src)
    | .pop => (popFrame s (coreAt s n) m).any fun f => f.loc = .spilled || f.loc = .returning
    | _ => false

/-- A privileged move that ends FAIL is reported in telemetry (R19). -/
def gatherFailed (s : State) : State := { s with tel := { s.tel with gatherFails := s.tel.gatherFails + 1 } }

/-- A move ends LATE (or FAIL): it is recorded and counted, and it signals (R19, R193, R289). -/
def endLate (s : State) (n : Nat) (m : Move) (late : Bool) : State :=
  let slot := (m.slots.headD (0, 0)).1
  let s := if late then stepCount (if tierD s n m then tierCount s 1 1 else s) 2 else gatherFailed s
  closeMove (setCore s n fun c => fswRecord c late m.order m.index slot) n m

/-- A class D request refused at admission ends LATE (R279). -/
def endRefused (s : State) (n : Nat) (m : Move) : State := tierCount (endLate s n { m with deadline := none } true) 0 1

/-- A seal fault of a move (R105). -/
def endSealFault (s : State) (n : Nat) (m : Move) (record : List Byte) : State :=
  match m.rclass with
  | 0 => closeMove (stopMove s n m fSeal (field record 0 8) (some record)) n m
  | k => endLate (spoil (logSeal s record) n m) n m (k = 1)

/-- Any other failure to complete (R192). -/
def endLost (s : State) (n : Nat) (m : Move) (addr : Nat) : State :=
  match m.rclass with
  | 0 => closeMove (stopMove (spoil s n m) n m fTransfer addr none) n m
  | k => endLate (spoil s n m) n m (k = 1)

/-- A move ends with its work done. -/
def endDone (s : State) (n : Nat) (m : Move) : State := closeMove s n m

/-! ### Reading a tile (R99 to R104) -/

/-- What reading a source tile gives: the tile and the seal it carried, a seal fault, or another failure at an address. -/
inductive Got where
  | tile (bs : List Byte) (crc : Word)
  | bad (record : List Byte)
  | lost (addr : Nat)

/-- A check of R104: the tile passes, or it passes on the retry and is counted, or the fault record says what was found. `bs` is what
arrived, the carried seal is `want`. -/
def sealCheck (s : State) (sh : Shape) (addr unit : Nat) (bs : List Byte) (want : Word) (o : MoveOutcome) : Got × State :=
  if o = .damaged then
    (.bad (sealRecord s addr unit want ((freeWord s).setWidth 32) 0 sh), bump s 1)
  else if sealOf sh bs = want then
    (.tile bs want, if o = .onRetry then stepCount (countUp s cSealRetry 1) 10 else s)
  else (.bad (sealRecord s addr unit want (sealOf sh bs) 0 sh), s)

/-- A tile that goes on to another module with the seal it carries: its bytes are checked there (R99). -/
def sealCarried (s : State) (bs : List Byte) (want : Word) (o : MoveOutcome) : Got × State :=
  if o = .damaged then (.tile (freeBytes s bs.length) want, bump s bs.length) else (.tile bs want, s)

/-- What a reader does with the bytes and the carried seal of a tile: the check of the arrival unit, or none. -/
def arrives (s : State) (sh : Shape) (addr unit : Nat) (here : Bool) (bs : List Byte) (want : Word) (o : MoveOutcome) : Got × State :=
  if here then sealCheck s sh addr unit bs want o else sealCarried s bs want o

/-- Reads a tile of a slot memory: the head record first (R100). A corrected error is counted; an uncorrectable one is a fault of kind 4, and it
fences the core whose tile store it lies in (R93). -/
def readSlotTile (s : State) (sh : Shape) (a unit : Nat) (here : Bool) (o : MoveOutcome) : Got × State :=
  let r := rd s.recs (slotAt (offset a))
  let bad (kind : Nat) (want : Word) : List Byte := sealRecord s a unit want 0 kind sh
  if !ctlExists s (offset a) (Shape.bytes sh) then (.lost a, s)
  else
    match recCheck r sh true with
    | some 2 => (.bad (bad 2 0), s)
    | some k => (.bad (bad k (recSeal r)), s)
    | none =>
      if o = .uncorrectable then
        (.bad (bad 4 (recSeal r)), match windowCore a with | some c => fenceCore s c 0 | none => s)
      else
        let s := if o = .corrected then correctedError s a else s
        arrives (windowTouched s a) sh a unit here (getSlots s (slotAt (offset a)) (Shape.slots sh)) (recSeal r) o

/-- Reads a tile of HBM or LPDDR and its seal-table entry (R248 to R250, R285). -/
def readMemTile (s : State) (sh : Shape) (a sealAddr unit : Nat) (here : Bool) (o : MoveOutcome) : Got × State :=
  let n := Shape.bytes sh
  let s := touchRead (touchRead s (offset a) n) (offset sealAddr) 4
  match readRange s (offset a) n o with
  | (some _, s) => (.lost a, s)
  | (none, s) =>
    match readRange s (offset sealAddr) 4 (match o with | .memory e => .memory e | _ => .arrived) with
    | (some _, s) => (.bad (sealRecord s a unit 0 0 3 sh), s)
    | (none, s) =>
      arrives s sh a unit here (readLocal s (offset a) n) (BitVec.ofNat 32 (unle (readLocal s (offset sealAddr) 4))) o

/-- What the fabric brought of a tile of another module; a T7's tile has no seal to compare (R302). -/
def readAwayTile (s : State) (m : Move) (sh : Shape) (unit : Nat) : Got × State :=
  if m.status ≠ some rOk then (.lost m.src, s)
  else if isT7 s (device m.src) then (.tile m.bytes (sealOf sh m.bytes), s)
  else sealCheck s sh m.src unit m.bytes m.carried .arrived

/-- The source tile of a FETCH or MOVEM, as `unit` finds it; `here` says that it is this module that checks the bytes (R99). -/
def readSource (s : State) (m : Move) (unit : Nat) (here : Bool) (o : MoveOutcome) : Got × State :=
  let sh := moveShape m
  if isAway s m.src then readAwayTile s m sh unit
  else if o = .failed then (.lost m.src, s)
  else if space m.src = 2 then readSlotTile s sh m.src unit here o
  else readMemTile s sh m.src m.srcSeal unit here o

/-! ### Writing a tile -/

/-- Writes a tile and its seal where both live on this module (R102, R103). -/
def landTile (s : State) (dst dstSeal : Nat) (sh : Shape) (bs : List Byte) (crc : Word) : State :=
  if space dst = 2 then windowTouched (putTile s (slotAt (offset dst)) sh bs crc) dst
  else writeLocal (writeLocal s (offset dst) bs) (offset dstSeal) (le 4 crc.toNat)

/-- Whether a failed channel holds a byte of a local destination (R255, log 22). -/
def deadRange (s : State) (a n : Nat) : Bool :=
  space a ≠ 2 && !(s.hbm.failed.isEmpty && s.lpddr.failed.isEmpty) && (badGranule { s with poison := [] } (offset a) n).isSome

/-- What a failed check leaves at a local destination (R104): the bytes that arrived, and the complement of the carried seal in a
seal table or an unsealed head. -/
def landBad (s : State) (dst dstSeal : Nat) (sh : Shape) (bs : List Byte) (carried : Word) : State :=
  if space dst = 2 then
    let s := unsealSlots s (slotAt (offset dst)) (Shape.slots sh)
    { s with ctl := writeRun s.ctl (offset dst) bs }
  else writeLocal (writeLocal s (offset dst) bs) (offset dstSeal) (le 4 (~~~carried).toNat)

/-- The bytes that a failed check wrote: those of the source, or free ones when the transfer damaged them. -/
def badBytes (s : State) (bs : List Byte) (o : MoveOutcome) : List Byte × State :=
  if o = .damaged then (freeBytes s bs.length, bump s bs.length) else (bs, s)

/-! ### Issue -/

/-- Sends a move's transaction to another module. -/
def moveTx (s : State) (n : Nat) (m : Move) (kind : TxKind) (a sealAddr total : Nat) (data : List Byte) : State :=
  newTx s { bareTx kind (.move n m.id) (coreDomain n) (device a) (offset a) total with
    sealed := m.shape.isSome, priv := m.rclass = 2, crc := m.carried, shape := m.shape.elim 0 fun sh => shapeBits sh % 2 ^ 24
    sealAddr := offset sealAddr, aop := bits m.word.toNat 39 36, data }

/-- Whether a deadline has passed. -/
def isLate (s : State) (m : Move) : Bool := m.deadline.any (· < s.time)

/-- The destination slots of a move that reads, in a slot memory, are unsealed with undefined bytes when it ends LATE before it began (R193); in
HBM or LPDDR no write has begun, and the seal table keeps its entry. -/
def spoilSlots (s : State) (n : Nat) (m : Move) : State :=
  if m.kind = .fetch ∨ (m.kind = .movem ∧ space m.dst = 2) then spoil s n m else s

/-- A source in the core's own tile store is an input that exists only there (R108). -/
def readOwn (s : State) (n : Nat) (m : Move) : State :=
  if windowCore m.src = some n then readBytes s n (offset m.src % 0x400000) (Shape.bytes (moveShape m)) else s

/-- A move that reads begins: at once LATE, refused at admission (R279), or with its request on the way. -/
def startRead (s : State) (n : Nat) (m : Move) : State :=
  let size := Shape.bytes (moveShape m)
  let away := isAway s m.src
  let m := { m with remote := away }
  let s := readOwn (launchMove s n m) n m
  let refused := !away && space m.src ≠ 2 && m.deadline.any fun d => !admitted s (offset m.src) 0 d
  if isLate s m then endLate (spoilSlots s n m) n m true
  else if refused then endRefused (spoilSlots s n m) n m
  else if away then moveTx s n m .read m.src m.srcSeal (size / 64) []
  else s

def fetchBody (i : Ctx) : Res :=
  i.withDesc (i.f 55 52) fun d => i.withTile d (i.f 51 48) fun r c =>
    let sh := d.shape r c
    let p := i.slot (i.f 47 35) (i.f 34 31)
    i.operand p (Shape.slots sh) <|
      let m := { bareMove i .fetch (i.f 30 19) with
        rclass := i.f 18 17, deadline := i.deadline (i.f 16 15) (i.f 14 11), shape := some sh, src := d.addr r c,
        srcSeal := d.sealAddr r c, slots := [(p, Shape.slots sh)] }
      .done (startRead (unsealSlots i.s (tileSlot i.n p) (Shape.slots sh)) i.n m)

def execFetch (n : Nat) (s : State) : Out := tileInstr 0x70 fetchBody n s

/-- STORE: the source tile is read at issue, under its record (R100). -/
def storeBody (i : Ctx) : Res :=
  i.withDesc (i.f 55 52) fun d => i.withTile d (i.f 51 48) fun r c =>
    let sh := d.shape r c
    let p := i.slot (i.f 47 35) (i.f 34 31)
    let n := Shape.slots sh
    i.operand p n <|
      if !mayWrite i.s (d.addr r c) (Shape.bytes sh) then .fault fRange (d.addr r c) none
      else i.check p sh true <|
        let m := { bareMove i .store (i.f 30 19) with
          shape := some sh, src := tileAddr i.n (512 * p), dst := d.addr r c, dstSeal := d.sealAddr r c,
          carried := recSeal (rd i.s.recs (tileSlot i.n p)), bytes := getSlots i.s (tileSlot i.n p) n, remote := isAway i.s (d.addr r c) }
        let s := launchMove (readSlots i.s i.n p n) i.n m
        .done (if m.remote then moveTx s i.n m .write m.dst m.dstSeal (Shape.bytes sh / 64) m.bytes else s)

def execStore (n : Nat) (s : State) : Out := tileInstr 0x71 storeBody n s

def movemBody (i : Ctx) : Res :=
  i.withDesc (i.f 55 52) fun d => i.withDesc (i.f 34 31) fun e =>
    if d.legend ≠ e.legend then .fault fDesc (i.f 34 31) none
    else i.withTile d (i.f 51 48) fun r c => i.withTile e (i.f 51 48) fun _ _ =>
      let sh := d.shape r c
      if e.shape r c ≠ sh then .fault fDesc (i.f 34 31) none
      else if !mayWrite i.s (e.addr r c) (Shape.bytes sh) then .fault fRange (e.addr r c) none
      else
        let m := { bareMove i .movem (i.f 30 19) with
          rclass := i.f 18 17, deadline := i.deadline (i.f 16 15) (i.f 14 11), shape := some sh, src := d.addr r c,
          srcSeal := d.sealAddr r c, dst := e.addr r c, dstSeal := e.sealAddr r c }
        .done (startRead i.s i.n m)

def execMovem (n : Nat) (s : State) : Out := tileInstr 0x72 movemBody n s

/-! ### Granule fetch, atomics, messages -/

/-- Whether a granule may be gathered from the memory that `base` lies in (R194, R502). -/
def gatherable (s : State) (base a : Nat) : Bool :=
  localExists s a 64 && (decide (a < lpddrBase) == decide (base < lpddrBase)) &&
    !touches ((fixedRanges.take 7) ++ s.tier.pool) a 64

/-- The active elements of a gather with the granules they name. -/
def Ctx.gathers (i : Ctx) (base : Nat) : List (Nat × Nat) :=
  ((List.range 1024).filter fun e => i.active (i.f 41 41) (i.f 46 42) e).map fun e => (e, base + 64 * (el (i.t (i.f 51 47)) e).toNat)

def gfetchBody (i : Ctx) : Res :=
  let base := (parseDesc (i.c.d.getD (i.f 55 52) [])).base
  let p := i.slot (i.f 40 28) (i.f 27 24)
  let gs := i.gathers base
  i.operand p 128 <|
    if 2 ^ 41 ≤ base ∨ base % 64 ≠ 0 ∨ ¬ localExists i.s base 64 then .fault fRange base none
    else
      match gs.find? fun g => !gatherable i.s base g.2 with
      | some g => .fault fRange g.2 none
      | none =>
        let m := { bareMove i .gfetch (i.f 23 12) with
          deadline := i.deadline (i.f 11 10) (i.f 9 6), src := base, slots := [(p, 128)], list := gs }
        let s := gs.foldl (fun s g => unsealSlots s (tileSlot i.n (p + g.1 / 8)) 1) i.s
        let s := launchMove s i.n m
        .done (if isLate s m then endLate (spoil s i.n m) i.n m true else s)

def execGfetch (n : Nat) (s : State) : Out := tileInstr 0x73 gfetchBody n s

/-- Whether R195 admits an atomic's address. -/
def atomOk (s : State) (a : Nat) : Bool :=
  a % 8 = 0 && ((space a = 0 && device a = 0 && freeRange s (offset a) 8) || (space a = 1 && (isAway s a || freeRange s (offset a) 8)))

/-- An atomic or message ends reissue (R195). -/
def issuedRemote (s : State) (n : Nat) : State := setLaunch s n fun l => { l with remote := true }

def atomBody (i : Ctx) : Res :=
  let a := (i.x (i.f 55 52)).toNat
  if !atomOk i.s a then .fault fRange a none
  else
    let m := { bareMove i .atom (i.f 30 19) with
      dst := a, reg := i.f 43 40, remote := isAway i.s a,
      bytes := le 8 (i.x (i.f 51 48)).toNat ++ le 8 (i.x (i.f 47 44)).toNat }
    let s := issuedRemote (launchMove i.s i.n m) i.n
    .done (if m.remote then moveTx s i.n m .atomic a a 1 m.bytes else s)

def execAtom (n : Nat) (s : State) : Out := tileInstr 0x74 atomBody n s

/-- MSG sends row ROW of a register. -/
def msgBody (i : Ctx) : Res :=
  let a := (i.x (i.f 45 42)).toNat
  let bs := (List.range 32).flatMap fun c => le 4 (el (i.t (i.f 55 51)) (32 * i.f 50 46 + c)).toNat
  if !((space a = 0 && device a = 0) || space a = 1) then .fault fRange a none
  else
    let m := { bareMove i .msg (i.f 30 19) with dst := a, bytes := bs, remote := isAway i.s a }
    let s := issuedRemote (launchMove i.s i.n m) i.n
    .done (if m.remote then
      newTx s { bareTx .message (.move i.n m.id) (coreDomain i.n) (device a) (bits a 5 0) 2 with data := bs } else s)

def execMsg (n : Nat) (s : State) : Out := tileInstr 0x75 msgBody n s

/-! ### Ends (R192, R193) -/

/-- Bytes that a move has written into its own core's tile store are its own (R108). -/
def wroteOwn (s : State) (n : Nat) (a k : Nat) : State := if windowCore a = some n then ownBytes s n (offset a % 0x400000) k else s

/-- A FETCH ends; one whose deadline has passed reads nothing (R280). -/
def endFetch (s : State) (n : Nat) (m : Move) (o : MoveOutcome) : State :=
  let p := (m.slots.headD (0, 0)).1
  if isLate s m then endLate (spoil s n m) n m true
  else
    match readSource s m (unitId 2 (dieOf n) n) true o with
    | (.tile bs crc, s) =>
      endDone (ownSlots (putTile s (tileSlot n p) (moveShape m) bs crc) n p (Shape.slots (moveShape m))) n m
    | (.bad r, s) => endSealFault (if field r 24 1 = 0 then spoil s n m else s) n m r
    | (.lost a, s) => endLost s n m a

/-- The writing side of a STORE, or of a MOVEM that has its tile, on this module. -/
def endWriteTile (s : State) (n : Nat) (m : Move) (bs : List Byte) (crc : Word) (o : MoveOutcome) : State :=
  let sh := moveShape m
  let (got, s) := sealCheck s sh m.src (arrivalUnit s m.dst) bs crc o
  if (space m.dst = 2 && !ctlExists s (offset m.dst) (Shape.bytes sh)) || deadRange s m.dst (Shape.bytes sh) then endLost s n m m.dst
  else
    match got with
    | .tile bs crc => endDone (wroteOwn (landTile s m.dst m.dstSeal sh bs crc) n m.dst (Shape.bytes sh)) n m
    | .bad r =>
      let (bs, s) := badBytes s bs o
      endSealFault (if m.rclass = 0 then landBad s m.dst m.dstSeal sh bs crc else s) n m r
    | .lost a => endLost s n m a

/-- What the destination module answered to a write (R309, R314). A class D move is LATE when its deadline had passed at the answer: its last byte
was written no later (R315, log 119). -/
def endAway (s : State) (n : Nat) (m : Move) : State :=
  if m.deadline.any (· < m.since) then endLate s n m true
  else if m.status = some rOk then endDone s n m
  else endLost s n m m.dst

/-- An uncorrectable error in the tile store that a STORE or PUSH reads from: a seal fault of kind 4, which fences the core (R93, R105). -/
def ownTileError (s : State) (n : Nat) (m : Move) : State :=
  fenceCore (logSeal s (sealRecord s m.src (unitId 1 (dieOf n) n) m.carried 0 4 (moveShape m))) n 0

def endStore (s : State) (n : Nat) (m : Move) (o : MoveOutcome) : State :=
  if isAway s m.dst then endAway s n m
  else if o = .failed then endLost s n m m.dst
  else if o = .uncorrectable then ownTileError s n m
  else endWriteTile (if o = .corrected then storeErrors s n 1 else s) n m m.bytes m.carried o

/-- The unit that finds a MOVEM's source bad: the arrival check of its destination, and for another module's destination the core's own move
engine, which compares the source record (R100, log 120). -/
def movemUnit (s : State) (n : Nat) (m : Move) : Nat := if isAway s m.dst then unitId 1 (dieOf n) n else arrivalUnit s m.dst

/-- A MOVEM whose source has been read goes on to its destination; its deadline does not end it early where that is another module (R315). A
plain one that found no good tile leaves the complement of the carried seal. -/
def endMovem (s : State) (n : Nat) (m : Move) (o : MoveOutcome) : State :=
  let sh := moveShape m
  let away := isAway s m.dst
  if m.writing then endAway s n m
  else if isLate s m && !away then endLate (spoil s n m) n m true
  else
    match readSource s m (movemUnit s n m) (!away) o with
    | (.tile bs crc, s) =>
      if away then
        let m' := { m with remote := true, writing := true, status := none, bytes := bs, carried := crc }
        let s := setCore s n fun c => { c with moves := c.moves.map fun x => if x.id = m.id then m' else x }
        moveTx s n m' .write m.dst m.dstSeal (Shape.bytes sh / 64) bs
      else endWriteTile s n m bs crc .arrived
    | (.bad r, s) =>
      let carried := BitVec.ofNat 32 (field r 16 4)
      let s :=
        if m.rclass ≠ 0 ∨ away then s
        else if space m.dst = 2 then unsealSlots s (slotAt (offset m.dst)) (Shape.slots sh)
        else
          let s := if field r 24 1 = 0 then havocLocal s (offset m.dst) (Shape.bytes sh) else s
          writeLocal s (offset m.dstSeal) (le 4 (~~~carried).toNat)
      endSealFault s n m r
    | (.lost a, s) => endLost s n m a

/-- Reads the granules of a gather: the first that is uncorrectable, and the state with every record (R250). -/
def readGranules (s : State) (gs : List (Nat × Nat)) (o : MoveOutcome) : Option Nat × State :=
  gs.foldl (fun t g =>
    match readRange (touchRead t.2 g.2 64) g.2 64 (match o with | .memory e => .memory e | _ => .arrived) with
    | (bad, s) => (t.1.or bad, s)) (none, s)

/-- A GFETCH ends: its granules land, or the first bad one stops the core. -/
def endGfetch (s : State) (n : Nat) (m : Move) (o : MoveOutcome) : State :=
  let p := (m.slots.headD (0, 0)).1
  if isLate s m then endLate (spoil s n m) n m true
  else if o = .failed then endLost s n m m.src
  else
    let (bad, s) := readGranules s m.list o
    match if o = .uncorrectable then some (physOf s m.src / 64 * 64) else bad with
    | some g => endLost (if o = .uncorrectable then spoilGranule s g else s) n m g
    | none =>
      let put (s : State) (g : Nat × Nat) : State :=
        let bs := if o = .damaged then freeBytes s 64 else readLocal s g.2 64
        ownBytes { bump s (if o = .damaged then 64 else 0) with
          ctl := writeRun s.ctl (tileBase n + 512 * p + 64 * g.1) bs } n (512 * p + 64 * g.1) 64
      endDone (m.list.foldl put s) n m

/-- An ATOM ends: X[XR] takes the former value (R195). -/
def endAtom (s : State) (n : Nat) (m : Move) (o : MoveOutcome) : State :=
  let done (s : State) (old : List Byte) : State := endDone (putX s n m.reg (BitVec.ofNat 64 (unle old))) n m
  if m.remote then if m.status = some rOk then done s m.bytes else endLost s n m m.dst
  else if o = .failed then endLost s n m m.dst
  else
    match readRange s (offset m.dst) 8 o with
    | (some _, s) => endLost s n m m.dst
    | (none, s) =>
      let (old, s) := atomLocal s (offset m.dst) (bits m.word.toNat 39 36) m.bytes
      done s old

/-- The fabric time-out within a site (R314). -/
def nearTimeout : Nat := 2000000

/-- A MSG ends; a full queue of this module keeps it waiting until the fabric time-out (R312). -/
def endMsg (s : State) (n : Nat) (m : Move) (o : MoveOutcome) : State :=
  if m.remote then if m.status = some rOk then endDone s n m else endLost s n m m.dst
  else if o = .failed then endLost s n m m.dst
  else
    match deliver s (bits m.dst 5 0) m.bytes with
    | some s => endDone s n m
    | none => if m.since + nearTimeout ≤ s.time then endLost s n m m.dst else s

end Sys2Proof.Machine
end

