-- ==== Sys2Proof/Machine/Stacks.lean ====
section
/-! DEFINITION. Stacks.lean: activation stacks: pushes, pops, drain, spill and returns (09_backward_activation_stack.md), and the end of
every move of a core (08_tile_program_isa.md, R192). -/

namespace Sys2Proof.Machine

/-! ### Frame tags (R211) and frames -/

def tagUse (t : DWord) : Nat := bits t.toNat 63 62
def tagVstage (t : DWord) : Nat := bits t.toNat 61 59
def tagMb (t : DWord) : Nat := bits t.toNat 55 40
def tagLayer (t : DWord) : Nat := bits t.toNat 39 24

/-- Mode of a layer (R222): 0 trained, 1 frozen, 2 partly trained. -/
def layerMode (s : State) (layer : Nat) : Nat := bits (s.job.modes.getD (4 * layer) 0).toNat 1 0

/-- The USE that counts: a frame of a frozen layer with USE 10b is kept as 00b (R223). -/
def effUse (s : State) (t : DWord) : Nat := if tagUse t = 2 ∧ layerMode s (tagLayer t) = 1 then 0 else tagUse t

def frameBytes (f : Frame) : Nat := 512 * f.size

/-- A frame's directory entry (the table under R211). -/
def frameEntry (f : Frame) : List Byte :=
  let code := match f.loc with | .top => 1 | .body => 2 | .spilled => 3 | .spilling => 4 | .returning => 5 | .dropped => 6
  let a := match f.loc with | .body | .spilled | .spilling | .returning => f.addr | _ => 0
  le 8 f.tag.toNat ++ le 8 a ++ le 4 f.crc.toNat ++ le 3 f.shape ++ le 1 (code + 8 * f.pops) ++ le 4 f.seq ++ le 2 f.size ++ le 2 f.step

def stackAt (s : State) (k : Nat) : Option Stack := s.stackSet[k]?
def setStack (s : State) (k : Nat) (f : Stack → Stack) : State := { s with stackSet := s.stackSet.modify k f }

/-- Writes a frame and its directory entry. -/
def putFrame (s : State) (k : Nat) (f : Frame) : State :=
  match stackAt s k with
  | none => s
  | some st =>
    let s := setStack s k fun st => { st with frames := st.frames.filter (fun g => g.slot ≠ f.slot) ++ [f] }
    writePhys s (st.dirBase + 32 * f.slot) (frameEntry f)

/-- Removes a frame: its space and its directory entry are free (R218). -/
def removeFrame (s : State) (k : Nat) (f : Frame) : State :=
  match stackAt s k with
  | none => s
  | some st =>
    let s := if f.loc = .top then unsealSlots s (slotAt f.addr) f.size else s
    let s := setStack s k fun st => { st with frames := st.frames.filter fun g => g.slot ≠ f.slot }
    writePhys s (st.dirBase + 32 * f.slot) (zeros 32)

/-- Whether an entry of the walk is the F entry whose layers and micro-batch a frame's tag names. -/
def pushedBy (tag : DWord) (e : Entry) : Bool :=
  e.kind = 1 && e.vstage = tagVstage tag && e.mb = tagMb tag && e.layer ≤ tagLayer tag && tagLayer tag < e.layer + e.layers

/-- A drop is counted and recorded against the entry that pushed the frame (R215, log 121). -/
def reportDrop (s : State) (tag : DWord) : State :=
  let s := stepCount s 1
  match s.job.table.findIdx? (pushedBy tag) with
  | some i => { s with job := { s.job with walk := s.job.walk.modify i fun x => { x with drops := x.drops + 1 } } }
  | none => s

/-- A frame is dropped (R215): its bytes are released, its entry says so, and the drop is reported. -/
def dropFrame (s : State) (k : Nat) (f : Frame) : State :=
  let s := if f.loc = .top then unsealSlots s (slotAt f.addr) f.size else s
  reportDrop (putFrame s k { f with loc := .dropped, addr := 0, dest := 0 }) f.tag

/-- Ranges that frames take in the top buffer, the body and the spill region. -/
def topUsed (st : Stack) : List (Nat × Nat) :=
  st.frames.filterMap fun f => if f.loc = .top then some (f.addr, frameBytes f) else none
def bodyUsed (st : Stack) : List (Nat × Nat) :=
  st.frames.filterMap fun f =>
    match f.loc with
    | .body | .spilling => some (f.addr, frameBytes f)
    | .returning => some (f.dest, frameBytes f)
    | _ => none
def spillUsed (st : Stack) : List (Nat × Nat) :=
  st.frames.filterMap fun f =>
    match f.loc with
    | .spilled | .returning => some (f.addr, frameBytes f)
    | .spilling => some (f.dest, frameBytes f)
    | _ => none

/-- The lowest place for `n` bytes in a region (log 15). -/
def fit (base len : Nat) (used : List (Nat × Nat)) (n : Nat) : Option Nat :=
  ((base :: used.map fun r => r.1 + r.2).filter fun a => base ≤ a && a + n ≤ base + len && !touches used a n).foldl
    (fun best a => match best with | none => some a | some b => some (min a b)) none

def occupancy (st : Stack) : Nat := (bodyUsed st).foldl (fun n r => n + r.2) 0

/-- A free directory entry for a tag, from its hash on (log 15). -/
def freeEntry (st : Stack) (tag : DWord) : Option Nat :=
  let used := st.frames.map (·.slot)
  let h := Config.frameHash tag st.dirCount
  ((List.range st.dirCount).map fun i => (h + i) % st.dirCount).find? fun i => !used.contains i

/-- The bytes of a frame where it lies now. -/
def frameData (s : State) (f : Frame) : List Byte :=
  if f.loc = .top then readRun s.ctl f.addr (frameBytes f) else readLocal s f.addr (frameBytes f)

/-- The first granule of a frame that cannot be read. -/
def frameBad (s : State) (f : Frame) : Option Nat := if f.loc = .top then none else badGranule s f.addr (frameBytes f)

/-! ### Stack instructions (R197, R209, R212, R217, R218, R221) -/

/-- The schedule entry of a launch. -/
def entryOf (s : State) (l : Launch) : Option Entry := l.sched.bind fun e => s.job.table[e]?

/-- The index of the stack that STACK names (R209). -/
def Ctx.stack (i : Ctx) : Option Nat :=
  match entryOf i.s i.l with
  | none => none
  | some e => i.s.stackSet.findIdx? fun st => st.group = e.group && st.num = i.f 55 53

/-- Fault STACK (R221). -/
def Ctx.stackFault (i : Ctx) (cause : Nat) (tag : DWord) : Res :=
  .fault fStack (2 ^ 60 * cause + 2 ^ 57 * i.f 55 53 + bits tag.toNat 56 0) none

def stepLow (l : Launch) : Nat := l.step % 65536

def findFrame (st : Stack) (tag : DWord) (step : Nat) : Option Frame := st.frames.find? fun f => f.tag = tag && f.step = step

def pushBody (i : Ctx) : Res :=
  i.withShape (i.f 52 49) fun sh =>
    let tag := i.x (i.f 31 28)
    let p := i.slot (i.f 48 36) (i.f 35 32)
    let n := Shape.slots sh
    match i.stack with
    | none => i.stackFault 2 tag
    | some k =>
      if tagUse tag = 3 ∨ bits tag.toNat 58 56 ≠ 0 then i.stackFault 3 tag
      else i.operand p n <| i.check p sh true <|
        let m := { bareMove i .push (i.f 27 16) with
          shape := some sh, src := tileAddr i.n (512 * p), carried := recSeal (rd i.s.recs (tileSlot i.n p)),
          bytes := getSlots i.s (tileSlot i.n p) n, stack := k, ftag := tag }
        .done (launchMove (readSlots i.s i.n p n) i.n m)

def execPush (n : Nat) (s : State) : Out := tileInstr 0x90 pushBody n s

/-- Whether a POP's entry may take a frame of this USE (R221, cause 5). -/
def useForbidden (kind use : Nat) : Bool := (use = 1 && kind = 2) || (use = 0 && kind = 3)

/-- POP puts its move in flight; LATE where no request goes out (R193, R217, R279). -/
def startPop (s : State) (n : Nat) (m : Move) (f : Option Frame) : State :=
  let s := launchMove s n m
  let late := isLate s m || f.all fun f => f.loc = .dropped
  let refused := f.any fun f => f.loc = .spilled && m.deadline.any fun d => !admitted s f.addr 0 d
  if late then endLate (spoil s n m) n m true
  else if refused then endRefused (spoil s n m) n m
  else s

def popBody (i : Ctx) : Res :=
  i.withShape (i.f 52 49) fun sh =>
    let tag := i.x (i.f 31 28)
    let p := i.slot (i.f 48 36) (i.f 35 32)
    let n := Shape.slots sh
    match i.stack, entryOf i.s i.l with
    | some k, some e =>
      match stackAt i.s k with
      | none => i.stackFault 2 tag
      | some st =>
        let go (f : Option Frame) : Res :=
          i.operand p n <|
            let m := { bareMove i .pop (i.f 27 16) with
              rclass := 1, deadline := i.deadline (i.f 15 14) (i.f 13 10), shape := some sh, slots := [(p, n)], stack := k, ftag := tag }
            .done (startPop (unsealSlots i.s (tileSlot i.n p) n) i.n m f)
        match findFrame st tag (stepLow i.l) with
        | none => if st.overflow then go none else i.stackFault 1 tag
        | some f =>
          if f.shape ≠ shapeBits sh then i.stackFault 4 tag
          else if useForbidden e.kind (effUse i.s tag) then i.stackFault 5 tag
          else go (some f)
    | _, _ => i.stackFault 2 tag

def execPop (n : Nat) (s : State) : Out := tileInstr 0x91 popBody n s

/-- Whether a pop of a frame is in flight on any core. -/
def popInFlight (s : State) (k : Nat) (tag : DWord) : Bool :=
  s.cores.any fun c => c.moves.any fun m => m.kind = .pop && m.stack = k && m.ftag = tag

/-- SDROP never stops a core (R218). -/
def sdropBody (i : Ctx) : Res :=
  let tag := i.x (i.f 31 28)
  match i.stack with
  | none => .done i.s
  | some k =>
    match (stackAt i.s k).bind fun st => findFrame st tag (stepLow i.l) with
    | none => .done i.s
    | some f =>
      if f.loc = .spilling ∨ f.loc = .returning ∨ popInFlight i.s k tag then .stall else .done (removeFrame i.s k f)

def execSdrop (n : Nat) (s : State) : Out := tileInstr 0x92 sdropBody n s

/-! ### Ends of PUSH and POP (R213, R215, R217 to R219) -/

/-- Writes a pushed tile into the top buffer as a frame. -/
def placeFrame (s : State) (k : Nat) (m : Move) (slot a step seq : Nat) : State :=
  let sh := moveShape m
  let s := putTile s (slotAt a) sh m.bytes m.carried
  putFrame s k ⟨m.ftag, .top, 0, seq, Shape.slots sh, m.carried, shapeBits sh, step, a, 0, slot⟩

/-- The next PUSH_SEQ of a step, and the stack after it is taken (R220). -/
def takePushSeq (st : Stack) (step : Nat) : Nat × Stack :=
  let n := (st.nextSeq.find? fun p => p.1 = step).elim 0 (·.2)
  (n, { st with nextSeq := (step, n + 1) :: st.nextSeq.filter fun p => p.1 ≠ step })

/-- A divergence is recorded in telemetry with its stack and tag (R213). -/
def diverged (s : State) (stack : Nat) (tag : DWord) : State :=
  stepCount { s with tel := { s.tel with diverged := s.tel.diverged ++ [(stack, tag)] } } 14

/-- The stack unit takes a pushed tile; none while the push has to wait. -/
def takePush (s : State) (k : Nat) (m : Move) (step : Nat) : Option State :=
  match stackAt s k with
  | none => some s
  | some st =>
    let old := findFrame st m.ftag step
    let room := fit st.topBase st.topLen (topUsed st) (Shape.bytes (moveShape m))
    let store (s : State) (slot a : Nat) : State :=
      let (seq, st') := takePushSeq st step
      placeFrame (setStack s k fun x => { x with nextSeq := st'.nextSeq }) k m slot a step seq
    match old with
    | some f =>
      if f.loc = .spilling ∨ f.loc = .returning then none
      else if f.crc = m.carried then some s
      else room.map fun a => diverged (store (removeFrame s k f) f.slot a) st.num m.ftag
    | none =>
      match freeEntry st m.ftag with
      | none => some (reportDrop (setStack s k fun st => { st with overflow := true }) m.ftag)
      | some slot => room.map fun a => store s slot a

/-- A PUSH ends: a frame that only W would read of a frozen layer is not kept (R223). -/
def endPush (s : State) (n : Nat) (m : Move) (o : MoveOutcome) : State :=
  let die := (stackAt s m.stack).elim 0 (·.die)
  let step := (coreAt s n).launch.elim 0 stepLow
  if o = .uncorrectable then ownTileError s n m
  else if o = .failed then endLost s n m m.src
  else
    match sealCheck (if o = .corrected then storeErrors s n 1 else s) (moveShape m) m.src (unitId 3 die 0) m.bytes m.carried o with
    | (.bad r, s) => endSealFault s n m r
    | (_, s) =>
      if tagUse m.ftag = 1 ∧ layerMode s (tagLayer m.ftag) = 1 then endDone (stepCount s 0) n m
      else
        match takePush s m.stack m step with
        | some s => endDone (stepCount s 0) n m
        | none => s

/-- A pop is taken: the frame goes after its last one; a W entry's pop of a two-pop frame is its last, and is counted when it was also its first (R218,
R219). -/
def popTaken (s : State) (k : Nat) (f : Frame) (kind : Nat) : State :=
  let two := effUse s f.tag = 2
  let s := if two ∧ kind = 3 ∧ f.pops = 0 then { s with tel := { s.tel with unpopped := s.tel.unpopped + 1 } } else s
  if two ∧ kind ≠ 3 ∧ f.pops = 0 then putFrame s k { f with pops := 1 } else removeFrame s k f

/-- The address of a frame's tile in a seal fault record: control space in the top buffer. -/
def frameSource (f : Frame) : Nat := if f.loc = .top then ctlBase + f.addr else f.addr

/-- The head record of a frame in the top buffer against what the directory says (R100): the record of the fault, or none. The stack unit
reports a seal that differs (R221). -/
def topRefused (s : State) (f : Frame) (unit die : Nat) : Option (List Byte) :=
  let sh := shapeOf f.shape
  let r := rd s.recs (slotAt f.addr)
  match recCheck r sh true with
  | some 2 => some (sealRecord s (frameSource f) unit 0 0 2 sh)
  | some k => some (sealRecord s (frameSource f) unit (recSeal r) 0 k sh)
  | none => if recSeal r = f.crc then none else some (sealRecord s (frameSource f) (unitId 9 die 0) f.crc (recSeal r) 0 sh)

/-- The read of a frame by a POP: whether its memory answered with an error, and the state with every record (R93, R250). -/
def readFrame (s : State) (f : Frame) (o : MoveOutcome) : Bool × State :=
  if f.loc = .top then (o = .uncorrectable, if o = .corrected then countUp s cSram 1 else s)
  else
    let (bad, s) := readRange s f.addr (frameBytes f) o
    (bad.isSome, s)

/-- A POP of frame `f` whose source can be read ends. -/
def endPopFrame (s : State) (k : Nat) (st : Stack) (f : Frame) (n : Nat) (m : Move) (kind : Nat) (o : MoveOutcome) : State :=
  let late (s : State) : State := endLate (spoil s n m) n m true
  let sh := moveShape m
  let unit := unitId 2 (dieOf n) n
  match if f.loc = .top then topRefused s f unit st.die else none with
  | some r => late (logSeal s r)
  | none =>
    match readFrame s f o with
    | (true, s) =>
      if f.loc = .top then late (logSeal s (sealRecord s (frameSource f) unit f.crc 0 4 sh)) else dropFrame (late s) k f
    | (false, s) =>
      match sealCheck s sh (frameSource f) unit (frameData s f) f.crc o with
      | (.tile bs crc, s) =>
        let p := (m.slots.headD (0, 0)).1
        let s := ownSlots (putTile s (tileSlot n p) sh bs crc) n p (Shape.slots sh)
        endDone (popTaken s k f kind) n m
      | (.bad r, s) => late (logSeal s r)
      | (.lost _, s) => late s

/-- A POP ends. -/
def endPop (s : State) (n : Nat) (m : Move) (o : MoveOutcome) : State :=
  let late (s : State) : State := endLate (spoil s n m) n m true
  let step := (coreAt s n).launch.elim 0 stepLow
  let kind := ((coreAt s n).launch.bind (entryOf s)).elim 0 (·.kind)
  match stackAt s m.stack with
  | none => late s
  | some st =>
    if isLate s m then late s
    else
      match findFrame st m.ftag step with
      | none =>
        if st.overflow then late s
        else
          let detail := 2 ^ 60 + 2 ^ 57 * st.num + bits m.ftag.toNat 56 0
          closeMove (stopMove s n m fStack detail none) n m
      | some f =>
        match f.loc with
        | .returning => s
        | .dropped => late s
        | _ => if o = .failed then late s else endPopFrame s m.stack st f n m kind o

/-! ### MOVE_END and FETCH_DEADLINE -/

/-- Whether another move in flight holds a slot of a tile in a core's window (R102). -/
def windowHeld (s : State) (n : Nat) (m : Move) (a : Nat) : Bool :=
  match windowCore a with
  | none => false
  | some c => (coreAt s c).moves.any fun x => !(c = n && x.id = m.id) && x.slots.any fun r =>
      overlap r.1 r.2 (offset a % 0x400000 / 512) (Shape.slots (moveShape m))

/-- Whether local memory that a move reads or writes lies on a channel under survey (R253). -/
def memoryHeld (s : State) (n : Nat) (m : Move) : Bool :=
  let tile (a sa : Nat) : Bool := isHere s a && (heldRange s (offset a) (Shape.bytes (moveShape m)) || heldRange s (offset sa) 4)
  match m.kind with
  | .fetch => tile m.src m.srcSeal
  | .store => tile m.dst m.dstSeal
  | .movem => (!m.writing && tile m.src m.srcSeal) || tile m.dst m.dstSeal
  | .gfetch => m.list.any fun g => heldRange s g.2 64
  | .atom => !m.remote && heldRange s (offset m.dst) 8
  | .msg => !m.remote && heldRange s (0x800000 + 16384 * bits m.dst 5 0) 16384
  | .pop => (popFrame s (coreAt s n) m).any fun f => f.loc ≠ .top && f.loc ≠ .dropped && heldRange s f.addr (frameBytes f)
  | .push | .signal => false

/-- Whether a move has to wait before it can end: for the answer of the fabric, for a core that is not lit (R439), for slots that another move
holds, for a survey window. -/
def moveWaits (s : State) (n : Nat) (m : Move) : Bool :=
  (m.remote && m.status.isNone) || !windowLit s m.src || !windowLit s m.dst || memoryHeld s n m ||
    ((m.kind = .fetch || m.kind = .movem) && windowHeld s n m m.src) || ((m.kind = .store || m.kind = .movem) && windowHeld s n m m.dst)

/-- How a move ends, by its kind. -/
def endMove (s : State) (n : Nat) (m : Move) (o : MoveOutcome) : State :=
  match m.kind with
  | .fetch => endFetch s n m o
  | .store => endStore s n m o
  | .movem => endMovem s n m o
  | .gfetch => endGfetch s n m o
  | .atom => endAtom s n m o
  | .msg => endMsg s n m o
  | .push => endPush s n m o
  | .pop => endPop s n m o
  | .signal => s

/-- The transfer of move `id` ends; an atomic or message behind a MOVEM to its module may go now (R318). -/
def moveEnd (s : State) (n id : Nat) (o : MoveOutcome) : State :=
  match (coreAt s n).moves.find? fun m => m.id = id with
  | none => s
  | some m =>
    if moveWaits s n m then s
    else if m.kind = .movem && isAway s m.dst then pumpTx (endMove s n m o)
    else endMove s n m o

def execMoveEnd (core id : Nat) (outcome : MoveOutcome) (s : State) : Out := onUnit core 152 (.next (moveEnd s core id outcome))

/-- FETCH_DEADLINE (R193): a fetch whose deadline passes ends LATE; one that writes another module ends when it is answered (R315). -/
def fetchDeadline (s : State) (n id : Nat) : State :=
  match (coreAt s n).moves.find? fun m => m.id = id with
  | none => s
  | some m =>
    match m.deadline with
    | none => s
    | some d =>
      let s := advance s (d + 1)
      if m.kind = .movem && isAway s m.dst then s else endLate (spoil s n m) n m true

def execFetchDeadline (core id : Nat) (s : State) : Out := onUnit core 152 (.next (fetchDeadline s core id))

/-! ### Drain, spill and returns (R214 to R216) -/

/-- Frames of a list in the order of PUSH_SEQ. -/
def insertSeq (f : Frame) : List Frame → List Frame
  | [] => [f]
  | g :: gs => if f.seq ≤ g.seq then f :: g :: gs else g :: insertSeq f gs

def bySeq (fs : List Frame) : List Frame := fs.foldr insertSeq []

/-- Whether a request names a frame. -/
def inRequest (r : Req) (f : Frame) : Bool :=
  tagVstage f.tag = r.vstage && tagMb f.tag = r.mb && r.layer ≤ tagLayer f.tag && tagLayer f.tag < r.layer + r.layers

/-- Whether a request's deadline has not passed. -/
def liveReq (s : State) (r : Req) : Bool := r.deadline.all (s.time ≤ ·)

/-- The body frame that spills next: frames that only W reads first, no frame of a live request. -/
def nextSpill (s : State) (st : Stack) : Option Frame :=
  let free := bySeq (st.frames.filter fun f => f.loc = .body && !(st.reqs.any fun r => liveReq s r && inRequest r f))
  (free.find? fun f => effUse s f.tag = 1).or free.head?

def nextDrain (st : Stack) : Option Frame := (bySeq (st.frames.filter fun f => f.loc = .top)).head?

/-- The spilled frame that a request returns next: descending PUSH_SEQ. -/
def nextReturn (st : Stack) (r : Req) : Option Frame :=
  (bySeq (st.frames.filter fun f => f.loc = .spilled && inRequest r f)).getLast?

def bodyFit (st : Stack) (f : Frame) : Option Nat := fit st.bodyBase st.bodyLen (bodyUsed st) (frameBytes f)
def spillFit (st : Stack) (f : Frame) : Option Nat := fit st.spillBase st.spillLen (spillUsed st) (frameBytes f)

/-- The check of a frame that moves, at the unit of its destination (R100, R104, R105, R250): whether it passes, and the state with the record of
what was found. `ok` is false where the transfer damages its bytes twice. -/
def frameCheck (s : State) (f : Frame) (unit die : Nat) (ok : Bool) : Bool × State :=
  let sh := shapeOf f.shape
  match if f.loc = .top then topRefused s f unit die else none with
  | some r => (false, logSeal s r)
  | none =>
    if (frameBad s f).isSome then (false, uncorrectables s f.addr (frameBytes f))
    else
      let sum := sealOf sh (frameData s f)
      if sum ≠ f.crc then (false, logSeal s (sealRecord s (frameSource f) unit f.crc sum 0 sh))
      else if ok then (true, s)
      else (false, bump (logSeal s (sealRecord s (frameSource f) unit f.crc ((freeWord s).setWidth 32) 0 sh)) 1)

/-- The body frame that would spill next if no request protected any. -/
def firstBody (s : State) (st : Stack) : Option Frame := nextSpill s { st with reqs := [] }

/-- Whether spilling can still make room in the body (R214): a frame spills now, or the spill region takes one. -/
def canSpill (s : State) (st : Stack) : Bool :=
  st.frames.any (fun g => g.loc = .spilling) || (firstBody s st).any fun g => (spillFit st g).isSome

/-- STACK_DRAIN: the next frame of the top buffer goes to the body, waits for spilling to make room, or is dropped (R214, R215). -/
def stackDrain (s : State) (k : Nat) : State :=
  match stackAt s k with
  | none => s
  | some st =>
    match nextDrain st with
    | none => s
    | some f =>
      match bodyFit st f with
      | some a =>
        if heldRange s a (frameBytes f) then s
        else
          match frameCheck s f (memUnit s a) st.die true with
          | (true, s) =>
            let s := unsealSlots (writeLocal s a (frameData s f)) (slotAt f.addr) f.size
            putFrame s k { f with loc := .body, addr := a }
          | (false, s) => dropFrame s k f
      | none => if canSpill s st then s else dropFrame s k f

def onStack (s : State) (k : Nat) (f : State → Nat → State) : Out := if k < 128 then .next (f s k) else .refused .noSuchUnit

def execStackDrain (stack : Nat) (s : State) : Out := onStack s stack stackDrain

/-- Whether the body has to give up frames: above HIGH_WATER until LOW_WATER, or for a frame that drains or returns. -/
def mustSpill (s : State) (st : Stack) : Bool :=
  let occ := 100 * occupancy st
  (st.spilling && st.low * st.bodyLen < occ) || st.high * st.bodyLen < occ ||
    (nextDrain st).any (fun f => (bodyFit st f).isNone) ||
    st.reqs.any fun r => liveReq s r && (nextReturn st r).any fun f => (bodyFit st f).isNone

/-- STACK_SPILL: the frame that is spilling has arrived, or the next one starts. -/
def stackSpill (s : State) (k : Nat) : State :=
  match stackAt s k with
  | none => s
  | some st =>
    match st.frames.find? fun f => f.loc = .spilling with
    | some f =>
      if heldRange s f.addr (frameBytes f) then s
      else
        match frameCheck s f (memUnit s f.dest) st.die true with
        | (true, s) => putFrame (writeLocal s f.dest (frameData s f)) k { f with loc := .spilled, addr := f.dest, dest := 0 }
        | (false, s) => dropFrame s k f
    | none =>
      let on := st.high * st.bodyLen < 100 * occupancy st || (st.spilling && st.low * st.bodyLen < 100 * occupancy st)
      let s := setStack s k fun st => { st with spilling := on }
      if !mustSpill s st then s
      else
        match nextSpill s st with
        | none => s
        | some f =>
          match spillFit st f with
          | some a => putFrame s k { f with loc := .spilling, dest := a }
          | none => s

def execStackSpill (stack : Nat) (s : State) : Out := onStack s stack stackSpill

/-- The frame that is returning has arrived in the body, or is dropped (R215). -/
def landReturn (s : State) (k die : Nat) (f : Frame) (ok : Bool) : State :=
  if heldRange s f.dest (frameBytes f) then s
  else
    match frameCheck s f (memUnit s f.dest) die ok with
    | (true, s) => putFrame (writeLocal s f.dest (frameData s f)) k { f with loc := .body, addr := f.dest, dest := 0 }
    | (false, s) => dropFrame s k f

/-- The request starts no further frame (R216, R280); until its deadline none of its frames spills. -/
def refuseReturn (s : State) (k req : Nat) : State :=
  tierCount (setStack s k fun st => { st with reqs := st.reqs.map fun x => if x.num = req then { x with refused := true } else x }) 0 1

/-- FRAME_RETURN (R216): the returning frame lands, or the next frame of the request starts. -/
def frameReturn (s : State) (k req : Nat) (ok : Bool) : State :=
  match stackAt s k with
  | none => s
  | some st =>
    match st.frames.find? fun f => f.loc = .returning with
    | some f => landReturn s k st.die f ok
    | none =>
      match st.reqs.find? fun r => r.num = req with
      | none => s
      | some r =>
        match nextReturn st r with
        | none => s
        | some f =>
          if !liveReq s r || r.refused then s
          else if r.deadline.any fun d => !admitted s f.addr (frameBytes f) d then refuseReturn s k req
          else
            match bodyFit st f with
            | some a => putFrame s k { f with loc := .returning, dest := a }
            | none => s

def execFrameReturn (stack req : Nat) (ok : Bool) (s : State) : Out := onStack s stack fun s k => frameReturn s k req ok

/-- RETURN_DEADLINE: the stack unit starts no further return for the request. -/
def returnDeadline (s : State) (k req : Nat) : State :=
  match (stackAt s k).bind fun st => st.reqs.find? fun r => r.num = req with
  | none => s
  | some r =>
    match r.deadline with
    | none => s
    | some d => setStack (advance s d) k fun st => { st with reqs := st.reqs.filter fun x => x.num ≠ req }

def execReturnDeadline (stack req : Nat) (s : State) : Out := onStack s stack fun s k => returnDeadline s k req

/-! ### The end of a step (R220) -/

/-- Removes a frame that its step has left over, and counts it. -/
def leaveOver (s : State) (k : Nat) (f : Frame) : State :=
  let s := removeFrame s k f
  { s with tel := { s.tel with leftOver := s.tel.leftOver + 1 } }

/-- Removes the frames that do not belong to step `next`, counts them as left over, and clears the overflow flags. -/
def clearFrames (s : State) (next : Nat) : State :=
  let s := (List.range s.stackSet.length).foldl (fun s k =>
    match stackAt s k with
    | some st => (st.frames.filter fun f => f.step ≠ next % 65536).foldl (fun s f => leaveOver s k f) s
    | none => s) s
  { s with stackSet := s.stackSet.map fun st =>
    { st with overflow := false, nextSeq := st.nextSeq.filter fun p => p.1 = next % 65536, reqs := [] } }

end Sys2Proof.Machine
end

