-- ==== Sys2Proof/Machine/Programs.lean ====
section
/-! DEFINITION. Programs.lean: program images, the program-class commands, launches, halts and stops (08_tile_program_isa.md, R179 to R184,
R204). -/

namespace Sys2Proof.Machine

def stProgMalformed : Nat := 0x0501
def stProgPoolFull : Nat := 0x0502
def stProgInUse : Nat := 0x0503
def stCoreBusy : Nat := 0x0505
def stProgUnknown : Nat := 0x0506

/-! ### Images (R179, R181, R184) -/

/-- Whether the bit ranges of a word that an instruction does not use are zero. -/
def unused (w : Nat) (rs : List (Nat × Nat)) : Bool := rs.all fun r => bits w r.1 r.2 = 0

/-- A field that an enable or mode switches off is zero (R184). -/
def whenOff (on : Bool) (w hi lo : Nat) : Bool := on || bits w hi lo = 0

/-- A semaphore number of R198 that is not reserved. -/
def semOk (n : Nat) : Bool :=
  match semScope n with
  | 0 => semIndex n < 64
  | 3 => semIndex n = 0x3FF
  | _ => true

/-- Control class (R185). -/
def controlOk (op w count : Nat) : Bool :=
  let target := bits w 12 0 < count
  match op with
  | 0x01 | 0x0D => unused w [(55, 0)]
  | 0x02 => unused w [(47, 0)] && !(2 ≤ bits w 55 48 && bits w 55 48 ≤ 127)
  | 0x03 => unused w [(47, 0)]
  | 0x04 => unused w [(51, 24)]
  | 0x05 => unused w [(27, 0)]
  | 0x06 => unused w [(50, 32)]
  | 0x07 => unused w [(38, 20)] && bits w 43 40 ≤ 12 && whenOff (bits w 39 39 = 0) w 47 44 && whenOff (bits w 39 39 = 1) w 19 0
  | 0x08 => unused w [(44, 13)] && bits w 47 45 ≠ 7 && whenOff (bits w 47 45 ≠ 6) w 55 48 && target
  | 0x09 => unused w [(51, 13)] && bits w 55 52 ≠ 0 && target
  | 0x0A => unused w [(55, 51), (47, 13)] && bits w 50 48 ≠ 0 && target
  | 0x0B | 0x0C => unused w [(47, 0)] && bits w 51 48 ≤ 10
  | _ => false

/-- Matrix and attention classes (R187, R188). -/
def matrixOk (op w : Nat) : Bool :=
  match op with
  | 0x10 => unused w [(9, 0)]
  | 0x11 => unused w [(55, 54), (47, 44), (30, 18), (13, 0)]
  | 0x12 => unused w [(55, 54), (51, 44), (30, 18), (13, 0)]
  | 0x13 => unused w [(55, 52), (47, 44), (9, 0)]
  | 0x20 => unused w [(51, 0)]
  | 0x21 => unused w [(43, 40), (31, 0)]
  | 0x22 => unused w [(47, 40), (31, 25), (23, 0)]
  | 0x23 => unused w [(31, 28), (26, 0)]
  | 0x24 => unused w [(47, 40), (35, 0)]
  | 0x25 => unused w [(31, 0)]
  | 0x26 => unused w [(24, 0)]
  | _ => false

/-- Vector class (R189). -/
def vectorOk (op w : Nat) : Bool :=
  let ty := bits w 29 27
  let tail := [(22, 0)]
  let two (ok : Bool) : Bool := ok && unused w ((40, 36) :: tail)
  let one (ok : Bool) : Bool := ok && unused w ((45, 36) :: tail)
  whenOff (bits w 30 30 = 1) w 35 31 && ty ≤ 4 && whenOff (ty = 4) w 26 23 &&
  match op with
  | 0x30 | 0x31 | 0x32 | 0x33 | 0x34 | 0x38 => two (ty = 0)
  | 0x35 | 0x36 | 0x39 | 0x3A | 0x3B | 0x3C => one (ty = 0)
  | 0x37 => ty = 0 && unused w tail
  | 0x3D => ty ≤ 2 && unused w [(40, 36), (15, 0)] && (bits w 22 16 < 6 || (bits w 22 16 = 6 && ty = 0))
  | 0x3E => unused w tail
  | 0x40 | 0x41 | 0x42 | 0x43 | 0x44 => two (ty = 1 || ty = 2)
  | 0x45 | 0x46 | 0x47 | 0x49 | 0x4A | 0x4B => two (ty = 2)
  | 0x48 => one (ty = 2)
  | 0x50 => unused w [(45, 36), (22, 18), (15, 12)] &&
      (if bits w 17 16 = 0 then bits w 11 0 < 1024 else bits w 17 16 ≠ 3 && bits w 11 0 < 32)
  | 0x51 => ty = 2 && unused w [(50, 36), (22, 16), (11, 0)]
  | 0x52 => one true
  | 0x53 => two true
  | 0x54 => (ty = 2 || ty = 0) && unused w [(50, 36), (22, 16), (11, 8)]
  | _ => false

/-- Reduction, scan and convert classes (R163, R190). -/
def reduceOk (op w : Nat) : Bool :=
  match op with
  | 0x60 => unused w [(52, 42), (33, 0)] && bits w 41 39 ≤ 5 && whenOff (bits w 41 39 = 4) w 38 34
  | 0x61 | 0x62 => unused w [(41, 39), (33, 0)] && whenOff (bits w 42 42 = 1) w 47 43
  | 0x63 => unused w [(41, 0)] && whenOff (bits w 42 42 = 1) w 47 43
  | 0x64 => unused w [(41, 29), (24, 0)] && whenOff (bits w 42 42 = 1) w 47 43
  | 0x65 => unused w [(41, 34), (28, 0)] && whenOff (bits w 42 42 = 1) w 47 43
  | 0x66 => unused w [(52, 25), (19, 0)]
  | 0x68 => unused w [(22, 0)] && bits w 33 31 ≤ 5 && whenOff (4 ≤ bits w 33 31) w 30 30 && whenOff (bits w 40 40 = 1) w 45 41 &&
      whenOff (bits w 34 34 = 1) w 39 35 && whenOff (bits w 23 23 = 1) w 28 24
  | 0x6C => unused w [(16, 0)] && bits w 37 36 ≠ 3 && whenOff (bits w 37 36 = 2) w 28 17 && whenOff (bits w 29 29 = 1) w 34 30
  | _ => false

/-- Moves, granule fetches, atomics, messages (R192, R194, R195). -/
def moveOk (op w : Nat) : Bool :=
  let rc := bits w 18 17
  let dl := bits w 16 15
  let timed := rc ≠ 3 && dl ≠ 3 && (rc = 1 || dl = 0) && whenOff (dl = 2) w 14 11
  match op with
  | 0x70 => unused w [(10, 0)] && semOk (bits w 30 19) && timed
  | 0x71 => unused w [(18, 0)] && semOk (bits w 30 19)
  | 0x72 => unused w [(47, 35), (10, 0)] && semOk (bits w 30 19) && timed
  | 0x73 => unused w [(5, 0)] && semOk (bits w 23 12) && bits w 11 10 ≠ 3 && whenOff (bits w 11 10 = 2) w 9 6 &&
      whenOff (bits w 41 41 = 1) w 46 42
  | 0x74 => unused w [(35, 31), (18, 0)] && semOk (bits w 30 19) && bits w 39 36 ≤ 7 && whenOff (bits w 39 36 = 5) w 47 44
  | 0x75 => unused w [(41, 31), (18, 0)] && semOk (bits w 30 19)
  | _ => false

/-- Register access (R157 to R160, R170, R171). -/
def accessOk (op w : Nat) : Bool :=
  whenOff (bits w 35 35 = 1) w 40 36 &&
  match op with
  | 0x78 | 0x79 => unused w [(50, 41), (34, 27), (9, 0)]
  | 0x7A | 0x7B => unused w [(50, 41), (9, 0)]
  | 0x7C | 0x7D => unused w [(45, 41), (34, 0)]
  | 0x7E => unused w [(45, 41), (34, 4), (2, 0)]
  | 0x7F => unused w [(34, 27), (22, 10), (3, 0)] && whenOff (bits w 4 4 = 1) w 26 23
  | _ => false

/-- Seal, stack and sync classes (R196 to R200). -/
def sealOk (op w : Nat) : Bool :=
  match op with
  | 0x80 | 0x81 | 0x82 => unused w [(34, 0)]
  | 0x83 => unused w [(55, 52), (26, 0)]
  | 0x90 => unused w [(15, 0)] && semOk (bits w 27 16)
  | 0x91 => unused w [(9, 0)] && semOk (bits w 27 16) && bits w 15 14 ≠ 3 && whenOff (bits w 15 14 = 2) w 13 10
  | 0x92 => unused w [(52, 32), (27, 0)]
  | 0xA0 | 0xA1 => unused w [(27, 0)] && semOk (bits w 55 44) && bits w 55 44 ≠ 0xFFF && bits w 43 28 ≠ 0
  | 0xA2 => unused w [(51, 0)] && bits w 55 52 ≤ 3
  | _ => false

/-- The word checks of R181 in a program of `count` words. -/
def insnOk (count w : Nat) : Bool :=
  let op := bits w 63 56
  if op < 0x10 then controlOk op w count
  else if op < 0x30 then matrixOk op w
  else if op < 0x60 then vectorOk op w
  else if op < 0x70 then reduceOk op w
  else if op < 0x78 then moveOk op w
  else if op < 0x80 then accessOk op w
  else sealOk op w

/-- Fields of an image's header. -/
def imgCount (b : List Byte) : Nat := field b 0x0C 4
def imgEntry (b : List Byte) : Nat := field b 0x10 4
def imgTiles (b : List Byte) : Nat := field b 0x14 2
def imgSlot (b : List Byte) : Nat := field b 0x16 2
def imgFlags (b : List Byte) : Nat := field b 0x18 4
def imgWait (b : List Byte) : Nat := field b 0x20 4
/-- The instruction words and a data tile of an image. -/
def imgInsns (b : List Byte) : List DWord :=
  (List.range (imgCount b)).map fun i => BitVec.ofNat 64 (field b (64 + 8 * i) 8)
def imgTile (b : List Byte) (t : Nat) : List Byte := sub b (64 + 8 * imgCount b + 4096 * t) 4096

/-- The header checks of R181. -/
def imgHeaderOk (b : List Byte) : Bool :=
  let n := imgCount b
  let t := imgTiles b
  64 ≤ b.length && b.take 8 = ascii "TK9-TP01" && field b 8 4 = 1 && 1 ≤ n && n ≤ 8192 && imgEntry b < n && t ≤ 64 &&
    (if t = 0 then imgSlot b = 0 else imgSlot b + 8 * (t - 1) ≤ 6136) && imgFlags b ≤ 1 && (b.drop 0x24).take 28 = zeros 28 &&
    b.length = 64 + 8 * n + 4096 * t && field b 0x1C 4 = (crc32c ((b.drop 64).take (8 * n))).toNat

/-- The first failing check of an image, as RESULT0 gives it. -/
def imgBad (b : List Byte) : Option Nat :=
  if !imgHeaderOk b then some 0xFFFFFFFF else (imgInsns b).findIdx? fun w => !insnOk (imgCount b) w.toNat

/-! ### PROG_LOAD, PROG_DROP, PROG_LIST (R180, R181) -/

def findProg (s : State) (num : Nat) : Option Program := s.programs.find? fun p => p.num = num

/-- Launches of a program that run, or wait for their reissue. -/
def runsOf (s : State) (num : Nat) : Nat := (s.cores.filter fun c => c.launch.any fun l => l.prog = num).length

/-- Bytes of the program pools: the smaller of the two dies' regions (R91). -/
def poolBytes (s : State) : Nat :=
  if s.job.phase = .idle then 8 * 2 ^ 20
  else 2 ^ 20 * min (nth (s.job.partition.getD 0 []) 4) (nth (s.job.partition.getD 1 []) 4)

/-- A program as the pools hold it: the mailbox unit has sealed its data tiles (R181). -/
def newProgram (num load : Nat) (image : List Byte) : Program :=
  ⟨num, load, image, (List.range (imgTiles image)).map fun t => sealOf regShape (imgTile image t)⟩

def progLoadBody (mb : Nat) (c : Cmd) (s : State) : State :=
  let num := c.arg0.toNat
  let rest := s.programs.filter fun p => p.num ≠ num
  if !clean c 0xFFF 0 true then finish s mb c stMalformed
  else
    match imgBad c.payload with
    | some i => finish s mb c stProgMalformed [] (BitVec.ofNat 64 i)
    | none =>
      if 0 < runsOf s num then finish s mb c stProgInUse
      else if poolBytes s < rest.foldl (fun n p => n + p.image.length) c.payload.length then finish s mb c stProgPoolFull
      else finish { s with programs := rest ++ [newProgram num s.loads c.payload], loads := s.loads + 1 } mb c 0

def execProgLoad (mb : Nat) (tag : DWord) (s : State) : Out := mbCommand mb tag 5 1 (progLoadBody mb) s

/-- Whether a schedule table names a program: as an entry's PROGRAM where that is one, or as its RECOMPUTE. -/
def tableNames (t : List Entry) (num : Nat) : Bool := t.any fun e => (e.kind ≤ 4 && e.program = num) || e.recompute = num

/-- Whether the job names a program: in its schedule table, or in the one that JOB_SWAP has named (R228). -/
def jobNames (s : State) (num : Nat) : Bool :=
  s.job.phase ≠ .idle && (s.job.schedule :: s.job.swap.toList).any fun k => tableNames ((s.tables.find? fun t => t.1 = k).elim [] (·.2)) num

def progDropBody (mb : Nat) (c : Cmd) (s : State) : State :=
  let num := c.arg0.toNat
  if !clean c 0xFFF 0 false then finish s mb c stMalformed
  else if (findProg s num).isNone then finish s mb c stProgUnknown
  else if 0 < runsOf s num || jobNames s num then finish s mb c stProgInUse
  else finish { s with programs := s.programs.filter fun p => p.num ≠ num } mb c 0

def execProgDrop (mb : Nat) (tag : DWord) (s : State) : Out := mbCommand mb tag 5 2 (progDropBody mb) s

/-- Programs in ascending number. -/
def sortedProgs (s : State) : List Program := (List.range 4096).filterMap (findProg s)

def progListBody (mb : Nat) (c : Cmd) (s : State) : State :=
  if !clean c 0 0 false then finish s mb c stMalformed
  else finish s mb c 0 <| (sortedProgs s).flatMap fun p =>
    le 2 p.num ++ le 2 (imgCount p.image) ++ le 2 (imgTiles p.image) ++ le 2 (runsOf s p.num)

def execProgList (mb : Nat) (tag : DWord) (s : State) : Out := mbCommand mb tag 5 3 (progListBody mb) s

/-! ### Launches (R174, R182, R183) -/

/-- The state of R174 for a launch, what KEEP keeps left in place while the core still holds it. -/
def Core.launched (c : Core) (p : Program) (l : Launch) (now : Nat) : Core :=
  let kept := l.keep && c.held
  let x := (0 : DWord) :: l.args ++ (if kept then c.x.drop 8 else List.replicate 8 0)
  { emptyUnits c with
    x
    sh := if kept then c.sh else List.replicate 16 0
    d := if kept then c.d else List.replicate 16 (zeros 32)
    t := if kept then c.t else List.replicate 32 (List.replicate 1024 0)
    sems := List.replicate 64 0
    nf0 := if kept then c.nf0 else BitVec.ofNat 64 (2 ^ 62 * (imgFlags p.image % 2))
    nf1 := if kept then c.nf1 else 0
    fsw := if kept then c.fsw else 0
    fswOrder := if kept then c.fswOrder else 0
    insns := imgInsns p.image, loaded := some (p.num, p.load), held := true
    launch := some l, moves := [], wait := none, stop := none, ending := none, retired := now }

/-- Whether the words of a program still have the CRC that PROG_LOAD checked. -/
def insnsWhole (b : List Byte) : Bool := field b 0x1C 4 = (crc32c ((b.drop 64).take (8 * imgCount b))).toNat

/-- The first data tile of a program whose bytes no longer have the seal that the mailbox unit gave it, with that seal. -/
def tileBad (p : Program) : Option (Nat × Word) :=
  ((List.range (imgTiles p.image)).find? fun t => sealOf regShape (imgTile p.image t) ≠ p.seals.getD t 0).map fun t => (t, p.seals.getD t 0)

/-- Copies the data tiles of a program into a tile store, each with its seal (R182); one that fails its check stays unsealed (R104). -/
def placeData (s : State) (n : Nat) (p : Program) : State :=
  (List.range (imgTiles p.image)).foldl (fun s t =>
    let slot := imgSlot p.image + 8 * t
    let bs := imgTile p.image t
    if sealOf regShape bs = p.seals.getD t 0 then storeTile s n slot regShape bs
    else { unsealSlots s (tileSlot n slot) 8 with ctl := writeRun s.ctl (tileBase n + 512 * slot) bs }) s

/-- A launch fails before its first instruction: words that differ from INSN_CRC, for which the manual names no fault code, or a data tile that
fails its arrival check, where the source address in the pool is not stated (R182, log 124). The core stops as for a fault. -/
def failLaunch (s : State) (n : Nat) (p : Program) (l : Launch) : State :=
  let free := freeWord s
  if (coreAt s n).loaded ≠ some (p.num, p.load) && !insnsWhole p.image then
    stopCore (bump s 1) n 0 (bits free.toNat 7 0) l.pc 0 (bits free.toNat 63 8) none
  else
    match tileBad p with
    | some (t, want) =>
      let r := sealRecord s free.toNat (unitId 2 (dieOf n) n) want (sealOf regShape (imgTile p.image t)) 0 regShape
      stopCore (bump s 1) n 0 fSeal l.pc 0 free.toNat (some r)
    | none => s

/-- Launches a program on a core; a launch is demand, and lights it (R437). -/
def launchCore (s : State) (n : Nat) (p : Program) (l : Launch) : State :=
  let l := { l with start := s.time, waitLimit := imgWait p.image }
  let s := lightCore s n
  let had := (coreAt s n).loaded
  let s := placeData (setCore s n fun c => { c.launched p l s.time with loaded := had }) n p
  setCore (failLaunch s n p l) n fun c => { c with loaded := some (p.num, p.load) }

/-- A launch of the host (R183). -/
def hostLaunch (s : State) (mb : Nat) (tag : DWord) (pay : List Byte) (p : Program) (entry : Nat) : Launch :=
  { number := field pay 12 4, layer := 0, mb := 0, entry := 0xFFFF, step := jobStep s, rank := 0, size := 1, deadline := 0, waitLimit := 0,
    start := 0, pc := entry, prog := p.num, first := entry, args := (List.range 7).map fun k => BitVec.ofNat 64 (field pay (16 + 8 * k) 8),
    keep := bit (field pay 8 4) 0, host := some (mb, tag), sched := none, cheaper := false, remote := false, localIn := false, own := [],
    seqs := [], counted := [] }

/-- LAUNCH. -/
def launchBody (mb : Nat) (c : Cmd) (s : State) : State :=
  let pay := c.payload
  let n := field pay 0 2
  let entry := field pay 4 4
  if !clean c 0 0 true || pay.length ≠ 72 || 2 ≤ field pay 8 4 then finish s mb c stMalformed
  else
    match findProg s (field pay 2 2) with
    | none => finish s mb c stProgUnknown
    | some p =>
      if 152 ≤ n || !(coreAt s n).enabled || (coreAt s n).launch.isSome then finish s mb c stCoreBusy
      else if entry ≠ 0xFFFFFFFF ∧ imgCount p.image ≤ entry then finish s mb c stMalformed
      else
        let first := if entry = 0xFFFFFFFF then imgEntry p.image else entry
        launchCore (markStarted s mb c.tag [n]) n p (hostLaunch s mb c.tag pay p first)

def execLaunch (mb : Nat) (tag : DWord) (s : State) : Out := mbCommand mb tag 5 4 (launchBody mb) s

/-! ### HALT and stops (R183, R204) -/

/-- Whether a transaction is a move's of core `n`. -/
def ownedBy (n : Nat) (o : TxOwner) : Bool :=
  match o with
  | .move c _ => c = n
  | _ => false

/-- Stops a core as a trap of kind 3 does, unless it has stopped already. -/
def haltCore (s : State) (n : Nat) : State :=
  let c := coreAt s n
  match c.launch with
  | some l => if c.stop.isSome ∨ c.ending.isSome then s else stopCore s n 3 0 l.pc (c.insns.getD l.pc 0) 0 none
  | none => s

/-- The core's own packets leave what the near and far ports have still to send (R316, R368). -/
def stopFar (s : State) (n : Nat) : State := nearStrip (farStrip s (farOwned s (ownedBy n))) (farOwned s (ownedBy n))

def haltBody (mb : Nat) (c : Cmd) (s : State) : State :=
  let n := c.arg0.toNat
  if !clean c 0xFF 0 false then finish s mb c stMalformed
  else if 152 ≤ n || !(coreAt s n).enabled || (coreAt s n).launch.any fun l => l.host.isNone then finish s mb c stCoreBusy
  else if (coreAt s n).launch.isNone then finish s mb c stNothing
  else finish (stopFar (haltCore s n) n) mb c 0

def execHalt (mb : Nat) (tag : DWord) (s : State) : Out := mbCommand mb tag 5 5 (haltBody mb) s

/-- A move is abandoned 1 ms after a halt or an abort began (R183, R316): its destination is left unsealed. -/
def abandonMove (s : State) (n : Nat) (m : Move) : State :=
  let mine (t : Tx) : Bool := t.owner = .move n m.id
  let s := (s.fab.txs.filter mine).foldl (fun s t => dropTx (retireTag s t) t.id) s
  closeMove (if m.kind = .signal then s else spoil s n m) n m

/-- TRAP_STOP (R204): once what the core issued has completed, it reports. After a halt what is in flight for 1 ms is abandoned, and a
host launch waits for the last limit of its far packets (R368). -/
def trapStop (s : State) (n : Nat) : State :=
  let c := coreAt s n
  match c.stop, c.launch with
  | some t, some l =>
    if t.kind = 3 then
      let s := if c.moves.isEmpty then s else advance s (t.since + 1000000)
      let s := if l.host.isSome then advance s (farLast s (ownedBy n) l.start) else s
      reportStop (c.moves.foldl (fun s m => abandonMove s n m) s) n l t
    else if c.moves.isEmpty then reportStop s n l t
    else s
  | _, _ => s

def execTrapStop (n : Nat) (s : State) : Out := onUnit n 152 (.next (trapStop s n))

end Sys2Proof.Machine
end

