-- ==== Sys2Proof/Machine/Job.lean ====
section
/-! DEFINITION. Job.lean: step records and the walk of a step (19_telemetry_field_book.md, R454 to R457; 10_pipeline_sequencer.md, R233, R240). -/

namespace Sys2Proof.Machine

def jobOf (s : State) (f : Job → Job) : State := { s with job := f s.job }
def resOf (s : State) (f : Resil → Resil) : State := { s with res := f s.res }

/-- ATTEMPT (R380). -/
def attempt (s : State) : Nat := s.res.rollbacks % 256

/-! ### Step records -/

/-- The 256 bytes of a step record (R456). -/
def stepBytes (r : StepRec) : List Byte :=
  withCrc (ascii "TKST" ++ le 1 r.outcome ++ le 1 r.attempt ++ le 2 r.flags ++ le 8 r.step ++ le 8 r.seq ++ le 8 r.start ++ le 8 r.ready ++
    le 8 r.stop ++ le 1 r.coresStart ++ le 1 r.coresEnd ++ le 2 r.layoutGen ++ le 4 r.maxLen ++ zeros 8 ++ r.phase.flatMap (le 8) ++
    r.counts.flatMap (le 4))

/-- Writes a closed record to the window of TEL_STREAM (R457). -/
def streamRecord (s : State) (r : StepRec) : State :=
  match s.tel.stream with
  | some t => hostWrite s (windowAddr s t.window (t.offset + 256 * (r.seq % (t.length / 256)))) (stepBytes r)
  | none => s

/-- Longest padded micro-batch of the running step. -/
def maxLen (j : Job) : Nat := (List.range j.microBatches).foldl (fun n m => max n (j.lenOf m)) 0

/-- Opens a step record as a walk begins (R454). -/
def openRecord (s : State) : State :=
  let noLen := !(s.job.lengths.any fun l => l.1 = s.job.step)
  let replay := s.res.replay.isSome
  let cores := (bookedCores s).length
  let r : StepRec :=
    { outcome := 0, attempt := attempt s, flags := b2n noLen + 2 * b2n replay, step := s.job.step, seq := s.tel.nextSeq, start := s.time,
      ready := 0, stop := 0, coresStart := cores, coresEnd := cores, layoutGen := s.coll.gen, maxLen := maxLen s.job,
      phase := List.replicate 16 0, counts := List.replicate 15 0 }
  { s with tel := { s.tel with stepRec := some r, nextSeq := s.tel.nextSeq + 1 } }

/-- Closes the open record: outcome 1 COMMIT, 2 ROLLBACK, 3 STOPPED (R454). Sysen keeps the last 1,024. -/
def closeRecord (s : State) (outcome : Nat) : State :=
  match s.tel.stepRec with
  | none => s
  | some r =>
    let r := { r with outcome, stop := s.time, coresEnd := (bookedCores s).length }
    let all := s.tel.closed ++ [r]
    streamRecord { s with tel := { s.tel with stepRec := none, closed := all.drop (all.length - 1024) } } r

/-! ### The walk -/

/-- An entry at the start of its walk. -/
def freshEntry : EntryState := ⟨.pending, 0, 0, false, none, false, false, false, [], 0⟩

/-- The walk of step `n` begins (R233, R238): a swapped table takes over, every entry is pending, a record opens. -/
def startWalk (s : State) (n : Nat) : State :=
  let num := s.job.swap.getD s.job.schedule
  let table := (s.tables.find? fun t => t.1 = num).elim s.job.table (·.2)
  openRecord (jobOf s fun j => { j with
    phase := .running, step := n, schedule := num, swap := none, table, walk := table.map fun _ => freshEntry, walkStart := s.time,
    starts := 0, begun := true, readyAt := none })

/-- Cores that run instances of the job's schedule. -/
def instanceCores (s : State) : List Nat := (List.range 152).filter fun n => (coreAt s n).launch.any fun l => l.sched.isSome

/-- Halts the running instances (R240): a core on which nothing is in flight reports at once, the others with their TRAP_STOP. -/
def haltInstances (s : State) : State :=
  (instanceCores s).foldl (fun s n =>
    let s := haltCore s n
    match (coreAt s n).stop, (coreAt s n).launch with
    | some t, some l => if (coreAt s n).moves.isEmpty then reportStop s n l t else s
    | _, _ => s) s

/-- The walk is over: nothing of it starts any more. Launches that have reported their end are cleared. -/
def endWalk (s : State) : State :=
  let s := (instanceCores s).foldl (fun s n => if (coreAt s n).ending.isSome then clearLaunch s n else s) s
  jobOf s fun j => { j with walk := [], readyAt := none }

/-- Ends every operation and ring that runs, as a rollback does (R384). What OUTCOME such an operation shows is not stated: a free value
(log 27). -/
def endCollectives (s : State) : State :=
  let live := s.coll.runs.map (·.handle) ++ s.coll.rings.map (·.handle)
  let code := (freeWord s).toNat % 7
  { bump s 1 with coll := { s.coll with
    runs := [], rings := []
    defs := s.coll.defs.map fun d => if live.contains d.handle then { d with state := 2, outcome := code } else d } }

end Sys2Proof.Machine
end

