-- ==== Sys2Proof/Machine/Commit.lean ====
section
/-! DEFINITION. Commit.lean: commit epochs, flips and rollbacks, the commit tree's messages, vault copies (16_resilience.md, R374 to R391). -/

namespace Sys2Proof.Machine

/-! ### Messages (R379) -/

/-- Step fields of messages and responses: all ones for none. -/
def stepOrNone (o : Option Nat) : Nat := o.getD (2 ^ 64 - 1)

/-- The 128 bytes of a commit message. -/
def commitBytes (s : State) (kind att step feed slot0 slot1 : Nat) : List Byte :=
  withCrc (ascii "TKCM" ++ le 1 kind ++ le 1 att ++ le 2 s.coll.gen ++ le 8 step ++ le 4 (s.fab.device.getD 0) ++ le 2 feed ++ zeros 2 ++
    le 8 slot0 ++ le 8 slot1 ++ zeros 84)

/-- Sends a message into queue 63 of a module. -/
def sendRes (s : State) (dst kind : Nat) (bytes : List Byte) : State :=
  newTx s { bareTx .message (.res kind) 2 dst 63 2 with data := bytes }

/-- Sends a message of the tree about step `n` at attempt `a`. -/
def sendTree (s : State) (dst kind n a : Nat) : State := sendRes s dst kind (commitBytes s kind a n 0 0 0)

def confParent (s : State) : Option Nat := s.res.conf.bind (·.parent)
def confChildren (s : State) : List Nat := s.res.conf.elim [] (·.children)

/-- Whether the engine owns queue 63 for the messages of the tree (R379). -/
def ownsQueue (s : State) : Bool := s.res.conf.any fun c => c.parent.isSome || !c.children.isEmpty

/-- What a commit message says besides its KIND. -/
structure CommitMsg where
  attempt : Nat
  gen     : Nat
  step    : Nat
  sender  : Nat
  feed    : Nat
  slot0   : Nat
  slot1   : Nat
  deriving DecidableEq, Repr

/-- KIND and content of an entry of queue 63; none where MAGIC, CRC, KIND or a field that is zero for its KIND is wrong (log 133). -/
def parseCommit (b : List Byte) : Option (Nat × CommitMsg) :=
  let kind := field b 4 1
  let m : CommitMsg := ⟨field b 5 1, field b 6 2, field b 8 8, field b 0x10 4, field b 0x14 2, field b 0x18 8, field b 0x20 8⟩
  if b.take 4 == ascii "TKCM" && field b 0x7C 4 = (crc32c (b.take 0x7C)).toNat && 1 ≤ kind && kind ≤ 8 && m.step < 2 ^ 48 && m.sender < 2 ^ 21 &&
      (kind = 6 || kind = 7 || m.feed = 0) && (kind = 7 || (m.slot0 = 0 && m.slot1 = 0)) && sub b 0x16 2 == zeros 2 && sub b 0x28 84 == zeros 84 then
    some (kind, m)
  else none

/-- The oldest message that stands in queue `q`: as many are there as its semaphore counts (R312). -/
def queueHead (s : State) (q : Nat) : Option (List Byte) :=
  let n := (s.hubSems.getD (queueSem q) 0).toNat
  if n = 0 then none else some (readLocal s (0x800000 + 16384 * q + 128 * ((nth s.fab.msgCounts q + 128 - n) % 128)) 128)

/-- The entry leaves queue 63. -/
def dropHead (s : State) : State := semTake s 0 0 (hubSem (queueSem 63)) 1

/-- The engine takes the oldest entry of queue 63 when it is a message of KIND `kind`: `k` is what it does with it. An entry that is no message is
discarded and counted, where the engine owns the queue. -/
def takeCommit (s : State) (kind : Nat) (k : CommitMsg → State → State) : State :=
  match queueHead s 63 with
  | none => s
  | some b =>
    match parseCommit b with
    | some (x, m) => if x = kind then k m (dropHead s) else s
    | none => if ownsQueue s then resOf (dropHead s) fun r => { r with junk := r.junk + 1 } else s

/-! ### Snapshots that wait (R395) -/

/-- A SNAP_TAKE ends. -/
def endTake (s : State) (x : SnapRun) (status : Nat) : State :=
  match x.cmd with
  | some (mb, tag) => finishTag s mb tag status [] (if status = 0 then BitVec.ofNat 64 x.slot else 0)
  | none => s

/-- A baseline snapshot is due: requests of an older step are dropped. -/
def dueBaseline (s : State) (n : Nat) : State :=
  let gone := s.res.waiting.filter fun x => x.kind ≠ 1 && x.step < n
  let s := resOf s fun r => { r with waiting := (r.waiting.filter fun x => x.kind = 1 || n ≤ x.step) ++ [⟨1, n, 0, s.time, none⟩] }
  gone.foldl (fun s x => endTake s x 0x070B) s

/-- The running snapshot is abandoned (R398, R408): its slot is FREE again. -/
def abandonSnap (s : State) : State :=
  match s.res.snap with
  | none => s
  | some x =>
    let s := resOf s fun r => { r with snap := none, slots := r.slots.modify x.slot fun t => { t with state := 0, image := [] } }
    endTake (event s 8 x.slot) x 0x070B

/-- The first UPDATE entry of step `n` starts (R377, R398). -/
def noteUpdate (s : State) (n : Nat) : State :=
  let s := resOf s fun r => if n % 2 = 0 then { r with side0 := none } else { r with side1 := none }
  if s.res.snap.any fun x => x.step + 2 ≤ n then abandonSnap s else s

/-! ### The partner vault (R386 to R389) -/

def partner (s : State) : Option Nat := s.fab.topo.bind (·.partner)

/-- The copy of committed step `n` begins with VAULT_HELLO. -/
def startCopy (s : State) (n : Nat) : State :=
  match partner s, s.fab.topo with
  | some p, some t =>
    if s.res.conf.any fun c => !c.sets.isEmpty then
      let s := resOf s fun r => { r with copy := some ⟨n, false, none, none, s.time⟩ }
      sendRes s p 6 (commitBytes s 6 (attempt s) n t.feed 0 0)
    else s
  | _, _ => s

/-! ### Layout generations (R344) -/

/-- Installs a RESHARD's generation, lists and rings, and completes its command. -/
def installReshard (s : State) (r : Reshard) : State :=
  let s := { s with
    coll := { s.coll with gen := r.gen, pending := none }
    fab := { s.fab with topo := s.fab.topo.map fun t => { t with lists := r.lists, rings := r.rings } } }
  finishTag s r.mb r.tag 0

/-- What waits for a flip, or for the last operation of the old generation, is installed. -/
def tryInstall (s : State) : State :=
  match s.coll.pending with
  | some r => if s.coll.runs.isEmpty && s.coll.rings.isEmpty then installReshard s r else s
  | none => s

/-! ### Flip and rollback (R383, R384) -/

/-- Deferred fences act at the flip, or once no step runs (R106, R445). -/
def fenceDeferred (s : State) : State :=
  (List.range 152).foldl (fun s n => match (coreAt s n).deferred with | some c => fenceCore s n c | none => s) s

/-- Steps, data position, seed and layout generation recorded at the flip of step `n` (R391, R402). -/
def recordFlip (s : State) (n : Nat) : State :=
  resOf s fun r =>
    let pos := (r.dataPos.find? fun d => d.1 = n).elim (BitVec.allOnes 64) (·.2)
    { r with
      committed := some n
      side0 := if n % 2 = 0 then some n else r.side0
      side1 := if n % 2 = 1 then some n else r.side1
      rollbacks := 0, ready := none, stalled := false
      readys := r.readys.filter fun x => n < x.2.1
      dataPos := r.dataPos.filter fun d => n < d.1
      recorded := (n, pos, s.job.seed, s.coll.gen) :: (r.recorded.filter fun x => x.1 ≠ n).take 1 }

/-- The flip of step `n`. -/
def flip (s : State) (n : Nat) : State :=
  let s := countUp (closeRecord s 1) cCommit 1
  let s := recordFlip s n
  let s := clearFrames s (n + 1)
  let s := jobOf s fun j => { j with lengths := j.lengths.filter fun l => l.1 ≠ n, step := n + 1, walk := [], begun := false, readyAt := none }
  let s := tryInstall (fenceDeferred s)
  let s := if s.res.conf.any fun c => c.interval ≠ 0 && !c.sets.isEmpty && n % c.interval = 0 then dueBaseline s n else s
  let s := startCopy s n
  match s.job.phase with
  | .running => startWalk s (n + 1)
  | .stopping => jobOf s fun j => { j with phase := .stopped }
  | _ => s

/-- The walk of step `n` begins again: a table that JOB_SWAP has named waits for the flip (R238). -/
def walkAgain (s : State) (n : Nat) : State :=
  let next := s.job.swap
  jobOf (startWalk (jobOf s fun j => { j with swap := none }) n) fun j => { j with swap := next }

/-- A rollback of the running step (R384). A job that JOB_STOP has stopped stays STOPPED (log 28). -/
def rollback (s : State) : State :=
  let n := s.job.step
  let s := clearFrames (endCollectives (endWalk (haltInstances s))) (n + 1)
  let s := resOf s fun r => { r with rollbacks := r.rollbacks + 1, ready := none, stalled := false, readys := r.readys.filter fun x => n < x.2.1 }
  let s := event (countUp (closeRecord s 2) cRollback 1) 1 (attempt s)
  match s.job.phase with
  | .running | .stopping | .held =>
    if s.res.conf.any (fun c => c.retry && s.res.rollbacks ≤ c.retryLimit) && !s.res.replayFailed then walkAgain s n
    else fenceDeferred (jobOf s fun j => { j with phase := .held })
  | _ => s

/-! ### Decisions (R382 to R385) -/

/-- The recorded decision for a step and attempt. -/
def decisionOf (s : State) (n a : Nat) : Option Bool := (s.res.decisions.find? fun d => d.1 = n && d.2.1 = a).map (·.2.2)

/-- Records a decision; those of the last two decided steps are kept, the latest first. -/
def recordDecision (s : State) (n a : Nat) (commit : Bool) : State :=
  resOf s fun r =>
    let all := (n, a, commit) :: r.decisions
    let steps := ((all.map (·.1)).eraseDups).take 2
    { r with decisions := all.filter fun d => steps.contains d.1 }

/-- KIND of a decision's message. -/
def decisionKind (commit : Bool) : Nat := if commit then 3 else 4

/-- Sends a decision to every child, and to whoever asked for it and is none. -/
def spread (s : State) (n a : Nat) (commit : Bool) : State :=
  let kids := confChildren s
  let more := (s.res.asks.filter fun x => x.2.1 = n && x.2.2 = a && !kids.contains x.1).map (·.1)
  let s := resOf s fun r => { r with asks := r.asks.filter fun x => !(x.2.1 = n && x.2.2 = a) }
  (kids ++ more).foldl (fun s d => sendTree s d (decisionKind commit) n a) s

/-- Stops a job that runs: its record closes STOPPED. -/
def stopJob (s : State) (phase : JobState) : State :=
  let s := endWalk (haltInstances s)
  fenceDeferred (jobOf (closeRecord s 3) fun j => { j with phase })

/-- Applies COMMIT (R383). -/
def applyCommit (s : State) (n a : Nat) : State :=
  if s.res.ready = some (n, a) then flip s n
  else if s.res.restored || s.res.committed.any (n ≤ ·) then s
  else
    let s := event s 3 n
    match s.job.phase with
    | .running | .stopping => stopJob s .held
    | .stopped => jobOf s fun j => { j with phase := .held }
    | _ => s

/-- Whether a job has a step under way or held that a rollback is about. -/
def stepping (s : State) : Bool :=
  match s.job.phase with
  | .idle | .loaded => false
  | _ => true

/-- Applies ROLLBACK: one for another step or attempt, or after a restore, is discarded. -/
def applyRollback (s : State) (n a : Nat) : State :=
  if stepping s && s.job.step = n && attempt s = a && !s.res.restored then rollback s else s

def applyDecision (s : State) (n a : Nat) (commit : Bool) : State := if commit then applyCommit s n a else applyRollback s n a

/-- The root decides: it records, applies and sends (R382). -/
def decide' (s : State) (n a : Nat) (commit : Bool) : State :=
  if (decisionOf s n a).isSome then s else spread (applyDecision (recordDecision s n a commit) n a commit) n a commit

/-- A decision arrives from the parent: recorded, sent on, applied. -/
def receiveDecision (s : State) (n a : Nat) (commit : Bool) : State :=
  if (decisionOf s n a).isSome then s else applyDecision (spread (recordDecision s n a commit) n a commit) n a commit

/-- A VETO goes to the parent; at the root it decides ROLLBACK (R382, R384). -/
def veto' (s : State) (n a : Nat) : State :=
  match confParent s with
  | some p => sendTree s p 2 n a
  | none => if s.job.step = n && attempt s = a then decide' s n a false else s

/-! ### READY (R381, R405) -/

/-- Whether a replayed loss passes: both finite, no further apart than TOLERANCE. -/
def replayPasses (got : Word) (r : Replay) : Bool :=
  match f32 got, f32 r.loss with
  | .fin a m e, .fin b k g =>
    match (Val.add (.fin a m e) (.fin (!b) k g)).abs.cmp (f32 r.tol) with
    | some .gt => false
    | some _ => true
    | none => false
  | _, _ => false

/-- The sequencer's part, the vault copy and the children are done for the running step. -/
def allReady (s : State) : Bool :=
  s.job.readyAt.isSome && s.res.ready.isNone && s.res.copy.isNone &&
    (s.job.phase = .running || s.job.phase = .stopping) &&
    (confChildren s).all fun c => s.res.readys.contains (c, s.job.step, attempt s)

/-- A module that is ready, with every child READY, tells its parent, or decides as the root. A replay that fails vetoes. -/
def pumpReady (s : State) : State :=
  if !allReady s then s
  else
    let n := s.job.step
    let got := BitVec.ofNat 32 (unle (readLocal s (s.res.replay.elim 0 (·.addr)) 4))
    if s.res.replay.any fun r => !replayPasses got r then
      let s := resOf (event s 9 got.toNat) fun r => { r with replay := none, replayFailed := true }
      veto' (jobOf (endWalk (haltInstances s)) fun j => { j with phase := .held }) n (attempt s)
    else
      let s := resOf s fun r => { r with replay := none, ready := some (n, attempt s), asked := s.time }
      match confParent s with
      | some p => sendTree s p 1 n (attempt s)
      | none => decide' s n (attempt s) true

/-- A failed step (R240): nothing of it starts any more, the job is HELD, the resilience engine rolls it back. `fail` is the entry that
failed; none for JOB_STOP, which leaves the job STOPPED. A module that has reported ready never vetoes (R381). -/
def failStep (s : State) (fail : Option Nat) : State :=
  let n := s.job.step
  let a := attempt s
  let ready := s.res.ready.isSome
  let s := match fail with
    | some e => jobOf (event (endWalk (haltInstances s)) 0 (e % 65536)) fun j => { j with phase := .held }
    | none => stopJob s .stopped
  if ready then s else veto' s n a

/-! ### The rows of the tree -/

/-- READY of a child (R381). -/
def childReady (m : CommitMsg) (s : State) : State :=
  let x := (m.sender, m.step, m.attempt)
  if ownsQueue s && (confChildren s).contains x.1 && !s.res.readys.contains x then
    pumpReady (resOf s fun r => { r with readys := r.readys ++ [x] })
  else s

def execReady (s : State) : Out := .next (takeCommit s 1 childReady)

/-- VETO of a child (R382). -/
def childVeto (m : CommitMsg) (s : State) : State :=
  if ownsQueue s && (confChildren s).contains m.sender then veto' s m.step m.attempt else s

def execVeto (s : State) : Out := .next (takeCommit s 2 childVeto)

/-- COMMIT or ROLLBACK of the parent (R382). -/
def parentDecides (commit : Bool) (m : CommitMsg) (s : State) : State :=
  if ownsQueue s && confParent s = some m.sender then receiveDecision s m.step m.attempt commit else s

def execCommit (s : State) : Out := .next (takeCommit s 3 (parentDecides true))
def execRollback (s : State) : Out := .next (takeCommit s 4 (parentDecides false))

/-- ASK (R385): answered with the decision, or held and asked on. -/
def askArrives (m : CommitMsg) (s : State) : State :=
  let x := (m.sender, m.step, m.attempt)
  if !ownsQueue s then s
  else
    match decisionOf s m.step m.attempt with
    | some c => sendTree s m.sender (decisionKind c) m.step m.attempt
    | none =>
      let s := resOf s fun r => { r with asks := x :: r.asks.filter fun y => y ≠ x }
      match confParent s with
      | some p => sendTree s p 5 m.step m.attempt
      | none => s

def execAsk (s : State) : Out := .next (takeCommit s 5 askArrives)

/-- COMMIT_STALL_TIMEOUT (R385). -/
def commitStall (s : State) : State :=
  match s.res.ready, s.res.conf with
  | some (n, a), some c =>
    let s := advance s (s.res.asked + c.limitMs * 1000000)
    let s := if s.res.stalled then s else event s 2 0
    let s := resOf s fun r => { r with stalled := true, asked := s.time }
    match c.parent with
    | some p => sendTree s p 5 n a
    | none => s
  | _, _ => s

def execCommitStallTimeout (s : State) : Out := .next (commitStall s)

end Sys2Proof.Machine
end

