-- ==== Sys2Proof/Machine/Seq.lean ====
section
/-! DEFINITION. Seq.lean: the pipeline sequencer: readiness, predictions, returns, dispatch, what an instance's end leads to
(10_pipeline_sequencer.md, R233 to R241). -/

namespace Sys2Proof.Machine

/-! ### Entries -/

def setEntry (s : State) (i : Nat) (f : EntryState → EntryState) : State := jobOf s fun j => { j with walk := j.walk.modify i f }

/-- The job walks a step. -/
def walking (s : State) : Bool := s.job.phase = .running || s.job.phase = .stopping

/-- Whether every layer of an entry is frozen (R242). -/
def allFrozen (s : State) (e : Entry) : Bool := (List.range e.layers).all fun k => layerMode s (e.layer + k) = 1

/-- Whether an entry completes as it starts because its layers are frozen: a skipped B, a W (R242). -/
def frozenSkip (s : State) (e : Entry) : Bool := ((e.kind = 2 && bit e.flags 0) || e.kind = 3) && allFrozen s e

def afterDone (j : Job) (e : Entry) : Bool := e.after = 0xFFFF || (j.walk[e.after]?).any fun x => x.phase = .completed

def semReady (s : State) (e : Entry) : Bool :=
  noSem e.waitSem || e.waitCount ≤ semGet s 0 (groupDie s e.group) e.waitSem

/-- Entries with their indices. -/
def indexed (j : Job) : List (Nat × Entry × EntryState) := j.pairs.mapIdx fun i p => (i, p.1, p.2)

/-! ### Predictions (R235) -/

/-- Predicted cost in ns. -/
def costNs (j : Job) (e : Entry) : Nat :=
  if e.kind = 4 || e.kind = 5 then e.costUs * 1000 else (e.costUs * j.lenOf e.mb + j.refLen - 1) / j.refLen * 1000

/-- Predicted completion of entry `i`; 0 for one that has completed. An AFTER index is lower than its entry's, so `i + 1` steps reach
the start of every chain. -/
def predEnd : Nat → State → Nat → Nat
  | 0, _, _ => 0
  | f + 1, s, i =>
    match s.job.pairs[i]? with
    | none => 0
    | some (e, x) =>
      match x.phase with
      | .started => x.start + costNs s.job e
      | .pending =>
        let after := if e.after = 0xFFFF then 0 else predEnd f s e.after
        max (max (s.job.walkStart + e.planUs * 1000) s.time) after + costNs s.job e
      | _ => 0

/-- Predicted start of a pending entry. -/
def predStart (s : State) (i : Nat) (e : Entry) : Nat :=
  max (max (s.job.walkStart + e.planUs * 1000) s.time) (if e.after = 0xFFFF then 0 else predEnd (i + 1) s e.after)

/-! ### Readiness (R233, R241) -/

/-- What every entry needs. -/
def ready (s : State) (i : Nat) (e : Entry) : Bool :=
  afterDone s.job e && semReady s e &&
    (e.kind ≠ 1 || s.job.inFlight e.vstage < s.job.maxInFlight) &&
    (e.kind ≠ 5 || s.job.pairs.all fun p => p.1.kind ≠ 3 || p.1.bucket ≠ i || p.2.phase = .completed) &&
    (e.kind ≠ 5 || (s.coll.runs.length + s.coll.rings.length < 64 && s.coll.pending.isNone))

/-- Whether a pending entry that is no W entry may start. -/
def mayStart (s : State) (i : Nat) (e : Entry) : Bool :=
  ready s i e &&
    !((indexed s.job).any fun p => p.1 < i && p.2.1.group = e.group && p.2.1.kind ≠ 3 && p.2.2.phase = .pending) &&
    ((s.job.pairs.filter fun p => p.1.group = e.group && p.2.phase = .started).length < 4)

/-- Whether a W entry is eligible: every earlier one that shares a layer with it has completed (R208). -/
def eligible (s : State) (i : Nat) (e : Entry) : Bool :=
  ready s i e &&
    (indexed s.job).all fun p =>
      !(p.1 < i && p.2.1.kind = 3 && sharesLayer p.2.1 e) || p.2.2.phase = .completed

/-- Condition 1: FIXED, and next among its group's unstarted entries. -/
def wFixed (s : State) (i : Nat) (e : Entry) : Bool :=
  bit e.flags 1 && !((indexed s.job).any fun p => p.1 < i && p.2.1.group = e.group && p.2.2.phase = .pending)

/-- Condition 2: it fits the gap before the group's next entry that is no W entry. -/
def wGap (s : State) (e : Entry) : Bool :=
  (liveCores s e.group).any (fun n => (coreAt s n).launch.isNone) &&
    match (indexed s.job).find? fun p => p.2.1.group = e.group && p.2.1.kind ≠ 3 && p.2.2.phase = .pending with
    | some (k, x, _) => !ready s k x && costNs s.job e ≤ predStart s k x - s.time + s.job.slackUs * 1000
    | none => false

/-- Latest start: the bucket's predicted start less the predicted costs of this and every later W entry of its group and bucket. -/
def latestStart (s : State) (i : Nat) (e : Entry) : Nat :=
  let costs := (indexed s.job).foldl (fun n p =>
    if i ≤ p.1 && p.2.1.kind = 3 && p.2.1.group = e.group && p.2.1.bucket = e.bucket then n + costNs s.job p.2.1 else n) 0
  match s.job.pairs[e.bucket]? with
  | some (b, _) => predStart s e.bucket b - costs
  | none => 0

/-- Condition 3. -/
def wLatest (s : State) (i : Nat) (e : Entry) : Bool := latestStart s i e ≤ s.time

/-- Whether a pending W entry qualifies. -/
def wStarts (s : State) (i : Nat) (e : Entry) : Bool := eligible s i e && (wFixed s i e || wGap s e || wLatest s i e)

/-- Whether a pending entry starts now; of several W entries of a group that qualify the lowest goes first. -/
def startsNow (s : State) (i : Nat) (e : Entry) : Bool :=
  if e.kind = 3 then
    wStarts s i e && !((indexed s.job).any fun p =>
      p.1 < i && p.2.1.group = e.group && p.2.1.kind = 3 && p.2.2.phase = .pending && wStarts s p.1 p.2.1)
  else mayStart s i e

/-! ### Returns (R235) -/

/-- Issues an entry's return requests; its deadline is fixed here. -/
def issueReturns (s : State) (i : Nat) (e : Entry) (start : Nat) : State :=
  let d := start + e.graceUs * 1000
  let s := setEntry s i fun x => { x with returned := true, deadline := some d }
  { s with stackSet := s.stackSet.map fun st =>
    if st.group = e.group && bit e.stackSet st.num then
      { st with reqs := st.reqs ++ [⟨st.nextReq, e.vstage, e.mb, e.layer, e.layers, some d, false⟩], nextReq := st.nextReq + 1 }
    else st }

/-- Whether an entry still has returns to ask for; one that frozen layers let complete at its start has none (R242). -/
def wantsReturns (s : State) (e : Entry) (x : EntryState) : Bool := !frozenSkip s e && e.stackSet ≠ 0 && (e.leadUs ≠ 0 || e.graceUs ≠ 0) && !x.returned

/-- RETURN_REQUEST: LEAD_US before the predicted start, as it is predicted at that moment. -/
def returnRequest (s : State) (i : Nat) : State :=
  match s.job.pairs[i]? with
  | some (e, x) =>
    if walking s && x.phase = .pending && wantsReturns s e x then
      let s := advance s (predStart s i e - e.leadUs * 1000)
      let p := predStart s i e
      if p ≤ s.time + e.leadUs * 1000 then issueReturns s i e p else s
    else s
  | none => s

def execReturnRequest (entry : Nat) (s : State) : Out := .next (returnRequest s entry)

/-! ### Completion and failure of an entry (R238, R240) -/

/-- The sequencer reports the step complete. -/
def reportReady (s : State) : State :=
  let f (r : StepRec) : StepRec := { r with ready := s.time }
  pumpReady (jobOf { s with tel := { s.tel with stepRec := s.tel.stepRec.map f } } fun j => { j with readyAt := some s.time })

def completeEntry (s : State) (i : Nat) : State :=
  match s.job.pairs[i]? with
  | none => s
  | some (e, _) =>
    let s := setEntry s i fun x => { x with phase := .completed }
    let s := semAdd s 0 (groupDie s e.group) e.sigSem e.sigCount
    if s.job.walk.all fun x => x.phase = .completed then reportReady s else s

def failEntry (s : State) (i : Nat) : State := failStep (setEntry s i fun x => { x with phase := .failed }) (some i)

/-! ### Dispatch (R234) -/

def hasPending (x : EntryState) : Bool := x.insts.any fun k => k.phase = .pending

/-- The launch of instance `k` of entry `i` on a core of rank `rank` in a group of `size`. -/
def instanceLaunch (s : State) (i k rank size : Nat) (e : Entry) (x : EntryState) (inst : Inst) (p : Program) : Launch :=
  let w (n : Nat) : DWord := BitVec.ofNat 64 n
  { number := 2 ^ 31 * b2n inst.cheap + 2 ^ 16 * i + k, layer := e.layer, mb := e.mb, entry := i, step := s.job.step, rank, size,
    deadline := if inst.cheap then 0 else x.deadline.getD 0, waitLimit := 0, start := s.time, pc := imgEntry p.image, prog := p.num,
    first := imgEntry p.image,
    args := [w k, w e.instances, e.arg, w (s.job.lenOf e.mb), w e.real, w (b2n inst.cheap + 2 * b2n (e.real ≤ k)), 0],
    keep := false, host := none, sched := some i, cheaper := inst.cheap, remote := false, localIn := false, own := [], seqs := [],
    counted := if inst.cheap then inst.cheapCounted else inst.counted }

/-- INSTANCE_DISPATCH: the entry's next instance goes to the lowest idle enabled core of its group. -/
def dispatch (s : State) (i : Nat) : State :=
  match s.job.pairs[i]? with
  | none => s
  | some (e, x) =>
    let cores := liveCores s e.group
    let first := s.job.pairs.all fun p => !(p.1.group = e.group && p.2.phase = .started && p.2.order < x.order && hasPending p.2)
    match cores.find? fun n => (coreAt s n).launch.isNone, x.insts.findIdx? fun k => k.phase = .pending with
    | some n, some k =>
      let inst := x.insts.getD k ⟨.pending, false, false, [], []⟩
      match findProg s (if inst.cheap then e.recompute else e.program) with
      | some p =>
        if walking s && x.phase = .started && first then
          let s := if inst.cheap then stepCount s 3 else s
          let l := instanceLaunch s i k (cores.findIdx fun c => c = n) cores.length e x inst p
          launchCore (setEntry s i fun x => { x with insts := x.insts.set k { inst with phase := .running n } }) n p l
        else s
      | none => s
    | _, _ => s

def execInstanceDispatch (entry : Nat) (s : State) : Out := .next (dispatch s entry)

/-! ### Ends of instances (R239) -/

def instEnded (k : Inst) : Bool := k.phase = .done || k.phase = .failed

/-- Once every instance has ended: the entry completes, or it is re-run once after Sysen has reported it failed. -/
def settleEntry (s : State) (i : Nat) : State :=
  match s.job.pairs[i]? with
  | none => s
  | some (e, x) =>
    if x.phase ≠ .started || !x.insts.all instEnded then s
    else if !x.broken then completeEntry s i
    else if bit e.flags 2 || x.rerun then failEntry s i
    else setEntry s i fun x => { x with
      broken := false, rerun := true, insts := x.insts.map fun k => { k with phase := .pending, cheap := false, again := false } }

/-- The pairs kept for an instance's next launch (R201, R239): those of die and hub semaphores. The core's own semaphores start at 0 with
every launch and have counted none. -/
def Launch.pairs (l : Launch) : List (Nat × Nat) := l.counted.filter fun p => semScope p.1 ≠ 0

/-- Whether a launch cannot start anew elsewhere (R108). -/
def Launch.bound (l : Launch) : Bool := l.remote || l.localIn || (l.keep && l.host.isSome)

/-- The instance with the pairs of a launch of it kept. -/
def Inst.keeping (x : Inst) (l : Launch) : Inst := if l.cheaper then { x with cheapCounted := l.pairs } else { x with counted := l.pairs }

/-- An instance of entry `i` has ended: `stopped` says that it reported a trap record, of KIND `code`. A fault has it launched again once where R108
reissues such a program; otherwise the entry is reported failed. -/
def endInstance (s : State) (i k : Nat) (l : Launch) (stopped : Bool) (code : Nat) (e : Entry) : State :=
  let put (s : State) (f : Inst → Inst) : State := setEntry s i fun x => { x with insts := x.insts.modify k fun y => f (y.keeping l) }
  if !stopped then
    if code = 1 then
      if l.cheaper || e.recompute = 0xFFFF then failEntry s i
      else put s fun y => { y with phase := .pending, cheap := true }
    else settleEntry (put s fun y => { y with phase := .done }) i
  else if code ≠ 0 || ((s.job.walk[i]?).bind fun x => x.insts[k]?).any (·.again) then failEntry s i
  else if l.bound then settleEntry (setEntry (put s fun y => { y with phase := .failed }) i fun x => { x with broken := true }) i
  else put s fun y => { y with phase := .pending, again := true }

/-- INSTANCE_END: the sequencer takes the report of a core. -/
def instanceEnd (s : State) (n : Nat) : State :=
  let c := coreAt s n
  match c.launch, c.ending with
  | some l, some (stopped, code) =>
    match l.sched with
    | none => s
    | some i =>
      let s := clearLaunch s n
      match s.job.pairs[i]? with
      | some (e, x) =>
        let k := l.number % 65536
        if walking s && x.phase = .started && (x.insts[k]?).any fun y => y.phase = .running n then endInstance s i k l stopped code e else s
      | none => s
  | _, _ => s

def execInstanceEnd (core : Nat) (s : State) : Out := onUnit core 152 (.next (instanceEnd s core))

end Sys2Proof.Machine
end

