-- ==== Sys2Proof/Machine/Vector.lean ====
section
/-! DEFINITION. Vector.lean: the element-wise, layout and random instructions of the vector engine (R149 to R156, R189), packed rows
(R158) and VCVT (R161). -/

namespace Sys2Proof.Machine

/-! ### Packed rows (R158) -/

/-- The 128 bytes of row `r` of a register. -/
def rowBytes (t : Elems) (r : Nat) : Array Byte := ((List.range 32).flatMap fun c => le 4 (el t (32 * r + c)).toNat).toArray

/-- The 32 words of a row from its 128 bytes. -/
def bytesRow (bs : List Byte) : List Word :=
  let a := bs.toArray
  (List.range 32).map fun c => BitVec.ofNat 32 (unpackAt 32 a c)

/-- Bytes of a packed row (R158). -/
def packedLen (fmt : Nat) : Nat := 4 * width fmt

/-- The element code at (r, c) of packed rows, and the row's scale code. -/
def packedCode (fmt : Nat) (t : Elems) (r c : Nat) : Nat := unpackAt (width fmt) (rowBytes t r) c
def packedScale (t : Elems) (r : Nat) : Nat := ((rowBytes t r).getD 124 0).toNat

/-- The exact value at (r, c) of packed rows, block scale applied. -/
def packedVal (fmt : Nat) (t : Elems) (r c : Nat) : Val :=
  let v := decodeElem fmt (packedCode fmt t r c)
  if isMx fmt then scaleVal (packedScale t r) v else v

/-- A packed row from its element codes and scale code: every other byte is zero. -/
def packRow (fmt : Nat) (codes : Nat → Nat) (scale : Nat) : List Word :=
  let bs := pack (width fmt) 32 codes
  let bs := bs ++ zeros (128 - bs.length)
  bytesRow (if isMx fmt then bs.set 124 (BitVec.ofNat 8 scale) else bs)

/-- The non-finite elements of packed rows of a floating-point format, those that `on` admits (R150). -/
def packedHits (fmt : Nat) (t : Elems) (on : Nat → Bool) : List Hit :=
  (List.range 1024).filterMap fun e =>
    if !on e then none
    else if isMx fmt && packedScale t (e / 32) = 255 then some (e / 32, e % 32, 3)
    else (nonFinite (decodeElem fmt (packedCode fmt t (e / 32) (e % 32)))).map fun k => (e / 32, e % 32, k)

/-! ### Writing a register -/

/-- Writes `g e` to every active element of DST and checks the result by the instruction's type (R150, R151). -/
def Ctx.vecWrite (i : Ctx) (ty fmt : Nat) (g : Nat → Word) : Res :=
  let on := i.active (i.f 30 30) (i.f 35 31)
  let d := i.f 55 51
  let old := (i.t d).toArray
  let t := (List.range 1024).map fun e => if on e then g e else old.getD e 0
  let hits := if ty = 0 then regHits t on else if ty = 4 then packedHits fmt t on else []
  .done (nfWrite i (putT i.s i.n d t) uVector (regAddr d) hits)

/-- A vector instruction of TYPE 100 with a reserved FMT raises VEC_FORM (R173). -/
def Ctx.vec (i : Ctx) (g : Nat → Word) : Res :=
  if i.f 29 27 = 4 ∧ ¬ fmtOk (i.f 26 23) then .fault fVec 0 none else i.vecWrite (i.f 29 27) (i.f 26 23) g

/-- A layout instruction is checked only when the type it names is FP32 (R155). -/
def Ctx.layout (i : Ctx) (g : Nat → Word) : Res :=
  if i.f 29 27 = 4 ∧ ¬ fmtOk (i.f 26 23) then .fault fVec 0 none else i.vecWrite (if i.f 29 27 = 0 then 0 else 1) (i.f 26 23) g

/-- The first, second and third source as functions of the element. -/
def Ctx.sa (i : Ctx) : Nat → Word := let a := (i.t (i.f 50 46)).toArray; fun e => a.getD e 0
def Ctx.sb (i : Ctx) : Nat → Word := let a := (i.t (i.f 45 41)).toArray; fun e => a.getD e 0
def Ctx.sc (i : Ctx) : Nat → Word := let a := (i.t (i.f 40 36)).toArray; fun e => a.getD e 0

/-- An instruction of one source, of two sources. -/
def Ctx.vec1 (i : Ctx) (f : Word → Word) : Res := i.vec fun e => f (i.sa e)
def Ctx.vec2 (i : Ctx) (f : Word → Word → Word) : Res := i.vec fun e => f (i.sa e) (i.sb e)

/-! ### Element operations (R126, R153, R154) -/

/-- max of R126 and its mirror image; `up` for max. -/
def extremeF32 (up : Bool) (a b : Word) : Word :=
  match (f32 a).cmp (f32 b) with
  | none => 0x7FC00000#32
  | some .lt => if up then b else a
  | some .gt => if up then a else b
  | some .eq => if (f32 a).isZero then (if up then a &&& b else a ||| b) else a

def maxF32 : Word → Word → Word := extremeF32 true
def minF32 : Word → Word → Word := extremeF32 false

def absF32 (a : Word) : Word := if (f32 a).isNan then 0x7FC00000#32 else a &&& 0x7FFFFFFF#32
def flipF32 (a : Word) : Word := if (f32 a).isNan then 0x7FC00000#32 else a ^^^ 0x80000000#32

/-- Integer comparison by TYPE: 001 signed, otherwise unsigned. -/
def intLt (ty : Nat) (a b : Word) : Bool := if ty = 1 then a.toInt < b.toInt else a.toNat < b.toNat

def maskWord (b : Bool) : Word := if b then 0xFFFFFFFF#32 else 0#32

/-- The predicates of VCMP (R154, R189): 0 EQ, 1 NE, 2 LT, 3 LE, 4 GT, 5 GE, 6 UNORD. -/
def orderHolds (sub : Nat) (o : Option Ordering) : Bool :=
  match o with
  | none => sub = 1 || sub = 6
  | some .eq => sub = 0 || sub = 3 || sub = 5
  | some .lt => sub = 1 || sub = 2 || sub = 3
  | some .gt => sub = 1 || sub = 4 || sub = 5

def cmpWord (ty sub : Nat) (a b : Word) : Word :=
  let o := if ty = 0 then (f32 a).cmp (f32 b)
    else some (if intLt ty a b then .lt else if intLt ty b a then .gt else .eq)
  maskWord (orderHolds sub o)

/-! ### Instructions -/

/-- The draw of R80 with the identity of the launch. -/
def Ctx.draw (i : Ctx) (stream : Nat) (pos : DWord) : Nat :=
  Sys2Proof.Machine.draw i.s.job.seed i.l.step i.l.mb i.l.layer stream pos

def vaddBody (i : Ctx) : Res :=
  i.vec2 addF32
def execVadd (n : Nat) (s : State) : Out := tileInstr 0x30 vaddBody n s

def vsubBody (i : Ctx) : Res :=
  i.vec2 subF32
def execVsub (n : Nat) (s : State) : Out := tileInstr 0x31 vsubBody n s

def vmulBody (i : Ctx) : Res :=
  i.vec2 mulF32
def execVmul (n : Nat) (s : State) : Out := tileInstr 0x32 vmulBody n s

def vminBody (i : Ctx) : Res :=
  i.vec2 minF32
def execVmin (n : Nat) (s : State) : Out := tileInstr 0x33 vminBody n s

def vmaxBody (i : Ctx) : Res :=
  i.vec2 maxF32
def execVmax (n : Nat) (s : State) : Out := tileInstr 0x34 vmaxBody n s

def vabsBody (i : Ctx) : Res :=
  i.vec1 absF32
def execVabs (n : Nat) (s : State) : Out := tileInstr 0x35 vabsBody n s

def vnegBody (i : Ctx) : Res :=
  i.vec1 flipF32
def execVneg (n : Nat) (s : State) : Out := tileInstr 0x36 vnegBody n s

def vfmaBody (i : Ctx) : Res :=
  i.vec fun e => fmaF32 (i.sa e) (i.sb e) (i.sc e)
def execVfma (n : Nat) (s : State) : Out := tileInstr 0x37 vfmaBody n s

def vdivBody (i : Ctx) : Res :=
  i.vec2 divF32
def execVdiv (n : Nat) (s : State) : Out := tileInstr 0x38 vdivBody n s

def vsqrtBody (i : Ctx) : Res :=
  i.vec1 sqrtF32
def execVsqrt (n : Nat) (s : State) : Out := tileInstr 0x39 vsqrtBody n s

def vrsqrtBody (i : Ctx) : Res :=
  i.vec1 rsqrtF32
def execVrsqrt (n : Nat) (s : State) : Out := tileInstr 0x3A vrsqrtBody n s

def vexp2Body (i : Ctx) : Res :=
  i.vec1 fun a => exp2Val (f32 a)
def execVexp2 (n : Nat) (s : State) : Out := tileInstr 0x3B vexp2Body n s

def vlog2Body (i : Ctx) : Res :=
  i.vec1 log2F32
def execVlog2 (n : Nat) (s : State) : Out := tileInstr 0x3C vlog2Body n s

def vcmpBody (i : Ctx) : Res :=
  i.vecWrite 3 0 fun e => cmpWord (i.f 29 27) (i.f 22 16) (i.sa e) (i.sb e)
def execVcmp (n : Nat) (s : State) : Out := tileInstr 0x3D vcmpBody n s

def vselBody (i : Ctx) : Res :=
  i.vec fun e => if i.sc e ≠ 0 then i.sa e else i.sb e
def execVsel (n : Nat) (s : State) : Out := tileInstr 0x3E vselBody n s

def viaddBody (i : Ctx) : Res :=
  i.vec2 (· + ·)
def execViadd (n : Nat) (s : State) : Out := tileInstr 0x40 viaddBody n s

def visubBody (i : Ctx) : Res :=
  i.vec2 (· - ·)
def execVisub (n : Nat) (s : State) : Out := tileInstr 0x41 visubBody n s

def vimulBody (i : Ctx) : Res :=
  i.vec2 (· * ·)
def execVimul (n : Nat) (s : State) : Out := tileInstr 0x42 vimulBody n s

def viminBody (i : Ctx) : Res :=
  i.vec2 fun a b => if intLt (i.f 29 27) b a then b else a
def execVimin (n : Nat) (s : State) : Out := tileInstr 0x43 viminBody n s

def vimaxBody (i : Ctx) : Res :=
  i.vec2 fun a b => if intLt (i.f 29 27) a b then b else a
def execVimax (n : Nat) (s : State) : Out := tileInstr 0x44 vimaxBody n s

def vandBody (i : Ctx) : Res :=
  i.vec2 (· &&& ·)
def execVand (n : Nat) (s : State) : Out := tileInstr 0x45 vandBody n s

def vorBody (i : Ctx) : Res :=
  i.vec2 (· ||| ·)
def execVor (n : Nat) (s : State) : Out := tileInstr 0x46 vorBody n s

def vxorBody (i : Ctx) : Res :=
  i.vec2 (· ^^^ ·)
def execVxor (n : Nat) (s : State) : Out := tileInstr 0x47 vxorBody n s

def vnotBody (i : Ctx) : Res :=
  i.vec1 (~~~ ·)
def execVnot (n : Nat) (s : State) : Out := tileInstr 0x48 vnotBody n s

def vshlBody (i : Ctx) : Res :=
  i.vec2 fun a b => a <<< (b.toNat % 32)
def execVshl (n : Nat) (s : State) : Out := tileInstr 0x49 vshlBody n s

def vshrBody (i : Ctx) : Res :=
  i.vec2 fun a b => a >>> (b.toNat % 32)
def execVshr (n : Nat) (s : State) : Out := tileInstr 0x4A vshrBody n s

def vsraBody (i : Ctx) : Res :=
  i.vec2 fun a b => a.sshiftRight (b.toNat % 32)
def execVsra (n : Nat) (s : State) : Out := tileInstr 0x4B vsraBody n s

def vbcastBody (i : Ctx) : Res :=
  let k := i.f 9 0
  match i.f 17 16 with
  | 0 => i.layout fun _ => i.sa k
  | 1 => i.layout fun e => i.sa (32 * (k % 32) + e % 32)
  | _ => i.layout fun e => i.sa (32 * (e / 32) + k % 32)
def execVbcast (n : Nat) (s : State) : Out := tileInstr 0x50 vbcastBody n s

def viotaBody (i : Ctx) : Res :=
  i.layout fun e => (i.x (i.f 15 12)).setWidth 32 + BitVec.ofNat 32 e
def execViota (n : Nat) (s : State) : Out := tileInstr 0x51 viotaBody n s

def vxposeBody (i : Ctx) : Res :=
  i.layout fun e => i.sa (32 * (e % 32) + e / 32)
def execVxpose (n : Nat) (s : State) : Out := tileInstr 0x52 vxposeBody n s

def vpermBody (i : Ctx) : Res :=
  i.layout fun e => i.sa ((i.sb e).toNat % 1024)
def execVperm (n : Nat) (s : State) : Out := tileInstr 0x53 vpermBody n s

def vrandBody (i : Ctx) : Res :=
  i.vec fun e =>
    let r := i.draw (i.f 7 0) (i.x (i.f 15 12) + BitVec.ofNat 64 e)
    if i.f 29 27 = 0 then roundF32 (.fin false r (-16)) else BitVec.ofNat 32 r
def execVrand (n : Nat) (s : State) : Out := tileInstr 0x54 vrandBody n s

/-! ### VCVT (R161) -/

/-- The value a convert reads at element `e`. -/
def cvtSource (sfmt : Nat) (t : Elems) (e : Nat) : Val :=
  if sfmt = 0 then f32 (el t e) else packedVal sfmt t (e / 32) (e % 32)

/-- A convert of a format to itself: NaN codes become canonical, other bits stand (R81). An MX row with a non-finite element is encoded anew
instead, since no convert writes such an element code (R67, log 19). -/
def cvtSame (fmt : Nat) (code : Nat) : Nat :=
  match floatFmt fmt with
  | some f => if (decodeFloat f code).isNan then f.nanCode else code
  | none => code

/-- KIND of a converted element: what was written if that is non-finite, 3 for a non-finite source behind a finite code (R84, R85). -/
def cvtKind (source written : Val) : Option Nat :=
  match nonFinite written with
  | some k => some k
  | none => if source.isNan || source.isInf then some 3 else none

/-- One row of a convert to packed rows: its words, and for each element the KIND it is recorded with. -/
def cvtRow (sfmt tfmt : Nat) (sat : Bool) (mode : Nat → Round) (on : Nat → Bool) (t : Elems) (r : Nat) : List Word × (Nat → Option Nat) :=
  let src := fun c => cvtSource sfmt t (32 * r + c)
  if isMx tfmt then
    let act := (List.range 32).filter fun c => on (32 * r + c)
    if act.isEmpty then (packRow tfmt (fun _ => 0) 0x7F, fun _ => none)
    else if sfmt = tfmt ∧ act.all (fun c => !(src c).isNan && !(src c).isInf) then
      (packRow tfmt (fun c => if on (32 * r + c) then packedCode sfmt t r c else 0) (packedScale t r),
        fun _ => none)
    else
      let b := encodeBlock tfmt (fun k => mode (32 * r + act.getD k 0)) sat (act.map src)
      let code := fun c => (b.2.getD (act.findIdx (· = c)) 0)
      (packRow tfmt (fun c => if on (32 * r + c) then code c else 0) b.1,
        fun c => if b.1 = 255 then some 3 else cvtKind (src c) (.fin false 0 0))
  else
    let code := fun c =>
      if sfmt = tfmt then cvtSame tfmt (packedCode sfmt t r c) else encode tfmt (mode (32 * r + c)) sat (src c)
    (packRow tfmt (fun c => if on (32 * r + c) then code c else 0) 0, fun c => cvtKind (src c) (decodeElem tfmt (code c)))

/-- VCVT (R161, R81 to R83). -/
def vcvtBody (i : Ctx) : Res :=
  let sf := i.f 45 42
  let tf := i.f 41 38
  if ¬ (fmtOk sf ∧ fmtOk tf) then .fault fVec 0 none
  else
    let sat := i.f 35 35 = 1
    let on := i.active (i.f 29 29) (i.f 34 30)
    let mode := fun e => match i.f 37 36 with
      | 0 => Round.rne
      | 1 => Round.rtz
      | _ => Round.sr (i.draw (i.f 28 21) (i.x (i.f 20 17) + BitVec.ofNat 64 e))
    let src := i.t (i.f 50 46)
    let d := i.f 55 51
    let old := (i.t d).toArray
    if tf = 0 then
      let w := fun e => BitVec.ofNat 32 (if sf = 0 then cvtSame 0 (el src e).toNat else encode 0 (mode e) sat (cvtSource sf src e))
      let t := (List.range 1024).map fun e => if on e then w e else old.getD e 0
      let hits := (List.range 1024).filterMap fun e =>
        if on e then (cvtKind (cvtSource sf src e) (f32 (el t e))).map fun k => (e / 32, e % 32, k) else none
      .done (nfWrite i (putT i.s i.n d t) uConvert (regAddr d) hits)
    else
      let rows := (List.range 32).map (cvtRow sf tf sat mode on src)
      let hits := (List.range 1024).filterMap fun e =>
        if on e then ((rows.getD (e / 32) ([], fun _ => none)).2 (e % 32)).map fun k => (e / 32, e % 32, k) else none
      .done (nfWrite i (putT i.s i.n d (rows.flatMap (·.1))) uConvert (regAddr d) hits)

def execVcvt (n : Nat) (s : State) : Out := tileInstr 0x6C vcvtBody n s

end Sys2Proof.Machine
end

