-- ==== Sys2Proof/Machine/Coll.lean ====
section
/-! DEFINITION. Coll.lean: the collective engine: operations over member lists (14_collectives_meridian.md, R333 to R346). -/

namespace Sys2Proof.Machine

/-! ### Descriptors (R333) and chunks (R334) -/

def dOp (d : List Byte) : Nat := field d 2 1
def dReduce (d : List Byte) : Nat := field d 3 1
def dList (d : List Byte) : Nat := field d 4 2
/-- ALGORITHM DIRECT. -/
def dDirect (d : List Byte) : Bool := field d 6 1 = 1
def dParam (d : List Byte) : Bool := bit (field d 7 1) 0
def dGrad (d : List Byte) : Bool := bit (field d 7 1) 1
def dMasked (d : List Byte) : Bool := bit (field d 7 1) 2
def dGen (d : List Byte) : Nat := field d 8 2
def dLayer (d : List Byte) : Nat := field d 0xA 2
def dRoot (d : List Byte) : Nat := field d 0xC 4
def dLimit (d : List Byte) : Nat := field d 0x10 4
def dLayers (d : List Byte) : Nat := field d 0x14 2
def dCounts (d : List Byte) : Nat := field d 0x18 8
def dIn (d : List Byte) : Desc := parseDesc (sub d 0x20 32)
def dOut (d : List Byte) : Desc := parseDesc (sub d 0x40 32)

/-- The rank that owns tile `t` of `T` in a list of `n`. -/
def chunkOf (T n t : Nat) : Nat := ((t + 1) * n - 1) / T

def rangeTiles (d : Desc) : Nat := d.tr * d.tc
def tileShape (d : Desc) (t : Nat) : Shape := d.shape (t / d.tc) (t % d.tc)
def tileAt (d : Desc) (t : Nat) : Nat := d.addr (t / d.tc) (t % d.tc)
def sealAt (d : Desc) (t : Nat) : Nat := d.sealAddr (t / d.tc) (t % d.tc)

/-! ### Lists, definitions, runs -/

def findList (s : State) (num : Nat) : Option MemberList := s.fab.topo.bind fun t => t.lists.find? fun l => l.num = num

def findDef (s : State) (h : Nat) : Option CollDef := s.coll.defs.find? fun d => d.handle = h
def setDef (s : State) (h : Nat) (f : CollDef → CollDef) : State :=
  { s with coll := { s.coll with defs := s.coll.defs.map fun d => if d.handle = h then f d else d } }
def findRun (s : State) (h : Nat) : Option CollRun := s.coll.runs.find? fun r => r.handle = h
def setRun (s : State) (h : Nat) (f : CollRun → CollRun) : State :=
  { s with coll := { s.coll with runs := s.coll.runs.map fun r => if r.handle = h then f r else r } }

/-- What a running operation needs at hand: descriptor, this module's rank, the members. -/
structure OpCtx where
  h       : Nat
  d       : List Byte
  rank    : Nat
  members : List Nat

def opCtx (s : State) (h : Nat) : Option OpCtx :=
  (findDef s h).bind fun c => (findList s (dList c.desc)).bind fun l => l.rank.map fun r => ⟨h, c.desc, r, l.members⟩

def OpCtx.n (o : OpCtx) : Nat := o.members.length
def OpCtx.next (o : OpCtx) : Nat := (o.rank + 1) % o.n
def OpCtx.prev (o : OpCtx) : Nat := (o.rank + o.n - 1) % o.n
def OpCtx.dev (o : OpCtx) (r : Nat) : Nat := nth o.members r
/-- Tiles of IN. -/
def OpCtx.T (o : OpCtx) : Nat := rangeTiles (dIn o.d)
def OpCtx.owner (o : OpCtx) (t : Nat) : Nat := if dOp o.d = 4 then dRoot o.d else chunkOf o.T o.n t
def OpCtx.reduces (o : OpCtx) : Bool := dOp o.d = 1 || dOp o.d = 3
def OpCtx.gathers (o : OpCtx) : Bool := dOp o.d = 2 || dOp o.d = 3 || dOp o.d = 4
/-- ALL_TO_ALL goes straight to each member whatever ALGORITHM says (R339, log 30). -/
def OpCtx.direct (o : OpCtx) : Bool := dDirect o.d || dOp o.d = 5
/-- Whether this rank gets contributions or partials of tile `t` to merge. -/
def OpCtx.merges (o : OpCtx) (t : Nat) : Bool :=
  o.reduces && 1 < o.n && (if o.direct then o.owner t = o.rank else o.rank ≠ (o.owner t + 1) % o.n)

/-- Tiles that this rank waits for under index `t`. -/
def OpCtx.want (o : OpCtx) (t : Nat) : Nat :=
  (if o.merges t then if o.direct then o.n - 1 else 1 else 0) + (if o.gathers && o.owner t ≠ o.rank then 1 else 0)

/-- Whether rank `q` is expected to send tile `t`, of which `g` tiles from it are verified (R336, R342). -/
def OpCtx.expects (o : OpCtx) (q t g : Nat) : Bool :=
  q ≠ o.rank && q < o.n &&
    if o.direct then g = 0 && ((o.merges t) || (o.gathers && q = o.owner t))
    else q = o.prev && g < o.want t

/-- Ranks that send this one tiles. -/
def OpCtx.senders (o : OpCtx) : List Nat :=
  (List.range o.n).filter fun q => q ≠ o.rank && (dOp o.d = 5 || (List.range o.T).any fun t => o.expects q t 0)

/-- Ranks that this one sends tiles to: those of whose senders it is one. -/
def OpCtx.receivers (o : OpCtx) : List Nat :=
  (List.range o.n).filter fun q => ({ o with rank := q } : OpCtx).senders.contains o.rank

/-! ### Packets (R340) -/

/-- Whether what goes to a module takes version 1 form: it is a T7, or the link toward it is of version 1. -/
def v1Toward (s : State) (dst : Nat) : Bool :=
  isT7 s dst || (pickPort s dst 2).any fun n => n < 36 && (nearAt s n).version = 1

/-- A collective or ring packet of this module. -/
def collPacket (s : State) (type : Byte) (dst item spec0 spec1 rank channel : Nat) (tile : Bool) : Packet :=
  let v1 := v1Toward s dst
  { ownPacket s type dst 2 0 item with
    flags := if v1 then 0 else if tile then 3 else 1
    spec0 := if v1 && tile then 0 else BitVec.ofNat 32 spec0
    spec1 := if v1 then 0 else BitVec.ofNat 24 spec1
    attempt := BitVec.ofNat 8 (attempt s)
    spec2 := BitVec.ofNat 48 (s.job.step % 2 ^ 32 + 2 ^ 32 * s.coll.gen)
    spec3 := BitVec.ofNat 16 rank
    channel := BitVec.ofNat 16 channel }

/-- Sends packets toward a module; none where no port leads there (R322). -/
def sendColl (s : State) (dst : Nat) (ps : List Packet) : Option State := (pickPort s dst 2).map fun port => sendOn s port ps

/-- Sends a tile. -/
def sendTile (s : State) (type : Byte) (dst rank channel : Nat) (x : Outgo) : Option State :=
  let p := collPacket s type dst x.item x.crc.toNat x.shape rank channel true
  sendColl s dst ((slices (if v1Toward s dst then 2048 else 4096) x.bytes).mapIdx fun i c => { p with index := BitVec.ofNat 8 i, payload := c.2 })

/-- GEN, STEP and ATTEMPT of a packet are those of the running step (R342). An operation goes on after its step has failed, until the
rollback (R345). -/
def current (s : State) (p : Packet) : Bool :=
  bits p.spec2.toNat 31 0 = s.job.step % 2 ^ 32 && bits p.spec2.toNat 47 32 = s.coll.gen && p.attempt.toNat = attempt s

/-- A stale packet is discarded and counted. -/
def stale (s : State) : State := stepCount s 12

/-! ### Ends (R345, R346) -/

/-- A pending RESHARD of a job that does not run is installed once nothing of the old generation is in progress (R344). -/
def settleReshard (s : State) : State := if walking s then s else tryInstall s

def dropRun (s : State) (h outcome : Nat) : State :=
  let s := setDef s h fun d => { d with state := 2, outcome }
  { s with coll := { s.coll with runs := s.coll.runs.filter fun r => r.handle ≠ h } }

/-! ### Credits (R341) -/

def mateOf (r : CollRun) (q : Nat) : Mate := (r.mates.find? fun m => m.rank = q).getD ⟨q, 0, 0, 0, (0, 0)⟩
def setMate (s : State) (h q : Nat) (f : Mate → Mate) : State :=
  setRun s h fun r => { r with mates := r.mates.map fun m => if m.rank = q then f m else m }

/-- Slots of 64 KiB of the collective regions, the smaller one's, or of the far collective buffer. -/
def bufferSlots (s : State) (far : Bool) : Nat :=
  if far then s.fab.topo.elim 0 fun t => t.farLen / 65536
  else 16 * min (nth (s.job.partition.getD 0 []) 1) (nth (s.job.partition.getD 1 []) 1)

/-- Senders of an operation that lie on the near or on the far side. -/
def OpCtx.side (s : State) (o : OpCtx) (far : Bool) : List Nat := o.senders.filter fun q => isFar s (o.dev q) = far

def CollRun.share (r : CollRun) (far : Bool) : Nat := if far then r.far else r.near

/-- Slots that no operation in progress has. -/
def slotsFree (s : State) (far : Bool) : Nat :=
  bufferSlots s far - (s.coll.runs.map fun r => (opCtx s r.handle).elim 0 fun o => r.share far * (o.side s far).length).foldl (· + ·) 0

/-- What each sender of an operation that has no slots gets: an equal part of half of the free ones; one where a list has more senders than
the buffer has slots (log 31). -/
def allotted (s : State) (o : OpCtx) (far : Bool) : Nat :=
  let n := (o.side s far).length
  let free := slotsFree s far
  if n = 0 then 0 else if n ≤ free then max 1 (free / 2 / n) else if free = bufferSlots s far then 1 else 0

/-- Gives an operation that has no slots its part. -/
def allot (s : State) (o : OpCtx) : State :=
  let near := allotted s o false
  let far := allotted s o true
  setRun s o.h fun r => { r with near := if r.near = 0 then near else r.near, far := if r.far = 0 then far else r.far }

/-- What the next credit for rank `q` says: its tiles verified, and a LIMIT that leaves the tiles still held here out of its slots. -/
def creditNow (s : State) (o : OpCtx) (r : CollRun) (q : Nat) : Nat × Nat :=
  let m := mateOf r q
  (m.verified, m.verified - (r.held.filter fun y => y.1 = q).length + r.share (isFar s (o.dev q)))

/-- A credit goes to rank `q` when there is something new to say. -/
def sendCredit (s : State) (o : OpCtx) (q : Nat) : State :=
  match findRun s o.h with
  | none => s
  | some r =>
    let now := creditNow s o r q
    if r.share (isFar s (o.dev q)) = 0 || (mateOf r q).told = now then s
    else
      let s := (sendColl s (o.dev q) [collPacket s 0x21 (o.dev q) now.1 now.2 0 o.rank o.h false]).getD s
      setMate s o.h q fun m => { m with told := now }

/-- Credits every sender of an operation. -/
def creditAll (s : State) (o : OpCtx) : State := o.senders.foldl (fun s q => sendCredit s o q) s

/-- Slots that have come free go to the operations that have none. -/
def regrant (s : State) : State :=
  (s.coll.runs.map (·.handle)).foldl (fun s h => (opCtx s h).elim s fun o => creditAll (allot s o) o) s

/-! ### Ends (R345, R346) -/

/-- The entry of an operation completes, or fails the step; one of a step that has failed does neither any more. -/
def endEntry (s : State) (entry : Nat) (ok : Bool) : State :=
  if s.job.walk = [] then s else if ok then completeEntry s entry else failEntry s entry

/-- The operation completes, and with it its entry. -/
def collDone (s : State) (r : CollRun) : State := settleReshard (endEntry (regrant (dropRun s r.handle 0)) r.entry true)

/-- Aborts go to every rank the operation has to do with. -/
def sendAborts (s : State) (o : OpCtx) (r : CollRun) (outcome : Nat) : State :=
  (r.mates.map (·.rank)).foldl (fun s q =>
    (sendColl s (o.dev q) [collPacket s 0x24 (o.dev q) outcome 0 0 o.rank o.h false]).getD s) s

/-- The operation ends with an outcome other than OK, and its mates hear of it. -/
def abortRun (s : State) (r : CollRun) (outcome : Nat) : State :=
  dropRun (match opCtx s r.handle with | some o => sendAborts s o r outcome | none => s) r.handle outcome

/-- An operation that ends so fails its entry. -/
def collFail (s : State) (h outcome : Nat) : State :=
  match findRun s h with
  | none => s
  | some r => settleReshard (endEntry (regrant (abortRun s r outcome)) r.entry false)

/-- Sends what waits, in order, as far as the limits go. -/
def pushOut (s : State) (o : OpCtx) : List Outgo → Option State
  | [] => some s
  | x :: xs =>
    match findRun s o.h with
    | none => some s
    | some r =>
      let m := mateOf r x.rcv
      if x.place.isSome || m.limit ≤ m.sent then pushOut s o xs
      else
        match sendTile s 0x20 (o.dev x.rcv) o.rank o.h x with
        | none => none
        | some s =>
          let s := setMate s o.h x.rcv fun m => { m with sent := m.sent + 1 }
          let sent (y : Outgo) : Outgo :=
            if y.rcv = x.rcv && y.item = x.item && y.place.isNone then { y with place := some m.sent, since := s.time } else y
          let s := setRun s o.h fun r => { r with out := r.out.map sent }
          pushOut (setDef s o.h fun d => { d with sent := d.sent + 1 }) o xs

/-! ### Intake and output (R337, R338, R376) -/

/-- Seal-table entry and tile addresses of the IN that counts: with PARAM, of the side that holds the committed weights (R376). -/
def inDesc (s : State) (d : List Byte) : Desc :=
  let x := dIn d
  let odd := s.res.committed.any fun c => c % 2 = 1
  let inside (w : WSet) : Bool := w.side0 ≤ x.base && x.base < w.side0 + w.len && w.side0 ≤ x.sealOff && x.sealOff < w.side0 + w.len
  match if dParam d && odd then s.res.conf.bind fun c => c.sets.find? inside else none with
  | some w => { x with base := x.base - w.side0 + w.side1, sealOff := x.sealOff - w.side0 + w.side1 }
  | none => x

/-- Whether an element of a tensor lies in the union of a mask record (R222). -/
def inMask (s : State) (layer row col : Nat) : Bool :=
  let m := bits (field s.job.modes (4 * layer) 4) 31 16
  (List.range 4).any fun k =>
    let f (j : Nat) := field s.job.masks (64 * m + 16 * k + 4 * j) 4
    f 0 ≤ row && row < f 1 && f 2 ≤ col && col < f 3

/-- The intake value of a tile: what MASKED leaves of it. A layer that is not partly trained has no mask (log 32). -/
def intakeTile (s : State) (o : OpCtx) (t : Nat) (bs : List Byte) : List Byte :=
  if dMasked o.d && layerMode s (dLayer o.d) = 2 then
    let x := dIn o.d
    let sh := tileShape x t
    let a := bs.toArray
    packTile sh (fun r c => if inMask s (dLayer o.d) (128 * (t / x.tc) + r) (128 * (t % x.tc) + c) then tileCode sh.fmt sh.order a r c else 0)
      (tileScale sh.fmt sh.block a)
  else bs

/-- Reads a tile of IN through the arrival check of R99. -/
def readIn (s : State) (o : OpCtx) (t : Nat) : Got × State :=
  let x := inDesc s o.d
  let sh := tileShape x t
  let a := tileAt x t
  let unit := unitId 7 0 0
  if space a = 2 then readSlotTile s sh a unit true .arrived else readMemTile s sh a (sealAt x t) unit true .arrived

/-- What an intake gives: bytes and seal, or the outcome that ends the operation. -/
inductive Intake where
  | tile (bs : List Byte) (crc : Word)
  | ends (outcome : Nat)

def intake (s : State) (o : OpCtx) (t : Nat) : Intake × State :=
  match readIn s o t with
  | (.tile bs crc, s) =>
    let bs' := intakeTile s o t bs
    (.tile bs' (if bs' = bs then crc else sealOf (tileShape (dIn o.d) t) bs'), s)
  | (.bad r, s) => (.ends 2, logSeal s r)
  | (.lost _, s) => (.ends 1, s)

/-- Writes a tile of OUT. -/
def writeOut (s : State) (o : OpCtx) (t : Nat) (bs : List Byte) (crc : Word) : State :=
  let x := dOut o.d
  let s := landTile s (tileAt x t) (sealAt x t) (tileShape x t) bs crc
  setRun s o.h fun r => { r with written := if r.written.contains t then r.written else r.written ++ [t] }

/-- FP32 words of a tile. -/
def wordsOf (bs : List Byte) : List Word := (List.range (bs.length / 4)).map fun i => BitVec.ofNat 32 (field bs (4 * i) 4)

/-- merge of R335: the arriving partial on the left. -/
def mergeTiles (op : Nat) (a b : List Byte) : List Byte :=
  let f : Word → Word → Word := match op with | 1 => addF32 | 2 => maxF32 | _ => minF32
  (List.zipWith f (wordsOf a) (wordsOf b)).flatMap fun w => le 4 w.toNat

/-- Puts a tile into the queue for a rank. -/
def enqueue (s : State) (o : OpCtx) (q t : Nat) (bs : List Byte) (crc : Word) (sh : Shape) : State :=
  setRun s o.h fun r => { r with out := r.out ++ [⟨q, t, bs, crc, shapeBits sh % 2 ^ 24, none, 0⟩] }

/-- The gather half (R336): a tile of OUT goes on from this rank. -/
def gatherOn (s : State) (o : OpCtx) (t : Nat) (bs : List Byte) (crc : Word) : State :=
  let sh := tileShape (dOut o.d) t
  if o.direct then
    if o.rank = o.owner t then
      ((List.range o.n).filter fun q => q ≠ o.rank).foldl (fun s q => enqueue s o q t bs crc sh) s
    else s
  else if o.next ≠ o.owner t then enqueue s o o.next t bs crc sh else s

/-- A reduced tile is sealed here, checked for non-finite elements, written, and gathered on (R338). -/
def reduced (s : State) (o : OpCtx) (t : Nat) (bs : List Byte) : State :=
  let sh := tileShape (dOut o.d) t
  let bs := padTile sh bs
  let crc := sealOf sh bs
  let s := setDef s o.h fun d =>
    match (tileHits sh bs.toArray).head? with
    | some (r, c, _) => if d.nf.any fun x => x.1 ≤ t then d else { d with nf := some (t, r, c) }
    | none => d
  let s := writeOut s o t bs crc
  if dOp o.d = 3 then gatherOn s o t bs crc else s

/-- A DIRECT reduction merges once every contribution is there, in the order of R335 with its own value last. -/
def mergeHeld (s : State) (o : OpCtx) (t : Nat) (own : List Byte) : State :=
  match findRun s o.h with
  | none => s
  | some r =>
    let mine := r.held.filter fun x => x.2.1 = t
    if mine.length + 1 < o.n then s
    else
      let x (q : Nat) : List Byte := (mine.find? fun y => y.1 = q).elim own (·.2.2)
      let order := (List.range o.n).map fun j => (o.owner t + 1 + j) % o.n
      let acc := order.tail.foldl (fun a q => mergeTiles (dReduce o.d) a (x q)) (x (order.headD 0))
      reduced (setRun s o.h fun r => { r with held := r.held.filter fun y => y.2.1 ≠ t }) o t acc

/-! ### ALL_TO_ALL (R339) -/

/-- The count entry of rank `j` as it stands in the table: TILE_ROWS and VALID_ROWS. -/
def countAt (s : State) (o : OpCtx) (j : Nat) : Nat × Nat :=
  let b := readLocal s (dCounts o.d + 8 * j) 8
  (field b 0 4, field b 4 4)

/-- The tile row of IN at which the rows for rank `j` begin. -/
def rowStart (s : State) (o : OpCtx) (j : Nat) : Nat := (List.range j).foldl (fun n k => n + (countAt s o k).1) 0

/-- TILE_ROWS that rank `q` sends here, when its entry has come. -/
def rowsFrom (s : State) (o : OpCtx) (r : CollRun) (q : Nat) : Option Nat :=
  if q = o.rank then some (countAt s o q).1 else (r.counts.find? fun c => c.1 = q).map (·.2.1)

/-- Tile row of OUT at which the rows of source `q` begin, once the entries of every lower source have come. -/
def outStart (s : State) (o : OpCtx) (r : CollRun) (q : Nat) : Option Nat :=
  (List.range q).foldl (fun n k => n.bind fun a => (rowsFrom s o r k).map (a + ·)) (some 0)

/-- Writes a tile that came from rank `q`, or leaves it out beyond OUT's grid. Each tile row beyond is counted once. -/
def placeExchanged (s : State) (o : OpCtx) (start item : Nat) (bs : List Byte) (crc : Word) : State :=
  let x := dOut o.d
  let tc := (dIn o.d).tc
  let row := start + item / tc
  let col := item % tc
  if row < x.tr && col < x.tc then
    landTile s (x.addr row col) (x.sealAddr row col) (x.shape row col) bs crc
  else if col = 0 then { s with coll := { s.coll with dropped := s.coll.dropped + 1 } } else s

/-- Writes the tiles that wait for their place. -/
def placeHeld (s : State) (o : OpCtx) : State :=
  match findRun s o.h with
  | none => s
  | some r =>
    r.held.foldl (fun s y =>
      match outStart s o r y.1 with
      | some st =>
        let s := placeExchanged s o st y.2.1 (y.2.2.drop 4) (BitVec.ofNat 32 (field y.2.2 0 4))
        setRun s o.h fun r => { r with held := r.held.filter fun z => !(z.1 = y.1 && z.2.1 = y.2.1) }
      | none => s) s

/-- Everything of an exchange has come: entries of every rank, and all their tiles. -/
def exchanged (s : State) (o : OpCtx) (r : CollRun) : Bool :=
  (List.range o.n).all fun q => q = o.rank ||
    match rowsFrom s o r q with
    | some k => (r.got.filter fun g => g.1 = q).length = k * (dIn o.d).tc
    | none => false

/-- Writes the received entries: the rows actually written, VALID_ROWS as it came. -/
def writeCounts (s : State) (o : OpCtx) (r : CollRun) : State :=
  (List.range o.n).foldl (fun s q =>
    let valid := if q = o.rank then (countAt s o q).2 else (r.counts.find? fun c => c.1 = q).elim 0 (·.2.2)
    let rows := (rowsFrom s o r q).getD 0
    let start := (outStart s o r q).getD 0
    writeLocal s (dCounts o.d + 8 * (o.n + q)) (le 4 (min rows ((dOut o.d).tr - start)) ++ le 4 valid)) s

/-! ### Progress -/

/-- Whether the operation has done everything: what it waits for has come, OUT is written, and every tile sent is credited. -/
def finished (s : State) (o : OpCtx) (r : CollRun) : Bool :=
  r.out.isEmpty &&
    if dOp o.d = 5 then exchanged s o r && r.held.isEmpty
    else (List.range o.T).all fun t =>
      (r.got.filter fun g => g.2 = t).length = o.want t && (r.written.contains t || (dOp o.d = 1 && o.owner t ≠ o.rank))

/-- Sends what it may, and completes when all is done. -/
def pumpRun (s : State) (h : Nat) : State :=
  match opCtx s h, findRun s h with
  | some o, some r =>
    match pushOut s o r.out with
    | none => collFail s h 1
    | some s =>
      match findRun s h with
      | some r =>
        if finished s o r then collDone (if dOp o.d = 5 then writeCounts s o r else s) r else s
      | none => s
  | _, _ => s

/-- What tile `t` gives at the start of an operation: the outcome that ends it, or the state after. -/
def startTile (o : OpCtx) (acc : State × Option Nat) (t : Nat) : State × Option Nat :=
  let (s, bad) := acc
  let c := o.owner t
  let sends := o.reduces && 1 < o.n && (if o.direct then c ≠ o.rank else o.rank = (c + 1) % o.n)
  let owns := (!o.reduces && c = o.rank) || (o.reduces && o.n = 1)
  if bad.isSome || !(sends || owns) then acc
  else
    match intake s o t with
    | (.ends e, s) => (s, some e)
    | (.tile bs crc, s) =>
      if sends then (enqueue s o (if o.direct then c else o.next) t bs crc (tileShape (dIn o.d) t), none)
      else if o.reduces then (reduced s o t bs, none)
      else (gatherOn (writeOut s o t bs crc) o t bs crc, none)

/-- The start of an exchange: entries first, then tile rows; its own rows need no transport. -/
def startExchange (s : State) (o : OpCtx) : State × Option Nat :=
  let tc := (dIn o.d).tc
  let others := (List.range o.n).filter fun q => q ≠ o.rank
  let s := touchRead s (dCounts o.d) (8 * o.n)
  let s := others.foldl (fun s q =>
    let e := countAt s o q
    let p := { collPacket s 0x23 (o.dev q) 0 0 0 o.rank o.h false with payload := le 4 e.1 ++ le 4 e.2 }
    (sendColl s (o.dev q) [p]).getD s) s
  (List.range o.n).foldl (fun acc q =>
    (List.range ((countAt s o q).1 * tc)).foldl (fun (acc : State × Option Nat) k =>
      let (s, bad) := acc
      let t := rowStart s o q * tc + k
      if bad.isSome || o.T ≤ t then acc
      else
        match intake s o t with
        | (.ends e, s) => (s, some e)
        | (.tile bs crc, s) =>
          if q = o.rank then (setRun s o.h fun r => { r with held := r.held ++ [(q, k, le 4 crc.toNat ++ bs)] }, none)
          else (enqueue s o q k bs crc (tileShape (dIn o.d) t), none)) acc) (s, none)

/-- An operation starts that ends at once. -/
def endAtStart (s : State) (h entry outcome : Nat) : State :=
  let s := setDef s h fun d => { d with state := 2, outcome }
  if outcome = 0 then completeEntry s entry else failEntry s entry

/-- A list operation starts. -/
def startList (s : State) (h entry : Nat) (o : OpCtx) : State :=
  let ranks := (List.range o.n).filter fun q => o.senders.contains q || o.receivers.contains q
  let run : CollRun := ⟨h, entry, s.time, [], ranks.map fun q => ⟨q, 0, 0, 0, (0, 0)⟩, [], [], [], [], [], [], 0, 0⟩
  let s := { s with coll := { s.coll with runs := s.coll.runs ++ [run] } }
  let s := creditAll (allot s o) o
  let (s, bad) := if dOp o.d = 5 then startExchange s o else (List.range o.T).foldl (startTile o) (s, none)
  match bad with
  | some e => collFail s h e
  | none => pumpRun (if dOp o.d = 5 then placeHeld s o else s) h

/-- A COLLECTIVE entry starts an operation on a member list (R337, R343); one whose list is not there, or does not name this module, ends
FAILED (log 33). -/
def startOp (s : State) (h entry : Nat) : State :=
  match findDef s h with
  | none => failEntry s entry
  | some c =>
    let s := setDef s h fun d => { d with state := 1, outcome := 0, gen := dGen d.desc, step := s.job.step, sent := 0, received := 0, nf := none }
    if dGen c.desc ≠ s.coll.gen then endAtStart s h entry 6
    else if dGrad c.desc && (List.range (dLayers c.desc)).all fun k => layerMode s (dLayer c.desc + k) = 1 then endAtStart s h entry 0
    else
      match opCtx s h with
      | some o => startList s h entry o
      | none => endAtStart s h entry 1

/-! ### What arrives -/

/-- A verified tile takes its place in the operation. -/
def tileArrives (s : State) (o : OpCtx) (r : CollRun) (q t : Nat) (bs : List Byte) (crc : Word) : State × Option Nat :=
  let first := !(r.got.any fun g => g.1 = q && g.2 = t)
  let merge := o.merges t && first
  if dOp o.d = 5 then
    (placeHeld (setRun s o.h fun r => { r with held := r.held ++ [(q, t, le 4 crc.toNat ++ bs)] }) o, none)
  else if merge then
    match intake s o t with
    | (.ends e, s) => (s, some e)
    | (.tile own _, s) =>
      if o.direct then (mergeHeld (setRun s o.h fun r => { r with held := r.held ++ [(q, t, bs)] }) o t own, none)
      else
        let sh := tileShape (dIn o.d) t
        let acc := padTile sh (mergeTiles (dReduce o.d) bs own)
        if o.owner t = o.rank then (reduced s o t acc, none)
        else (enqueue s o o.next t acc (sealOf sh acc) sh, none)
  else (gatherOn (writeOut s o t bs crc) o t bs crc, none)

/-- The check of a whole tile: its header and seal. A tile that comes without a seal, from a T7 or over a version 1 link, is sealed here
(R302, R340). -/
def arrivalOk (s : State) (p : Packet) (sh : Shape) (bs : List Byte) : Option Word :=
  if isT7 s p.sender || !p.sealed then some (sealOf sh bs)
  else if p.spec1.toNat = shapeBits sh % 2 ^ 24 && sealOf sh bs = p.spec0 then some p.spec0 else none

/-- The shape that a tile of an operation must have: that of IN; an exchanged tile keeps the one it had at its source, which one without a
seal does not say: it has IN's columns and whole rows (log 131). -/
def expectShape (o : OpCtx) (p : Packet) : Shape :=
  let t := p.addr % 2 ^ 32
  if dOp o.d ≠ 5 then tileShape (dIn o.d) t
  else if p.sealed then shapeOf p.spec1.toNat
  else { tileShape (dIn o.d) (t % (dIn o.d).tc) with rows := 128 }

/-- The die of the datapath at which a packet arrived (R336). -/
def portDie (port : Nat) : Nat := if port < 18 then 0 else if port < 36 then 1 else 2

/-- Where a tile from rank `q` that is not merged lands in OUT, none beyond its grid. -/
def landing (s : State) (o : OpCtx) (r : CollRun) (q t : Nat) : Option (Nat × Nat) :=
  let x := dOut o.d
  if dOp o.d ≠ 5 then some (tileAt x t, sealAt x t)
  else
    let tc := (dIn o.d).tc
    let row := (outStart s o r q).getD 0 + t / tc
    if row < x.tr && t % tc < x.tc then some (x.addr row (t % tc), x.sealAddr row (t % tc)) else none

/-- Whether a tile from rank `q` is a contribution or a partial to merge. -/
def toMerge (o : OpCtx) (r : CollRun) (q t : Nat) : Bool := o.merges t && !(r.got.any fun g => g.1 = q && g.2 = t)

/-- The unit that checks a tile from rank `q` (R99): the datapath of the die it came in at, or the arrival check of the memory it goes to. -/
def checker (s : State) (o : OpCtx) (r : CollRun) (p : Packet) (q t : Nat) : Nat :=
  if toMerge o r q t then unitId 7 (portDie p.port) 0 else arrivalUnit s ((landing s o r q t).elim (dOut o.d).base (·.1))

/-- The retry of a tile has failed (R104): logged, and what is to land in OUT stays unsealed. TILE_ADDRESS names the tile of that index in the
sender's IN (log 131). -/
def tileSpoiled (s : State) (o : OpCtx) (r : CollRun) (p : Packet) (q t : Nat) (sh : Shape) (bs : List Byte) : State :=
  let src := globalAddr 1 (o.dev q) (offset (tileAt (dIn o.d) t))
  let s := logSeal s (sealRecord s src (checker s o r p q t) p.spec0 (sealOf sh bs) 0 sh)
  match if toMerge o r q t then none else landing s o r q t with
  | some (a, e) => landBad s a e sh bs p.spec0
  | none => s

/-- A whole tile has come: verified and credited, or asked for once more, or the end of the operation (R104, R345). -/
def tileWhole (s : State) (o : OpCtx) (r : CollRun) (p : Packet) (bs : List Byte) : State :=
  let q := p.spec3.toNat
  let t := p.addr % 2 ^ 32
  let sh := expectShape o p
  let asked := r.asked.contains (q, t)
  match arrivalOk s p sh bs with
  | some crc =>
    let s := if asked then stepCount (countUp s cSealRetry 1) 10 else s
    let (s, bad) := tileArrives s o r q t bs crc
    match bad with
    | some e => collFail s o.h e
    | none =>
      let s := setRun s o.h fun r => { r with got := r.got ++ [(q, t)], asked := r.asked.filter fun x => x ≠ (q, t) }
      let s := setMate s o.h q fun m => { m with verified := m.verified + 1 }
      let s := setDef s o.h fun d => { d with received := d.received + 1 }
      pumpRun (creditAll s o) o.h
  | none =>
    if asked then collFail (tileSpoiled s o r p q t sh bs) o.h 2
    else
      let dst := o.dev q
      let s := setRun s o.h fun r => { r with asked := (q, t) :: r.asked }
      (sendColl s dst [collPacket s 0x22 dst t 0 0 o.rank o.h false]).getD s

/-- The operation that a packet belongs to, when it matches one in progress and its sender is one of it (R342). -/
def runOf (s : State) (p : Packet) : Option (OpCtx × CollRun) :=
  let h := bits p.channel.toNat 11 0
  match opCtx s h, findRun s h with
  | some o, some r =>
    let q := p.spec3.toNat
    if current s p && bits p.channel.toNat 15 12 = 0 && q ≠ o.rank && o.members[q]? = some p.sender then some (o, r) else none
  | _, _ => none

/-- Whether rank `q` is expected to send item `t`. -/
def itemExpected (s : State) (o : OpCtx) (r : CollRun) (q t : Nat) : Bool :=
  let g := (r.got.filter fun x => x.1 = q && x.2 = t).length
  if dOp o.d = 5 then g = 0 && (rowsFrom s o r q).all fun k => t < k * (dIn o.d).tc
  else t < o.T && o.expects q t g

/-- COL_DATA: a packet of a tile. -/
def colData (s : State) (p : Packet) : State :=
  match runOf s p with
  | none => stale s
  | some (o, r) =>
    let q := p.spec3.toNat
    let t := p.addr % 2 ^ 32
    if !itemExpected s o r q t then stale s
    else
      let old := (r.parts.find? fun x => x.1 = q && x.2.1 = t).elim (0, []) (·.2.2)
      let part : Nat × List Byte := if p.index = 0 then (0, []) else old
      if p.index.toNat ≠ part.1 then s
      else
        let bs := part.2 ++ p.payload
        let rest := r.parts.filter fun x => !(x.1 = q && x.2.1 = t)
        let whole := Shape.bytes (expectShape o p) ≤ bs.length
        let s := setRun s o.h fun r => { r with parts := if whole then rest else (q, t, part.1 + 1, bs) :: rest }
        if whole then tileWhole s o r p bs else s

/-- COL_CREDIT from a rank that gets tiles from this one: the limit moves on and the tiles it covers are let go. -/
def colCredit (s : State) (p : Packet) : State :=
  match (runOf s p).filter fun x => x.1.receivers.contains p.spec3.toNat with
  | none => stale s
  | some (o, _) =>
    let q := p.spec3.toNat
    let item := p.addr % 2 ^ 32
    let s := setMate s o.h q fun m => { m with limit := max m.limit p.spec0.toNat }
    let s := setRun s o.h fun r => { r with out := r.out.filter fun x => !(x.rcv = q && x.place.any (· < item)) }
    pumpRun s o.h

/-- COL_RESEND: the kept tile goes again; the latest sent of several under one item. -/
def colResend (s : State) (p : Packet) : State :=
  match runOf s p with
  | none => stale s
  | some (o, r) =>
    match (r.out.filter fun x => x.rcv = p.spec3.toNat && x.item = p.addr % 2 ^ 32 && x.place.isSome).getLast? with
    | some x =>
      match sendTile s 0x20 (o.dev x.rcv) o.rank o.h x with
      | some s => s
      | none => collFail s o.h 1
    | none => stale s

/-- COL_COUNTS: a sender's entry for this rank. -/
def colCounts (s : State) (p : Packet) : State :=
  match runOf s p with
  | none => stale s
  | some (o, r) =>
    let q := p.spec3.toNat
    if dOp o.d ≠ 5 || r.counts.any (fun c => c.1 = q) || p.payload.length ≠ 8 then stale s
    else
      let s := setRun s o.h fun r => { r with counts := r.counts ++ [(q, field p.payload 0 4, field p.payload 4 4)] }
      pumpRun (creditAll (placeHeld s o) o) o.h

/-- COL_ABORT of an operation, from a rank that it has to do with. -/
def colAbort (s : State) (p : Packet) : State :=
  match (runOf s p).filter fun x => x.2.mates.any fun m => m.rank = p.spec3.toNat with
  | some (o, _) => collFail s o.h 5
  | none => stale s

/-- When a tile to rank `q` that no credit covers counts as a transfer without response (R314, R345, log 131). -/
def fabricLimit (s : State) (dst : Nat) : Nat := if isFar s dst then 25000000 else 2000000

/-- The oldest tile to rank `q` that no credit has covered fails as a transfer (R345). -/
def tileTimeout (s : State) (h q : Nat) : State :=
  match opCtx s h, (findRun s h).bind fun r => r.out.find? fun x => x.rcv = q && x.place.isSome with
  | some o, some x => collFail (advance s (x.since + fabricLimit s (o.dev q))) h 1
  | _, _ => s

end Sys2Proof.Machine
end

