-- ==== Sys2Proof/Machine/JobCheck.lean ====
section
/-! DEFINITION. JobCheck.lean: the checks of a job descriptor, of a topology descriptor and of a schedule table (10_pipeline_sequencer.md,
14_collectives_meridian.md). A check is the byte offset of a field and whether the field passes. -/

namespace Sys2Proof.Machine

/-- Offsets with what their fields' checks found. -/
abbrev Checks := List (Nat × Bool)

/-- The lowest offset of a field that fails. -/
def firstBad (cs : Checks) : Option Nat := cs.foldl (fun m c => if c.2 then m else some (m.elim c.1 (min c.1))) none

/-- Moves checks to where their structure begins. -/
def shiftBy (o : Nat) (cs : Checks) : Checks := cs.map fun c => (o + c.1, c.2)

/-- Records of `k` bytes with their offsets. -/
def records (k : Nat) (bs : List Byte) : List (Nat × List Byte) :=
  (List.range (bs.length / k)).map fun i => (k * i, (bs.drop (k * i)).take k)

/-- The checks of every record. -/
def eachRecord (k : Nat) (bs : List Byte) (f : List Byte → Checks) : Checks := (records k bs).flatMap fun r => shiftBy r.1 (f r.2)

/-- Whether bytes `o` to `o + n` are zero. -/
def zeroAt (bs : List Byte) (o n : Nat) : Bool := (sub bs o n).all (· == 0)

/-- The first of two equal things fails nothing; each later one fails at its offset. -/
def distinct {α : Type} [DecidableEq α] (xs : List (Nat × α)) : Checks :=
  xs.mapIdx fun i x => (x.1, !((xs.take i).any fun y => y.2 = x.2))

/-! ### Sections (R225) -/

/-- A section: type, offset of its body, length. -/
structure Sect where
  type : Nat
  off  : Nat
  len  : Nat
  deriving DecidableEq, Repr

/-- The sections from offset `o` on, `n` of them, or the offset of the header that does not hold. -/
def parseSects (bs : List Byte) : Nat → Nat → List Sect → Except Nat (List Sect)
  | 0, o, acc => if o = bs.length then .ok acc else .error o
  | n + 1, o, acc =>
    let t := field bs o 4
    let len := field bs (o + 4) 4
    if bs.length < o + 8 + roundUp len 64 || t = 0 || 9 < t || acc.any (fun x => x.type = t) then .error o
    else parseSects bs n (o + 8 + roundUp len 64) (acc ++ [⟨t, o + 8, len⟩])

def sectOf (xs : List Sect) (t : Nat) : Sect := (xs.find? fun x => x.type = t).getD ⟨t, 0, 0⟩
def sectBytes (bs : List Byte) (x : Sect) : List Byte := sub bs x.off x.len

/-! ### Sections 1 to 8 -/

def paramChecks (b : List Byte) : Checks :=
  [(0, b.length = 64), (8, field b 8 1 < 16), (9, 1 ≤ field b 9 1 && field b 9 1 ≤ 8), (10, 1 ≤ field b 10 1 && field b 10 1 ≤ 64),
   (11, zeroAt b 11 1), (12, field b 12 2 ≠ 0), (0x10, field b 0x10 4 ≠ 0), (0x18, zeroAt b 0x18 40)]

/-- Cores of a group record. -/
def groupMask (b : List Byte) : List Nat := (List.range 160).filter fun n => bit (field b 4 20) n

/-- Core groups: offset, number, cores. -/
def parseGroups (b : List Byte) : List (Nat × Nat × List Nat) := (records 32 b).map fun r => (r.1, field r.2 0 2, groupMask r.2)

def groupChecks (s : State) (b : List Byte) : Checks :=
  let gs := parseGroups b
  ([(0, b.length % 32 = 0 && b.length ≤ 4096)] : Checks) ++
  eachRecord 32 b (fun r => [(0, field r 0 2 < 128), (2, zeroAt r 2 2), (24, zeroAt r 24 8)]) ++
  distinct (gs.map fun g => (g.1, g.2.1)) ++
  gs.mapIdx fun i g => (g.1 + 4, !g.2.2.isEmpty && (g.2.2.all fun n => n < 152 && (coreAt s n).enabled) &&
    !((gs.take i).any fun h => h.2.2.any g.2.2.contains))

/-- Die of the stacks of a group: that of its lowest core (R209). -/
def dieOfGroup (gs : List (Nat × Nat × List Nat)) (g : Nat) : Nat :=
  (gs.find? fun x => x.2.1 = g).elim 0 fun x => dieOf (x.2.2.headD 0)

/-- Regions of a stack descriptor with the offset of the field that gives each: body, spill, directory. -/
def stackRegions (r : List Byte) : List (Nat × Nat × Nat) :=
  [(8, field r 8 8, field r 0x10 8), (0x18, field r 0x18 8, field r 0x20 8), (0x28, field r 0x28 8, 32 * field r 0x30 4)]

/-- Whether a die's half of LPDDR holds a range (R263). -/
def inHalf (die a n : Nat) : Bool := lpddrBase + die * 2 ^ 39 ≤ a && a + n ≤ lpddrBase + (die + 1) * 2 ^ 39

/-- One stack descriptor by itself (R210). -/
def stackChecks (s : State) (gs : List (Nat × Nat × List Nat)) (r : List Byte) : Checks :=
  let die := dieOfGroup gs (field r 2 2)
  let taken := fixedRanges ++ s.tier.pool ++ s.tier.regions.map fun x => (x.base, x.len)
  let placed (a n : Nat) : Bool := a % pageBytes = 0 && !touches taken a n
  let entries := field r 0x30 4
  [(0, field r 0 1 < 8), (1, field r 1 1 < 2), (2, gs.any fun g => g.2.1 = field r 2 2),
   (4, field r 4 4 % 64 = 0 && 256 ≤ field r 4 4),
   (8, placed (field r 8 8) (field r 0x10 8) && field r 8 8 < lpddrBase && localExists s (field r 8 8) (field r 0x10 8)),
   (0x10, field r 0x10 8 % pageBytes = 0),
   (0x18, (field r 0x18 8 = 0 && field r 0x20 8 = 0) ||
     (placed (field r 0x18 8) (field r 0x20 8) && inHalf die (field r 0x18 8) (field r 0x20 8))),
   (0x20, field r 0x20 8 % pageBytes = 0),
   (0x28, placed (field r 0x28 8) (32 * entries) && field r 0x28 8 < lpddrBase && localExists s (field r 0x28 8) (32 * entries)),
   (0x30, 2 ^ 12 ≤ entries && entries ≤ 2 ^ 24 && entries = 2 ^ Nat.log2 entries),
   (0x34, 50 ≤ field r 0x34 1 && field r 0x34 1 ≤ 99), (0x35, field r 0x35 1 < field r 0x34 1), (0x36, zeroAt r 0x36 10)]

/-- The stack descriptors that configure a stack: those with VALID set. -/
def validStacks (b : List Byte) : List (Nat × List Byte) := (records 64 b).filter fun r => bit (field r.2 1 1) 0

/-- Section 3 as a whole: what the descriptors share (R210). `tops` are the top-buffer sizes of the two dies in MiB. -/
def stackSection (s : State) (gs : List (Nat × Nat × List Nat)) (tops : List Nat) (b : List Byte) : Checks :=
  let vs := validStacks b
  let die (r : List Byte) := dieOfGroup gs (field r 2 2)
  let regions := vs.flatMap fun v => (stackRegions v.2).map fun x => (v.1 + x.1, x.2)
  ([(0, b.length % 64 = 0)] : Checks) ++
  (vs.flatMap fun v => shiftBy v.1 (stackChecks s gs v.2)) ++
  ((records 64 b).filter fun r => !bit (field r.2 1 1) 0).map (fun r => (r.1 + 1, decide (field r.2 1 1 = 0))) ++
  distinct (vs.map fun v => (v.1, field v.2 2 2, field v.2 0 1)) ++
  (regions.mapIdx fun i x => (x.1, (!touches ((regions.take i).map (·.2)) x.2.1 x.2.2 : Bool))) ++
  vs.mapIdx fun i v =>
    let before := (vs.take (i + 1)).filter fun w => die w.2 = die v.2
    (v.1 + 4, decide (before.length ≤ 64) && decide ((before.foldl (fun n w => n + field w.2 4 4) 0) ≤ 1024 * nth tops (die v.2)))

/-- The ten sizes of section 4, five for each die. -/
def parsePartition (b : List Byte) : List (List Nat) :=
  (List.range 2).map fun d => (List.range 5).map fun k => field b (10 * d + 2 * k) 2

def partitionChecks (b : List Byte) : Checks :=
  (0, b.length = 20) :: (parsePartition b).mapIdx fun d xs => (10 * d, xs.foldl (· + ·) 0 ≤ 64)

/-- Semaphore assignments of section 5: number and purpose. -/
def parsePurposes (b : List Byte) : List (Nat × Nat) := (records 4 b).map fun r => (field r.2 0 2, field r.2 2 2)

/-- Section 5, with the rings of the topology descriptor (R348). -/
def purposeChecks (rings : List Nat) (b : List Byte) : Checks :=
  let ps := parsePurposes b
  let count (k : Nat) : Nat := (ps.filter fun p => p.2 = k).length
  let ring (r : Nat) : Bool :=
    if rings.contains r then count (0x10 + r) = count (0x18 + r) && count (0x20 + r) = 1 && count (0x28 + r) = 1
    else [0x10, 0x18, 0x20, 0x28].all fun k => count (k + r) = 0
  ([(0, b.length % 4 = 0 && (List.range 8).all ring)] : Checks) ++
  eachRecord 4 b fun r =>
    let n := field r 0 2
    let k := field r 2 2
    [(0, n < 4096 && (semScope n = 1 || semScope n = 2) && n < hubSem (queueSem 0)), (2, k = 0 || (0x10 ≤ k && k < 0x30))]

/-- The layer-mode table, four bytes a layer (R222): whether every entry holds, read in order. -/
def modesOk : List Byte → Bool
  | [] => true
  | a :: b :: c :: d :: rest =>
    a.toNat < 3 && b == 0 && (if a.toNat = 2 then d.toNat < 16 else c == 0 && d == 0) && modesOk rest
  | _ => false

/-- The index of the first layer whose entry fails. -/
def badLayer : List Byte → Nat → Nat
  | a :: b :: c :: d :: rest, n => if modesOk [a, b, c, d] then badLayer rest (n + 1) else n
  | _, n => n

def modeChecks (b : List Byte) : Checks := [(0, b.length = 262144), (4 * badLayer b 0, modesOk b)]

def maskChecks (b : List Byte) : Checks := [(0, b.length % 64 = 0 && b.length ≤ 262144)]

/-- Hub SRAM grants of section 8: offset and length, 4 bytes each (log 37). -/
def parseGrants (b : List Byte) : List (Nat × Nat) := (records 8 b).map fun r => (field r.2 0 4, field r.2 4 4)

def grantChecks (b : List Byte) : Checks :=
  (0, b.length % 8 = 0) :: eachRecord 8 b fun r =>
    [(0, field r 0 4 % 512 = 0), (4, field r 4 4 % 512 = 0 && field r 0 4 + field r 4 4 ≤ 0x800000)]

/-! ### The topology descriptor (R328 to R331, R347) -/

/-- A device number field: [31:21] zero. -/
def devOk (n : Nat) : Bool := n < 2 ^ 21

/-- Padded bytes of a member list with `n` members. -/
def listBytes (n : Nat) : Nat := roundUp (16 + 4 * n) 64

/-- Member lists from offset `o` on, `n` of them: offset and list; or the offset at which they cannot be read on: a list that is not there, a
COUNT that is too large. -/
def parseLists (b : List Byte) : Nat → Nat → List (Nat × MemberList) → Except Nat (List (Nat × MemberList) × Nat)
  | 0, o, acc => .ok (acc, o)
  | n + 1, o, acc =>
    let k := field b (o + 4) 4
    if b.length < o + 16 then .error o
    else if 65536 < k || b.length < o + listBytes k then .error (o + 4)
    else
      let rank := field b (o + 8) 4
      let l : MemberList := ⟨field b o 2, field b (o + 2) 1, if rank = 0xFFFFFFFF then none else some rank,
        (List.range k).map fun i => field b (o + 16 + 4 * i) 4⟩
      parseLists b n (o + listBytes k) (acc ++ [(o, l)])

/-- A member list by itself, for module `own` (R331). -/
def listChecks (b : List Byte) (own : Nat) (t7 : List Nat) (o : Nat) (l : MemberList) : Checks :=
  let place := l.members.findIdx? fun d => d = own
  let n := l.members.length
  let member (x : Nat × Nat) : Nat × Bool :=
    (o + 16 + 4 * x.2, devOk x.1 && (l.kind = 0 || !t7.contains x.1) && !(l.members.take x.2).contains x.1)
  ([(o, l.num < 256), (o + 2, l.kind < 6), (o + 3, zeroAt b (o + 3) 1), (o + 4, 1 ≤ n), (o + 8, l.rank = place), (o + 12, zeroAt b (o + 12) 4),
   (o + 16 + 4 * n, zeroAt b (o + 16 + 4 * n) (listBytes n - 16 - 4 * n))] : Checks) ++ l.members.zipIdx.map member

/-- A legend as it stands alone, checked as a descriptor's is (R94, R96). -/
def legendOk (n : Nat) : Bool := descOk ⟨n, 1, 1, 0, 0, 0, 0⟩

def parseRing (r : List Byte) : RingRec :=
  ⟨field r 0 1, field r 1 1, field r 2 2, field r 4 1, field r 5 1, field r 8 4, field r 0xC 4, field r 0x10 4, field r 0x14 2,
    field r 0x16 2, field r 0x18 8, field r 0x20 8, field r 0x28 4⟩

/-- Bytes of a tile with a legend. -/
def legendBytes (n : Nat) : Nat := tileBytes (bits n 3 0) (bits n 7 6)
/-- Bytes of a ring's buffers. -/
def ringBuffers (r : RingRec) : Nat :=
  r.slots * (r.nr * legendBytes r.latent + r.side * legendBytes r.sideLeg + 4096) + 2 * r.gslots * ((r.nr + r.side) * 65536)

/-- A ring record by itself (R347). `sizes` are the sizes of the dies' Meridian regions in MiB. -/
def ringChecks (sizes : List Nat) (lists : List MemberList) (b : List Byte) : Checks :=
  let r := parseRing b
  [(0, r.ring < 8), (1, r.die < 2), (2, lists.any fun l => l.num = r.list && l.kind = 3), (4, 1 ≤ r.nr && r.nr ≤ 8), (5, r.side < 2),
   (6, zeroAt b 6 2), (8, legendOk r.latent), (0xC, if r.side = 0 then r.sideLeg = 0 else legendOk r.sideLeg),
   (0x10, 1 ≤ r.blocks && r.blocks < 65536), (0x14, 2 ≤ r.slots), (0x16, 1 ≤ r.gslots),
   (0x28, r.buf % 512 = 0 && r.buf + ringBuffers r ≤ 2 ^ 20 * nth sizes r.die), (0x2C, zeroAt b 0x2C 20)]

def parsePort (r : List Byte) : PortMap := ⟨bit (field r 0 4) 31, bits (field r 0 4) 20 0, field r 4 1, field r 5 1, field r 6 1⟩

/-- A port-map entry by itself: module `own`'s port. -/
def portChecks (own : Nat) (r : List Byte) : Checks :=
  let p := parsePort r
  [(0, bits (field r 0 4) 30 21 = 0), (5, !p.connected || (1 ≤ p.kind && p.kind ≤ 3)),
   (6, p.role < 4 && (p.role ≠ 1 || p.peer / 16 = own / 16)), (7, zeroAt r 7 1)]

/-- The two ports of a pair lead to one pair of one peer (R331). -/
def pairOk (a b : PortMap) : Bool :=
  !a.connected || !b.connected || (a.peer = b.peer && a.peerPort / 2 = b.peerPort / 2 && a.peerPort ≠ b.peerPort)

/-- A route entry of R321. -/
def routeOk (e : Nat) : Bool := bits e 63 46 = 0 && bits e 45 44 ≠ 3

/-- An exposure range: none touches a firmware-reserved range (R313). -/
def exposeChecks (reserved : List (Nat × Nat)) (r : List Byte) : Checks :=
  [(0, !touches reserved (field r 0 8) (field r 8 8)), (8, field r 8 8 % 4096 = 0 && field r 0 8 + field r 8 8 ≤ 2 ^ 41),
   (0x10, field r 0x10 1 < 8), (0x11, field r 0x11 1 < 4), (0x12, zeroAt r 0x12 6)]

/-- Offsets of the parts of a topology descriptor: routes, exposure, rings, lists. -/
def topoRoutes : Nat := 64 + 288
def topoExposure : Nat := topoRoutes + 2560
def topoRings (b : List Byte) : Nat := topoExposure + 24 * field b 0x12 1
def topoLists (b : List Byte) : Nat := topoRings b + 64 * field b 0x13 1

/-- Device numbers a T7 map marks. -/
def parseT7 (bs : List Byte) (n : Nat) : List Nat :=
  match bs with
  | [] => []
  | x :: rest => if x = 0 then parseT7 rest (n + 8) else ((List.range 8).filter fun k => x.getLsbD k).map (n + ·) ++ parseT7 rest (n + 8)

/-- A topology descriptor taken apart: its lists with their offsets, where they end, and the T7s. -/
def topoParts (b : List Byte) : Except Nat (List (Nat × MemberList) × Nat × List Nat) :=
  (parseLists b (field b 0x14 2) (topoLists b) []).map fun x =>
    (x.1, x.2, if bit (field b 0x16 2) 0 then parseT7 (b.drop x.2) 0 else [])

/-- The checks of R331, R347, R386 and R409. `pending` is the device number a TAKEOVER has taken; `sizes` the Meridian regions;
`reserved` the firmware-reserved ranges. -/
def topoChecks (pending : Option Nat) (sizes : List Nat) (reserved : List (Nat × Nat)) (b : List Byte) : Checks :=
  let own := field b 8 4
  let flags := field b 0x16 2
  let feeds := field b 0xC 4 = 0xFFFFFFFF || field b 6 2 ≠ field b 0x10 2 || bit flags 1
  let far := field b 0x18 8
  let farLen := field b 0x20 8
  let head : Checks :=
    [(0, b.take 4 == ascii "EWTD" && 64 ≤ b.length), (4, field b 4 2 = 1), (0x10, feeds), (0x12, field b 0x12 1 ≤ 64), (0x13, field b 0x13 1 ≤ 8),
     (0x14, field b 0x14 2 ≤ 256), (0x16, flags < 4),
     (0x18, far % pageBytes = 0 && (farLen = 0 || (lpddrBase ≤ far && far + farLen ≤ lpddrBase + lpddrBytes && !touches reserved far farLen))),
     (0x20, farLen % pageBytes = 0 && (farLen = 0 || 0x8000000 ≤ farLen)), (0x28, zeroAt b 0x28 24)]
  match topoParts b with
  | .error o => (o, false) :: head
  | .ok (lists, stop, t7) =>
    let ports := (records 8 (sub b 64 288)).map fun r => (64 + r.1, r.2)
    let maps := ports.map fun r => parsePort r.2
    let rings := (records 64 (sub b (topoRings b) (64 * field b 0x13 1))).map fun r => (topoRings b + r.1, r.2)
    head ++
    ([(8, devOk own && !t7.contains own && pending.all (· = own)),
     (0xC, field b 0xC 4 = 0xFFFFFFFF || (devOk (field b 0xC 4) && !t7.contains (field b 0xC 4))),
     (stop, b.length = stop + if bit flags 0 then 262144 else 0)] : Checks) ++
    (ports.flatMap fun r => shiftBy r.1 (portChecks own r.2)) ++
    ((List.range 18).map fun k => (64 + 16 * k + 8, pairOk (maps.getD (2 * k) ⟨false, 0, 0, 0, 0⟩) (maps.getD (2 * k + 1) ⟨false, 0, 0, 0, 0⟩))) ++
    ((List.range 320).map fun k => (topoRoutes + 8 * k, routeOk (field b (topoRoutes + 8 * k) 8))) ++
    shiftBy topoExposure (eachRecord 24 (sub b topoExposure (24 * field b 0x12 1)) (exposeChecks reserved)) ++
    (rings.flatMap fun r => shiftBy r.1 (ringChecks sizes (lists.map (·.2)) r.2)) ++
    distinct (rings.map fun r => (r.1, field r.2 0 1)) ++
    (lists.flatMap fun l => listChecks b own t7 l.1 l.2) ++
    distinct (lists.map fun l => (l.1, l.2.num))

/-- The topology descriptor as loaded. -/
def parseTopo (b : List Byte) : Topo :=
  let (lists, _, t7) := (topoParts b).toOption.getD ([], 0, [])
  { feed := field b 6 2, partner := if field b 0xC 4 = 0xFFFFFFFF then none else some (field b 0xC 4), partnerFeed := field b 0x10 2,
    flags := field b 0x16 2, farBase := field b 0x18 8, farLen := field b 0x20 8,
    ports := (records 8 (sub b 64 288)).map fun r => parsePort r.2
    exposure := (records 24 (sub b topoExposure (24 * field b 0x12 1))).map fun r =>
      ⟨field r.2 0 8, field r.2 8 8, field r.2 0x10 1, field r.2 0x11 1⟩
    rings := (records 64 (sub b (topoRings b) (64 * field b 0x13 1))).map fun r => parseRing r.2
    lists := lists.map (·.2), t7 }

/-- The four route tables of a topology descriptor. -/
def parseRoutes (b : List Byte) : List (List DWord) :=
  let t (o n : Nat) : List DWord := (List.range n).map fun k => BitVec.ofNat 64 (field b (topoRoutes + 8 * (o + k)) 8)
  [t 0 32, t 32 256, t 288 16, t 304 16]

/-! ### The whole descriptor -/

/-- The sections of a descriptor whose header and section headers hold. -/
def jobSects (b : List Byte) : Except Nat (List Sect) :=
  if b.take 8 ≠ ascii "TK9-JOB1" then .error 0
  else if !zeroAt b 12 52 || b.length < 64 then .error 12
  else
    match parseSects b (field b 8 4) 64 [] with
    | .error o => .error o
    | .ok xs => if [1, 2, 3, 4, 5, 6, 7, 9].all fun t => xs.any fun x => x.type = t then .ok xs else .error 8

/-- The lowest offset at which a job descriptor fails (R225). -/
def jobBad (s : State) (b : List Byte) : Option Nat :=
  match jobSects b with
  | .error o => some o
  | .ok xs =>
    let body (t : Nat) : List Byte := sectBytes b (sectOf xs t)
    let at' (t : Nat) (cs : Checks) : Checks := shiftBy (sectOf xs t).off cs
    let parts := parsePartition (body 4)
    let groups := parseGroups (body 2)
    let rings := (parseTopo (body 9)).rings.map (·.ring)
    firstBad <|
      at' 1 (paramChecks (body 1)) ++ at' 2 (groupChecks s (body 2)) ++
      at' 3 (stackSection s groups (parts.map fun p => nth p 3) (body 3)) ++ at' 4 (partitionChecks (body 4)) ++
      at' 5 (purposeChecks rings (body 5)) ++ at' 6 (modeChecks (body 6)) ++ at' 7 (maskChecks (body 7)) ++ at' 8 (grantChecks (body 8)) ++
      at' 9 (topoChecks s.res.pending (parts.map fun p => nth p 0) (reservedRanges s) (body 9))

/-! ### Schedule tables (R230, R231, R232) -/

def parseEntry (r : List Byte) : Entry :=
  { kind := field r 0 1, vstage := field r 1 1, flags := field r 2 2, mb := field r 4 2, layer := field r 6 2, layers := field r 8 2,
    group := field r 0xA 2, program := field r 0xC 2, recompute := field r 0xE 2, instances := field r 0x10 4, real := field r 0x14 4,
    planUs := field r 0x18 4, costUs := field r 0x1C 4, leadUs := field r 0x20 4, graceUs := field r 0x24 4, after := field r 0x28 2,
    bucket := field r 0x2A 2, waitSem := field r 0x2C 2, waitCount := field r 0x2E 2, sigSem := field r 0x30 2, sigCount := field r 0x32 2,
    stackSet := field r 0x34 1, arg := BitVec.ofNat 64 (field r 0x38 8) }

def parseTable (b : List Byte) : List Entry := (records 64 b).map fun r => parseEntry r.2

/-- A semaphore field of an entry with its amount. -/
def entrySem (sem count : Nat) : Bool := (sem = 0xFFF && count = 0) || (sem < 4096 && (semScope sem = 1 || semScope sem = 2))

/-- INSTANCES and REAL by KIND. -/
def countsOk (e : Entry) : Bool :=
  match e.kind with
  | 5 => e.instances = 1 && e.real = 1
  | 6 => e.instances = 0 && e.real = 0
  | _ => 1 ≤ e.instances && e.instances ≤ 65536 && 1 ≤ e.real && e.real ≤ e.instances

/-- What SCHED_LOAD asks of entry `i` of a table (R230, R231). -/
def entryOk (t : List Entry) (i : Nat) (e : Entry) : Bool :=
  1 ≤ e.kind && e.kind ≤ 6 && e.vstage < 8 && e.flags < 8 && (!bit e.flags 0 || e.kind = 2) && (!bit e.flags 1 || e.kind = 3) &&
  1 ≤ e.layers && e.layer + e.layers ≤ 65536 && e.group < 128 &&
  (if e.kind = 6 then e.program = 0xFFFF else e.program < 4096) && (e.recompute < 4096 || e.recompute = 0xFFFF) && countsOk e &&
  (e.after = 0xFFFF || e.after < i) &&
  (if e.kind = 3 then i < e.bucket && (t[e.bucket]?).any fun b => b.kind = 5 else e.bucket = 0xFFFF) &&
  entrySem e.waitSem e.waitCount && entrySem e.sigSem e.sigCount &&
  (e.kind ≠ 3 || (t.take i).all fun x => x.kind ≠ 3 || !sharesLayer x e || x.mb ≤ e.mb)

/-- Index of the first entry of a table that fails. -/
def tableBad (b : List Byte) : Option Nat :=
  if b.length = 0 || 64 * 32768 < b.length then some (b.length / 64)
  else
    let t := parseTable b
    let rs := records 64 b
    (List.range t.length).find? fun i =>
      match t[i]?, rs[i]? with
      | some e, some r => !(entryOk t i e && zeroAt r.2 0x35 3)
      | _, _ => true

/-- What JOB_START asks of an entry against the job (R232). -/
def entryFits (s : State) (e : Entry) : Bool :=
  let j := s.job
  let modes : List Bool := (List.range e.layers).map fun k => layerMode s (e.layer + k) = 1
  j.groups.any (fun g => g.1 = e.group) && e.vstage < j.vstages && e.mb < j.microBatches &&
  ((List.range 8).all fun k => !bit e.stackSet k || s.stackSet.any fun st => st.group = e.group && st.num = k) &&
  (e.kind ≠ 3 || modes.all (fun m => m) || !modes.any fun m => m)

end Sys2Proof.Machine
end

