-- ==== Sys2Proof/Machine/Link.lean ====
section
/-! DEFINITION. Link.lean: near ports, lanes, cables, flits, capability blocks (13_ewete_fabric.md, R293 to R304; 21_module_hardware.md,
R485, R486). -/

namespace Sys2Proof.Machine

/-! ### Capability blocks (R300) -/

/-- Whether a pair has a spare lane (R294). -/
def hasSpare (pair : Nat) : Bool := pair ≠ 8 && pair ≠ 17

/-- The block of this module at port `n`. -/
def capBlock (s : State) (n : Nat) : List Byte :=
  let num := s.fab.device.isSome
  withCrc (ascii "EWCB" ++ le 1 2 ++ le 1 1 ++ le 1 n ++ le 1 (b2n num + 2 * b2n (hasSpare (n / 2)) + 4) ++ le 4 (s.fab.device.getD 0) ++ le 2 4096 ++
    [192, 192, 96, 32] ++ zeros 2 ++ (List.range 16).map Config.serial ++ zeros 24)

/-- Sends this module's block on VC3. -/
def sendBlock (s : State) (n : Nat) : State :=
  setNear { s with fab := { s.fab with blocks := s.fab.blocks ++ [(n, capBlock s n)] } } n fun x => { x with sentAt := s.time }

/-- Whether a block is one: MAGIC, CRC, reserved fields. -/
def blockWhole (b : List Byte) : Bool :=
  b.length = 64 && b.take 4 == ascii "EWCB" && field b 0x3C 4 = (crc32c (b.take 0x3C)).toNat && bits (field b 7 1) 7 3 = 0 &&
    bits (field b 8 4) 31 21 = 0 && sub b 0x12 2 == zeros 2 && sub b 0x24 24 == zeros 24

/-- Whether the peer's block is what the topology expects at port `n` (R300, R329). -/
def blockExpected (s : State) (n : Nat) (b : List Byte) : Bool :=
  blockWhole b && 1 ≤ field b 4 1 && 1 ≤ field b 5 1 && field b 5 1 ≤ 3 && bit (field b 7 1) 0 && s.fab.device.isSome &&
    (s.fab.topo.bind fun t => t.ports[n]?).any fun p =>
      p.connected && p.peer = field b 8 4 && p.peerPort = field b 6 1 && p.kind = field b 5 1

/-- A port whose peer's block fits comes UP; one that is UP and whose peer no longer fits falls back to EXCHANGE. -/
def settlePort (s : State) (n : Nat) : State :=
  let x := nearAt s n
  let fits := blockExpected s n x.block
  if x.state = .exchange && fits then
    drainEgress (setNear s n fun x => { x with
      state := .up, version := min 2 (field x.block 4 1), since := s.time, tuned := s.time
      credits := (List.range 4).map fun k => 4 * field x.block (0xE + k) 1 }) n
  else if (x.state = .up || x.state = .held) && !fits then setNear s n fun x => { x with state := .exchange, version := 0, window := none }
  else s

/-- A new device number or topology: each end that had sent its block sends it again, and every port is judged anew. -/
def announceNumber (s : State) : State :=
  (List.range 36).foldl (fun s n =>
    let st := (nearAt s n).state
    settlePort (if st = .exchange || st = .up || st = .held then sendBlock s n else s) n) s

/-! ### Port states (R295, R486) -/

/-- A port begins to train if it has a cable and may: not in standby (R447), not in a thermal hold (R443). -/
def trainPort (s : State) (n : Nat) : State :=
  if s.fab.present.getD (n / 2) false && !(nearAt s n).hostDown && !s.pwr.standby && s.pwr.stage ≠ .hold then linkDown s n .train else s

def execPortTrained (port : Nat) (s : State) : Out :=
  onUnit port 36 <| .next (if (nearAt s port).state = .train then sendBlock (linkDown s port .exchange) port else s)

/-- CAPABILITY_BLOCK: kept when it is whole; a port that it does not bring UP stays in EXCHANGE, and that is an event. -/
def takeBlock (s : State) (n : Nat) (b : List Byte) : State :=
  let st := (nearAt s n).state
  if st = .exchange || st = .up || st = .held then
    let s := if blockWhole b then setNear s n fun x => { x with block := b } else s
    let s := if blockWhole b || st = .exchange then settlePort s n else s
    if blockExpected s n b then s else event s 12 n
  else s

def execCapabilityBlock (port : Nat) (block : List Byte) (s : State) : Out := onUnit port 36 (.next (takeBlock s port block))

/-- CAPABILITY_RESEND: every 1 ms until the peer's block has come. -/
def execCapabilityResend (port : Nat) (s : State) : Out :=
  onUnit port 36 <|
    let x := nearAt s port
    .next (if x.state = .exchange && x.block.isEmpty then sendBlock (advance s (x.sentAt + 1000000)) port else s)

/-! ### Lanes and windows (R294, R296, R297) -/

/-- Whether a lane calls for its swap (R296): it fails training, or it carries more than 1 in 10⁵ of the symbols that FEC corrects at its port. -/
def swapDue : LaneFault → Bool
  | .untrained => true
  | .errors lane port => port < 100000 * lane

/-- Whether a swap has no spare: the pair has none, the one of that direction is in service, or the peer performs no swap (R294). -/
def noSpare (s : State) (n : Nat) (out : Bool) : Bool :=
  let x := nearAt s n
  !hasSpare (n / 2) || s.fab.spares.any (fun y => y.1 = n / 2 && y.2.1 = out) || (!x.block.isEmpty && !bit (field x.block 7 1) 2)

/-- LANE_SWAP: the spare takes the place of the lane, in a window where the port is UP, or the port fails. -/
def laneSwap (s : State) (n : Nat) (out : Bool) (lane : Nat) (fault : LaneFault) : State :=
  let st := (nearAt s n).state
  if st = .held then closeNear s n
  else if !(st = .up || st = .exchange || st = .train) || !swapDue fault then s
  else if noSpare s n out then failPort s n lane
  else if st = .up then openNear s n s.time ⟨1, 0, out, lane, true⟩
  else swapped s n out lane

def execLaneSwap (port : Nat) (outbound : Bool) (lane : Nat) (fault : LaneFault) (s : State) : Out :=
  onUnit port 36 (onUnit lane 4 (.next (laneSwap s port outbound lane fault)))

/-- TX_RETUNE: every 60 s, or at once when the receiver's eye margin is below 75 % of that at training. -/
def txRetune (s : State) (n margin : Nat) : State :=
  let x := nearAt s n
  if x.state = .held then closeNear s n
  else if x.state = .up then openNear s n (if margin < 75 then s.time else x.tuned + 60000000000) ⟨0, 0, false, 0, true⟩
  else s

def execTxRetune (port margin : Nat) (s : State) : Out := onUnit port 36 (.next (txRetune s port margin))

/-- LOSS_OF_LOCK: the port retrains in a window. -/
def lossOfLock (s : State) (n : Nat) (relocked : Bool) : State :=
  let x := nearAt s n
  if x.window.any fun w => w.kind = 2 then closeNear s n
  else if x.state = .held then openNear (closeNear s n) n 0 ⟨2, 0, false, 0, relocked⟩
  else if x.state = .up then openNear s n s.time ⟨2, 0, false, 0, relocked⟩
  else if x.state = .exchange && !relocked then failPort (advance s (s.time + 150000)) n 0
  else s

def execLossOfLock (port : Nat) (relocked : Bool) (s : State) : Out := onUnit port 36 (.next (lossOfLock s port relocked))

/-! ### Cables (R486) -/

def setPresent (s : State) (pair : Nat) (b : Bool) : State := { s with fab := { s.fab with present := s.fab.present.set pair b } }

def execCableRemoved (pair : Nat) (s : State) : Out :=
  onUnit pair 18 <| .next <|
    if s.fab.present.getD pair false then
      linkDown (linkDown (fabCount (setPresent s pair false) 6 1) (2 * pair) .down) (2 * pair + 1) .down
    else s

/-- Ports train only once the fabric has been brought up (R449). -/
def fabricUp (s : State) : Bool := (s.pwr.stage = .ready || s.pwr.stage = .flash) && !s.pwr.standby

def execCableInserted (pair : Nat) (s : State) : Out :=
  onUnit pair 18 <| .next <|
    if s.fab.present.getD pair false then s
    else
      let s := setPresent s pair true
      if fabricUp s then trainPort (trainPort s (2 * pair)) (2 * pair + 1) else s

/-! ### Flits (R298, R299, R303) -/

/-- Cuts packets off the bytes of a link, `fuel` doublewords at most: a doubleword whose first byte is 0 where a packet would begin is no
packet (log 25); a packet that fails is discarded and counted. -/
def cutPackets : Nat → State → Nat → List Byte → State × List Byte
  | 0, s, _, b => (s, b)
  | fuel + 1, s, port, b =>
    let len := field b 0x28 2
    if b.length < 8 then (s, b)
    else if field b 0 1 = 0 then cutPackets fuel s port (b.drop 8)
    else if b.length < 48 then (s, b)
    else if !hcrcOk b || 4096 < len || len % 8 ≠ 0 then (fabCount s 0 1, [])
    else if b.length < 48 + len then (s, b)
    else
      let p := parsePacket port b
      let s := if packetOk p then { s with fab := { s.fab with ingress := s.fab.ingress ++ [(s.time, p)] } } else roomBack (fabCount s 0 1) p
      cutPackets fuel s port (b.drop (48 + len))

/-- What a good flit confirms; a NAK has every flit after that sent again, out of the replay buffer. -/
def flitControl (s : State) (n h : Nat) : State :=
  let good := bits h 19 10
  let s := setNear s n fun x =>
    { x with replay := if x.replay.any (·.1 = good) then (x.replay.dropWhile (·.1 ≠ good)).drop 1 else x.replay }
  if bit h 20 then
    let again := (nearAt s n).replay.map fun f => (n, f.2)
    let s := { s with fab := { s.fab with flits := s.fab.flits ++ again } }
    countUp (fabCount s 7 again.length) cReplay again.length
  else s

/-- A flit that is the next one is delivered: its credits are taken, and at a port that is UP its packet bytes are cut into packets. -/
def deliverFlit (s : State) (n h : Nat) (bs : List Byte) : State :=
  let x := nearAt s n
  let s := setNear s n fun x => { x with
    rxNext := (bits h 9 0 + 1) % 1024, rxGood := bits h 9 0, nak := false, credits := x.credits.modify (bits h 22 21) (· + bits h 31 24) }
  if x.state = .up then
    let (s, rest) := cutPackets 1200 s n (x.stream ++ bs)
    setNear s n fun x => { x with stream := rest }
  else if x.state = .held then setNear s n fun x => { x with stream := x.stream ++ bs }
  else s

/-- FLIT: a flit that fails its CRC is answered with NAK, and so is the first that comes out of order; a good one is delivered once. -/
def takeFlit (s : State) (n : Nat) (b : List Byte) : State :=
  let s := endWindow s n
  let x := nearAt s n
  let h := field b 0 4
  let nak (s : State) : State := sendFlit s n [] 0 0 true
  if !linked s n then s
  else if b.length ≠ 512 || field b 508 4 ≠ (crc32c (b.take 508)).toNat || bit h 23 then nak s
  else
    let s := flitControl s n h
    let seq := bits h 9 0
    let s :=
      if seq = x.rxNext then deliverFlit s n h (sub b 4 504)
      else if !x.nak && (seq + 1024 - x.rxNext) % 1024 < 512 then nak s
      else s
    drainEgress s n

def execFlit (port : Nat) (bytes : List Byte) (s : State) : Out := onUnit port 36 (.next (takeFlit s port bytes))

/-! ### TOPO_QUERY -/

/-- Codes of the near-port states, in the order of the table of R295. -/
def portCode : PortState → Nat
  | .down => 0
  | .train => 1
  | .exchange => 2
  | .up => 3
  | .held => 4
  | .failed => 5

/-- The device number in the peer's block, all ones for none. -/
def peerDevice (x : Near) : Nat := if !x.block.isEmpty && bit (field x.block 7 1) 0 then field x.block 8 4 else 0xFFFFFFFF

def topoQueryBody (mb : Nat) (c : Cmd) (s : State) : State :=
  if !clean c 0 0 false then finish s mb c stMalformed
  else finish s mb c 0 <| s.fab.near.flatMap fun x => le 1 (portCode x.state) ++ le 1 x.version ++ zeros 2 ++ le 4 (peerDevice x)

def execTopoQuery (mb : Nat) (tag : DWord) (s : State) : Out := mbCommand mb tag 6 0x21 (topoQueryBody mb) s

/-! ### NEAR_PORT (R444) -/

/-- What NEAR_PORT does to one port: 0 release, 1 hold down, 2 retrain. -/
def nearRequest (s : State) (n how : Nat) : State :=
  let st := (nearAt s n).state
  match how with
  | 0 =>
    let held := (nearAt s n).hostDown
    let s := setNear s n fun x => { x with hostDown := false }
    if held && st = .down then trainPort s n else s
  | 1 => linkDown (setNear s n fun x => { x with hostDown := true }) n .down
  | _ => if st = .failed || st = .down then trainPort (setNear s n fun x => { x with hostDown := false }) n else s

def nearPortBody (mb : Nat) (c : Cmd) (s : State) : State :=
  if !clean c 0xFFFFFFFFF 3 false || c.arg1 = 3 then finish s mb c stMalformed
  else finish (((List.range 36).filter fun n => c.arg0.getLsbD n).foldl (fun s n => nearRequest s n c.arg1.toNat) s) mb c 0

def execNearPort (mb : Nat) (tag : DWord) (s : State) : Out := mbCommand mb tag 10 6 (nearPortBody mb) s

end Sys2Proof.Machine
end

