-- ==== Sys2Proof/Machine/Rings.lean ====
section
/-! DEFINITION. Rings.lean: Meridian ring control (14_collectives_meridian.md, R347 to R353). -/

namespace Sys2Proof.Machine

/-! ### Images and slots (R347) -/

/-- The shape of a whole tile with a legend. -/
def legendShape (legend : Nat) : Shape := (Desc.mk legend 128 128 0 0 0 0).shape 0 0

/-- The tiles of a block image: latents, the side tile, the token record. -/
def imageShapes (r : RingRec) : List Shape :=
  List.replicate r.nr (legendShape r.latent) ++ (if r.side = 1 then [legendShape r.sideLeg] else []) ++ [regShape]

def imageBytes (r : RingRec) : Nat := (imageShapes r).foldl (fun n x => n + Shape.bytes x) 0

/-- Where tile `j` of an image lies in it. -/
def tileOffset (r : RingRec) (j : Nat) : Nat := ((imageShapes r).take j).foldl (fun n x => n + Shape.bytes x) 0

/-- Tiles and bytes of a gradient image: FP32 tiles of 64 KiB. -/
def gradTiles (r : RingRec) : Nat := r.nr + r.side
def gradBytes (r : RingRec) : Nat := 65536 * gradTiles r

/-- Control-space offsets of a block slot, of a gradient in-slot and out-slot; the in-slots come first (log 34). -/
def ringBase (r : RingRec) : Nat := 0x4000000 * r.die + r.buf
def blockSlot (r : RingRec) (q : Nat) : Nat := ringBase r + q % r.slots * imageBytes r
def inSlot (r : RingRec) (g : Nat) : Nat := ringBase r + r.slots * imageBytes r + g % r.gslots * gradBytes r
def outSlot (r : RingRec) (g : Nat) : Nat := ringBase r + r.slots * imageBytes r + (r.gslots + g % r.gslots) * gradBytes r

/-! ### A running ring -/

def findRing (s : State) (ring : Nat) : Option RingRun := s.coll.rings.find? fun r => r.ring = ring
def setRing (s : State) (ring : Nat) (f : RingRun → RingRun) : State :=
  { s with coll := { s.coll with rings := s.coll.rings.map fun r => if r.ring = ring then f r else r } }

/-- What a ring needs at hand: its record, this module's rank, the members. -/
structure RingCtx where
  rec'    : RingRec
  rank    : Nat
  members : List Nat

def ringCtx (s : State) (ring : Nat) : Option RingCtx :=
  (s.fab.topo.bind fun t => t.rings.find? fun r => r.ring = ring).bind fun r =>
    (findList s r.list).bind fun l => l.rank.map fun k => ⟨r, k, l.members⟩

def RingCtx.n (c : RingCtx) : Nat := c.members.length
def RingCtx.nextDev (c : RingCtx) : Nat := nth c.members ((c.rank + 1) % c.n)
def RingCtx.prevRank (c : RingCtx) : Nat := (c.rank + c.n - 1) % c.n
def RingCtx.prevDev (c : RingCtx) : Nat := nth c.members c.prevRank
/-- Block items that come from the predecessor; gradient items are numbered on from there (log 35). -/
def RingCtx.items (c : RingCtx) : Nat := (c.n - 1) * c.rec'.blocks

def ringChannel (ring : Nat) : Nat := 2 ^ 15 + ring

/-- The semaphores of a purpose, in the order of their assignment (R348). -/
def purposeSems (s : State) (purpose : Nat) : List Nat := (s.job.purposes.filter fun p => p.2 = purpose).map (·.1)

def ringUp (s : State) (c : RingCtx) (sem : Nat) : State := semAdd s 0 c.rec'.die sem 1
def ringHolds (s : State) (c : RingCtx) (sem : Nat) : Bool := 0 < semGet s 0 c.rec'.die sem
def ringTake (s : State) (c : RingCtx) (sem : Nat) : State := semTake s 0 c.rec'.die sem 1

/-! ### Ends -/

def dropRing (s : State) (r : RingRun) (outcome : Nat) : State :=
  let s := setDef s r.handle fun d => { d with state := 2, outcome }
  { s with coll := { s.coll with rings := s.coll.rings.filter fun x => x.ring ≠ r.ring } }

/-- The ring operation ends with an outcome other than OK; both neighbours hear of it (R345). -/
def abortRing (s : State) (r : RingRun) (outcome : Nat) : State :=
  let tell (c : RingCtx) (s : State) (d : Nat) : State :=
    (sendColl s d [collPacket s 0x24 d outcome 0 0 c.rank (ringChannel r.ring) false]).getD s
  dropRing (match ringCtx s r.ring with | some c => [c.prevDev, c.nextDev].foldl (tell c) s | none => s) r outcome

/-- A ring operation that ends so fails its entry. -/
def ringFail (s : State) (ring outcome : Nat) : State :=
  match findRing s ring with
  | none => s
  | some r =>
    settleReshard (endEntry (abortRing s r outcome) r.entry false)

/-! ### Sending (R349, R352) -/

/-- The flow of block or gradient items. -/
def RingRun.flow (r : RingRun) (grad : Bool) : RingFlow := if grad then r.grad else r.blk
def RingRun.withFlow (r : RingRun) (grad : Bool) (f : RingFlow → RingFlow) : RingRun :=
  if grad then { r with grad := f r.grad } else { r with blk := f r.blk }

/-- Sends the tiles of one flow that the successor's limit admits. -/
def pushRing (s : State) (c : RingCtx) (grad : Bool) : List Outgo → Option State
  | [] => some s
  | x :: xs =>
    match findRing s c.rec'.ring with
    | none => some s
    | some r =>
      if x.place.isSome || (r.flow grad).limit ≤ x.item then pushRing s c grad xs
      else
        match sendTile s (if grad then 0x32 else 0x30) c.nextDev c.rank (ringChannel r.ring) x with
        | none => none
        | some s =>
          let f (w : RingFlow) : RingFlow := { w with
            out := w.out.map fun y => if y = x then { y with place := some y.item, since := s.time } else y }
          let s := setRing s r.ring fun r => r.withFlow grad f
          pushRing (setDef s r.handle fun d => { d with sent := d.sent + 1 }) c grad xs

/-- Queues the tiles of an item. -/
def queueItem (s : State) (ring : Nat) (grad : Bool) (item : Nat) (tiles : List (List Byte × Word × Shape)) : State :=
  setRing s ring fun r => r.withFlow grad fun w =>
    { w with out := w.out ++ tiles.map fun t => ⟨0, item, t.1, t.2.1, shapeBits t.2.2 % 2 ^ 24, none, 0⟩ }

/-! ### Announcing, releasing, crediting (R350, R352) -/

/-- Items from 0 on that are in a list without a gap. -/
def contiguous (got : List Nat) : Nat → Nat → Nat
  | 0, k => k
  | f + 1, k => if got.contains k then contiguous got f (k + 1) else k

def verified (w : RingFlow) (first : Nat) : Nat := contiguous w.got w.got.length first

/-- Raises the arrival semaphores of the items that have come in order. -/
def announce (s : State) (c : RingCtx) (grad : Bool) : State :=
  match findRing s c.rec'.ring with
  | none => s
  | some r =>
    let first := if grad then c.items else 0
    let w := r.flow grad
    let upto := verified w first - first
    let sems := purposeSems s ((if grad then 0x20 else 0x10) + r.ring)
    let s := (List.range (upto - w.arrived)).foldl (fun s _ => sems.foldl (fun s m => ringUp s c m) s) s
    setRing s r.ring fun r => r.withFlow grad fun w => { w with arrived := upto }

/-- Takes what the consumers have released, per consumer in ascending item. -/
def takeReleases (s : State) (c : RingCtx) : State :=
  (purposeSems s (0x18 + c.rec'.ring)).zipIdx.foldl (fun s mi =>
    match findRing s c.rec'.ring with
    | none => s
    | some r =>
      let k := min (r.blk.arrived - nth r.released mi.2) (semGet s 0 c.rec'.die mi.1)
      let s := semTake s 0 c.rec'.die mi.1 k
      setRing s r.ring fun r => { r with released := r.released.modify mi.2 (· + k) }) s

/-- Items of a flow whose slot is free again, counted from the first. A block that goes on is free once the successor has credited it, one
of the last step once it is released. -/
def freed (s : State) (c : RingCtx) (r : RingRun) (grad : Bool) : Nat :=
  if grad then min (r.handed - c.rec'.blocks) r.grad.arrived
  else
    let rel := if (purposeSems s (0x18 + r.ring)).isEmpty then r.blk.arrived
      else r.released.foldl min (r.released.headD 0)
    let onward := r.blk.cred - c.rec'.blocks
    min rel (if c.items ≤ c.rec'.blocks + onward then c.items else onward)

/-- Credits the predecessor when there is something new to say. -/
def creditPrev (s : State) (c : RingCtx) (grad : Bool) : State :=
  match findRing s c.rec'.ring with
  | none => s
  | some r =>
    let first := if grad then c.items else 0
    let w := r.flow grad
    let now := (verified w first,
      if grad then first + freed s c r true + c.rec'.gslots else min c.items (freed s c r false + c.rec'.slots))
    if w.told = now then s
    else
      let p := collPacket s 0x31 c.prevDev now.1 now.2 0 c.rank (ringChannel r.ring) false
      let s := (sendColl s c.prevDev [p]).getD s
      setRing s r.ring fun r => r.withFlow grad fun w => { w with told := now }

/-- Whether everything of a ring operation is done. -/
def ringDone (s : State) (c : RingCtx) (r : RingRun) : Bool :=
  r.blk.out.isEmpty && r.blk.arrived = c.items && freed s c r false = c.items &&
    (!r.backward || (r.grad.out.isEmpty && r.grad.arrived = c.items && r.handed = c.n * c.rec'.blocks))

/-- One round of everything ring control may do now. -/
def pumpRing (s : State) (ring : Nat) : State :=
  match ringCtx s ring, findRing s ring with
  | some c, some r =>
    let s := takeReleases (announce (announce s c false) c true) c
    let s := creditPrev s c false
    let s := if r.backward then creditPrev s c true else s
    match (pushRing s c false ((findRing s ring).elim [] (·.blk.out))).bind fun s =>
        pushRing s c true ((findRing s ring).elim [] (·.grad.out)) with
    | none => ringFail s ring 1
    | some s =>
      match findRing s ring with
      | some r => if ringDone s c r then settleReshard (endEntry (dropRing s r 0) r.entry true) else s
      | none => s
  | _, _ => s

/-- Every ring that runs: releases are taken whenever a consumer has given them (log 3). -/
def pumpRings (s : State) : State := (s.coll.rings.map (·.ring)).foldl pumpRing s

/-! ### Start -/

/-- The tiles of an owned block with their seals. -/
def ownBlock (s : State) (r : RingRec) (b : Nat) : List (List Byte × Word × Shape) :=
  (imageShapes r).mapIdx fun j sh =>
    (readLocal s (r.own + b * imageBytes r + tileOffset r j) (Shape.bytes sh),
      BitVec.ofNat 32 (unle (readLocal s (r.seals + 64 * b + 4 * j) 4)), sh)

/-- The first granule of the owned blocks that cannot be read. -/
def ownBad (s : State) (r : RingRec) : Option Nat :=
  (badGranule s r.own (r.blocks * imageBytes r)).or (badGranule s r.seals (64 * r.blocks))

def freshFlow : RingFlow := ⟨[], 0, 0, [], [], [], [], 0, (0, 0)⟩

/-- RING_FORWARD or RING_BACKWARD starts. -/
def startRing (s : State) (h entry : Nat) (d : List Byte) : State :=
  let ring := bits (dList d) 2 0
  match ringCtx s ring with
  | none => endAtStart s h entry 1
  | some c =>
    if (findRing s ring).isSome then endAtStart s h entry 1
    else if c.n = 1 then endAtStart s h entry 0
    else
      match ownBad s c.rec' with
      | some g => endAtStart (uncorrectable s g) h entry 1
      | none =>
        let run : RingRun := ⟨ring, h, entry, s.time, dOp d = 7, freshFlow, { freshFlow with limit := 0 },
          (purposeSems s (0x18 + ring)).map fun _ => 0, 0⟩
        let s := { s with coll := { s.coll with rings := s.coll.rings ++ [run] } }
        let s := touchRead (touchRead s c.rec'.own (c.rec'.blocks * imageBytes c.rec')) c.rec'.seals (64 * c.rec'.blocks)
        pumpRing ((List.range c.rec'.blocks).foldl (fun s b => queueItem s ring false b (ownBlock s c.rec' b)) s) ring

/-- A COLLECTIVE entry starts its operation on the engine or on ring control (R234). -/
def startCollective (s : State) (h entry : Nat) : State :=
  match findDef s h with
  | some c =>
    if dOp c.desc < 6 then startOp s h entry
    else
      let s := setDef s h fun d => { d with state := 1, outcome := 0, gen := dGen d.desc, step := s.job.step, sent := 0, received := 0, nf := none }
      if dGen c.desc ≠ s.coll.gen then endAtStart s h entry 6 else startRing s h entry c.desc
  | none => failEntry s entry

/-! ### What arrives -/

/-- The ring that a packet belongs to, when it comes from the neighbour that `fromPrev` says (R342). -/
def ringOf (s : State) (p : Packet) (fromPrev : Bool) : Option (RingCtx × RingRun) :=
  let ring := bits p.channel.toNat 2 0
  match ringCtx s ring, findRing s ring with
  | some c, some r =>
    let rank := if fromPrev then c.prevRank else (c.rank + 1) % c.n
    if current s p && p.channel.toNat = ringChannel ring && p.spec3.toNat = rank && c.members[rank]? = some p.sender then some (c, r) else none
  | _, _ => none

/-- The shape that tile `j` of an item must have; the extents are those of its header, and of a tile without a seal those of a whole tile. -/
def ringShape (c : RingCtx) (grad : Bool) (j : Nat) (p : Packet) : Shape :=
  let sh := shapeOf p.spec1.toNat
  let want := if grad then legendShape 0 else (imageShapes c.rec').getD j regShape
  if p.sealed then { want with rows := sh.rows, cols := sh.cols } else want

/-- Where tile `j` of an item lies in the slot it arrives in (R347, R350, R352). -/
def ringPlace (c : RingCtx) (grad : Bool) (q j : Nat) : Nat :=
  if grad then inSlot c.rec' (q - c.items) + 65536 * j else blockSlot c.rec' q + tileOffset c.rec' j

/-- Where tile `j` of an item lies at the predecessor, whose ring record is taken to lay its buffers out as this one does (log 131): an owned
block, the slot of a block that goes on, or an out-slot. -/
def ringSource (c : RingCtx) (grad : Bool) (q j : Nat) : Nat :=
  let r := c.rec'
  if grad then globalAddr 2 c.prevDev (outSlot r (q - c.items) + 65536 * j)
  else if q < r.blocks then globalAddr 1 c.prevDev (r.own + q * imageBytes r + tileOffset r j)
  else globalAddr 2 c.prevDev (blockSlot r (q - r.blocks) + tileOffset r j)

/-- An item is whole: a block goes on to the successor unless its origin is the successor (R349). -/
def itemWhole (s : State) (c : RingCtx) (grad : Bool) (q : Nat) : State :=
  let s := setRing s c.rec'.ring fun r => r.withFlow grad fun w =>
    { w with got := w.got ++ [q], parts := w.parts.filter fun x => x.1 ≠ q, asked := w.asked.filter fun x => x ≠ q }
  if grad || c.items < q + c.rec'.blocks + 1 then s
  else
    queueItem s c.rec'.ring false (q + c.rec'.blocks) ((imageShapes c.rec').mapIdx fun j sh =>
      let a := blockSlot c.rec' q + tileOffset c.rec' j
      let r := rd s.recs (slotAt a)
      (getSlots s (slotAt a) (Shape.slots sh), recSeal r, recShape r))

/-- What is kept of an item whose tile `j` of `count` has come: the next tile begins; after the last one of a sending that has failed, the item
begins anew (R104). -/
def nextTile (s : State) (ring : Nat) (grad : Bool) (q j count : Nat) : State :=
  setRing s ring fun r => r.withFlow grad fun w =>
    let rest := w.parts.filter fun x => x.1 ≠ q
    if j + 1 < count then { w with parts := (q, j + 1, 0, []) :: rest } else { w with parts := rest, redo := w.redo.filter fun x => x ≠ q }

/-- A tile of an item fails the arrival check of staging memory: the item is asked for once more, and what still comes of its first sending is
passed over; the second time the operation ends. -/
def ringSpoiled (s : State) (c : RingCtx) (r : RingRun) (grad : Bool) (q j count : Nat) (p : Packet) (sh : Shape) (bs : List Byte) : State :=
  if (r.flow grad).asked.contains q then
    let s := landBad s (ctlBase + ringPlace c grad q j) 0 sh bs p.spec0
    ringFail (logSeal s (sealRecord s (ringSource c grad q j) (unitId 3 c.rec'.die 0) p.spec0 (sealOf sh bs) 0 sh)) r.ring 2
  else
    let s := setRing s r.ring fun r => r.withFlow grad fun w => { w with asked := q :: w.asked, redo := q :: w.redo }
    let s := (sendColl s c.prevDev [collPacket s 0x33 c.prevDev q 0 0 c.rank (ringChannel r.ring) false]).getD s
    nextTile s r.ring grad q j count

/-- A whole tile of an item has come. -/
def ringTile (s : State) (c : RingCtx) (r : RingRun) (grad : Bool) (q j : Nat) (p : Packet) (bs : List Byte) : State :=
  let sh := ringShape c grad j p
  let count := if grad then gradTiles c.rec' else (imageShapes c.rec').length
  if (r.flow grad).redo.contains q then nextTile s r.ring grad q j count
  else
    match arrivalOk s p sh bs with
    | some crc =>
      let s := if (r.flow grad).asked.contains q && j + 1 = count then stepCount (countUp s cSealRetry 1) 10 else s
      let s := putTile s (slotAt (ringPlace c grad q j)) sh bs crc
      let s := setDef s r.handle fun d => { d with received := d.received + 1 }
      pumpRing (if j + 1 = count then itemWhole s c grad q else nextTile s r.ring grad q j count) r.ring
    | none => ringSpoiled s c r grad q j count p sh bs

/-- RING_BLOCK and RING_GRAD: a packet of a tile of an item. -/
def ringData (s : State) (p : Packet) (grad : Bool) : State :=
  match ringOf s p true with
  | none => stale s
  | some (c, r) =>
    let q := p.addr % 2 ^ 32
    let first := if grad then c.items else 0
    let w := r.flow grad
    if (grad && !r.backward) || q < first || first + c.items ≤ q || w.got.contains q || w.told.2 ≤ q then stale s
    else
      let (j, idx, old) := (w.parts.find? fun x => x.1 = q).elim (0, 0, []) (·.2)
      if p.index.toNat ≠ idx then s
      else
        let bs := old ++ p.payload
        if Shape.bytes (ringShape c grad j p) ≤ bs.length then ringTile s c r grad q j p bs
        else setRing s r.ring fun r => r.withFlow grad fun w =>
          { w with parts := (q, j, idx + 1, bs) :: w.parts.filter fun x => x.1 ≠ q }

/-- RING_CREDIT: one whose LIMIT lies above the block items speaks of gradient items (log 35). -/
def ringCredit (s : State) (p : Packet) : State :=
  match ringOf s p false with
  | none => stale s
  | some (c, r) =>
    let grad := r.backward && decide (c.items < p.spec0.toNat)
    let item := p.addr % 2 ^ 32
    let s := setRing s r.ring fun r => r.withFlow grad fun w =>
      { w with limit := max w.limit p.spec0.toNat, cred := max w.cred item, out := w.out.filter fun x => !(x.place.isSome && x.item < item) }
    pumpRing s r.ring

/-- RING_RESEND: the kept tiles of the item go again. -/
def ringResend (s : State) (p : Packet) : State :=
  match ringOf s p false with
  | none => stale s
  | some (c, r) =>
    let q := p.addr % 2 ^ 32
    let grad := decide (c.items ≤ q)
    let kept := (r.flow grad).out.filter fun x => x.item = q && x.place.isSome
    match kept.foldl (fun (s : Option State) x =>
        s.bind fun s => sendTile s (if grad then 0x32 else 0x30) c.nextDev c.rank (ringChannel r.ring) x) (some s) with
    | some s => if kept.isEmpty then stale s else s
    | none => ringFail s r.ring 1

/-! ### GRADIENT_HANDOFF (R352) -/

/-- Tile `j` of the image in an out-slot with its seal and shape, or the seal fault record: the source head record is compared before any byte
is sent (R100). Its extents are those it was written with. -/
def gradTile (s : State) (c : RingCtx) (h j : Nat) : Except (List Byte) (List Byte × Word × Shape) :=
  let a := outSlot c.rec' h + 65536 * j
  let r := rd s.recs (slotAt a)
  match recCheck r (legendShape 0) false with
  | none => .ok (getSlots s (slotAt a) 128, recSeal r, recShape r)
  | some k =>
    .error (sealRecord s (ctlBase + a) (unitId 3 c.rec'.die 0) (if k = 2 then 0 else recSeal r) 0 k (legendShape 0))

/-- The tiles of an out-slot, or the first record of a fault. -/
def gradImage (s : State) (c : RingCtx) (h : Nat) : Except (List Byte) (List (List Byte × Word × Shape)) :=
  (List.range (gradTiles c.rec')).mapM fun j => gradTile s c h j

/-- Takes a hand-off (R352): its image goes to the successor, but for those of the last step. -/
def gradientHandoff (s : State) (ring : Nat) : State :=
  match ringCtx s ring, findRing s ring with
  | some c, some r =>
    match purposeSems s (0x28 + ring) with
    | sem :: _ =>
      if !r.backward || r.handed = c.n * c.rec'.blocks || !ringHolds s c sem then s
      else
        let h := r.handed
        let s := setRing (ringTake s c sem) ring fun r => { r with handed := h + 1 }
        if c.items ≤ h then pumpRing s ring
        else
          match gradImage s c h with
          | .error q => ringFail (logSeal s q) ring 2
          | .ok tiles => pumpRing (queueItem s ring true (c.items + h) tiles) ring
    | [] => s
  | _, _ => s

/-- The oldest item that the successor has not credited fails as a transfer (R345). -/
def itemTimeout (s : State) (ring : Nat) : State :=
  match ringCtx s ring, (findRing s ring).bind fun r => (r.blk.out ++ r.grad.out).find? fun x => x.place.isSome with
  | some c, some x => ringFail (advance s (x.since + fabricLimit s c.nextDev)) ring 1
  | _, _ => s

def execGradientHandoff (ring : Nat) (s : State) : Out := onUnit ring 8 (.next (gradientHandoff s ring))

end Sys2Proof.Machine
end

