-- ==== Sys2Proof/Machine/JobCommands.lean ====
section
/-! DEFINITION. JobCommands.lean: the job-class and schedule-table commands (10_pipeline_sequencer.md, R225 to R232, R237). -/

namespace Sys2Proof.Machine

def stJobMalformed : Nat := 0x0601
def stJobState : Nat := 0x0602
def stJobMissing : Nat := 0x0603
def stJobStep : Nat := 0x0604

/-- Bits [47:0]. -/
def step48 : Nat := 2 ^ 48 - 1

/-! ### Schedule tables (R231) -/

def findTable (s : State) (num : Nat) : Option (List Entry) := (s.tables.find? fun t => t.1 = num).map (·.2)

/-- Whether the loaded job names a table. -/
def tableNamed (s : State) (num : Nat) : Bool := s.job.phase ≠ .idle && (s.job.schedule = num || s.job.swap = some num)

/-- SCHED_LOAD: a loaded table that the job names stays as it is (log 38). -/
def schedLoadBody (mb : Nat) (c : Cmd) (s : State) : State :=
  let num := c.arg0.toNat
  if !clean c 0xF 0 true || c.payload.length % 64 ≠ 0 then finish s mb c stMalformed
  else
    match tableBad c.payload with
    | some i => finish s mb c 0x0581 [] (BitVec.ofNat 64 i)
    | none =>
      if tableNamed s num && (findTable s num).isSome then finish s mb c 0x0582
      else finish { s with tables := (num, parseTable c.payload) :: s.tables.filter fun t => t.1 ≠ num } mb c 0

def execSchedLoad (mb : Nat) (tag : DWord) (s : State) : Out := mbCommand mb tag 5 0x10 (schedLoadBody mb) s

def schedDropBody (mb : Nat) (c : Cmd) (s : State) : State :=
  let num := c.arg0.toNat
  if !clean c 0xF 0 false then finish s mb c stMalformed
  else if (findTable s num).isNone then finish s mb c 0x0583
  else if tableNamed s num then finish s mb c 0x0582
  else finish { s with tables := s.tables.filter fun t => t.1 ≠ num } mb c 0

def execSchedDrop (mb : Nat) (tag : DWord) (s : State) : Out := mbCommand mb tag 5 0x11 (schedDropBody mb) s

/-! ### JOB_LOAD (R225 to R227) -/

/-- The stack contexts of a job: their top buffers follow one another in the die's top-buffer region in descriptor order (log 39). -/
def loadStacks (parts : List (List Nat)) (gs : List (Nat × Nat × List Nat)) (b : List Byte) : List Stack :=
  let vs := (validStacks b).map (·.2)
  vs.mapIdx fun i r =>
    let die := dieOfGroup gs (field r 2 2)
    let before := ((vs.take i).filter fun w => dieOfGroup gs (field w 2 2) = die).foldl (fun n w => n + field w 4 4) 0
    let region := ((parts.getD die []).take 3).foldl (· + ·) 0
    { num := field r 0 1, group := field r 2 2, die, topBase := die * 0x4000000 + region * 2 ^ 20 + before * 1024, topLen := field r 4 4 * 1024,
      bodyBase := field r 8 8, bodyLen := field r 0x10 8, spillBase := field r 0x18 8, spillLen := field r 0x20 8, dirBase := field r 0x28 8,
      dirCount := field r 0x30 4, high := field r 0x34 1, low := field r 0x35 1, frames := [], nextSeq := [], overflow := false,
      spilling := false, reqs := [], nextReq := 0 }

/-- The job that a descriptor's sections describe. -/
def parseJob (body : Nat → List Byte) : Job :=
  let p := body 1
  { Job.reset with
    phase := .loaded, seed := BitVec.ofNat 64 (field p 0 8), schedule := field p 8 1, vstages := field p 9 1, maxInFlight := field p 10 1,
    microBatches := field p 12 2, refLen := field p 0x10 4, slackUs := field p 0x14 4
    groups := (parseGroups (body 2)).map (·.2), partition := parsePartition (body 4), purposes := parsePurposes (body 5), modes := body 6,
    masks := body 7, grants := parseGrants (body 8) }

/-- A change of the protection that the module reports is an event (R386, R459). -/
def noteProtection (before : Nat) (s : State) : State := if protection s = before then s else event s 6 (protection s)

/-- The topology descriptor takes effect: device number, expected peers, routes, exposure, lists, rings (R293, R328). -/
def loadTopo (s : State) (b : List Byte) : State :=
  let fab := { s.fab with device := some (field b 8 4), topo := some (parseTopo b), routes := parseRoutes b }
  noteProtection (protection s) (announceNumber { resOf s (fun r => { r with pending := none }) with fab })

/-- A RESHARD that waits ends when another layout is loaded (log 40). -/
def dropReshard (s : State) : State :=
  match s.coll.pending with
  | some r => finishTag { s with coll := { s.coll with pending := none } } r.mb r.tag 0x0685
  | none => s

/-- JOB_LOAD puts a new job in the place of the old one. -/
def loadJob (s : State) (b : List Byte) (xs : List Sect) : State :=
  let body (t : Nat) : List Byte := sectBytes b (sectOf xs t)
  let job := parseJob body
  let s := dropReshard (endCollectives s)
  let s := { s with
    job
    stackSet := loadStacks job.partition (parseGroups (body 2)) (body 3)
    dieSems := List.replicate 2 (List.replicate 1024 0), hubSems := List.replicate 1024 0
    coll := { s.coll with gen := field (body 1) 0xE 2 }
    fab := { s.fab with msgCounts := List.replicate 64 0 }
    tel := { s.tel with stepRec := none, closed := [], nextSeq := 0 } }
  let s := { s with dram := s.stackSet.foldl (fun m st => eraseRun m st.dirBase (32 * st.dirCount)) s.dram }
  loadTopo s (body 9)

/-- Whether the job's state is one of a command's. -/
def jobIn (s : State) (ps : List JobState) : Bool := ps.contains s.job.phase

def jobLoadBody (mb : Nat) (c : Cmd) (s : State) : State :=
  if !clean c 0 0 true then finish s mb c stMalformed
  else if !jobIn s [.idle, .stopped, .held] then finish s mb c stJobState
  else
    match jobBad s c.payload, jobSects c.payload with
    | some o, _ => finish s mb c stJobMalformed [] (BitVec.ofNat 64 o)
    | none, .ok xs => finish (loadJob s c.payload xs) mb c 0
    | none, .error o => finish s mb c stJobMalformed [] (BitVec.ofNat 64 o)

def execJobLoad (mb : Nat) (tag : DWord) (s : State) : Out := mbCommand mb tag 6 1 (jobLoadBody mb) s

/-! ### JOB_START, JOB_SWAP (R228, R229, R232) -/

/-- Whether everything is there that the entries of a table name. -/
def tableReady (s : State) (t : List Entry) : Bool :=
  (t.all fun e =>
    if e.kind = 5 then (findDef s (e.program % 4096)).isSome
    else e.kind = 6 || (findProg s e.program).isSome) && t.all fun e => e.recompute = 0xFFFF || (findProg s e.recompute).isSome

/-- What keeps the job from running a table: status and RESULT0. -/
def tableStop (s : State) (num : Nat) : Option (Nat × Nat) :=
  match findTable s num with
  | none => some (stJobMissing, 0)
  | some t =>
    if !tableReady s t then some (stJobMissing, 0)
    else (t.findIdx? fun e => !entryFits s e).map fun i => (stJobMalformed, 64 * i)

/-- The step after the last committed one. -/
def nextStep (s : State) : Nat := s.res.committed.elim 0 (· + 1)

/-- The job starts, from LOADED with the length tables outside the window it opens discarded (R237): from LOADED the last committed step and both sides take the step before (R377). -/
def startJob (s : State) (n : Nat) : State :=
  let prev : Option Nat := if n = 0 then none else some (n - 1)
  let s := if s.job.phase = .loaded then
    resOf (jobOf s fun j => { j with lengths := j.lengths.filter fun l => n ≤ l.1 && l.1 < n + 8 }) fun r => { r with
      committed := prev, side0 := prev, side1 := prev, rollbacks := 0, ready := none, readys := [], decisions := [], asks := [], stalled := false }
    else s
  let s := resOf s fun r => { r with restored := false, replayFailed := false }
  startWalk s n

def jobStartBody (mb : Nat) (c : Cmd) (s : State) : State :=
  let n := c.arg0.toNat
  if !clean c step48 0 false then finish s mb c stMalformed
  else if !jobIn s [.loaded, .stopped, .held] then finish s mb c stJobState
  else
    match tableStop s (s.job.swap.getD s.job.schedule) with
    | some (st, r) => finish s mb c st [] (BitVec.ofNat 64 r)
    | none =>
      if s.res.lost ∨ (s.job.phase ≠ .loaded ∧ n ≠ nextStep s) then finish s mb c stJobStep
      else finish (startJob s n) mb c 0

def execJobStart (mb : Nat) (tag : DWord) (s : State) : Out := mbCommand mb tag 6 2 (jobStartBody mb) s

/-- JOB_SWAP: the table is checked as JOB_START checks it (log 41). -/
def jobSwapBody (mb : Nat) (c : Cmd) (s : State) : State :=
  let num := c.arg0.toNat
  if !clean c 0xF 0 false then finish s mb c stMalformed
  else if !jobIn s [.running, .stopped, .held, .loaded] then finish s mb c stJobState
  else
    match tableStop s num with
    | some (st, r) => finish s mb c st [] (BitVec.ofNat 64 r)
    | none => finish (jobOf s fun j => { j with swap := some num }) mb c 0

def execJobSwap (mb : Nat) (tag : DWord) (s : State) : Out := mbCommand mb tag 6 7 (jobSwapBody mb) s

/-! ### JOB_STOP, JOB_UNLOAD, JOB_STATUS -/

def jobStopBody (mb : Nat) (c : Cmd) (s : State) : State :=
  if !clean c 1 0 false then finish s mb c stMalformed
  else if c.arg0 = 0 then
    if !jobIn s [.running] then finish s mb c stJobState
    else finish (jobOf s fun j => { j with phase := .stopping }) mb c 0
  else if !jobIn s [.running, .stopping] then finish s mb c stJobState
  else failStep (finish s mb c 0) none

def execJobStop (mb : Nat) (tag : DWord) (s : State) : Out := mbCommand mb tag 6 3 (jobStopBody mb) s

/-- The job leaves: its groups, stacks, grants and tables are named no more. -/
def unloadJob (s : State) : State := { dropReshard (endCollectives s) with job := Job.reset, stackSet := [] }

def jobUnloadBody (mb : Nat) (c : Cmd) (s : State) : State :=
  if !clean c 0 0 false then finish s mb c stMalformed
  else if !jobIn s [.loaded, .stopped, .held] then finish s mb c stJobState
  else finish (unloadJob s) mb c 0

def execJobUnload (mb : Nat) (tag : DWord) (s : State) : Out := mbCommand mb tag 6 6 (jobUnloadBody mb) s

/-- JOB_STATUS: the manual does not give the block's layout (log 36). -/
def jobStatusBody (mb : Nat) (c : Cmd) (s : State) : State :=
  if !clean c 0 0 false then finish s mb c stMalformed
  else finish (bump s 1) mb c 0 (Config.jobStatus s.freeCount)

def execJobStatus (mb : Nat) (tag : DWord) (s : State) : Out := mbCommand mb tag 6 5 (jobStatusBody mb) s

/-! ### JOB_LENGTHS (R236, R237) -/

/-- Offset of the first entry of a length table that fails. -/
def lengthsBad (micro : Nat) (b : List Byte) : Option Nat :=
  match (records 4 (b.take (4 * micro))).find? fun r => field r.2 0 4 = 0 with
  | some r => some r.1
  | none => if b.length = 4 * micro then none else some (4 * min (b.length / 4) micro)

/-- Whether a length table for step `n` is taken now. -/
def lengthsTaken (s : State) (n : Nat) : Bool :=
  let j := s.job
  if j.phase = .loaded then (j.lengths.any fun l => l.1 = n) || j.lengths.length < 8
  else
    let first := if j.begun then j.step + 1 else j.step
    first ≤ n && n < first + 8

def jobLengthsBody (mb : Nat) (c : Cmd) (s : State) : State :=
  let n := c.arg0.toNat
  if !clean c step48 0 true then finish s mb c stMalformed
  else if jobIn s [.idle] then finish s mb c stJobState
  else
    match lengthsBad s.job.microBatches c.payload with
    | some o => finish s mb c stJobMalformed [] (BitVec.ofNat 64 o)
    | none =>
      if !lengthsTaken s n then finish s mb c stJobStep
      else
        let xs := (records 4 c.payload).map fun r => field r.2 0 4
        finish (jobOf s fun j => { j with lengths := (n, xs) :: j.lengths.filter fun l => l.1 ≠ n }) mb c 0

def execJobLengths (mb : Nat) (tag : DWord) (s : State) : Out := mbCommand mb tag 6 4 (jobLengthsBody mb) s

/-! ### TOPO_ROUTE (R324) -/

/-- Entries of the four route tables. -/
def routeSizes : List Nat := [32, 256, 16, 16]

def routeChecks (b : List Byte) : Checks :=
  eachRecord 16 b fun r =>
    [(0, field r 0 1 < 4), (1, field r 1 1 < nth routeSizes (field r 0 1)), (2, zeroAt r 2 6), (8, routeOk (field r 8 8))]

def topoRouteBody (mb : Nat) (c : Cmd) (s : State) : State :=
  if !clean c 0 0 true || c.payload.length % 16 ≠ 0 then finish s mb c stMalformed
  else
    match firstBad (routeChecks c.payload) with
    | some o => finish s mb c 0x0681 [] (BitVec.ofNat 64 o)
    | none =>
      let put (rt : List (List DWord)) (r : List Byte) : List (List DWord) :=
        rt.modify (field r 0 1) fun t => t.set (field r 1 1) (BitVec.ofNat 64 (field r 8 8))
      let routes := (records 16 c.payload).foldl (fun rt r => put rt r.2) s.fab.routes
      finish { s with fab := { s.fab with routes } } mb c 0

def execTopoRoute (mb : Nat) (tag : DWord) (s : State) : Out := mbCommand mb tag 6 0x20 (topoRouteBody mb) s

/-! ### COLL_DEFINE, COLL_DROP, COLL_STATUS (R333, R338, R343) -/

/-- Whether an operation is in progress. -/
def collBusy (s : State) (h : Nat) : Bool := (s.coll.runs.any fun r => r.handle = h) || s.coll.rings.any fun r => r.handle = h

/-- A tensor of an operation: R96, with its base in local HBM, local LPDDR or staging memory. -/
def collTensor (s : State) (x : Desc) : Bool :=
  let here (a n : Nat) : Bool :=
    if space a = 2 then device a = 0 && offset a + n ≤ 0x8000000 else isHere s a && freeRange s (offset a) n
  descOk x && (space x.base = 2 || isHere s x.base) && descPlaced x here

/-- The checks of R333. -/
def collOk (s : State) (d : List Byte) : Bool :=
  let op := dOp d
  let flags := field d 7 1
  let red := op = 1 || op = 3
  field d 0 2 < 4096 && 1 ≤ op && op ≤ 7 && dReduce d ≤ 3 && (dReduce d ≠ 0) == red &&
  (if 6 ≤ op then dList d < 8 && field d 6 1 = 0 else dList d < 256 && field d 6 1 ≤ 1) && flags < 8 && zeroAt d 0x16 2 && zeroAt d 0x60 32 &&
  collTensor s (dIn d) && collTensor s (dOut d) &&
  (op = 5 || ((dIn d).legend = (dOut d).legend && (dIn d).tr = (dOut d).tr && (dIn d).tc = (dOut d).tc)) &&
  (op ≠ 5 || dIn d ≠ dOut d) && (!red || (dIn d).fmt = 0) && (!dMasked d || dLayers d = 1) && (!dParam d || op = 2)

def collDefineBody (mb : Nat) (c : Cmd) (s : State) : State :=
  let ds := (records 128 c.payload).map (·.2)
  if !clean c 0 0 true || c.payload.length % 128 ≠ 0 then finish s mb c stMalformed
  else
    match ds.findIdx? fun d => !collOk s d with
    | some i => finish s mb c 0x0682 [] (BitVec.ofNat 64 i)
    | none =>
      if ds.any fun d => collBusy s (field d 0 2) then finish s mb c 0x0683
      else
        let put (defs : List CollDef) (d : List Byte) : List CollDef :=
          ⟨field d 0 2, d, 0, 0, 0, 0, 0, 0, none⟩ :: defs.filter fun x => x.handle ≠ field d 0 2
        finish { s with coll := { s.coll with defs := ds.foldl put s.coll.defs } } mb c 0

def execCollDefine (mb : Nat) (tag : DWord) (s : State) : Out := mbCommand mb tag 6 0x22 (collDefineBody mb) s

def collDropBody (mb : Nat) (c : Cmd) (s : State) : State :=
  let h := c.arg0.toNat
  if !clean c 0xFFF 0 false then finish s mb c stMalformed
  else if (findDef s h).isNone then finish s mb c 0x0684
  else if collBusy s h || s.tables.any (fun t => t.2.any fun e => e.kind = 5 && e.program % 4096 = h) then finish s mb c 0x0683
  else finish { s with coll := { s.coll with defs := s.coll.defs.filter fun d => d.handle ≠ h } } mb c 0

def execCollDrop (mb : Nat) (tag : DWord) (s : State) : Out := mbCommand mb tag 6 0x23 (collDropBody mb) s

/-- The 32 bytes of an operation's status (R338). -/
def collStatusBytes (d : CollDef) : List Byte :=
  let nf := d.nf.getD (0xFFFFFFFF, 0, 0)
  le 2 d.handle ++ le 1 d.state ++ le 1 (if d.state = 2 then d.outcome else 0) ++ le 2 d.gen ++ zeros 2 ++ le 8 d.step ++ le 4 d.sent ++
    le 4 d.received ++ le 4 nf.1 ++ le 1 nf.2.1 ++ le 1 nf.2.2 ++ zeros 2

def collStatusBody (mb : Nat) (c : Cmd) (s : State) : State :=
  if !clean c 0xFFF 0 false then finish s mb c stMalformed
  else
    match findDef s c.arg0.toNat with
    | some d => finish s mb c 0 (collStatusBytes d)
    | none => finish s mb c 0x0684

def execCollStatus (mb : Nat) (tag : DWord) (s : State) : Out := mbCommand mb tag 6 0x25 (collStatusBody mb) s

/-! ### RESHARD, GEN_INSTALL (R344) -/

/-- The member lists of a RESHARD payload: everything before its ring records, of which there are as many as the topology holds (log 42). -/
def reshardLists : Nat → List Byte → Nat → Nat → List (Nat × MemberList) → Option (List (Nat × MemberList))
  | 0, _, _, _, _ => none
  | fuel + 1, b, stop, o, acc =>
    if o = stop then some acc
    else
      match parseLists (b.take stop) 1 o [] with
      | .ok ([x], o') => reshardLists fuel b stop o' (acc ++ [x])
      | _ => none

/-- The parts of a RESHARD payload: lists with their offsets, and where the ring records begin. -/
def reshardParts (s : State) (b : List Byte) : Option (List (Nat × MemberList) × Nat) :=
  let n := 64 * s.fab.topo.elim 0 fun t => t.rings.length
  if b.length < n then none else (reshardLists 257 b (b.length - n) 0 []).map fun xs => (xs, b.length - n)

/-- The checks of R331 that concern lists and rings. -/
def reshardChecks (s : State) (b : List Byte) : Checks :=
  match reshardParts s b with
  | none => [(0, false)]
  | some (lists, o) =>
    let sizes := s.job.partition.map fun p => nth p 0
    let t7 := s.fab.topo.elim [] (·.t7)
    let rings := (records 64 (b.drop o)).map fun r => (o + r.1, r.2)
    let known := (s.fab.topo.elim [] (·.rings)).map (·.ring)
    (lists.flatMap fun l => listChecks b (s.fab.device.getD 0) t7 l.1 l.2) ++ distinct (lists.map fun l => (l.1, l.2.num)) ++
    (rings.flatMap fun r => shiftBy r.1 (ringChecks sizes (lists.map (·.2)) r.2)) ++ distinct (rings.map fun r => (r.1, field r.2 0 1)) ++
    rings.map fun r => (r.1, known.contains (field r.2 0 1))

/-- Every operation in progress ends with outcome DISCARDED, and its entry has failed. -/
def discardAll (s : State) : State :=
  let ended (s : State) (entry : Nat) : State := setEntry s entry fun x => { x with phase := .failed }
  let s := s.coll.runs.foldl (fun s r => ended (abortRun s r 4) r.entry) s
  s.coll.rings.foldl (fun s r => ended (abortRing s r 4) r.entry) s

/-- The entry that a step ended by RESHARD with DISCARD reports: that of the first operation discarded; of a step in RUNNING that had none, none
(log 42). -/
def discardedEntry (s : State) : Option Nat :=
  match (s.coll.runs.map (·.entry) ++ s.coll.rings.map (·.entry)).head? with
  | some e => if s.job.walk = [] then none else some e
  | none => if s.job.phase = .running then some 0xFFFF else none

/-- RESHARD: with DISCARD the step of a RUNNING job fails even where no operation was in progress (log 42). -/
def reshardBody (mb : Nat) (c : Cmd) (s : State) : State :=
  let gen := bits c.arg0.toNat 15 0
  if !clean c 0x1FFFF 0 true then finish s mb c stMalformed
  else if jobIn s [.idle] then finish s mb c stJobState
  else
    match firstBad (reshardChecks s c.payload), reshardParts s c.payload with
    | some o, _ => finish s mb c 0x0681 [] (BitVec.ofNat 64 o)
    | none, none => finish s mb c 0x0681
    | none, some (lists, o) =>
      if gen ≠ (s.coll.gen + 1) % 65536 || s.coll.pending.isSome then finish s mb c 0x0685
      else
        let r : Reshard := ⟨mb, c.tag, gen, lists.map (·.2), (records 64 (c.payload.drop o)).map fun x => parseRing x.2⟩
        if bit c.arg0.toNat 16 then
          let t := installReshard (markStarted (discardAll s) mb c.tag []) r
          (discardedEntry s).elim t fun e => failStep t (some e)
        else settleReshard (markStarted { s with coll := { s.coll with pending := some r } } mb c.tag [])

def execReshard (mb : Nat) (tag : DWord) (s : State) : Out := mbCommand mb tag 6 0x24 (reshardBody mb) s

/-- GEN_INSTALL: outside a running walk a pending generation is installed once nothing of the old one is in progress. -/
def execGenInstall (s : State) : Out := .next (settleReshard s)

end Sys2Proof.Machine
end

