-- ==== Sys2Proof/Machine/Transactions.lean ====
section
/-! DEFINITION. Transactions.lean: packets as they arrive at this module: checks, forwarding, what a destination serves, what a source makes
of its answers (13_ewete_fabric.md, R301 to R327). -/

namespace Sys2Proof.Machine

/-! ### Answers (R305, R308 to R312) -/

/-- Sends a response; one that finds no way is discarded and counted (R322). Without a device number an answer goes back on the port the
request came from. -/
def reply (s : State) (req : Packet) (ps : List Packet) : State :=
  if s.fab.device.isNone then sendOn s req.port ps
  else
    match pickPort s req.sender 1 with
    | some port => sendOn s port ps
    | none => fabCount s 4 1

/-! ### Arrival (R301 to R307, R321 to R324) -/

/-- Whether the packet came over a near link of version 1. -/
def onV1 (s : State) (p : Packet) : Bool := p.port < 36 && (nearAt s p.port).version = 1

/-- Whether a packet stands in the ingress buffer. -/
def inIngress (s : State) (p : Packet) : Bool := s.fab.ingress.any fun e => e.2 = p

/-- The packet leaves the ingress buffer of its port: one of VC0 or for another module returns its room in a far port's pool (R363). -/
def takeIngress (s : State) (p : Packet) : State :=
  let pooled := 64 ≤ p.port && inIngress s p && (vcOf p.type = 0 || some p.target ≠ s.fab.device)
  let s := if pooled then setFar s (p.port - 64) fun x => { x with pool := x.pool + 48 + p.payload.length } else s
  { s with fab := { s.fab with ingress := s.fab.ingress.eraseP fun e => e.2 = p } }

/-- Sends a packet on that is for another module. All packets of a transaction take the port of its first (R306, R322). -/
def forward (s : State) (p : Packet) : State :=
  if p.hops = 0 then roomBack (fabCount s 1 1) p
  else
    let q := { p with hops := p.hops - 1 }
    let known := if p.index = 0 then none else (s.fab.flows.find? fun f => f.1 = flowKey p).map (·.2)
    match known.or (pickPort s p.target (vcOf p.type)) with
    | some port =>
      let flows := (flowKey p, port) :: s.fab.flows.filter fun f => f.1 ≠ flowKey p
      sendOn { s with fab := { s.fab with flows } } port [q]
    | none => replyErr (roomBack (fabCount s 4 1) p) p rUnreachable

/-- What the router makes of a packet that has arrived. -/
def route (p : Packet) (serve : State → State) (s : State) : State :=
  if !packetOk p then roomBack (fabCount s 0 1) p
  else if onV1 s p && !v1Ok s p then replyErr (roomBack (fabCount s 3 1) p) p rMalformed
  else
    match s.fab.device with
    | none => replyErr (roomBack s p) p rNoDevice
    | some own => if p.target ≠ own then forward s p else serve (roomBack s p)

/-- A packet of type `t` arrives: `serve` is what this module does with one that is its own. A packet of another type, or one at a near port
that does not carry traffic and has not delivered it, is no such event. -/
def arrive (t : Byte) (p : Packet) (serve : State → State) (s : State) : Out :=
  .next <|
    let s := if p.port < 36 then endWindow s p.port else s
    if p.type ≠ t || (p.port < 36 && (nearAt s p.port).state ≠ .up && !inIngress s p) then s
    else route p serve (takeIngress s p)

/-- Whether a request of another module names memory on a channel that a survey window holds: it waits in its buffer (R253). -/
def heldRequest (s : State) (p : Packet) (n : Nat) : Bool := some p.target = s.fab.device && heldRange s p.addr n

/-- A request arrives, and is served once its memory serves. -/
def arriveAt (t : Byte) (p : Packet) (n : Nat) (serve : State → State) (s : State) : Out :=
  if heldRequest s p n then .next s else arrive t p serve s

/-! ### What a destination serves (R309 to R313) -/

/-- Whether a source lies in the scope of an exposure range. -/
def inScope (s : State) (scope src : Nat) : Bool :=
  let own := s.fab.device.getD 0
  match scope with
  | 0 => true
  | 1 => siteOf src = siteOf own
  | 2 => siteOf src = siteOf own && groupOf src = groupOf own
  | _ => siteOf src = siteOf own && groupOf src = groupOf own && cellOf src = cellOf own

/-- Vault slots (R264). -/
def vaultRanges : List (Nat × Nat) := [(0x16800000000, 0x1800000000), (0x1E800000000, 0x1800000000)]

/-- Whether a request of a source for `n` bytes is admitted: PERM bit `k` is 0 read, 1 write, 2 atomic. The vault is the partner's. -/
def exposed (s : State) (p : Packet) (a n k : Nat) : Bool :=
  let inside (r : Nat × Nat) : Bool := r.1 ≤ a && a + n ≤ r.1 + r.2
  let range := s.fab.topo.any fun t => t.exposure.any fun e => inside (e.base, e.len) && bit e.perm k && inScope s e.scope p.sender
  (range && !touches (reservedRanges s) a n) || (k ≠ 2 && p.priv && partner s = some p.sender && vaultRanges.any inside)

/-- Why a destination refuses `n` bytes at `a`, RANGE before ACCESS. -/
def refuses (s : State) (p : Packet) (a n k : Nat) : Option Nat :=
  if !localExists s a n then some rRange
  else if !exposed s p a n k then some rAccess
  else if p.sealed && !exposed s p (bits p.spec2.toNat 40 0) 4 k then some rAccess
  else none

/-- RD_REQ (R308). SEAL_HDR echoes the request's own field (log 26). -/
def serveRead (s : State) (p : Packet) : State :=
  let n := 64 * p.total
  let fail (s : State) (st : Nat) : State := reply s p [answer s p tRdData st]
  if p.total = 0 || 1024 < p.total then fail s rMalformed
  else
    match refuses s p p.addr n 0 with
    | some st => fail s st
    | none =>
      let sealAddr := bits p.spec2.toNat 40 0
      match (badGranule s p.addr n).or (if p.sealed then badGranule s sealAddr 4 else none) with
      | some _ => fail (if (badGranule s p.addr n).isSome then uncorrectables s p.addr n else uncorrectables s sealAddr 4) rMemory
      | none =>
        let s := touchRead s p.addr n
        let q := answer s p tRdData rOk
        let q := if p.sealed then
          { q with flags := 2, spec0 := BitVec.ofNat 32 (unle (readLocal s sealAddr 4)), spec1 := p.spec1 } else q
        reply s p (dataPackets s q (readLocal s p.addr n))

def execRdReq (p : Packet) (s : State) : Out := arriveAt tRdReq p (64 * p.total) (fun s => serveRead s p) s

def sameWrite (p : Packet) (e : WrEntry) : Bool := e.src = p.src && e.tag = p.tag

def dropEntry (s : State) (p : Packet) : State :=
  { s with fab := { s.fab with entries := s.fab.entries.filter fun e => !sameWrite p e } }

/-- The whole of a write has come (R309). -/
def endWriteTx (s : State) (p : Packet) (e : WrEntry) : State :=
  let n := 64 * e.total
  let ack (s : State) (st : Nat) : State := reply s p [{ answer s p tWrAck st with address := BitVec.ofNat 64 e.addr }]
  let s := dropEntry s p
  if deadRange s e.addr n then ack s rMemory
  else if !e.sealed then ack s rOk
  else
    let sh := shapeOf e.header
    let got := sealOf sh (readLocal s e.addr n)
    if got = e.crc then ack (writeLocal s e.sealAddr (le 4 e.crc.toNat)) rOk
    else if !e.resend then ack s rResend
    else
      let s := logSeal s (sealRecord s e.addr (memUnit s (physOf s e.addr)) e.crc got 0 sh)
      ack (writeLocal s e.sealAddr (le 4 (~~~e.crc).toNat)) rSeal

/-- The bytes of one WR packet of a transaction that has an entry. -/
def writePacket (s : State) (p : Packet) (e : WrEntry) : State :=
  if p.addr < e.addr || e.addr + 64 * e.total < p.addr + p.payload.length then s
  else
    let e := { e with got := e.got + p.payload.length, last := s.time }
    let s := writeLocal s p.addr p.payload
    if 64 * e.total ≤ e.got then endWriteTx s p e
    else
      let s := dropEntry s p
      { s with fab := { s.fab with entries := s.fab.entries ++ [e] } }

/-- WR (R309, R310). -/
def serveWrite (s : State) (p : Packet) : State :=
  let fail (s : State) (st : Nat) : State := reply s p [answer s p tWrAck st]
  let die := min 1 (portDie p.port)
  if p.index = 0 then
    let s := dropEntry s p
    if p.total = 0 || 1024 < p.total then fail s rMalformed
    else
      match refuses s p p.addr (64 * p.total) 1 with
      | some st => fail s st
      | none =>
        if 16384 ≤ (s.fab.entries.filter fun e => e.die = die).length then fail s rBusy
        else writePacket s p
          ⟨p.src, p.tag, p.addr, p.total, 0, p.sealed, p.spec0, p.spec1.toNat, bits p.spec2.toNat 40 0, p.resend, s.time, die⟩
  else
    match s.fab.entries.find? (sameWrite p) with
    | some e => writePacket s p e
    | none => s

def execWr (p : Packet) (s : State) : Out := arriveAt tWr p p.payload.length (fun s => serveWrite s p) s

/-- AT_REQ (R311). -/
def serveAtomic (s : State) (p : Packet) : State :=
  let fail (s : State) (st : Nat) : State := reply s p [answer s p tAtResp st]
  let aop := p.spec0.toNat
  if p.addr % 8 ≠ 0 || 8 ≤ aop || p.payload.length ≠ 16 then fail s rMalformed
  else
    match refuses s { p with flags := 0 } p.addr 8 2 with
    | some st => fail s st
    | none =>
      match badGranule s p.addr 8 with
      | some g => fail (uncorrectable s g) rMemory
      | none =>
        let (old, s) := atomLocal s p.addr aop p.payload
        reply s p [{ answer s p tAtResp rOk with payload := old }]

def execAtReq (p : Packet) (s : State) : Out := arriveAt tAtReq p 8 (fun s => serveAtomic s p) s

/-- MSG (R312): any source may send one. -/
def serveMsg (s : State) (p : Packet) : State :=
  if p.payload.length ≠ 128 then reply s p [answer s p tMsgAck rMalformed]
  else
    match deliver s (bits p.addr 5 0) p.payload with
    | some s => reply s p [answer s p tMsgAck rOk]
    | none => reply s p [answer s p tMsgAck rFull]

def execMsgPacket (p : Packet) (s : State) : Out := arrive tMsg p (fun s => serveMsg s p) s

/-! ### What a source makes of an answer (R308 to R316, R325) -/

/-- A vault copy that has ended between `before` and `s` may have been the last thing that kept this module from being ready (R381). -/
def copySettles (before s : State) : State := if before.res.copy.isSome && s.res.copy.isNone then pumpReady s else s

/-- A transaction ends: its tag retires and its owner learns the status. -/
def endTx (s : State) (t : Tx) (st : Nat) (bs : List Byte) (crc : Word) : State :=
  let before := s
  let s := dropTx (retireTag s t) t.id
  let s := match t.owner with
    | .move c id => moveStatus s c id st bs crc
    | .copy mb tag => if st = rOk then copyDone s mb tag bs else failOwner s t.owner st
    | .res k => if st = rOk then s else vaultLost s k
    | .vault n phase => if st = rOk then s else vaultWriteFails s n phase
    | .restore mb tag => if st = rOk then readAnswered s mb tag bs else restoreFails s mb tag
  copySettles before (pumpTx s)

/-- The outstanding transaction that a response answers; a response that answers none is counted as late (R325). -/
def answered (s : State) (p : Packet) (kind : Option TxKind) : Option Tx :=
  s.fab.txs.find? fun t =>
    t.wait = .response && t.dst = p.sender && t.domain = p.domain && t.label = p.label && (kind.isNone || kind = some t.kind)

def onAnswer (s : State) (p : Packet) (kind : Option TxKind) (k : Tx → State) : State :=
  match answered s p kind with
  | some t => k t
  | none => countUp s cLate 1

/-- A seal that matches on the retry is counted (R104). -/
def countRetry (s : State) (t : Tx) : State := if t.resent && t.sealed then stepCount (countUp s cSealRetry 1) 10 else s

/-- RD_DATA: data in address order, checked when whole. -/
def takeData (s : State) (p : Packet) (t : Tx) : State :=
  if p.status ≠ rOk then endTx s t p.status [] 0
  else
    let got := t.got ++ p.payload
    if got.length < 64 * t.total then setTx s t.id fun t => { t with got }
    else
      let bs := got.take (64 * t.total)
      let fine := !t.sealed || isT7 s t.dst || sealOf (shapeOf t.shape) bs = p.spec0
      if !fine && !t.resent then repeatTx s t true
      else endTx (if fine then countRetry s t else s) t rOk bs p.spec0

def execRdData (p : Packet) (s : State) : Out := arrive tRdData p (fun s => onAnswer s p (some .read) (takeData s p)) s

/-- Puts a transaction aside until it goes again, with a new tag. -/
def waitAgain (s : State) (t : Tx) (w : TxWait) (gap : Nat) : State :=
  setTx (retireTag s t) t.id fun t => { t with wait := w, retry := s.time + gap }

def takeWrAck (s : State) (p : Packet) (t : Tx) : State :=
  if p.status = rResend && !t.resent then repeatTx s t true
  else if p.status = rBusy then waitAgain s t .busy 2000
  else endTx (if p.status = rOk then countRetry s t else s) t p.status [] t.crc

def execWrAck (p : Packet) (s : State) : Out := arrive tWrAck p (fun s => onAnswer s p (some .write) (takeWrAck s p)) s

def execAtResp (p : Packet) (s : State) : Out :=
  arrive tAtResp p (fun s => onAnswer s p (some .atomic) fun t => endTx s t p.status (p.payload.take 8) 0) s

def takeMsgAck (s : State) (p : Packet) (t : Tx) : State :=
  if p.status = rFull then waitAgain s t .full 10000 else endTx s t p.status [] 0

def execMsgAck (p : Packet) (s : State) : Out := arrive tMsgAck p (fun s => onAnswer s p (some .message) (takeMsgAck s p)) s

/-- ERR answers any request. -/
def execErr (p : Packet) (s : State) : Out :=
  arrive tErr p (fun s => onAnswer s p none fun t => endTx s t (if p.status = rOk then rMalformed else p.status) [] 0) s

/-! ### Time (R307, R310, R312, R314, R326, R327) -/

/-- PACKET_HOLD_EXPIRY: a packet held for 20 µs is discarded. -/
def packetExpires (s : State) (p : Packet) : State :=
  match s.fab.egress.find? fun e => e.2.2 = p with
  | some e =>
    let s := advance s (e.2.1 + 20000)
    roomBack (fabCount { s with fab := { s.fab with egress := s.fab.egress.erase e } } 2 1) p
  | none =>
    match s.fab.ingress.find? fun e => e.2 = p with
    | some e => roomBack (fabCount (takeIngress (advance s (e.1 + 20000)) p) 2 1) p
    | none => s

def execPacketHoldExpiry (p : Packet) (s : State) : Out := .next (packetExpires s p)

/-- FABRIC_TIMEOUT (R314): counted from the first sending of a transaction, or from its beginning where it still waits to be sent. -/
def fabricTimeout (s : State) (id : Nat) : State :=
  match findTx s id with
  | some t => endTx (advance s (t.since.getD t.born + if t.far then 25000000 else fabricLimit s t.dst)) t rTimeout [] 0
  | none => s

/-- FABRIC_TIMEOUT of a transaction, of a tile of an operation, or of an item of a ring. -/
def timesOut (s : State) : Awaited → State
  | .tx id => fabricTimeout s id
  | .tile h rank => tileTimeout s h rank
  | .item ring => itemTimeout s ring

def execFabricTimeout (what : Awaited) (s : State) : Out := .next (timesOut s what)

/-- A transaction that was put aside goes again. -/
def sendAgain (s : State) (id : Nat) (w : TxWait) : State :=
  match findTx s id with
  | some t => if t.wait = w then tryTx (setTx (advance s t.retry) id fun t => { t with wait := .tag, got := [] }) id else s
  | none => s

def execBusyResend (tx : Nat) (s : State) : Out := .next (sendAgain s tx .busy)
def execMsgRetry (tx : Nat) (s : State) : Out := .next (sendAgain s tx .full)

/-- WRITE_ENTRY_RELEASE: an entry without a packet for 10 ms. -/
def execWriteEntryRelease (src tag : Word) (s : State) : Out :=
  .next <|
    match s.fab.entries.find? fun e => e.src = src && e.tag = tag with
    | some e =>
      let s := advance s (e.last + 10000000)
      fabCount { s with fab := { s.fab with entries := s.fab.entries.filter fun x => x ≠ e } } 5 1
    | none => s

/-- Whether the sweep of generation `g` may start (R326). -/
def sweepOpen (s : State) (domain g : Nat) : Bool :=
  let old := (domAt s domain).gens.getD g (0, 0)
  !(s.fab.txs.any fun t => t.domain = domain && t.since.isSome && t.label / 65536 = g && t.label % 65536 < 0xF000 && t.wait = .response) &&
    (old.2 = 0 || old.1 + old.2 < s.time)

def tagSweepStart (s : State) (domain : Nat) : State :=
  let g := ((domAt s domain).gen + 1) % 16
  if (domAt s domain).active || !sweepOpen s domain g then s
  else pumpTx (setDom s domain fun x => { x with active := true, gen := g, next := 0, gens := x.gens.set g (0, 0) })

def execTagSweepStart (domain : Nat) (s : State) : Out := onUnit domain 3 (.next (tagSweepStart s domain))

def t7TagEnds (s : State) (domain tag : Nat) : State :=
  match (domAt s domain).quar.find? fun q => q.1 = tag with
  | some q =>
    let s := advance s (q.2.1 + q.2.2 + 1)
    pumpTx (setDom s domain fun x => { x with quar := x.quar.filter fun y => y.1 ≠ tag })
  | none => s

def execT7TagQuarantineEnd (domain tag : Nat) (s : State) : Out := onUnit domain 3 (.next (t7TagEnds s domain tag))

/-! ### Collective and ring packets (R337 to R345, R350, R352) -/

def execColData (p : Packet) (s : State) : Out := arrive 0x20 p (fun s => colData s p) s
def execColCredit (p : Packet) (s : State) : Out := arrive 0x21 p (fun s => colCredit s p) s
def execColResend (p : Packet) (s : State) : Out := arrive 0x22 p (fun s => colResend s p) s
def execColCounts (p : Packet) (s : State) : Out := arrive 0x23 p (fun s => colCounts s p) s

/-- COL_ABORT ends the operation or ring PEER_ABORT. -/
def abortArrives (s : State) (p : Packet) : State :=
  if bit p.channel.toNat 15 then
    match (ringOf s p true).or (ringOf s p false) with
    | some (_, r) => ringFail s r.ring 5
    | none => stale s
  else colAbort s p

def execColAbort (p : Packet) (s : State) : Out := arrive 0x24 p (fun s => abortArrives s p) s
def execRingBlock (p : Packet) (s : State) : Out := arrive 0x30 p (fun s => ringData s p false) s
def execRingCredit (p : Packet) (s : State) : Out := arrive 0x31 p (fun s => ringCredit s p) s
def execRingGrad (p : Packet) (s : State) : Out := arrive 0x32 p (fun s => ringData s p true) s
def execRingResend (p : Packet) (s : State) : Out := arrive 0x33 p (fun s => ringResend s p) s

/-- COLL_LIMIT_EXPIRY: LIMIT_MS has passed since the operation started (R345). -/
def collLimit (s : State) (h : Nat) : State :=
  let limit := (findDef s h).elim 0 fun d => dLimit d.desc
  if limit = 0 then s
  else
    match findRun s h, s.coll.rings.find? fun r => r.handle = h with
    | some r, _ => collFail (advance s (r.start + limit * 1000000)) h 3
    | none, some r => ringFail (advance s (r.start + limit * 1000000)) r.ring 3
    | none, none => s

def execCollLimitExpiry (handle : Nat) (s : State) : Out := .next (collLimit s handle)

end Sys2Proof.Machine
end

