-- ==== Sys2Proof/Machine/Images.lean ====
section
/-! DEFINITION. Images.lean: snapshot images, vault slots and the vault's messages, flash snapshots (16_resilience.md, R387 to R400). -/

namespace Sys2Proof.Machine

/-! ### Runs of sparse memories -/

/-- The cells of `n` addresses from `a` on, moved to address `o`. -/
def cutCells (m : Mem) (a n o : Nat) : Mem := (m.filter fun c => a ≤ c.1 && c.1 < a + n).map fun c => (c.1 - a + o, c.2)

/-- Puts cells that lie from `a` to `a + n` in the place of what stood there. -/
def pasteCells (m : Mem) (a n : Nat) (cells : Mem) : Mem :=
  m.filter (fun c => c.1 < a) ++ cells.filter (fun c => a ≤ c.1 && c.1 < a + n) ++ m.filter fun c => a + n ≤ c.1

/-- The bytes of a range of local offsets as cells from `o` on. -/
def takeLocal (s : State) (a n o : Nat) : Mem :=
  ((pieces s a n).foldl (fun (t : Mem × Nat) p => (t.1 ++ cutCells s.dram p.1 p.2 t.2, t.2 + p.2)) ([], o)).1

/-- Writes `n` bytes of cells, from `o` on, over a range of local offsets; a failed channel takes none of its own (R255). -/
def putLocal (s : State) (a n : Nat) (cells : Mem) (o : Nat) : State :=
  ((pieces s a n).foldl (fun (t : State × Nat) p =>
    let mine := (cutCells cells t.2 p.2 p.1).filter fun c => !deadAt t.1 c.1
    (clearPoison { t.1 with dram := pasteCells t.1.dram p.1 p.2 mine } p.1 p.2, t.2 + p.2)) (markDirty s a n, o)).1

/-! ### Images (R392 to R394) -/

/-- First byte of the data, of the set entries, of the digest table; bytes of a chunk. -/
def imgData : Nat := 0x200000
def imgSets : Nat := 0x1000
def imgDigests : Nat := 0x9000
def chunkBytes : Nat := 0x4000000

def chunksOf (len : Nat) : Nat := (len + chunkBytes - 1) / chunkBytes

/-- A set entry of an image. -/
structure ImgSet where
  num    : Nat
  layer  : Nat
  layers : Nat
  len    : Nat
  off    : Nat
  first  : Nat
  chunks : Nat
  deriving DecidableEq, Repr

/-- Where the sets of a configuration lie in an image. -/
def placeSets : List WSet → Nat → Nat → List ImgSet
  | [], _, _ => []
  | w :: ws, off, first =>
    ⟨w.num, w.layer, w.layers, w.len, off, first, chunksOf w.len⟩ :: placeSets ws (off + w.len) (first + chunksOf w.len)

/-- The digest of chunk `k` of a set, over the image's bytes. -/
def chunkDigest (img : Mem) (x : ImgSet) (k : Nat) : List Byte :=
  sha384 (readRun img (x.off + k * chunkBytes) (min chunkBytes (x.len - k * chunkBytes)))

def shardRoot (x : ImgSet) (step : Nat) (digests : List Byte) : List Byte :=
  sha384 (ascii "TK9-SHARD" ++ le 2 x.num ++ le 8 x.len ++ le 8 step ++ digests)

/-- The 128 bytes of a set entry. -/
def setEntryBytes (x : ImgSet) (root : List Byte) : List Byte :=
  le 2 x.num ++ zeros 2 ++ le 2 x.layer ++ le 2 x.layers ++ le 8 x.len ++ le 8 x.off ++ le 4 x.first ++ le 4 x.chunks ++ root ++ zeros 48

/-- What an image's header says of its making: step, data position, seed, generation, kind, time. -/
structure ImgHead where
  step : Nat
  pos  : DWord
  seed : DWord
  gen  : Nat
  kind : Nat
  time : Nat

/-- Bytes 0x000 to 0x04F of the header. -/
def headBytes (s : State) (h : ImgHead) (sets chunks : Nat) : List Byte :=
  ascii "TK9-SNP1" ++ le 4 1 ++ le 4 sets ++ le 8 h.step ++ le 8 h.pos.toNat ++ le 8 h.seed.toNat ++ le 4 (s.fab.device.getD 0) ++ le 2 h.gen ++
    le 1 h.kind ++ [0] ++ serialBytes ++ le 8 h.time ++ le 4 chunks ++ zeros 4

/-- The data of an image: every set's side that holds step `n`. -/
def imageData (s : State) (sets : List WSet) (n : Nat) : Mem :=
  ((sets.zip (placeSets sets imgData 0)).flatMap fun p => takeLocal s (if n % 2 = 0 then p.1.side0 else p.1.side1) p.1.len p.2.off)

/-- The whole image of committed step `h.step`: manifest and data. -/
def buildImage (s : State) (sets : List WSet) (h : ImgHead) : Mem :=
  let xs := placeSets sets imgData 0
  let data := imageData s sets h.step
  let digests (x : ImgSet) : List Byte := (List.range x.chunks).flatMap (chunkDigest data x)
  let roots := xs.map fun x => shardRoot x h.step (digests x)
  let head := headBytes s h xs.length (xs.foldl (fun n x => n + x.chunks) 0)
  let root := sha384 (ascii "TK9-IMAGE" ++ head ++ roots.flatten)
  let m := writeRun data 0 (withCrc (head ++ root ++ zeros 3964))
  let m := writeRun m imgSets (((xs.zip roots).map fun p => setEntryBytes p.1 p.2).flatten)
  writeRun m imgDigests (xs.flatMap digests)

/-- The set entries of an image. -/
def parseSets (img : Mem) : List (ImgSet × List Byte) :=
  (List.range (rdNat img 0xC 4)).map fun i =>
    let e := readRun img (imgSets + 128 * i) 128
    (⟨field e 0 2, field e 4 2, field e 6 2, field e 8 8, field e 0x10 8, field e 0x18 4, field e 0x1C 4⟩, sub e 0x20 48)

def imageDigests (img : Mem) (x : ImgSet) : List Byte := readRun img (imgDigests + 48 * x.first) (48 * x.chunks)

/-- Whether an image is valid (R394). -/
def imageOk (img : Mem) : Bool :=
  let h := readRun img 0 4096
  let n := rdNat img 0xC 4
  h.take 8 == ascii "TK9-SNP1" && field h 8 4 = 1 && field h 0xFFC 4 = (crc32c (h.take 0xFFC)).toNat && 1 ≤ n && n ≤ 256 &&
    let xs := parseSets img
    sub h 0x50 48 == sha384 (ascii "TK9-IMAGE" ++ h.take 0x50 ++ (xs.map fun x => shardRoot x.1 (field h 0x10 8) (imageDigests img x.1)).flatten)

def imageStep (img : Mem) : Nat := rdNat img 0x10 8
def imageDevice (img : Mem) : Nat := rdNat img 0x28 4

/-- Bytes of an image to the end of its last set. -/
def imageLen (img : Mem) : Nat := (parseSets img).foldl (fun n x => max n (x.1.off + x.1.len)) imgData

/-! ### Vault slots held for the partner (R387 to R390) -/

/-- Slot `k` of the vault this module holds. -/
def vaultSlot (s : State) (k : Nat) : Mem := cutCells s.dram (vaultBase k) 0x1800000000 0

/-- The step of the valid image in a held slot. -/
def heldStep (s : State) (k : Nat) : Option Nat := if imageOk (vaultSlot s k) then some (imageStep (vaultSlot s k)) else none

/-- The same where the image is that of device `d`. -/
def heldFor (s : State) (d k : Nat) : Option Nat := if imageDevice (vaultSlot s k) = d then heldStep s k else none

/-- Zeroes the headers of the held slots. -/
def zeroVault (s : State) : State :=
  { s with dram := eraseRun (eraseRun s.dram (vaultBase 0) 4096) (vaultBase 1) 4096 }

/-! ### The vault's messages -/

/-- VAULT_HELLO (R387): answered VAULT_ACCEPT or VAULT_REFUSE. -/
def vaultHello (m : CommitMsg) (s : State) : State :=
  let d := m.sender
  match s.fab.topo with
  | none => sendRes s d 8 (commitBytes s 8 (attempt s) m.step 0 0 0)
  | some t =>
    if t.partner = some d && (m.feed ≠ t.feed || bit t.flags 1) then
      sendRes s d 7 (commitBytes s 7 (attempt s) m.step t.feed (stepOrNone (heldFor s d 0)) (stepOrNone (heldFor s d 1)))
    else sendRes s d 8 (commitBytes s 8 (attempt s) m.step 0 0 0)

def execVaultHello (s : State) : Out := .next (takeCommit s 6 vaultHello)

/-- A step field of a message, none for all ones. -/
def slotField (w : Nat) : Option Nat := if w = 2 ^ 64 - 1 then none else some w

/-- What the flip of step `n` recorded: data position, seed, generation. -/
def recordedAt (s : State) (n : Nat) : DWord × DWord × Nat :=
  (s.res.recorded.find? fun x => x.1 = n).elim (BitVec.allOnes 64, s.job.seed, s.coll.gen) (·.2)

/-- The image of a vault copy. -/
def copyImage (s : State) (c : VaultCopy) : Mem :=
  let (pos, seed, gen) := recordedAt s c.step
  buildImage s (s.res.conf.elim [] (·.sets)) ⟨c.step, pos, seed, gen, 0, c.start⟩

/-- Whether a set changed while the layers had the modes they have (R378). -/
def setChanged (s : State) (w : WSet) : Bool := w.layers = 0 || (List.range w.layers).any fun k => layerMode s (w.layer + k) ≠ 1

/-- The step of the image that the copy's slot holds. -/
def VaultCopy.target (c : VaultCopy) : Option Nat := if c.step % 2 = 0 then c.slot0 else c.slot1

/-- The parts of a copy's image that are written between the zeros over its header and the header itself, as offset and length: the data of
the sets that changed, or of all where the slot holds no image of two steps before; the set entries; the digest table, up to the next 64
bytes (R388, log 81). -/
def copyParts (s : State) (c : VaultCopy) : List (Nat × Nat) :=
  let sets := s.res.conf.elim [] (·.sets)
  let xs := placeSets sets imgData 0
  let older := c.target.any fun n => n + 2 = c.step
  let data := ((sets.zip xs).filter fun p => !older || setChanged s p.1).map fun p => (p.2.off, p.2.len)
  let digests := (48 * xs.foldl (fun n x => n + x.chunks) 0 + 63) / 64 * 64
  data ++ [(imgSets, 128 * xs.length), (imgDigests, digests)]

/-- Cuts a range into writes of at most 64 KiB. -/
def writeSizes (off len : Nat) : List (Nat × Nat) :=
  (List.range ((len + 65535) / 65536)).map fun i => (off + 65536 * i, min 65536 (len - 65536 * i))

/-- A privileged write of a copy into the partner's slot (R388, R389); nothing more is sent once the copy has ended. -/
def vaultWrite (s : State) (p : Nat) (c : VaultCopy) (phase off : Nat) (bs : List Byte) : State :=
  if s.res.copy.isNone then s
  else newTx s { bareTx .write (.vault c.step phase) 2 p (vaultBase (c.step % 2) + off) (bs.length / 64) with priv := true, data := bs }

/-- The ranges of HBM and LPDDR that a copy reads: the sides of the sets that it writes. -/
def copyReads (s : State) (c : VaultCopy) : List (Nat × Nat) :=
  let older := c.target.any fun n => n + 2 = c.step
  ((s.res.conf.elim [] (·.sets)).filter fun w => !older || setChanged s w).map fun w => (if c.step % 2 = 0 then w.side0 else w.side1, w.len)

/-- Whether a read of ranges meets an uncorrectable memory error, and the records of those that it meets (R250). -/
def readsFail (s : State) (rs : List (Nat × Nat)) : Bool := rs.any fun r => (badGranule s r.1 r.2).isSome
def readRecords (s : State) (rs : List (Nat × Nat)) : State := rs.foldl (fun s r => uncorrectables s r.1 r.2) s

/-- The writes of a copy: zeros over the header, and behind their acknowledgement everything but the header. -/
def copyWrites (s : State) (p : Nat) (c : VaultCopy) : State :=
  let img := copyImage s c
  let rest := (copyParts s c).flatMap fun x => writeSizes x.1 x.2
  rest.foldl (fun s x => vaultWrite s p c 1 x.1 (readRun img x.1 x.2)) (vaultWrite s p c 0 0 (zeros 4096))

/-- VAULT_ACCEPT (R388): the copy goes on, and the header of its slot is zeroed, so that slot holds no image until the copy ends. A side that
cannot be read fails the copy (R389, log 128). -/
def vaultAccept (m : CommitMsg) (s : State) : State :=
  match s.res.copy with
  | some c =>
    if partner s = some m.sender && !c.accepted && m.step = c.step then
      let d : VaultCopy := ⟨c.step, true, slotField m.slot0, slotField m.slot1, c.start⟩
      let s := resOf s fun r => { r with
        copy := some d
        vault0 := if c.step % 2 = 0 then none else d.slot0
        vault1 := if c.step % 2 = 1 then none else d.slot1 }
      if readsFail s (copyReads s d) then pumpReady (copyFails (readRecords (vaultWrite s m.sender d 0 0 (zeros 4096)) (copyReads s d)))
      else copySettles s (copyWrites s m.sender d)
    else s
  | none => s

def execVaultAccept (s : State) : Out := .next (takeCommit s 7 vaultAccept)

/-- VAULT_REFUSE (R387, R389). -/
def vaultRefuse (m : CommitMsg) (s : State) : State :=
  if s.res.copy.isSome && partner s = some m.sender then pumpReady (copyFails s) else s

def execVaultRefuse (s : State) : Out := .next (takeCommit s 8 vaultRefuse)

/-- Whether a write of the copy of step `n` has not been acknowledged. -/
def copyWaits (s : State) (n : Nat) : Bool := s.fab.txs.any fun t => t.owner = .vault n 0 || t.owner = .vault n 1

/-- The copy of a step ends complete: its slot holds the step. -/
def vaultDone (s : State) (c : VaultCopy) : State :=
  pumpReady <| noteProtection (protection s) <| resOf s fun r => { r with
    copy := none, copyFailed := false
    vault0 := if c.step % 2 = 0 then some c.step else r.vault0
    vault1 := if c.step % 2 = 1 then some c.step else r.vault1 }

/-- VAULT_COPY_END (R388, R389): every write has been acknowledged, the header is written and the copy ends; it has failed where the header
finds no way to the partner. -/
def vaultCopyEnd (s : State) : State :=
  match s.res.copy with
  | some c =>
    if !c.accepted || copyWaits s c.step then s
    else
      let t := vaultWrite s ((partner s).getD 0) c 2 0 (readRun (copyImage s c) 0 4096)
      if t.fab.txs.any fun x => x.owner = .vault c.step 2 then vaultDone t c
      else pumpReady (resOf t fun r => { r with copy := none })
  | none => s

def execVaultCopyEnd (s : State) : Out := .next (vaultCopyEnd s)

/-! ### Flash snapshots (R395 to R400) -/

/-- The slot a new snapshot takes (R396). -/
def pickSlot (s : State) : Option Nat :=
  let slots := s.res.slots
  let at' (st : Nat) : Option Nat := slots.findIdx? fun x => x.state = st
  let valid := (slots.mapIdx fun i x => (i, x)).filter fun p => p.2.state = 2
  let oldest := valid.foldl (fun (b : Option (Nat × SnapSlot)) p => match b with
    | none => some p
    | some q => if p.2.step < q.2.step then some p else b) none
  let keep := s.res.conf.elim 2 (·.retain)
  ((at' 0).or (at' 3)).or <| oldest.bind fun o =>
    if keep ≤ (valid.filter fun p => o.2.step < p.2.step).length then some o.1 else none

/-- Whether the side that held committed step `n` still holds it. -/
def sideHolds (s : State) (n : Nat) : Bool := (if n % 2 = 0 then s.res.side0 else s.res.side1) = some n

/-- A snapshot starts: it takes its slot, which the journal marks WRITING. -/
def startSnap (s : State) (x : SnapRun) : State :=
  if !sideHolds s x.step then endTake (event s 8 0xFF) x 0x070B
  else
    match pickSlot s with
    | none => endTake (event s 8 0xFF) x 0x0703
    | some k => resOf s fun r => { r with
        snap := some { x with slot := k, start := s.time }
        slots := r.slots.modify k fun _ => ⟨1, 0, 0, 0, 0, []⟩ }

/-- SNAPSHOT_START: the oldest waiting snapshot whose step has been committed. -/
def snapshotStart (s : State) : State :=
  let due (x : SnapRun) : Bool := s.res.committed.any (x.step ≤ ·)
  match s.res.snap, s.res.waiting.findIdx? due with
  | none, some i =>
    match s.res.waiting[i]? with
    | some x => startSnap (resOf s fun r => { r with waiting := r.waiting.eraseIdx i }) x
    | none => s
  | _, _ => s

def execSnapshotStart (s : State) : Out := .next (snapshotStart s)

/-- The ranges of HBM and LPDDR that a snapshot of step `n` reads. -/
def snapReads (s : State) (n : Nat) : List (Nat × Nat) :=
  (s.res.conf.elim [] (·.sets)).map fun w => (if n % 2 = 0 then w.side0 else w.side1, w.len)

/-- SNAPSHOT_COMMIT (R397): data, digests, manifest and commit record are in flash, and the slot is VALID. A side that cannot be read abandons the
snapshot (log 128). -/
def snapshotCommit (s : State) : State :=
  match s.res.snap with
  | none => s
  | some x =>
    if readsFail s (snapReads s x.step) then abandonSnap (readRecords s (snapReads s x.step)) else
    let (pos, seed, gen) := recordedAt s x.step
    let img := buildImage s (s.res.conf.elim [] (·.sets)) ⟨x.step, pos, seed, gen, x.kind, x.start⟩
    let s := resOf s fun r => { r with
      snap := none, slots := r.slots.set x.slot ⟨2, x.kind, x.step, pos, s.time, img⟩ }
    endTake (event s 7 x.slot) x 0

def execSnapshotCommit (s : State) : Out := .next (snapshotCommit s)

/-- Whether the configuration protects anything. -/
def hasSets (s : State) : Bool := s.res.conf.any fun c => !c.sets.isEmpty

def snapTakeBody (mb : Nat) (c : Cmd) (s : State) : State :=
  if !clean c 0 0 false then finish s mb c stMalformed
  else
    match s.res.committed with
    | some n =>
      if !hasSets s then finish s mb c 0x0702
      else
        let s := markStarted s mb c.tag []
        resOf s fun r => { r with waiting := r.waiting ++ [⟨3, n, 0, 0, some (mb, c.tag)⟩] }
    | none => finish s mb c 0x0702

def execSnapTake (mb : Nat) (tag : DWord) (s : State) : Out := mbCommand mb tag 7 4 (snapTakeBody mb) s

/-- The 32 bytes of a slot entry. -/
def slotBytes (k : Nat) (x : SnapSlot) : List Byte :=
  le 1 k ++ le 1 x.state ++ le 1 (if x.state = 2 then x.kind else 0) ++ [0] ++ le 8 x.step ++ le 8 x.pos.toNat ++ le 8 x.time ++ zeros 4

def snapListBody (mb : Nat) (c : Cmd) (s : State) : State :=
  if !clean c 0 0 false then finish s mb c stMalformed
  else finish s mb c 0 ((s.res.slots.mapIdx slotBytes).flatten)

def execSnapList (mb : Nat) (tag : DWord) (s : State) : Out := mbCommand mb tag 7 5 (snapListBody mb) s

/-- The slot that a command names, if it is VALID. -/
def validSlot (s : State) (k : Nat) : Option SnapSlot := (s.res.slots[k]?).filter fun x => x.state = 2

def snapDropBody (mb : Nat) (c : Cmd) (s : State) : State :=
  let k := c.arg0.toNat
  if !clean c 0x3F 0 false then finish s mb c stMalformed
  else if (validSlot s k).isNone then finish s mb c 0x0704
  else finish (resOf s fun r => { r with slots := r.slots.set k ⟨0, 0, 0, 0, 0, []⟩ }) mb c 0

def execSnapDrop (mb : Nat) (tag : DWord) (s : State) : Out := mbCommand mb tag 7 6 (snapDropBody mb) s

/-- NAND errors that the flash controller's ECC has corrected are counted (R399). -/
def nandCount (s : State) (x : NandRead) : State := { s with tel := { s.tel with nandEcc := s.tel.nandEcc + x.corrected } }

/-- The byte ranges of the chunks of an image that cannot be read. -/
def lostRanges (img : Mem) (lost : List Nat) : List (Nat × Nat) :=
  (parseSets img).flatMap fun x => ((List.range x.1.chunks).filter fun k => lost.contains (x.1.first + k)).map fun k =>
    (x.1.off + k * chunkBytes, min chunkBytes (x.1.len - k * chunkBytes))

/-- A flash image as a read gives it: the bytes of a chunk that cannot be read are free values (log 82). -/
def flashImage (s : State) (img : Mem) (lost : List Nat) : Mem × State :=
  (lostRanges img lost).foldl (fun t r => (writeRun t.1 r.1 (freeBytes t.2 r.2), bump t.2 r.2)) (img, s)

/-- SNAP_EXPORT (R400): a window that does not hold the whole image completes it with RANGE (log 43). -/
def snapExportBody (nand : NandRead) (mb : Nat) (c : Cmd) (s : State) : State :=
  let w := bits c.arg1.toNat 63 60
  let o := bits c.arg1.toNat 47 0
  if !clean c 0x3F 0xF000FFFFFFFFFFFF false then finish s mb c stMalformed
  else
    match validSlot s c.arg0.toNat with
    | none => finish s mb c 0x0704
    | some x =>
      let n := imageLen x.image
      if !windowHolds s w o n then finish s mb c stRange
      else
        let a := windowAddr s w o
        let (img, s) := flashImage (nandCount s nand) x.image nand.unreadable
        finish { s with host := { s.host with mem := pasteCells s.host.mem a n (cutCells img 0 n a) } } mb c 0

def execSnapExport (mb : Nat) (tag : DWord) (nand : NandRead) (s : State) : Out := mbCommand mb tag 7 7 (snapExportBody nand mb) s

end Sys2Proof.Machine
end

