-- ==== Sys2Proof/Machine/Resilience.lean ====
section
/-! DEFINITION. Resilience.lean: the resilience commands, restores, Lantern, hot-spare take-over (16_resilience.md, R391, R401 to R413). -/

namespace Sys2Proof.Machine

def stResMalformed : Nat := 0x0701
def stResState : Nat := 0x0702
def stResSource : Nat := 0x0709

/-! ### RES_CONFIG (R413) -/

def parseWSet (r : List Byte) : WSet := ⟨field r 0 2, field r 4 2, field r 6 2, field r 8 8, field r 0x10 8, field r 0x18 8⟩

/-- Largest sum of lengths: 96 GiB less 2 MiB. -/
def setBytes : Nat := 103077117952

/-- The ranges that a side may not touch besides the other sides. -/
def sideTaken (s : State) : List (Nat × Nat) := reservedRanges s ++ (s.tier.regions.map fun r => (r.base, r.len)) ++ stackRanges s

/-- The checks of one weight-set record. -/
def setChecks (s : State) (r : List Byte) : Checks :=
  let w := parseWSet r
  let side (a : Nat) : Bool := a % pageBytes = 0 && localExists s a w.len && !touches (sideTaken s) a w.len
  [(0, w.num < 256), (2, zeroAt r 2 2), (6, w.layer + w.layers ≤ 65536), (8, side w.side0), (0x10, side w.side1),
   (0x18, w.len ≠ 0 && w.len % pageBytes = 0), (0x20, zeroAt r 0x20 32)]

/-- The checks of a resilience configuration. -/
def confChecks (s : State) (b : List Byte) : Checks :=
  let sets := field b 6 2
  let kids := field b 8 2
  let flags := field b 0xA 2
  let parent := field b 0xC 4
  let own := s.fab.device.getD 0
  let recs := (records 64 (sub b 64 (64 * sets))).map fun r => (64 + r.1, r.2)
  let sides := recs.flatMap fun r => [(r.1 + 8, (parseWSet r.2).side0, (parseWSet r.2).len), (r.1 + 0x10, (parseWSet r.2).side1, (parseWSet r.2).len)]
  let o := 64 + 64 * sets
  let member (d : Nat) : Bool := devOk d && !isT7 s d && d ≠ own
  ([(0, b.take 4 == ascii "TKRC"), (4, decide (field b 4 2 = 1)), (6, decide (sets ≤ 256)), (8, decide (kids ≤ 256)), (0xA, decide (flags < 4)),
    (0xC, if bit flags 0 then parent = 0xFFFFFFFF else member parent), (0x14, 2 ≤ field b 0x14 1 && field b 0x14 1 ≤ 64),
    (0x15, decide (field b 0x15 1 ≤ 15)), (0x16, zeroAt b 0x16 2), (0x18, 10 ≤ field b 0x18 4 && field b 0x18 4 ≤ 60000),
    (0x1C, zeroAt b 0x1C 36), (o, decide (b.length = o + roundUp (4 * kids) 64))] : Checks) ++
  (recs.flatMap fun r => shiftBy r.1 (setChecks s r.2)) ++ distinct (recs.map fun r => (r.1, field r.2 0 2)) ++
  (sides.mapIdx fun i x => (x.1, (!touches ((sides.take i).map (·.2)) x.2.1 x.2.2 : Bool))) ++
  (recs.mapIdx fun i r => (r.1 + 0x18, decide ((recs.take (i + 1)).foldl (fun n x => n + (parseWSet x.2).len) 0 ≤ setBytes))) ++
  ((List.range kids).map fun k => (o + 4 * k, member (field b (o + 4 * k) 4))) ++
  [(o + 4 * kids, zeroAt b (o + 4 * kids) (roundUp (4 * kids) 64 - 4 * kids))]

def parseConf (b : List Byte) : ResConf :=
  let sets := field b 6 2
  { retry := bit (field b 0xA 2) 1, parent := if bit (field b 0xA 2) 0 then none else some (field b 0xC 4), interval := field b 0x10 4,
    retain := field b 0x14 1, retryLimit := field b 0x15 1, limitMs := field b 0x18 4
    sets := (records 64 (sub b 64 (64 * sets))).map fun r => parseWSet r.2
    children := (List.range (field b 8 2)).map fun k => field b (64 + 64 * sets + 4 * k) 4 }

def resConfigBody (mb : Nat) (c : Cmd) (s : State) : State :=
  if !clean c 0 0 true then finish s mb c stMalformed
  else if !jobIn s [.loaded, .stopped, .held] then finish s mb c stResState
  else
    match firstBad (confChecks s c.payload) with
    | some o => finish s mb c stResMalformed [] (BitVec.ofNat 64 o)
    | none => finish (resOf s fun r => { r with conf := some (parseConf c.payload) }) mb c 0

def execResConfig (mb : Nat) (tag : DWord) (s : State) : Out := mbCommand mb tag 7 1 (resConfigBody mb) s

/-! ### RES_QUERY (R412) -/

/-- Newest VALID flash step. -/
def flashLatest (s : State) : Option Nat :=
  (s.res.slots.filter fun x => x.state = 2).foldl (fun (m : Option Nat) x => some (m.elim x.step (max x.step))) none

/-- DECISION. -/
def decisionWord (s : State) : Nat :=
  match s.res.decisions.head? with
  | some (n, a, c) => n + 2 ^ 48 * a + 2 ^ 56 * (if c then 1 else 2)
  | none => 0

/-- The 96 bytes of the resilience state. -/
def resBytes (s : State) : List Byte :=
  let r := s.res
  le 8 (stepOrNone r.committed) ++ le 1 (attempt s) ++ le 1 (protection s) ++ le 1 r.lantern ++
    le 1 (b2n r.evacuate + 2 * b2n r.replay.isSome + 4 * b2n r.replayFailed) ++ le 2 r.score ++ zeros 2 ++
    ([r.side0, r.side1, r.vault0, r.vault1, flashLatest s].flatMap fun x => le 8 (stepOrNone x)) ++ le 8 (decisionWord s) ++
    le 8 (stepOrNone (heldStep s 0)) ++ le 8 (stepOrNone (heldStep s 1)) ++ zeros 16

def resQueryBody (mb : Nat) (c : Cmd) (s : State) : State :=
  if !clean c 0 0 false then finish s mb c stMalformed else finish s mb c 0 (resBytes s)

def execResQuery (mb : Nat) (tag : DWord) (s : State) : Out := mbCommand mb tag 7 2 (resQueryBody mb) s

/-! ### DATA_POS (R391) -/

def dataPosBody (mb : Nat) (c : Cmd) (s : State) : State :=
  let n := c.arg0.toNat
  let others := s.res.dataPos.filter fun d => d.1 ≠ n
  if !clean c step48 all64 false then finish s mb c stMalformed
  else if s.res.committed.any (n ≤ ·) then finish s mb c stResState
  else if 4 ≤ others.length then finish s mb c 0x070C
  else finish (resOf s fun r => { r with dataPos := (n, c.arg1) :: others }) mb c 0

def execDataPos (mb : Nat) (tag : DWord) (s : State) : Out := mbCommand mb tag 7 3 (dataPosBody mb) s

/-! ### RESTORE (R401 to R405) -/

/-- Whether an FP32 tolerance is finite and not negative. -/
def toleranceOk (w : Word) : Bool := match f32 w with | .fin false _ _ => true | .fin true m _ => m = 0 | _ => false

/-- The checks of a restore record. -/
def restoreChecks (b : List Byte) : Checks :=
  let src := field b 0 1
  [(0, decide (src < 4)), (1, if src = 2 then field b 1 1 < 64 else if src = 3 then field b 1 1 < 16 else field b 1 1 = 0),
   (2, decide (field b 2 2 < 4)), (4, zeroAt b 4 4), (8, decide (field b 8 8 < 2 ^ 48)), (0x18, src = 3 || field b 0x18 8 = 0),
   (0x20, decide (field b 0x20 8 < 2 ^ 41)), (0x2C, toleranceOk (BitVec.ofNat 32 (field b 0x2C 4))), (0x30, zeroAt b 0x30 16)]

/-- The image that sources 2 and 3 name: the flash slot, the host window. -/
def restoreImage (s : State) (b : List Byte) : Option Mem :=
  let t := field b 8 8
  match field b 0 1 with
  | 2 => (validSlot s (field b 1 1)).bind fun x => if x.step = t then some x.image else none
  | _ =>
    let w := field b 1 1
    let o := field b 0x18 8
    if windowHolds s w o imgData then
      let img := cutCells s.host.mem (windowAddr s w o) (((s.host.windows.find? fun x => x.num = w).elim 0 (·.len)) - o) 0
      if imageOk img && windowHolds s w o (imageLen img) then some img else none
    else none

/-- Whether the set entries of an image are those of the configuration. -/
def sameSets (xs : List (ImgSet × List Byte)) (ws : List WSet) : Bool :=
  xs.length = ws.length && (xs.zip ws).all fun p =>
    p.1.1.num = p.2.num && p.1.1.len = p.2.len && p.1.1.layer = p.2.layer && p.1.1.layers = p.2.layers

/-- The first chunk of an image that differs from its digest or cannot be read: index and set. -/
def badChunk (img : Mem) (xs : List (ImgSet × List Byte)) (lost : List Nat) : Option (Nat × Nat) :=
  xs.findSome? fun x => ((List.range x.1.chunks).find? fun k => lost.contains (x.1.first + k) ||
    chunkDigest img x.1 k != readRun img (imgDigests + 48 * (x.1.first + k)) 48).map fun k => (x.1.first + k, x.1.num)

/-- The checks of R402 of an image's manifest, after the first: status, RESULT0, RESULT1 of the first failure. -/
def headStop (s : State) (b : List Byte) (img : Mem) : Option (Nat × Nat × Nat) :=
  let xs := parseSets img
  let ws := s.res.conf.elim [] (·.sets)
  if some (imageDevice img) ≠ s.fab.device || !sameSets xs ws || (!bit (field b 2 2) 1 && rdNat img 0x2C 2 ≠ s.coll.gen) then some (0x0705, 0, 0)
  else if BitVec.ofNat 64 (rdNat img 0x20 8) ≠ s.job.seed || imageStep img ≠ field b 8 8 then some (0x0707, 0, 0)
  else if rdNat img 0x18 8 ≠ field b 0x10 8 then some (0x0708, 0, 0)
  else none

/-- All checks of R402 after the first. -/
def imageStop (s : State) (b : List Byte) (img : Mem) (lost : List Nat) : Option (Nat × Nat × Nat) :=
  (headStop s b img).or ((badChunk img (parseSets img) lost).map fun c => (0x0706, c.1, c.2))

/-- The checks of source 0. What no flip of this job recorded is not checked but that its data position is none (log 44). -/
def ownStop (s : State) (b : List Byte) : Option (Nat × Nat × Nat) :=
  let t := field b 8 8
  if !sideHolds s t then some (stResSource, 0, 0)
  else
    match s.res.recorded.find? fun x => x.1 = t with
    | some (_, pos, seed, _) =>
      if seed ≠ s.job.seed then some (0x0707, 0, 0) else if pos.toNat ≠ field b 0x10 8 then some (0x0708, 0, 0) else none
    | none => if field b 0x10 8 ≠ 2 ^ 64 - 1 then some (0x0708, 0, 0) else none

/-- A restore that succeeds (R403, R405). -/
def restored (s : State) (b : List Byte) (rec' : DWord × DWord × Nat) : State :=
  let t := field b 8 8
  let own := field b 0 1 = 0
  let replay : Option Replay :=
    if bit (field b 2 2) 0 then some ⟨field b 0x20 8, BitVec.ofNat 32 (field b 0x28 4), BitVec.ofNat 32 (field b 0x2C 4)⟩ else none
  let s := resOf s fun r => { r with
    committed := some t, rollbacks := 0, ready := none, stalled := false, readys := [], decisions := [], restored := true, lost := false
    side0 := if own && t % 2 = 1 then none else some t, side1 := if own && t % 2 = 0 then none else some t
    recorded := (t, rec') :: r.recorded.filter fun x => x.1 ≠ t, replay, replayFailed := false }
  jobOf s fun j => { j with phase := .held, step := t + 1, begun := false, walk := [], readyAt := none }

/-- Writes an image's data to both sides of every set. -/
def writeSets (s : State) (img : Mem) : State :=
  let ws := s.res.conf.elim [] (·.sets)
  ((parseSets img).zip ws).foldl (fun s p => putLocal (putLocal s p.2.side0 p.2.len img p.1.1.off) p.2.side1 p.2.len img p.1.1.off) s

/-- What a restore reads of the flash: nothing, unless a VALID slot is its source (R399). -/
def flashRead (s : State) (b : List Byte) (nand : NandRead) : NandRead :=
  if field b 0 1 = 2 && (restoreImage s b).isSome then nand else ⟨0, []⟩

/-- A restore that stops at a chunk that flash could not give marks the slot TORN (R399). -/
def tornAt (s : State) (b : List Byte) (lost : List Nat) (x : Nat × Nat × Nat) : State :=
  if x.1 = 0x0706 && lost.contains x.2.1 then
    resOf s fun r => { r with slots := r.slots.modify (field b 1 1) fun y => { y with state := 3 } }
  else s

/-- A restore ends with a failure. -/
def restoreStops (s : State) (mb : Nat) (c : Cmd) (x : Nat × Nat × Nat) : State :=
  finish s mb c x.1 [] (BitVec.ofNat 64 x.2.1) (BitVec.ofNat 64 x.2.2)

/-- A restore out of an image that has passed every check. -/
def restoreEnds (s : State) (mb : Nat) (c : Cmd) (img : Mem) : State :=
  let s := setReading (writeSets s img) none
  finish (restored s c.payload (BitVec.ofNat 64 (rdNat img 0x18 8), BitVec.ofNat 64 (rdNat img 0x20 8), rdNat img 0x2C 2)) mb c 0

/-- The chunks of an image that differ from their digests, as offset and length. -/
def badRanges (img : Mem) : List (Nat × Nat) :=
  let xs := parseSets img
  lostRanges img <| xs.flatMap fun x => ((List.range x.1.chunks).filter fun k =>
    chunkDigest img x.1 k != readRun img (imgDigests + 48 * (x.1.first + k)) 48).map (x.1.first + ·)

/-- Source 1: the manifest of the partner's slot is read first. -/
def startVaultRead (s : State) (mb : Nat) (c : Cmd) : State :=
  match partner s with
  | none => restoreStops (restoreLost s) mb c (stResSource, 0, 0)
  | some p =>
    readNext (setReading (markStarted s mb c.tag []) (some ⟨mb, c.tag, p, field c.payload 8 8 % 2, [], [(0, imgData)], 0⟩))

/-- Whether the partner's slot meets the condition of source 1: a valid image of this device at the step. -/
def vaultFits (s : State) (b : List Byte) (img : Mem) : Bool :=
  imageOk img && imageStep img = field b 8 8 && some (imageDevice img) = s.fab.device

/-- The reads of one phase are answered: the manifest is checked and the data are read; chunks that differ from their digests are read once more;
or the restore ends (R402). -/
def vaultReadGoes (s : State) (c : Cmd) (r : VaultRead) : State :=
  let b := c.payload
  let next (todo : List (Nat × Nat)) (phase : Nat) : State := readNext (setReading s (some { r with todo, phase }))
  let lost (x : Nat × Nat × Nat) : State := restoreStops (restoreLost s) r.mb c x
  if !r.todo.isEmpty then s
  else if !jobIn s [.loaded, .stopped, .held] || s.res.conf.isNone then lost (stResState, 0, 0)
  else if r.phase = 0 then
    if !vaultFits s b r.img then lost (stResSource, 0, 0)
    else
      match headStop s b r.img with
      | some x => lost x
      | none => next ((parseSets r.img).map fun x => (x.1.off, x.1.len)) 1
  else
    match badRanges r.img with
    | [] => restoreEnds s r.mb c r.img
    | todo => if r.phase = 1 then next todo 2 else (imageStop s b r.img []).elim s lost

/-- RESTORE from sources 2 and 3. -/
def restoreFrom (nand : NandRead) (mb : Nat) (c : Cmd) (s : State) : State :=
  let b := c.payload
  match restoreImage s b with
  | none => restoreStops (restoreLost s) mb c (stResSource, 0, 0)
  | some img =>
    let nand := flashRead s b nand
    let s := nandCount s nand
    match imageStop s b img nand.unreadable with
    | some x => restoreStops (restoreLost (tornAt s b nand.unreadable x)) mb c x
    | none => restoreEnds s mb c img

/-- RESTORE (R401). One waits while another reads the vault (log 134). -/
def restoreBody (nand : NandRead) (mb : Nat) (c : Cmd) (s : State) : State :=
  let b := c.payload
  if s.res.reading.isSome then s
  else if !clean c 0 0 true || b.length ≠ 64 then finish s mb c stMalformed
  else
    match firstBad (restoreChecks b) with
    | some o => finish s mb c stResMalformed [] (BitVec.ofNat 64 o)
    | none =>
      if !jobIn s [.loaded, .stopped, .held] || s.res.conf.isNone then finish s mb c stResState
      else
        match field b 0 1 with
        | 0 => (ownStop s b).elim (finish (restored s b (recordedAt s (field b 8 8))) mb c 0) (restoreStops s mb c)
        | 1 => startVaultRead s mb c
        | _ => restoreFrom nand mb c s

def execRestore (mb : Nat) (tag : DWord) (nand : NandRead) (s : State) : Out :=
  match s.res.reading.filter (fun r => r.mb = mb && r.tag = tag), findCmd s mb tag with
  | some r, some c => onUnit mb 16 (.next (vaultReadGoes s c r))
  | _, _ => mbCommand mb tag 7 8 (restoreBody nand mb) s

/-! ### Lantern (R406 to R408) -/

/-- The offset at which a LANTERN_CONFIG payload fails. -/
def lanternChecks (b : List Byte) : Checks :=
  [(0, decide (field b 0 2 ≤ 1023)), (2, zeroAt b 2 2)] ++ (List.range 15).map fun k => (4 * k + 6, decide (field b (4 * k + 6) 2 ≤ 1023))

def lanternConfigBody (mb : Nat) (c : Cmd) (s : State) : State :=
  let b := c.payload
  if !clean c 0 0 true || b.length ≠ 64 then finish s mb c stMalformed
  else
    match firstBad (lanternChecks b) with
    | some o => finish s mb c stResMalformed [] (BitVec.ofNat 64 o)
    | none => finish (resOf s fun r => { r with
        bias := field b 0 2, weights := (List.range 15).map fun k => field b (4 * k + 4) 2
        caps := (List.range 15).map fun k => field b (4 * k + 6) 2 }) mb c 0

def execLanternConfig (mb : Nat) (tag : DWord) (s : State) : Out := mbCommand mb tag 7 9 (lanternConfigBody mb) s

/-- Times within the last `n` ns. -/
def recent (s : State) (ts : List Nat) (n : Nat) : Nat := (ts.filter fun t => s.time < t + n).length

/-- An hour in ns. -/
def hourNs : Nat := 3600000000000

/-- HBM lanes repaired in the last 24 hours of powered life. -/
def lanesRepaired (s : State) : Nat :=
  (s.tel.fbLog.filter fun e => e.kind = 3 && lifeS s < e.life + 86400).foldl (fun n e => n + e.count) 0

/-- Far frames lost and sent over all ports. -/
def farTotals (s : State) : Nat × Nat := s.far.ports.foldl (fun t x => (t.1 + x.lost, t.2 + x.txs)) (0, 0)

/-- Far frames lost per million sent in the last minute. -/
def farLoss (s : State) : Nat :=
  let (lost, sent) := farTotals s
  let old := (s.res.lossAt.find? fun x => x.1 + 60000000000 ≤ s.time).getD (0, 0, 0)
  if sent ≤ old.2.2 then 0 else 1000000 * (lost - old.2.1) / (sent - old.2.2)

/-- The fifteen measures of R406. -/
def measures (s : State) : List Nat :=
  [(fencedCores s).length, lanesRepaired s, s.hbm.degraded.length, s.hbm.failed.length, s.lpddr.degraded.length, s.lpddr.failed.length,
   recent s s.tel.errTimes hourNs, recent s s.tel.sealTimes hourNs, (s.fab.near.filter fun x => x.state = .failed).length, s.fab.spares.length,
   (s.far.ports.filter fun x => x.state = .failed).length, farLoss s, s.pwr.overWarn, recent s s.pwr.excursions hourNs,
   b2n (s.fab.topo.any fun t => t.partner.isNone || s.res.copyFailed)]

/-- The score of R406. -/
def lanternScore (s : State) : Nat :=
  min 1023 <| (List.range 15).foldl (fun n k => n + min (nth s.res.caps k) (nth s.res.weights k * nth (measures s) k)) s.res.bias

/-- The state a score gives: 0 NORMAL to 4 EVACUATE; and the threshold of a state. -/
def lanternOf (score : Nat) : Nat := if 960 ≤ score then 4 else if 768 ≤ score then 3 else if 512 ≤ score then 2 else if 256 ≤ score then 1 else 0
def lanternLimit (st : Nat) : Nat := nth [0, 256, 512, 768, 960] st

/-- A Lantern snapshot of step `n` joins those that wait, unless it is there. -/
def wantSnap (s : State) (n : Nat) : State :=
  if s.res.snap.any (fun x => x.step = n) || s.res.waiting.any (fun x => x.step = n) then s
  else resOf s fun r => { r with waiting := r.waiting ++ [⟨2, n, 0, 0, none⟩] }

/-- What entering SOON does. -/
def lanternSoon (s : State) : State :=
  match s.res.committed with
  | none => s
  | some n =>
    if !hasSets s || s.res.snap.any (fun x => x.step = n) || s.res.slots.any (fun x => x.state = 2 && x.step = n) then s else wantSnap s (n + 1)

/-- What entering NOW does. -/
def lanternNow (s : State) : State :=
  match s.res.committed with
  | none => s
  | some n =>
    if !hasSets s then s
    else
      let s := if s.res.snap.any fun x => x.kind ≠ 1 && x.step < n then abandonSnap s else s
      snapshotStart (wantSnap s n)

/-- Lantern takes state `st` (R407, R408). The evacuate flag stays once it is set (log 45). -/
def enterLantern (s : State) (st : Nat) : State :=
  let score := s.res.score
  let s := event (resOf s fun r => { r with lantern := st, below := 0 }) 4 (st + 65536 * score)
  let s := if 2 ≤ st then lanternSoon s else s
  let s := if 3 ≤ st then lanternNow s else s
  if st = 4 then event (resOf s fun r => { r with evacuate := true }) 5 (65536 * score) else s

/-- LANTERN_EVALUATE: every 100 ms (R25, R406). -/
def lanternEvaluate (s : State) : State :=
  let s := advance s (s.res.evalAt + 100000000)
  let score := lanternScore s
  let (lost, sent) := farTotals s
  let s := resOf s fun r => { r with
    score, evalAt := s.time, lossAt := (s.time, lost, sent) :: (r.lossAt.take 700), below := if score < lanternLimit r.lantern then r.below + 1 else 0 }
  let st := lanternOf score
  if s.res.lantern < st || (10 ≤ s.res.below && st < s.res.lantern) then enterLantern s st else s

def execLanternEvaluate (s : State) : Out := .next (lanternEvaluate s)

/-! ### Hot spares (R409, R410) -/

/-- Whether a device lies in the module's own site, group and cell. -/
def sameCell (s : State) (d : Nat) : Bool := s.fab.device.any fun own => own / 16 = d / 16

/-- Draws a new INCARNATION (R358). -/
def drawIncarnation (s : State) : State := { bump s 1 with far := { s.far with inc := freeWord s } }

/-- TAKEOVER: the module gives up its number and waits for the JOB_LOAD that carries the new one. -/
def takeOver (s : State) (d : Nat) : State :=
  let before := protection s
  let s := drawIncarnation (zeroVault (unloadJob s))
  let s := resOf { s with fab := { s.fab with device := none, topo := none } } fun r => { r with pending := some d }
  noteProtection before (announceNumber s)

def takeoverBody (mb : Nat) (c : Cmd) (s : State) : State :=
  let d := c.arg0.toNat
  if !clean c 0x1FFFFF 0 false then finish s mb c stMalformed
  else if !jobIn s [.idle, .loaded] || !sameCell s d then finish s mb c 0x070A
  else finish (takeOver s d) mb c 0

def execTakeover (mb : Nat) (tag : DWord) (s : State) : Out := mbCommand mb tag 7 10 (takeoverBody mb) s

/-- A port-map entry after PEER_SWAP of failed device `d` and spare `m`. -/
def swapPort (d m : Nat) (p : PortMap) : PortMap :=
  if p.peer = d then { p with connected := false } else if p.peer = m then { p with peer := d } else p

/-- The table and index that R321 selects for a device. -/
def routeIndex (own dst : Nat) : Option (Nat × Nat) :=
  if dst = own then none
  else if siteOf dst ≠ siteOf own then some (0, siteOf dst)
  else if groupOf dst ≠ groupOf own then some (1, groupOf dst)
  else if cellOf dst ≠ cellOf own then some (2, cellOf dst)
  else some (3, slotNoOf dst)

/-- The route tables after PEER_SWAP: the entry for `d` takes the value of the entry for `m`. -/
def swapRoutes (s : State) (d m : Nat) : List (List DWord) :=
  let own := s.fab.device.getD 0
  match routeIndex own d, routeEntry s own m with
  | some (t, k), some e => s.fab.routes.modify t fun l => l.set k e
  | _, _ => s.fab.routes

/-- PEER_SWAP. -/
def peerSwap (s : State) (d m : Nat) : State :=
  let fab := { s.fab with
    routes := swapRoutes s d m
    topo := s.fab.topo.map fun t => { t with ports := t.ports.map (swapPort d m) } }
  (List.range 36).foldl settlePort { s with fab }

def peerSwapBody (mb : Nat) (c : Cmd) (s : State) : State :=
  if !clean c 0x1FFFFF 0x1FFFFF false then finish s mb c stMalformed
  else if jobIn s [.idle] then finish s mb c stResState
  else finish (peerSwap s c.arg0.toNat c.arg1.toNat) mb c 0

def execPeerSwap (mb : Nat) (tag : DWord) (s : State) : Out := mbCommand mb tag 7 11 (peerSwapBody mb) s

end Sys2Proof.Machine
end

