-- ==== Sys2Proof/Machine/Vision.lean ====
section
/-! DEFINITION. Vision.lean: the vision front end: contexts, rings, decode engines, box lists, frames into token tiles (17_vision_front_end.md). -/

namespace Sys2Proof.Machine

def stVisMalformed : Nat := 0x0801
def stVisState : Nat := 0x0802
def stVisOverlap : Nat := 0x0803
def stVisTooMany : Nat := 0x0804
def stVisLineBudget : Nat := 0x0805
def stVisSemaphore : Nat := 0x0806
def stTierWindowLost : Nat := 0x0A42

def visAt (s : State) (n : Nat) : VisCtx := s.vis.ctxs.getD n VisCtx.reset
def setVis (s : State) (n : Nat) (f : VisCtx → VisCtx) : State := { s with vis := { s.vis with ctxs := s.vis.ctxs.modify n f } }

/-! ### The context record (R419, R420) -/

def vCodec (d : List Byte) : Nat := field d 1 1
def vPriority (d : List Byte) : Nat := field d 2 1
def vChannels (d : List Byte) : Nat := if bit (field d 3 1) 0 then 1 else 3
def vFormat (d : List Byte) : Nat := field d 4 1
def vSlots (d : List Byte) : Nat := field d 6 2
def vRingBase (d : List Byte) : Nat := field d 8 8
def vRingLen (d : List Byte) : Nat := field d 0x10 8
def vDpbBase (d : List Byte) : Nat := field d 0x18 8
def vDpbLen (d : List Byte) : Nat := field d 0x20 8
def vSlotBase (d : List Byte) : Nat := field d 0x28 8
def vSlotBytes (d : List Byte) : Nat := field d 0x30 8
def vMaxTokens (d : List Byte) : Nat := field d 0x38 4
def vMaxBoxes (d : List Byte) : Nat := field d 0x3C 2
def vReadySem (d : List Byte) : Nat := field d 0x3E 2
def vFreeSem (d : List Byte) : Nat := field d 0x40 2
/-- KH, KW, SY, SX, DY, DX, PT, PB, PL, PR as byte `i` of the plan. -/
def vPlan (d : List Byte) (i : Nat) : Nat := field d (0x42 + i) 1
def vKh (d : List Byte) : Nat := vPlan d 0
def vKw (d : List Byte) : Nat := vPlan d 1
/-- Elements of a token row: K = C × KH × KW. -/
def vK (d : List Byte) : Nat := vChannels d * vKh d * vKw d
/-- Tiles across a token row, and bytes of an element. -/
def vTc (d : List Byte) : Nat := (vK d + 127) / 128
def vElem (d : List Byte) : Nat := if vFormat d = 0 then 4 else 2

/-- Record tiles, token tiles and seal tables of a slot (R429). -/
def vRt (d : List Byte) : Nat := (64 + 16 * vMaxBoxes d + 4095) / 4096
def vTokenTiles (d : List Byte) : Nat := (vMaxTokens d + 127) / 128 * vTc d
def vTokenBytes (d : List Byte) : Nat := vTokenTiles d * tileBytes (vFormat d) 0
def vSlotNeed (d : List Byte) : Nat := 4096 * vRt d + vTokenBytes d + 512 + roundUp (4 * vTokenTiles d) 512

/-- Whether three FP32 words at an offset are finite. -/
def finite3 (d : List Byte) (o : Nat) : Bool :=
  (List.range 3).all fun i => (nonFinite (f32 (BitVec.ofNat 32 (field d (o + 4 * i) 4)))).isNone

/-- The checks of a context record, each with the offset of its field, in rising order. -/
def visChecks (s : State) (d : List Byte) : List (Nat × Bool) :=
  let f (o n : Nat) := field d o n
  [(0x01, decide (1 ≤ f 1 1 ∧ f 1 1 ≤ 3)), (0x02, decide (f 2 1 ≤ 3)), (0x03, decide (f 3 1 ≤ 1)), (0x04, decide (f 4 1 ≤ 1)),
   (0x05, decide (f 5 1 ≤ 2)), (0x06, decide (2 ≤ f 6 2 ∧ f 6 2 ≤ 256)),
   (0x08, decide (f 8 8 % 65536 = 0) && localExists s (f 8 8) (f 0x10 8)),
   (0x10, decide (f 0x10 8 % 65536 = 0 ∧ 0x100000 ≤ f 0x10 8 ∧ f 0x10 8 ≤ 0x100000000)),
   (0x18, decide (f 0x18 8 % 65536 = 0) && localExists s (f 0x18 8) (f 0x20 8)), (0x20, decide (f 0x20 8 % 65536 = 0)),
   (0x28, decide (f 0x28 8 % 512 = 0) && localExists s (f 0x28 8) (f 0x30 8 * f 6 2)),
   (0x30, decide (f 0x30 8 % 512 = 0 ∧ vSlotNeed d ≤ f 0x30 8)), (0x38, decide (1 ≤ f 0x38 4 ∧ f 0x38 4 ≤ 1048576)),
   (0x3C, decide (1 ≤ f 0x3C 2 ∧ f 0x3C 2 ≤ 4096)), (0x3E, decide (f 0x3E 2 < 4096)), (0x40, decide (f 0x40 2 < 4096)),
   (0x42, decide (1 ≤ vKh d ∧ vKh d ≤ 32 ∧ vK d ≤ 3072)), (0x43, decide (1 ≤ vKw d ∧ vKw d ≤ 32)), (0x44, decide (1 ≤ f 0x44 1)),
   (0x45, decide (1 ≤ f 0x45 1)), (0x46, decide (1 ≤ f 0x46 1)), (0x47, decide (1 ≤ f 0x47 1)), (0x4C, decide (f 0x4C 4 = 0)),
   (0x74, (List.range 3).all fun i => decide (f (0x74 + 4 * i) 4 < 1024)), (0x80, finite3 d 0x80), (0x8C, finite3 d 0x8C),
   (0x98, finite3 d 0x98 && (decide (f 5 1 = 1) || sub d 0x98 12 == zeros 12)), (0xA4, sub d 0xA4 92 == zeros 92)]

/-- The areas of a context: ring, picture buffer, slots. -/
def visAreas (d : List Byte) : List (Nat × Nat) :=
  [(vRingBase d, vRingLen d), (vDpbBase d, vDpbLen d), (vSlotBase d, vSlotBytes d * vSlots d)]

/-- The records of the contexts that are open. -/
def openVis (s : State) : List (List Byte) := (s.vis.ctxs.filter fun v => v.phase ≠ .free).map (·.desc)

/-- Whether R420 refuses a semaphore. -/
def visSemBad (s : State) (n : Nat) : Bool :=
  semScope n = 0 || semScope n = 3 || (semScope n = 2 && 960 ≤ semIndex n) ||
    (openVis s).any (fun d => vReadySem d = n || vFreeSem d = n) || (s.job.phase ≠ .idle && s.job.purposes.any fun p => p.1 = n && p.2 ≠ 0)

def visOpenBody (mb : Nat) (c : Cmd) (s : State) : State :=
  let d := c.payload
  let n := field d 0 1
  if !clean c 0 0 true || d.length ≠ 256 then finish s mb c stMalformed
  else
    match (visChecks s d).find? fun x => !x.2 with
    | some x => finish s mb c stVisMalformed [] (BitVec.ofNat 64 x.1)
    | none =>
      if (visAt s n).phase ≠ .free then finish s mb c stVisState
      else if (visAreas d).any fun a => touches (reservedRanges s ++ (openVis s).flatMap visAreas) a.1 a.2 then finish s mb c stVisOverlap
      else if visSemBad s (vReadySem d) || visSemBad s (vFreeSem d) then finish s mb c stVisSemaphore
      else finish (setVis s n fun _ => { VisCtx.reset with desc := d, phase := .running }) mb c 0

def execVisOpen (mb : Nat) (tag : DWord) (s : State) : Out := mbCommand mb tag 8 1 (visOpenBody mb) s

/-! ### The bitstream ring (R421) -/

/-- Bytes of the ring from the `from`-th on. -/
def ringPieces (d : List Byte) (start n : Nat) : List (Nat × Nat) :=
  let o := start % vRingLen d
  if o + n ≤ vRingLen d then [(vRingBase d + o, n)] else [(vRingBase d + o, vRingLen d - o), (vRingBase d, n - (vRingLen d - o))]

def readRing (s : State) (d : List Byte) (start n : Nat) : List Byte := (ringPieces d start n).flatMap fun p => readLocal s p.1 p.2

/-- The front end's read of a part of a ring uses its pages (R285). -/
def touchRing (s : State) (d : List Byte) (start n : Nat) : State := (ringPieces d start n).foldl (fun s p => touchRead s p.1 p.2) s

/-- Appends bytes to a context's ring. -/
def appendRing (s : State) (n : Nat) (bs : List Byte) (eos : Bool) : State :=
  let v := visAt s n
  let t := (ringPieces v.desc v.tail bs.length).foldl (fun (t : State × List Byte) p => (writeLocal t.1 p.1 (t.2.take p.2), t.2.drop p.2)) (s, bs)
  setVis t.1 n fun v => { v with tail := v.tail + bs.length, eos := v.eos || eos }

/-- Bytes of the whole unit that stands at the front of the ring, 0 for none. -/
def unitBytes (s : State) (v : VisCtx) : Nat :=
  min (Config.accessUnit (vCodec v.desc) (readRing s v.desc v.head (v.tail - v.head)) v.eos) (v.tail - v.head)

/-- Picture `i` of a context is put out; it carries DISCONTINUITY if it is the first since the unit that ended a RESYNC (R417). -/
def putPicture (v : VisCtx) (i : Nat) : VisCtx :=
  let first := v.resumed.any (· ≤ Config.pictureUnit (vCodec v.desc) v.stream i)
  { v with pics := i + 1, waiting := v.waiting ++ [⟨i, v.stream.length, first⟩], resumed := if first then none else v.resumed }

/-- A context with the pictures that the standard's output process has put out by now; `ended` says that the stream has ended (R421). -/
def outputPictures (v : VisCtx) (ended : Bool) : VisCtx :=
  (List.range' v.pics (Config.picturesOut (vCodec v.desc) v.stream ended - v.pics)).foldl putPicture v

/-- A context whose stream has ended and left no unit puts out every picture still held; with none left it enters ENDED, and the VIS_CLOSE that
drains it completes (R421, R422). -/
def settleVis (s : State) (n : Nat) : State :=
  let v := visAt s n
  let busy := s.vis.engines.any fun e => e.any fun x => x.1 = n
  if (v.phase = .running || v.phase = .resync || v.phase = .draining) && v.eos && v.waits.isEmpty && !busy && unitBytes s v = 0 then
    let w := outputPictures v true
    if w.waiting.isEmpty then
      let s := setVis s n fun _ => { w with phase := .ended, drain := none }
      match v.drain with
      | some (mb, tag) => finishTag s mb tag 0
      | none => s
    else setVis s n fun _ => w
  else s

/-- The bytes of VIS_DATA or VIS_PULL as they enter the ring, none where the window is lost; and whether they bring EOS. -/
def visBytes (s : State) (c : Cmd) : Option (List Byte) × Bool :=
  if c.code = 3 then (some c.payload, c.arg0.getLsbD 8)
  else
    let w := field c.payload 1 1
    let o := field c.payload 8 8
    let n := field c.payload 16 8
    (if windowHolds s w o n then some (readRun s.host.mem (windowAddr s w o) n) else none, bit (field c.payload 2 1) 0)

/-- Length of what VIS_DATA or VIS_PULL appends. -/
def visLength (c : Cmd) : Nat := if c.code = 3 then c.payload.length else field c.payload 16 8

/-- Enters one command's bytes if they fit; else it waits behind those that wait. -/
def visEnter (s : State) (n mb : Nat) (c : Cmd) : State :=
  let v := visAt s n
  if vRingLen v.desc < v.tail - v.head + visLength c then
    setVis (markStarted s mb c.tag [n]) n fun v => { v with waits := v.waits ++ [(mb, c.tag)] }
  else
    match visBytes s c with
    | (some bs, eos) => settleVis (finish (appendRing s n bs eos) mb c 0) n
    | (none, _) => finish s mb c stTierWindowLost

/-- Lets the commands that wait for space go on, in order. -/
def pumpVis (s : State) (n : Nat) : State :=
  let ws := (visAt s n).waits
  settleVis (ws.foldl (fun s w =>
    match findCmd s w.1 w.2 with
    | none => s
    | some c =>
      if !(visAt s n).waits.isEmpty then setVis s n fun v => { v with waits := v.waits ++ [w] }
      else visEnter s n w.1 c) (setVis s n fun v => { v with waits := [] })) n

/-- VIS_DATA and VIS_PULL toward context `n`: states, length, space. -/
def visFeed (mb n : Nat) (c : Cmd) (s : State) : State :=
  let v := visAt s n
  if !(v.phase = .running || v.phase = .resync) || v.eos || v.waits.any (fun w => (findCmd s w.1 w.2).any fun c => (visBytes s c).2) then
    finish s mb c stVisState
  else if vRingLen v.desc < visLength c then finish s mb c stTooLong
  else if !v.waits.isEmpty then setVis (markStarted s mb c.tag [n]) n fun v => { v with waits := v.waits ++ [(mb, c.tag)] }
  else visEnter s n mb c

def visDataBody (mb : Nat) (c : Cmd) (s : State) : State :=
  if !clean c 0x1FF 0 true then finish s mb c stMalformed else visFeed mb (bits c.arg0.toNat 7 0) c s

def execVisData (mb : Nat) (tag : DWord) (s : State) : Out := mbCommand mb tag 8 3 (visDataBody mb) s

def visPullBody (mb : Nat) (c : Cmd) (s : State) : State :=
  let p := c.payload
  if !clean c 0 0 true || p.length ≠ 24 then finish s mb c stMalformed
  else if 1 < field p 2 1 then finish s mb c stVisMalformed [] 2
  else if !(sub p 3 5 == zeros 5) then finish s mb c stVisMalformed [] 3
  else visFeed mb (field p 0 1) c s

def execVisPull (mb : Nat) (tag : DWord) (s : State) : Out := mbCommand mb tag 8 4 (visPullBody mb) s

/-! ### Closing (R422) -/

/-- Stops a context at once and frees it: the engine leaves its picture, commands that waited on the context end with `st` (log 51). -/
def visStop (s : State) (n st : Nat) : State :=
  let v := visAt s n
  let busy := s.vis.engines.any fun e => e.any fun x => x.1 = n
  let s := if busy then havocLocal s (vDpbBase v.desc) (vDpbLen v.desc) else s
  let s := { s with vis := { s.vis with engines := s.vis.engines.map fun e => if e.any (fun x => x.1 = n) then none else e } }
  let s := setVis s n fun _ => VisCtx.reset
  (v.waits ++ v.drain.toList).foldl (fun s w => finishTag s w.1 w.2 st) s

def visCloseBody (mb : Nat) (c : Cmd) (s : State) : State :=
  let n := bits c.arg0.toNat 7 0
  let v := visAt s n
  if !clean c 0xFF 1 false then finish s mb c stMalformed
  else if v.phase = .free then finish s mb c stVisState
  else if !c.arg1.getLsbD 0 then finish (visStop s n stAborted) mb c 0
  else if v.phase = .ended then finish s mb c 0
  else if v.phase = .draining || v.phase = .error then finish s mb c stVisState
  else
    settleVis (setVis (markStarted s mb c.tag [n]) n fun v => { v with phase := .draining, hunt := v.phase = .resync, eos := true, drain := some (mb, c.tag) }) n

def execVisClose (mb : Nat) (tag : DWord) (s : State) : Out := mbCommand mb tag 8 2 (visCloseBody mb) s

/-! ### Box lists (R423, R426 to R428) -/

def bX (b : List Byte) : Int := signed 32 (field b 0 4)
def bY (b : List Byte) : Int := signed 32 (field b 4 4)
def bW (b : List Byte) : Nat := field b 8 4
def bH (b : List Byte) : Nat := field b 0xC 4
def bOw (b : List Byte) : Nat := field b 0x10 2
def bOh (b : List Byte) : Nat := field b 0x12 2

/-- The boxes of a list. -/
def boxesOf (l : List Byte) : List (List Byte) := (List.range (l.length / 24)).map fun i => sub l (24 * i) 24

/-- Token grid of a box (R426). -/
def gridW (d b : List Byte) : Int :=
  ((bOw b : Int) + vPlan d 8 + vPlan d 9 - (vPlan d 5 : Int) * ((vKw d : Int) - 1) - 1) / (vPlan d 3 : Int) + 1
def gridH (d b : List Byte) : Int :=
  ((bOh b : Int) + vPlan d 6 + vPlan d 7 - (vPlan d 4 : Int) * ((vKh d : Int) - 1) - 1) / (vPlan d 2 : Int) + 1

def boxTokens (d b : List Byte) : Nat := (gridW d b).toNat * (gridH d b).toNat
def listTokens (d : List Byte) (bs : List (List Byte)) : Nat := bs.foldl (fun n b => n + boxTokens d b) 0

/-- The line budget of R428. -/
def boxFits (d b : List Byte) : Bool :=
  bOw b * vChannels d * vElem d * (vPlan d 4 * (vKh d - 1) + 1) + 128 * 128 * vTc d * vElem d ≤ 4194304

/-- The first field of a box record outside its range, by its offset. -/
def boxBad (b : List Byte) : Option Nat :=
  ([(8, decide (1 ≤ bW b ∧ bW b < 2 ^ 31)), (0xC, decide (1 ≤ bH b ∧ bH b < 2 ^ 31)), (0x10, decide (1 ≤ bOw b ∧ bOw b ≤ 4096)),
    (0x12, decide (1 ≤ bOh b ∧ bOh b ≤ 4096)), (0x14, decide (field b 0x14 1 ≤ 1)), (0x15, decide (field b 0x15 1 = 0))].find? fun x => !x.2).map (·.1)

/-- The box list that frame `n` takes: its own, else the static one that it was ready with, else the static one. -/
def listFor (v : VisCtx) (n : Nat) : Option (List Byte) :=
  ((v.lists.find? fun l => l.1 = n).map (·.2)).or (((v.taken.find? fun l => l.1 = n).map (·.2)).or v.always)

/-- Whether the slot of frame `k` of context `n` is free (R431): the first SLOTS frames find theirs free, and each one after them takes 1 from
FREE_SEM, in frame order. -/
def slotFreeFor (s : State) (n : Nat) (v : VisCtx) (k : Nat) : Bool :=
  k < vSlots v.desc || k + 1 - max v.out (vSlots v.desc) ≤ semGet s 0 (Config.visDie n % 2) (vFreeSem v.desc)

/-- The frames that are ready: decoded, with a list and a free slot, and every frame before them ready. -/
def readyFrames (s : State) (n : Nat) (v : VisCtx) : List Nat :=
  (List.range' v.out v.waiting.length).takeWhile fun k => (listFor v k).isSome && slotFreeFor s n v k

/-- A static list replaces the earlier one for frames that are not yet ready (R423): those that are, and have no list of their own, keep it. -/
def setStatic (s : State) (n : Nat) (l : List Byte) : State :=
  let v := visAt s n
  let bare := (readyFrames s n v).filter fun k => v.lists.all fun x => x.1 ≠ k
  let held := bare.filterMap fun k => (listFor v k).map fun x => (k, x)
  setVis s n fun v => { v with always := some l, taken := held }

def visBoxesBody (mb : Nat) (c : Cmd) (s : State) : State :=
  let n := bits c.arg0.toNat 7 0
  let v := visAt s n
  let fixed := c.arg0.getLsbD 8
  let bs := boxesOf c.payload
  let no := c.arg1.toNat
  if !clean c 0x1FF all64 true || c.payload.length % 24 ≠ 0 || c.payload.isEmpty then finish s mb c stMalformed
  else if v.phase = .free || v.phase = .ended || v.phase = .error then finish s mb c stVisState
  else
    match (bs.mapIdx fun i b => (boxBad b).map (24 * i + ·)).findSome? id with
    | some o => finish s mb c stVisMalformed [] (BitVec.ofNat 64 o)
    | none =>
      match (bs.mapIdx fun i b => if gridW v.desc b < 1 || gridH v.desc b < 1 then some (24 * i + 0x10) else none).findSome? id with
      | some o => finish s mb c stVisMalformed [] (BitVec.ofNat 64 o)
      | none =>
        if vMaxBoxes v.desc < bs.length || vMaxTokens v.desc < listTokens v.desc bs then finish s mb c stVisTooMany
        else if !bs.all (boxFits v.desc) then finish s mb c stVisLineBudget
        else if fixed then finish (setStatic s n c.payload) mb c 0
        else
          let rest := v.lists.filter fun l => l.1 ≠ no
          if no < v.out || 16 ≤ rest.length then finish s mb c stVisState
          else finish (setVis s n fun v => { v with lists := rest ++ [(no, c.payload)] }) mb c 0

def execVisBoxes (mb : Nat) (tag : DWord) (s : State) : Out := mbCommand mb tag 8 5 (visBoxesBody mb) s

/-! ### VIS_QUERY -/

def visCode : VisPhase → Nat
  | .free => 0
  | .running => 1
  | .resync => 2
  | .draining => 3
  | .ended => 4
  | .error => 5

/-- Whether the slot of the next frame is free. -/
def slotFree (s : State) (n : Nat) (v : VisCtx) : Bool := slotFreeFor s n v v.out

def visEntry (s : State) (n : Nat) (v : VisCtx) : List Byte :=
  if v.phase = .free then zeros 32
  else
    let waiting := b2n (v.head = v.tail) + 2 * b2n (!Config.dpbFree (vCodec v.desc) v.stream v.waiting.length) + 4 * b2n (!slotFree s n v) +
      8 * b2n (!v.waiting.isEmpty && (listFor v v.out).isNone)
    le 1 (visCode v.phase) ++ le 1 v.cause ++ le 1 (vPriority v.desc) ++ le 1 waiting ++ le 4 ((v.tail - v.head + 1023) / 1024) ++ le 8 v.out ++
      le 4 v.dropped ++ le 4 v.errors ++ zeros 8

def visQueryBody (mb : Nat) (c : Cmd) (s : State) : State :=
  if !clean c 0 0 false then finish s mb c stMalformed else finish s mb c 0 ((s.vis.ctxs.mapIdx fun n v => visEntry s n v).flatten)

def execVisQuery (mb : Nat) (tag : DWord) (s : State) : Out := mbCommand mb tag 8 6 (visQueryBody mb) s

/-! ### Decode engines (R414 to R418) -/

/-- Whether a context is decodable (R416). -/
def decodable (s : State) (n : Nat) : Bool :=
  let v := visAt s n
  (v.phase = .running || v.phase = .resync || v.phase = .draining) && 0 < unitBytes s v &&
    Config.dpbFree (vCodec v.desc) v.stream v.waiting.length && !s.vis.engines.any fun e => e.any fun x => x.1 = n

/-- The context that engine `e` takes. -/
def pickContext (s : State) (e : Nat) : Option Nat :=
  let order := (List.range 256).map fun i => (s.vis.served.getD e 255 + 1 + i) % 256
  let able := order.filter (decodable s)
  let top := (able.map fun n => vPriority (visAt s n).desc).max?
  able.find? fun n => some (vPriority (visAt s n).desc) = top

def decodeStart (s : State) (e : Nat) : State :=
  if (s.vis.engines.getD e none).isSome then s
  else
    match pickContext s e with
    | none => s
    | some n =>
      let v := visAt s n
      let k := unitBytes s v
      let bad := (ringPieces v.desc v.head k).findSome? fun p => badGranule s p.1 p.2
      let s := match bad with | some g => uncorrectable s g | none => s
      { s with vis := { s.vis with engines := s.vis.engines.set e (some (n, k, bad.isSome)), served := s.vis.served.set e n } }

def execDecodeStart (engine : Nat) (s : State) : Out := onUnit engine 8 (.next (decodeStart s engine))

/-- An error event of a context (R417). -/
def visError (s : State) (n cause : Nat) : State := event (setVis s n fun v => { v with errors := v.errors + 1 }) 11 (n + 256 * cause)

/-- A picture is dropped (R417, R418). -/
def visDrop (s : State) (n : Nat) : State :=
  visError (setVis s n fun v => { v with
    phase := if v.phase = .draining then .draining else .resync, hunt := v.phase = .draining, dropped := v.dropped + 1, lists := [], discont := true }) n 0

/-- A context enters ERROR. -/
def visFail (s : State) (n cause : Nat) : State := visError (setVis s n fun v => { v with phase := .error, cause := cause }) n cause

/-- The decoded picture of a shot (R415): width, height, bit depth, planes, grain. -/
def shotPicture (v : VisCtx) (x : Shot) := Config.decodePicture (vCodec v.desc) (v.stream.take x.upto) x.index

/-- What ends a unit without a picture (R417): cause 0 drops it, the others end the context. `lost` says that it could not be read whole. -/
def unitFault (v : VisCtx) (unit : List Byte) (lost : Bool) : Option Nat :=
  let codec := vCodec v.desc
  let (w, h, depth, chroma) := Config.pictureForm codec v.stream unit
  if lost then some 0
  else if Config.verdict codec v.stream unit = .unsupported then some 1
  else if w < 64 || 8192 < w || h < 64 || 4352 < h || 35651584 < w * h then some 2
  else if vDpbLen v.desc < Config.dpbNeed codec v.stream unit then some 3
  else if 1 < chroma || (depth ≠ 8 && depth ≠ 10) then some 4
  else if Config.verdict codec v.stream unit = .broken then some 0
  else none

/-- A unit has left the ring (R417). A context in RESYNC, or that drains out of it, discards up to the next random access point. -/
def unitDone (s : State) (n : Nat) (unit : List Byte) (lost : Bool) : State :=
  let v := visAt s n
  let hunts := v.phase = .resync || v.hunt
  let gone (s : State) : State := setVis s n fun v => { v with stream := v.stream ++ [(true, unit)] }
  if hunts && (lost || !Config.randomAccess (vCodec v.desc) v.stream unit) then gone s
  else
    match unitFault v unit lost with
    | some 0 => visDrop (gone s) n
    | some k => visFail (gone s) n k
    | none =>
      setVis s n fun v => outputPictures { v with
        stream := v.stream ++ [(false, unit)], phase := if v.phase = .resync then .running else v.phase, hunt := false,
        resumed := if hunts then some v.stream.length else v.resumed } false

/-- A memory error that an engine's reads of its unit and of the picture buffer met: whether it is uncorrectable, and the state after. -/
def decodeReads (s : State) (v : VisCtx) (k : Nat) (error : Option ReadEvent) : Bool × State :=
  match error with
  | none => (false, s)
  | some e =>
    (ringPieces v.desc v.head k ++ [(vDpbBase v.desc, vDpbLen v.desc)]).foldl (fun (t : Bool × State) p =>
      let (g, u) := readEvent t.2 p.1 p.2 e
      (t.1 || g.isSome, u)) (false, s)

/-- DECODE_DONE: the engine returns to the pool, the unit's bytes leave the ring, and the unit ends as its bytes say. -/
def decodeDone (s : State) (e : Nat) (error : Option ReadEvent) : State :=
  match s.vis.engines.getD e none with
  | none => s
  | some (n, k, bad) =>
    let v := visAt s n
    let unit := readRing s v.desc v.head k
    let s := touchRing s v.desc v.head k
    let (hit, s) := decodeReads s v k error
    let s := { s with vis := { s.vis with engines := s.vis.engines.set e none } }
    let s := havocLocal s (vDpbBase v.desc) (vDpbLen v.desc)
    let s := setVis s n fun v => { v with head := v.head + k }
    pumpVis (unitDone s n unit (bad || hit)) n

def execDecodeDone (engine : Nat) (error : Option ReadEvent) (s : State) : Out := onUnit engine 8 (.next (decodeDone s engine error))

/-! ### From picture to tokens (R424 to R431) -/

/-- The sample of a plane at a column and row, both clamped to the picture (R424). -/
def planeAt (q : List (List Nat)) (w h : Nat) (i j : Int) : Nat :=
  let clampTo (v : Int) (n : Nat) : Nat := (max 0 (min v ((n : Int) - 1))).toNat
  nth (q.getD (clampTo j h) []) (clampTo i w)

/-- The value of output pixel (ox, oy) of a box from one plane (R424). -/
def resize (b : List Byte) (q : List (List Nat)) (w h sc ox oy : Nat) : Nat :=
  let at' (o a len n : Int) : Int := (2 * n * a + (2 * o + 1) * len) * 4096 / (2 * n * (sc : Int)) - 32768
  let px := at' ox (bX b) (bW b) (bOw b)
  let py := at' oy (bY b) (bH b) (bOh b)
  if field b 0x14 1 = 0 then planeAt q w h ((px + 32768) / 65536) ((py + 32768) / 65536)
  else
    let i := px / 65536
    let j := py / 65536
    let fx := (px / 256 % 256).toNat
    let fy := (py / 256 % 256).toNat
    ((256 - fx) * (256 - fy) * planeAt q w h i j + fx * (256 - fy) * planeAt q w h (i + 1) j +
      (256 - fx) * fy * planeAt q w h i (j + 1) + fx * fy * planeAt q w h (i + 1) (j + 1) + 32768) / 65536

/-- A picture: width, height, bit depth, luma and chroma planes, grain. -/
abbrev Picture := Nat × Nat × Nat × List (List Nat) × List (List Nat) × List (List Nat) × Bool

/-- The three samples of an output pixel. -/
def samples (p : Picture) (b : List Byte) (ox oy : Nat) : List Nat :=
  let (w, h, depth, y, cb, cr, _) := p
  let chroma (q : List (List Nat)) : Nat := if q.isEmpty then 2 ^ (depth - 1) else resize b q ((w + 1) / 2) ((h + 1) / 2) 2 ox oy
  [resize b y w h 1 ox oy, chroma cb, chroma cr]

/-- An FP32 word of the context record. -/
def vWord (d : List Byte) (o : Nat) : Word := BitVec.ofNat 32 (field d o 4)

/-- The code of an FP32 value in OUT_FORMAT. -/
def outCode (d : List Byte) (v : Word) : Nat := if vFormat d = 0 then v.toNat else encode 1 .rne false (f32 v)

/-- Channel `k` of an output pixel (R425). -/
def colour (d : List Byte) (p : Picture) (b : List Byte) (ox oy k : Nat) : Nat :=
  let a := (samples p b ox oy).mapIdx fun i (v : Nat) => roundF32 (intVal ((v : Int) - (field d (0x74 + 4 * i) 4 : Int)) 0)
  let m (i : Nat) : Word := vWord d (0x50 + 12 * k + 4 * i)
  let t := mulF32 (m 0) (a.getD 0 0)
  let t := fmaF32 (m 1) (a.getD 1 0) t
  let t := fmaF32 (m 2) (a.getD 2 0) t
  outCode d (fmaF32 t (vWord d (0x80 + 4 * k)) (vWord d (0x8C + 4 * k)))

/-- Element `e` of token (tx, ty) of a box (R426). -/
def tokenElem (d : List Byte) (p : Picture) (b : List Byte) (tx ty e : Nat) : Nat :=
  let c := e / (vKh d * vKw d)
  let ky := e / vKw d % vKh d
  let kx := e % vKw d
  let ix : Int := (tx * vPlan d 3 + kx * vPlan d 5 : Nat) - (vPlan d 8 : Int)
  let iy : Int := (ty * vPlan d 2 + ky * vPlan d 4 : Nat) - (vPlan d 6 : Int)
  if 0 ≤ ix && ix < bOw b && 0 ≤ iy && iy < bOh b then colour d p b ix.toNat iy.toNat c
  else
    match field d 5 1 with
    | 0 => 0
    | 1 => outCode d (vWord d (0x98 + 4 * c))
    | _ => colour d p b (max 0 (min ix ((bOw b : Int) - 1))).toNat (max 0 (min iy ((bOh b : Int) - 1))).toNat c

/-- The boxes of a frame, each with its first token (R427). -/
def placedBoxes (d : List Byte) : Nat → List (List Byte) → List (Nat × List Byte)
  | _, [] => []
  | k, b :: bs => (k, b) :: placedBoxes d (k + boxTokens d b) bs

/-- Element `e` of token `t` of a frame. -/
def frameElem (d : List Byte) (p : Picture) (bs : List (Nat × List Byte)) (t e : Nat) : Nat :=
  match bs.find? fun x => t < x.1 + boxTokens d x.2 with
  | none => 0
  | some x =>
    let w := (gridW d x.2).toNat
    tokenElem d p x.2 ((t - x.1) % w) ((t - x.1) / w) e

/-- Writes the token tiles of a frame and their seals (R429, R430). -/
def writeTokens (s : State) (d : List Byte) (base seals total : Nat) (el : Nat → Nat → Nat) : State :=
  let tc := vTc d
  (List.range ((total + 127) / 128 * tc)).foldl (fun s i =>
    let tr := i / tc
    let c := i % tc
    let sh : Shape := ⟨vFormat d, 0, 0, 0, min 128 (total - 128 * tr), min 128 (vK d - 128 * c)⟩
    let bs := packTile sh (fun r e => el (128 * tr + r) (128 * c + e)) fun _ _ => 0
    writeLocal (writeLocal s (base + i * tileBytes (vFormat d) 0) bs) (seals + 4 * i) (le 4 (sealOf sh bs).toNat)) s

/-- Writes the record tiles of a frame and their seals. -/
def writeRecordTiles (s : State) (d : List Byte) (base seals : Nat) (rec' : List Byte) : State :=
  (List.range (vRt d)).foldl (fun s i =>
    let sh : Shape := ⟨0, 0, 0, 1, 32, 32⟩
    let bs := sub rec' (4096 * i) 4096
    writeLocal (writeLocal s (base + 4096 * i) bs) (seals + 4 * i) (le 4 (sealOf sh bs).toNat)) s

/-- The first non-finite element of a frame, in row-major token order. -/
def firstHit (d : List Byte) (total : Nat) (el : Nat → Nat → Nat) : Option (Nat × Nat) :=
  (List.range total).findSome? fun t =>
    ((List.range (vK d)).find? fun e => (nonFinite (decodeElem (vFormat d) (el t e))).isSome).map fun e => (t, e)

/-- The frame record (R429). -/
def frameRecord (v : VisCtx) (n : Nat) (p : Picture) (disc : Bool) (bs : List (Nat × List Byte)) (total : Nat) (hit : Option (Nat × Nat))
    (tokens seals : Nat) : List Byte :=
  let d := v.desc
  let (w, h, depth, _, _, _, grain) := p
  let head := ascii "TKVF" ++ le 1 n ++ le 1 (b2n disc + 2 * b2n grain + 4 * b2n hit.isSome) ++ le 2 bs.length ++ le 8 v.out ++ le 2 w ++ le 2 h ++
    le 4 total ++ le 4 (hit.elim 0xFFFFFFFF (·.1)) ++ le 2 (hit.elim 0 (·.2)) ++ le 1 depth ++ zeros 1
  let desc := le 4 (0x01000000 + vFormat d) ++ le 4 total ++ le 4 (vK d) ++ le 4 (vTc d * tileBytes (vFormat d) 0 / 512) ++ le 2 0 ++ le 6 seals ++
    le 8 tokens
  head ++ desc ++ bs.flatMap fun x =>
    le 4 x.1 ++ le 2 (gridW d x.2).toNat ++ le 2 (gridH d x.2).toNat ++ le 2 (field x.2 0x16 2) ++ zeros 6

/-- FRAME_TOKENIZE: the next frame of a context, if its picture, its list and its slot are there (R423, R431). -/
def frameTokenize (s : State) (n : Nat) : State :=
  let v := visAt s n
  match v.waiting.head?, listFor v v.out with
  | some x, some l =>
    if v.phase = .free || v.phase = .error || !slotFree s n v then s
    else
      let d := v.desc
      let die := Config.visDie n % 2
      let s := if v.out < vSlots d then s else semTake s 0 die (vFreeSem d) 1
      let p := shotPicture v x
      let bs := placedBoxes d 0 (boxesOf l)
      let total := listTokens d (boxesOf l)
      let el := frameElem d p bs
      let base := vSlotBase d + vSlotBytes d * (v.out % vSlots d)
      let tokens := base + 4096 * vRt d
      let rseals := tokens + vTokenBytes d
      let tseals := rseals + 512
      let s := writeTokens s d tokens tseals total el
      let s := writeRecordTiles s d base rseals (frameRecord v n p (v.discont || x.disc) bs total (firstHit d total el) tokens tseals)
      let s := semAdd s 0 die (vReadySem d) 1
      let s := setVis s n fun v => { v with
        waiting := v.waiting.drop 1, out := v.out + 1, lists := v.lists.filter fun l => l.1 ≠ v.out
        taken := v.taken.filter fun l => l.1 ≠ v.out, discont := false }
      settleVis s n
  | _, _ => s

def execFrameTokenize (ctx : Nat) (s : State) : Out := onUnit ctx 256 (.next (frameTokenize s ctx))

end Sys2Proof.Machine
end

