-- ==== Sys2Proof/Machine/Abort.lean ====
section
/-! DEFINITION. Abort.lean: TIER_COPY (12_memory_tiers.md), reads of host memory that time out, ABORT and CLOSE (02_host_commands.md). -/

namespace Sys2Proof.Machine

/-! ### TIER_COPY (R288) -/

/-- The fields of a copy record. -/
def cpOut (p : List Byte) : Bool := field p 0 1 = 1
def cpWindow (p : List Byte) : Nat := field p 2 1
def cpFar (p : List Byte) : Nat := field p 8 8
def cpNear (p : List Byte) : Nat := field p 0x10 8
def cpLen (p : List Byte) : Nat := field p 0x18 8
/-- FAR_KIND 0: the far side is a host window. -/
def cpHost (p : List Byte) : Bool := field p 1 1 = 0

/-- Reserved values of the record. -/
def copyFormOk (p : List Byte) : Bool :=
  p.length = 32 && field p 0 1 ≤ 1 && field p 1 1 ≤ 1 && cpWindow p ≤ (if cpHost p then 15 else 0) && sub p 3 5 == zeros 5

/-- Alignment, length and the near range. -/
def copyNearOk (s : State) (p : List Byte) : Bool :=
  cpFar p % 4096 = 0 && cpNear p % 4096 = 0 && cpLen p % 4096 = 0 && 0 < cpLen p && cpLen p ≤ 2 ^ 40 && lpddrBase ≤ cpNear p &&
    freeRange s (cpNear p) (cpLen p)

/-- A far range on one other module. -/
def copyRemoteOk (s : State) (p : List Byte) : Bool :=
  space (cpFar p) = 1 && some (device (cpFar p)) ≠ s.fab.device && offset (cpFar p) + cpLen p ≤ 2 ^ 41

/-- Why a copy is turned away: a status, or nothing. -/
def copyRefused (s : State) (p : List Byte) : Option Nat :=
  if !copyNearOk s p then some stRange
  else if cpHost p then
    if !(s.host.windows.any fun w => w.num = cpWindow p) then some stTierWindowLost
    else if !windowHolds s (cpWindow p) (cpFar p) (cpLen p) then some stRange
    else none
  else if !copyRemoteOk s p then some stRange
  else none

/-- What a copy that does not end OK leaves of its destination (R288). -/
def copySpoiled (s : State) (p : List Byte) : State :=
  if !cpOut p then havocLocal s (cpNear p) (cpLen p)
  else if cpHost p then
    bump (hostWrite s (windowAddr s (cpWindow p) (cpFar p)) (freeBytes s (cpLen p))) (cpLen p)
  else s

/-- A copy that is refused leaves its destination undefined as far as it could have written it at all: in LPDDR outside reserved ranges, or in a
window that holds it (R288, log 127). -/
def refusedSpoils (s : State) (p : List Byte) : State :=
  if copyNearOk s p && (!cpOut p || (cpHost p && windowHolds s (cpWindow p) (cpFar p) (cpLen p))) then copySpoiled s p else s

/-- A copy between LPDDR and a host window. -/
def hostCopy (mb : Nat) (c : Cmd) (s : State) : State :=
  let p := c.payload
  let a := windowAddr s (cpWindow p) (cpFar p)
  if cpOut p then
    match badGranule s (cpNear p) (cpLen p) with
    | some g =>
      finish (uncorrectables (copySpoiled s p) (cpNear p) (cpLen p)) mb c stDeviceFault [] (BitVec.ofNat 64 g) (BitVec.ofNat 64 (memUnit s g))
    | none => finish (hostWrite (touchRead s (cpNear p) (cpLen p)) a (readLocal s (cpNear p) (cpLen p))) mb c 0
  else endWrite (writeLocal s (cpNear p) (readRun s.host.mem a (cpLen p))) mb c [(cpNear p, cpLen p)]

def tierCopyBody (mb : Nat) (c : Cmd) (s : State) : State :=
  if !clean c 0 0 true || !copyFormOk c.payload then finish s mb c stMalformed
  else
    match copyRefused s c.payload with
    | some st => finish (refusedSpoils s c.payload) mb c st
    | none =>
      if cpHost c.payload then whenServed [(cpNear c.payload, cpLen c.payload)] (hostCopy mb c) s
      else copyStep (markStarted s mb c.tag [0]) mb c.tag

def execTierCopy (mb : Nat) (tag : DWord) (s : State) : Out := mbCommand mb tag 10 0x44 (tierCopyBody mb) s

/-! ### HOST_READ_TIMEOUT (R28) -/

/-- How a command that reads host memory ends when a read of it has no completion for 50 ms: AER logs it, and CPL_TIMEOUT is set (R481). -/
def readTimesOut (mb : Nat) (c : Cmd) (spoil : State → State) (s : State) : State :=
  let s := finish (spoil (advance s (s.time + 50000000))) mb c stHostTimeout
  setError { s with host := { s.host with aer := true } } 5

/-- A VIS_PULL that waits for ring space and reads its window meanwhile: the ring stays as it was, and what waits behind it goes on. -/
def pullTimesOut (s : State) (mb : Nat) (c : Cmd) : State :=
  let n := nth c.aux 0
  pumpVis (readTimesOut mb c (fun s => setVis s n fun v => { v with waits := v.waits.filter fun w => w ≠ (mb, c.tag) }) s) n

/-- The VIS_PULL `tag` of a mailbox, started and not yet in its ring. -/
def waitingPull (s : State) (mb : Nat) (tag : DWord) : Option Cmd :=
  (findCmd s mb tag).filter fun c => c.cls = 8 && c.code = 4 && c.started && (visAt s (nth c.aux 0)).waits.contains (mb, tag)

/-- Whether a RESTORE reads its image from a host window. -/
def restoreReadsHost (s : State) (c : Cmd) : Bool :=
  clean c 0 0 true && c.payload.length = 64 && (firstBad (restoreChecks c.payload)).isNone && jobIn s [.loaded, .stopped, .held] &&
    s.res.conf.isSome && s.res.reading.isNone && field c.payload 0 1 = 3

/-- What the command `tag` that reads host memory leaves: the destination of a copy, the sides of a restore (R404); a ring stays as it
was (R421). -/
def hostReadTimeout (s : State) (mb : Nat) (tag : DWord) : State :=
  match starting s mb tag 10 0x44, starting s mb tag 8 4, starting s mb tag 7 8 with
  | some c, _, _ =>
    if copyFormOk c.payload && (copyRefused s c.payload).isNone && cpHost c.payload && !cpOut c.payload then
      readTimesOut mb c (fun s => copySpoiled s c.payload) s
    else s
  | none, some c, _ =>
    if c.payload.length = 24 && windowHolds s (field c.payload 1 1) (field c.payload 8 8) (field c.payload 16 8) then
      readTimesOut mb c (fun s => s) s
    else s
  | none, none, some c => if restoreReadsHost s c then readTimesOut mb c restoreLost s else s
  | none, none, none => (waitingPull s mb tag).elim s (pullTimesOut s mb)

def execHostReadTimeout (mb : Nat) (tag : DWord) (s : State) : Out :=
  onUnit mb 16 (.next (if s.pwr.standby then s else hostReadTimeout s mb tag))

/-! ### Ending a command (R59 to R61, R183, R289, R344, R397, R421, R422, R445) -/

/-- The core on which the LAUNCH `tag` of a mailbox runs now. -/
def launchOn (s : State) (mb : Nat) (tag : DWord) : Option Nat :=
  (List.range 152).find? fun n => (coreAt s n).launch.any fun l => l.host = some (mb, tag)

/-- Whether a command's final status is decided (R60, R61): an abort has ended it, or it is a LAUNCH whose core has stopped. -/
def decided (s : State) (mb : Nat) (c : Cmd) : Bool :=
  ending c || c.cls = 5 && c.code = 4 && c.started && (launchOn s mb c.tag).any fun n => (coreAt s n).stop.isSome

/-- A LAUNCH is halted; its record comes with the abort's end. -/
def endLaunchOf (s : State) (mb : Nat) (c : Cmd) : State :=
  match launchOn s mb c.tag with
  | some n => if (coreAt s n).stop.isSome then s else markStarted (stopFar (haltCore s n) n) mb c.tag [n, 1]
  | none => finishTag s mb c.tag stAborted

/-- Ends transactions without an answer. -/
def dropTxs (s : State) (gone : Tx → Bool) : State := (s.fab.txs.filter gone).foldl (fun s t => dropTx (retireTag s t) t.id) s

/-- A TIER_COPY over the fabric stops; its record comes with the abort's end. What has not left goes from the ports; a transaction of which a
packet has left on a near link waits for its response (R316). -/
def endCopy (s : State) (mb : Nat) (c : Cmd) : State :=
  let mine (o : TxOwner) : Bool := o = .copy mb c.tag
  let s := nearStrip (farStrip s (farOwned s mine)) (farOwned s mine)
  let s := dropTxs s fun t => mine t.owner && !(t.wait = .response && t.last.isSome)
  pumpTx (copyUndefined (markStarted s mb c.tag [nth c.aux 0, 1]) c)

/-- A SNAP_TAKE leaves the queue, or gives its slot back (R397). -/
def endSnap (s : State) (mb : Nat) (tag : DWord) : State :=
  resOf s fun r =>
    let mine (x : SnapRun) : Bool := x.cmd = some (mb, tag)
    match r.snap with
    | some x =>
      if mine x then { r with snap := none, slots := r.slots.modify x.slot fun _ => ⟨0, 0, 0, 0, 0, []⟩ }
      else { r with waiting := r.waiting.filter fun x => !mine x }
    | none => { r with waiting := r.waiting.filter fun x => !mine x }

/-- A RESTORE that reads the vault stops (R404). -/
def endRestore (s : State) (mb : Nat) (tag : DWord) : State := restoreLost (dropTxs s fun t => t.owner = .restore mb tag)

/-- A RESHARD that waits is dropped. -/
def endReshard (s : State) (mb : Nat) (tag : DWord) : State :=
  { s with coll := { s.coll with pending := s.coll.pending.filter fun r => !(r.mb = mb && r.tag = tag) } }

/-- An aborted TIER_HINT answers with the outcomes it has; the others are CANCELLED (R289). -/
def endHint (s : State) (mb : Nat) (c : Cmd) : State :=
  let s := abortHint s mb c.tag
  let codes := (findCmd s mb c.tag).elim c.aux (·.aux)
  finishTag s mb c.tag stAborted (codes.map fun x => BitVec.ofNat 8 (if x = 256 then 6 else x))

/-- VIS_DATA or VIS_PULL stops waiting, and what waited behind it goes on. -/
def endFeed (s : State) (mb : Nat) (c : Cmd) : State :=
  let n := nth c.aux 0
  pumpVis (finishTag (setVis s n fun v => { v with waits := v.waits.filter fun w => w ≠ (mb, c.tag) }) mb c.tag stAborted) n

/-- Ends one command of mailbox `mb`: with its record at once, but for a launch and a copy over the fabric. -/
def endTarget (s : State) (mb : Nat) (c : Cmd) : State :=
  if !c.started then endEarly s mb c.tag stAborted
  else if ending c then s
  else
    match c.cls, c.code with
    | 5, 4 => endLaunchOf s mb c
    | 6, 0x24 => finishTag (endReshard s mb c.tag) mb c.tag stAborted
    | 7, 4 => finishTag (endSnap s mb c.tag) mb c.tag stAborted
    | 7, 8 => finishTag (endRestore s mb c.tag) mb c.tag stAborted
    | 8, 2 => visStop s (nth c.aux 0) stAborted
    | 8, 3 => endFeed s mb c
    | 8, 4 => endFeed s mb c
    | 10, 4 => finishTag (setCore s (nth c.aux 0) fun x => { x with deferred := none }) mb c.tag stAborted
    | 10, 0x41 => finishTag (abortRegion s mb c.tag) mb c.tag stAborted
    | 10, 0x42 => endHint s mb c
    | 10, 0x43 => abortFlush (finishTag s mb c.tag stAborted) c.aux
    | 10, 0x44 => endCopy s mb c
    | _, _ => finishTag s mb c.tag stAborted

/-- When the last packet of a copy can still land (R307, R316, R368). -/
def copyLimit (s : State) (mb : Nat) (c : Cmd) : Nat :=
  let mine (o : TxOwner) : Bool := o = .copy mb c.tag
  (s.fab.txs.filter fun t => mine t.owner).foldl (fun k t => max k (t.last.elim 0 (· + lNear))) (farLast s mine c.acked)

/-- The latest such time of the copies among commands that an abort has stopped. -/
def copyLimits (s : State) (mb : Nat) (tags : List DWord) : Nat :=
  tags.foldl (fun k x => match findCmd s mb x with
    | some c => if c.cls = 10 && c.code = 0x44 && c.started then max k (copyLimit s mb c) else k
    | none => k) 0

/-- A command that an abort has stopped ends ABORTED, once its core has reported. -/
def endStopped (s : State) (mb : Nat) (tag : DWord) : State :=
  let s := match launchOn s mb tag with | some n => trapStop s n | none => s
  match findCmd s mb tag with
  | some c =>
    if ending c && (launchOn s mb tag).isNone then finish (dropTxs s fun t => t.owner = .copy mb tag) mb c stAborted else s
  | none => s

/-! ### ABORT (R59 to R61) -/

def isAbortOrClose (c : Cmd) : Bool := c.cls = 11 || (c.cls = 1 && c.code = 3)

/-- The commands that an ABORT means. -/
def abortTargets (s : State) (t : Nat) (c : Cmd) : List Cmd :=
  if c.arg1.getLsbD 8 then (mbAt s t).cmds.filter fun x => !isAbortOrClose x else (findCmd s t c.arg0).toList

def outstanding (s : State) (mb : Nat) (tag : DWord) : Bool := (findCmd s mb tag).isSome

/-- An ABORT ends: OK with the number of commands it ended, or NOTHING_TO_ABORT. -/
def abortEnds (s : State) (mb : Nat) (c : Cmd) (n : Nat) : State :=
  finish s mb c (if n = 0 then stNothing else 0) [] (BitVec.ofNat 64 n)

def abortBody (mb : Nat) (c : Cmd) (s : State) : State :=
  let t := bits c.arg1.toNat 3 0
  let all := c.arg1.getLsbD 8
  if !clean c all64 0x10F false || (all && c.arg0 ≠ 0) then finish s mb c stMalformed
  else if mb ≠ 0 ∧ t ≠ mb then finish s mb c stNotPermitted
  else
    let ts := abortTargets s t c
    if !all && ts.any isAbortOrClose then finish s mb c stNotAbortable
    else
      let n := (ts.filter fun x => !decided s t x).length
      let s := ts.foldl (fun s x => endTarget s t x) s
      let left := (ts.map (·.tag)).filter (outstanding s t)
      if left.isEmpty then abortEnds s mb c n else markStarted s mb c.tag ([0, n, t] ++ left.map (·.toNat))

/-- ABORT starts at its acknowledgement (R35). -/
def execAbort (mb : Nat) (tag : DWord) (s : State) : Out :=
  onUnit mb 16 <|
    match findCmd s mb tag with
    | some c =>
      if c.cls = 11 ∧ c.whole ∧ ¬ c.started then .next (if s.pwr.standby then finish s mb c 0x0A01 else abortBody mb c s) else .next s
    | none => .next s

/-- An abort that waits goes on: it ends once every target has its record, and no packet of a copy can land any more. -/
def abortComplete (s : State) (mb : Nat) (c : Cmd) : State :=
  let t := nth c.aux 2
  let tags := (c.aux.drop 3).map (BitVec.ofNat 64)
  let s' := tags.foldl (fun s x => endStopped s t x) (advance s (copyLimits s t tags))
  if tags.any (outstanding s' t) then s else abortEnds s' mb c (nth c.aux 1)

def execAbortComplete (mb : Nat) (tag : DWord) (s : State) : Out :=
  onUnit mb 16 <|
    match findCmd s mb tag with
    | some c => .next (if c.cls = 11 ∧ c.started then abortComplete s mb c else s)
    | none => .next s

/-! ### CLOSE (R46, R56) -/

/-- The other commands of a mailbox, all of them ended. -/
def closeEnds (s : State) (mb : Nat) (c : Cmd) : State :=
  let others := (mbAt s mb).cmds.filter fun x => x.tag ≠ c.tag
  let targets := others.filter fun x => !isAbortOrClose x
  let s := targets.foldl (fun s x => endTarget s mb x) s
  let s := (targets.map (·.tag)).foldl (fun s x => endStopped s mb x) (advance s (copyLimits s mb (targets.map (·.tag))))
  (others.filter fun x => x.cls = 11 && x.started).foldl (fun s x => abortComplete s mb x) s

/-- CLOSE: it waits while another command of its mailbox is still on its way to its own end. -/
def closeBody (mb : Nat) (c : Cmd) (s : State) : State :=
  if !clean c 0 0 false then finish s mb c stMalformed
  else
    let s' := closeEnds s mb c
    if (mbAt s' mb).cmds.any fun x => x.tag ≠ c.tag then s
    else setMb (finish (revokeWindows s' fun w => w.mb = mb) mb c 0) mb fun m => { m with session := none }

def execCloseSession (mb : Nat) (tag : DWord) (s : State) : Out := mbCommand mb tag 1 3 (closeBody mb) s

end Sys2Proof.Machine
end

