-- ==== Sys2Proof/Machine/Matrix.lean ====
section
/-! DEFINITION. Matrix.lean: MMUL, MLOAD, MSTORE and XPOSE (05_matrix_engine.md). -/

namespace Sys2Proof.Machine

/-- The FP32 words of a matrix tile, row-major. -/
def tileWords (bs : Array Byte) : Elems := (List.range 16384).map fun e => BitVec.ofNat 32 (unpackAt 32 bs e)

/-- An FP32 matrix tile of `rows` × `cols` from its words; `w` gives element (r, c). -/
def wordsTile (rows cols : Nat) (w : Nat → Nat → Word) : List Byte :=
  packTile ⟨0, 0, 0, 0, rows, cols⟩ (fun r c => (w r c).toNat) fun _ _ => 0

/-- FP32 matrix tile shape. -/
def f32Shape (rows cols : Nat) : Shape := ⟨0, 0, 0, 0, rows, cols⟩

def Ctx.acc (i : Ctx) (a : Nat) : Option Acc := i.c.acc.getD a none
def putAcc (s : State) (n a : Nat) (v : Acc) : State := setCore s n fun c => { c with acc := c.acc.set a (some v) }

/-- The operand conditions of R111 that depend on the word and the shape alone. -/
def matrixForm (tn : Bool) (sh : Shape) : Bool :=
  fmtOk sh.fmt && sh.kind = 0 && sh.order = 0 && (!isMx sh.fmt || sh.block = b2n tn)

/-- The product of R110 added to an accumulator under R76: `a r k` and `b c k` are the operands' values at output row r, column c. -/
def product (m n k : Nat) (zero : Bool) (old : Elems) (a b : Nat → Nat → Val) : Elems :=
  let o := old.toArray
  (List.range 16384).map fun e =>
    let start := if zero then 0#32 else o.getD e 0
    if e / 128 < m ∧ e % 128 < n then addGroups start (groupsOf k (a (e / 128)) (b (e % 128))) else start

/-- MMUL (R110 to R116, R187). -/
def mmulBody (i : Ctx) : Res :=
  i.withShape (i.f 51 48) fun sa => i.withShape (i.f 47 44) fun sb =>
    let tn := i.f 55 55 = 1
    let k := if tn then sa.rows else sa.cols
    if ¬ (matrixForm tn sa ∧ matrixForm tn sb ∧ k = (if tn then sb.rows else sb.cols)) then .fault fMatrix 0 none
    else
      let m := if tn then sa.cols else sa.rows
      let n := if tn then sb.cols else sb.rows
      let pa := i.slot (i.f 43 31) (i.f 17 14)
      let pb := i.slot (i.f 30 18) (i.f 13 10)
      i.operand pa (tileSlots sa.fmt 0) <| i.operand pb (tileSlots sb.fmt 0) <|
      i.check pa sa true <| i.check pb sb true <|
        let a := i.f 53 52
        let zero := i.f 54 54 = 1
        match i.acc a with
        | some t =>
          if zero ∨ (t.rows = m ∧ t.cols = n) then run i tn sa sb pa pb a m n k zero t.el else .fault fAcc a none
        | none => if zero then run i tn sa sb pa pb a m n k zero [] else .fault fAcc a none
where
  run (i : Ctx) (tn : Bool) (sa sb : Shape) (pa pb a m n k : Nat) (zero : Bool) (old : Elems) : Res :=
    let ta := i.tile pa sa
    let tb := i.tile pb sb
    let va := fun r k => if tn then tileVal sa ta k r else tileVal sa ta r k
    let vb := fun c k => if tn then tileVal sb tb k c else tileVal sb tb c k
    let s := readSlots (readSlots i.s i.n pa (tileSlots sa.fmt 0)) i.n pb (tileSlots sb.fmt 0)
    .done (putAcc s i.n a ⟨m, n, product m n k zero old va vb⟩)

def execMmul (n : Nat) (s : State) : Out := tileInstr 0x10 mmulBody n s

/-- MLOAD (R115, R187). -/
def mloadBody (i : Ctx) : Res :=
  i.withShape (i.f 51 48) fun sh =>
    if ¬ (sh.fmt = 0 ∧ sh.kind = 0 ∧ sh.order = 0 ∧ sh.block = 0) then .fault fMatrix 0 none
    else
      let p := i.slot (i.f 43 31) (i.f 17 14)
      i.operand p 128 <| i.check p sh true <|
        .done (putAcc (readSlots i.s i.n p 128) i.n (i.f 53 52) ⟨sh.rows, sh.cols, tileWords (i.tile p sh)⟩)

def execMload (n : Nat) (s : State) : Out := tileInstr 0x11 mloadBody n s

/-- MSTORE (R115, R117). -/
def mstoreBody (i : Ctx) : Res :=
  let p := i.slot (i.f 43 31) (i.f 17 14)
  i.operand p 128 <|
    match i.acc (i.f 53 52) with
    | none => .fault fAcc (i.f 53 52) none
    | some t =>
      let w := t.el.toArray
      let sh := f32Shape t.rows t.cols
      let bs := wordsTile t.rows t.cols fun r c => w.getD (128 * r + c) 0
      .done (nfWrite i (storeTile i.s i.n p sh bs) uMatrix (tileAddr i.n (512 * p)) (tileHits sh bs.toArray))

def execMstore (n : Nat) (s : State) : Out := tileInstr 0x12 mstoreBody n s

/-- The transpose of a matrix tile (R114). -/
def transposeShape (sh : Shape) : Shape :=
  { sh with rows := sh.cols, cols := sh.rows, block := if isMx sh.fmt then 1 - sh.block else sh.block }

def transposeTile (sh : Shape) (bs : Array Byte) : List Byte :=
  packTile (transposeShape sh) (fun r c => tileCode sh.fmt sh.order bs c r) fun r c => tileScale sh.fmt sh.block bs c r

/-- XPOSE (R114, R125). -/
def xposeBody (i : Ctx) : Res :=
  i.withShape (i.f 51 48) fun sh =>
    let n := tileSlots sh.fmt 0
    let p := i.slot (i.f 43 31) (i.f 17 14)
    let q := i.slot (i.f 30 18) (i.f 13 10)
    if ¬ (fmtOk sh.fmt ∧ sh.kind = 0 ∧ sh.order = 0) ∨ overlap p n q n then .fault fMatrix 0 none
    else
      i.operand p n <| i.operand q n <| i.check p sh true <|
        let bs := transposeTile sh (i.tile p sh)
        let s := storeTile (readSlots i.s i.n p n) i.n q (transposeShape sh) bs
        .done (nfWrite i s uMatrix (tileAddr i.n (512 * q)) (tileHits (transposeShape sh) bs.toArray))

def execXpose (n : Nat) (s : State) : Out := tileInstr 0x13 xposeBody n s

end Sys2Proof.Machine
end

