-- ==== Sys2Proof/Machine/Reduction.lean ====
section
/-! DEFINITION. Reduction.lean: SCAN (R162, R163) and the reduction unit (R164 to R169, R190). -/

namespace Sys2Proof.Machine

/-! ### Merging (R162) -/

/-- What merges: FP32 sum, INT32 sum, FP32 max and min, integer max and min. -/
inductive Merge where
  | sumF | sumI | maxF | minF
  | maxI (isSigned : Bool)
  | minI (isSigned : Bool)
  deriving DecidableEq, Repr

def Merge.two (m : Merge) (a b : Word) : Word :=
  match m with
  | .sumF => addF32 a b
  | .sumI => a + b
  | .maxF => maxF32 a b
  | .minF => minF32 a b
  | .maxI sg => if intLt (b2n sg) a b then b else a
  | .minI sg => if intLt (b2n sg) b a then b else a

/-- The group sum with b = 1.0 for FP32 sums, repeated merge otherwise; of no elements nothing. -/
def Merge.all (m : Merge) (xs : List Word) : Option Word :=
  match xs with
  | [] => none
  | x :: rest =>
    match m with
    | .sumF => some (groupSum (xs.map fun w => (f32 w).mul (.fin false 1 0)))
    | _ => some (rest.foldl m.two x)

/-- Identities (R163). -/
def Merge.identity : Merge → Word
  | .sumF => 0
  | .sumI => 0
  | .maxF => 0xFF800000#32
  | .minF => 0x7F800000#32
  | .maxI sg => if sg then 0x80000000#32 else 0
  | .minI sg => if sg then 0x7FFFFFFF#32 else 0xFFFFFFFF#32

def Merge.isFloat : Merge → Bool
  | .sumF => true
  | .maxF => true
  | .minF => true
  | _ => false

/-! ### SCAN -/

/-- The value of the pseudocode of R162 at row `r`, column `j`, with the part taken up to column `hi` (exclusive). -/
def scanValue (m : Merge) (x : Nat → Word) (act start : Nat → Bool) (run : Option Word) (r j hi : Nat) : Option Word :=
  let marks := (List.range (j + 1)).filter fun k => start (32 * r + k)
  let lo := marks.getLast?.getD 0
  let base := if marks.isEmpty then run else none
  let part := ((List.range hi).filter fun k => lo ≤ k && act (32 * r + k)).map fun k => x (32 * r + k)
  match m.all part, base with
  | none, b => b
  | some g, none => some g
  | some g, some b => some (m.two b g)

/-- The outputs of rows `r` to 31 and nothing else: none at an element that gets no value. -/
def scanRows (m : Merge) (excl : Bool) (x : Nat → Word) (act start : Nat → Bool) : Nat → Nat → Option Word → List (Option Word)
  | 0, _, _ => []
  | k + 1, r, run =>
    let row := (List.range 32).map fun j =>
      if excl then some ((scanValue m x act start run r j j).getD m.identity) else scanValue m x act start run r j (j + 1)
    row ++ scanRows m excl x act start k (r + 1) (scanValue m x act start run r 31 32)

def scanOp (op : Nat) (sg : Bool) : Merge :=
  match op with
  | 0 => .sumF
  | 1 => .sumI
  | 2 => .maxF
  | 3 => .minF
  | 4 => .maxI sg
  | _ => .minI sg

/-- SCAN (R162, R163). -/
def scanBody (i : Ctx) : Res :=
  let m := scanOp (i.f 33 31) (i.f 30 30 = 1)
  let src := (i.t (i.f 50 46)).toArray
  let flg := (i.t (i.f 45 41)).toArray
  let on := i.active (i.f 23 23) (i.f 28 24)
  let carry := if i.f 34 34 = 1 then some (el (i.t (i.f 39 35)) 1023) else none
  let start := fun e => i.f 40 40 = 1 && flg.getD e 0 ≠ 0
  let ys := (scanRows m (i.f 29 29 = 1) (fun e => src.getD e 0) on start 32 0 carry).toArray
  let d := i.f 55 51
  let old := (i.t d).toArray
  let t := (List.range 1024).map fun e => if on e then (ys.getD e none).getD (old.getD e 0) else old.getD e 0
  .done (nfWrite i (putT i.s i.n d t) uScan (regAddr d) (if m.isFloat then regHits t on else []))

def execScan (n : Nat) (s : State) : Out := tileInstr 0x68 scanBody n s

/-! ### Reduction tiles -/

/-- The mode that RCLR names; none for a TOPK length outside 1 to 16. -/
def redMode (mode k : Nat) : Option RedMode :=
  match mode with
  | 0 => some .sumF
  | 1 => some .sumI
  | 2 => some .maxF
  | 3 => some .minF
  | 4 => if 1 ≤ k ∧ k ≤ 16 then some (.topk k) else none
  | _ => some .hist

/-- The initial element (r, c) of a mode (R164). -/
def redInit (m : RedMode) (c : Nat) : Word :=
  match m with
  | .maxF => 0xFF800000#32
  | .minF => 0x7F800000#32
  | .topk _ => if c < 16 then 0xFF800000#32 else 0xFFFFFFFF#32
  | _ => 0

/-- The merge of a mode that RROW, RCOL and RADD take. -/
def redMerge : RedMode → Option Merge
  | .sumF => some .sumF
  | .sumI => some .sumI
  | .maxF => some .maxF
  | .minF => some .minF
  | _ => none

def Ctx.u (i : Ctx) : Option Red := i.c.u.getD (i.f 55 53) none
def Ctx.putU (i : Ctx) (r : Red) : State := setCore i.s i.n fun c => { c with u := c.u.set (i.f 55 53) (some r) }
def Ctx.redOn (i : Ctx) : Nat → Bool := i.active (i.f 42 42) (i.f 47 43)
def Ctx.src (i : Ctx) : Nat → Word := let a := (i.t (i.f 52 48)).toArray; fun e => a.getD e 0

def rclrBody (i : Ctx) : Res :=
  match redMode (i.f 41 39) (i.f 38 34) with
  | none => .fault fVec 0 none
  | some m => .done (i.putU ⟨m, (List.range 1024).map fun e => redInit m (e % 32)⟩)

def execRclr (n : Nat) (s : State) : Out := tileInstr 0x60 rclrBody n s

/-- Runs `k` on the reduction tile named, open in a mode that merges; otherwise RED_STATE (R164). -/
def Ctx.merging (i : Ctx) (k : Red → Merge → Res) : Res :=
  match i.u with
  | some r => match redMerge r.mode with
    | some m => k r m
    | none => .fault fRed (i.f 55 53) none
  | none => .fault fRed (i.f 55 53) none

/-- RROW and RCOL: `line l j` is the element index of position j of line l (R165). -/
def Ctx.reduceLines (i : Ctx) (line : Nat → Nat → Nat) : Res :=
  i.merging fun r m =>
    let d := i.f 38 34
    let on := i.redOn
    let old := r.el.toArray
    let g := fun l => m.all (((List.range 32).filter fun j => on (line l j)).map fun j => i.src (line l j))
    let new := (List.range 1024).map fun e =>
      let o := old.getD e 0
      if e / 32 = d then (match g (e % 32) with | some v => m.two o v | none => o) else o
    .done (i.putU { r with el := new })

def rrowBody (i : Ctx) : Res := i.reduceLines fun l j => 32 * l + j
def execRrow (n : Nat) (s : State) : Out := tileInstr 0x61 rrowBody n s
def rcolBody (i : Ctx) : Res := i.reduceLines fun l j => 32 * j + l
def execRcol (n : Nat) (s : State) : Out := tileInstr 0x62 rcolBody n s

def raddBody (i : Ctx) : Res :=
  i.merging fun r m =>
    let on := i.redOn
    .done (i.putU { r with el := r.el.mapIdx fun e o => if on e then m.two o (i.src e) else o })
def execRadd (n : Nat) (s : State) : Out := tileInstr 0x63 raddBody n s

/-- Whether candidate `a` ranks before `b` (R166): larger value first, NaN above every number, zeros equal, then lower index. -/
def ranksBefore (a b : Word × Word) : Bool :=
  let key (w : Word) : Val := f32 w
  match (key a.1).isNan, (key b.1).isNan with
  | true, true => a.2.toNat < b.2.toNat
  | true, false => true
  | false, true => false
  | false, false =>
    match (key a.1).cmp (key b.1) with
    | some .gt => true
    | some .lt => false
    | _ => a.2.toNat < b.2.toNat

/-- Inserts a candidate behind those that rank before it or as it does. -/
def insertRank (a : Word × Word) : List (Word × Word) → List (Word × Word)
  | [] => [a]
  | b :: bs => if ranksBefore a b then a :: b :: bs else b :: insertRank a bs

/-- RTOPK (R166). -/
def rtopkBody (i : Ctx) : Res :=
  match i.u with
  | some ⟨.topk k, es⟩ =>
    let on := i.redOn
    let old := es.toArray
    let base := (i.x (i.f 28 25)).setWidth 32
    let rows := ((List.range 32).map fun r =>
      let list := (List.range k).map fun j => (old.getD (32 * r + j) 0, old.getD (32 * r + 16 + j) 0)
      let cand := ((List.range 32).filter fun c => on (32 * r + c)).map fun c =>
        (i.src (32 * r + c), base + BitVec.ofNat 32 c)
      ((cand.foldl (fun l a => insertRank a l) list).take k).toArray).toArray
    let new := (List.range 1024).map fun e =>
      let row := rows.getD (e / 32) #[]
      let c := e % 32
      if c % 16 < k then (let p := row.getD (c % 16) (0, 0); if c < 16 then p.1 else p.2) else redInit (.topk k) c
    .done (i.putU ⟨.topk k, new⟩)
  | _ => .fault fRed (i.f 55 53) none

def execRtopk (n : Nat) (s : State) : Out := tileInstr 0x64 rtopkBody n s

/-- RHIST (R167). -/
def rhistBody (i : Ctx) : Res :=
  match i.u with
  | some ⟨.hist, es⟩ =>
    let on := i.redOn
    let bins := ((List.range 1024).filter on).map fun e => (i.src e).toNat / 2 ^ i.f 33 29 % 256
    .done (i.putU ⟨.hist, es.mapIdx fun e o => o + BitVec.ofNat 32 (bins.count e)⟩)
  | _ => .fault fRed (i.f 55 53) none

def execRhist (n : Nat) (s : State) : Out := tileInstr 0x65 rhistBody n s

/-- RREAD (R168). -/
def rreadBody (i : Ctx) : Res :=
  match i.u with
  | none => .fault fRed (i.f 55 53) none
  | some r =>
    let d := i.f 24 20
    let checked := fun e => match r.mode with
      | .topk _ => decide (e % 32 < 16)
      | .sumI => false
      | .hist => false
      | _ => true
    .done (nfWrite i (putT i.s i.n d r.el) uReduce (regAddr d) (regHits r.el checked))

def execRread (n : Nat) (s : State) : Out := tileInstr 0x66 rreadBody n s

end Sys2Proof.Machine
end

