-- ==== Sys2Proof/Machine/Attention.lean ====
section
/-! DEFINITION. Attention.lean: the streaming attention pipeline (06_attention_pipeline.md, R188). -/

namespace Sys2Proof.Machine

/-! ### The control block (R137) -/

def AttnBlock.causal (b : AttnBlock) : Bool := bit b.flags 0
def AttnBlock.windowed (b : AttnBlock) : Bool := bit b.flags 1
def AttnBlock.segmented (b : AttnBlock) : Bool := bit b.flags 2
def AttnBlock.absorbed (b : AttnBlock) : Bool := bit b.flags 3
def AttnBlock.f32 (b : AttnBlock) : Bool := bit b.flags 4
/-- Score columns and value columns of a block pair (R134, R135). -/
def AttnBlock.score (b : AttnBlock) : Nat := (if b.absorbed then b.rank else b.dim) + b.side
def AttnBlock.value (b : AttnBlock) : Nat := if b.absorbed then b.rank else b.dim

/-- A scale is finite and nonzero. -/
def scaleOk (w : Word) : Bool :=
  match f32 w with
  | .fin _ m _ => m ≠ 0
  | _ => false

/-- Reads a control block from a register tile's bytes; none when it is malformed (R137, R148). -/
def parseBlock (serial : Nat) (bs : List Byte) : Option AttnBlock :=
  let b : AttnBlock := ⟨serial, field bs 0 4, field bs 4 4, field bs 8 4, field bs 12 4, BitVec.ofNat 32 (field bs 16 4),
    BitVec.ofNat 32 (field bs 20 4), field bs 24 2, field bs 26 2, field bs 28 2⟩
  if b.flags < 32 ∧ (if b.windowed then b.window ≠ 0 else b.window = 0) ∧ scaleOk b.scaleC ∧ scaleOk b.scaleTau ∧
      1 ≤ b.dim ∧ b.dim ≤ 256 ∧ 1 ≤ b.rank ∧ b.rank ≤ 1024 ∧ b.side ≤ 128 ∧ (b.absorbed ∨ b.dim + b.side ≤ 256) ∧
      (bs.drop 30).all (· == 0)
  then some b else none

/-- ACFG (R137). -/
def acfgBody (i : Ctx) : Res :=
  let p := (i.x (i.f 55 52)).toNat % 8192
  i.operand p 8 <| i.check p regShape false <|
    match parseBlock (i.c.attn.acfgs + 1) (getSlots i.s (tileSlot i.n p) 8) with
    | none => .fault fAttnConfig 0 none
    | some b =>
      .done (setCore (readSlots i.s i.n p 8) i.n fun c => { c with attn := { c.attn with block := some b, acfgs := c.attn.acfgs + 1 } })

def execAcfg (n : Nat) (s : State) : Out := tileInstr 0x20 acfgBody n s

/-- Runs `k` with the block in force; otherwise ATTN_STATE. -/
def Ctx.block (i : Ctx) (k : AttnBlock → Res) : Res :=
  match i.c.attn.block with
  | some b => k b
  | none => .fault fAttnState 0 none

/-- Runs `k` when a condition on the pipeline's state holds; otherwise ATTN_STATE. -/
def attnState (ok : Bool) (k : Res) : Res := if ok then k else .fault fAttnState 0 none

/-- Runs `k` when a form condition holds; otherwise ATTN_FORM. -/
def attnForm (ok : Bool) (k : Res) : Res := if ok then k else .fault fAttnForm 0 none

/-! ### Operands (R136, R188) -/

def Ctx.xa (i : Ctx) : Nat := (i.x (i.f 55 52)).toNat % 8192
def Ctx.xb (i : Ctx) : Nat := (i.x (i.f 51 48)).toNat % 8192
def Ctx.xc (i : Ctx) : Nat := (i.x (i.f 47 44)).toNat % 8192
def Ctx.xd (i : Ctx) : Nat := (i.x (i.f 43 40)).toNat % 8192

/-- The form of a stored operand: `nt` for one that enters an NT product, `tn` for one that enters a TN product. -/
def storedForm (sh : Shape) (nt tn : Bool) : Bool :=
  fmtOk sh.fmt && sh.kind = 0 && sh.order = 0 && (!isMx sh.fmt || ((!nt || sh.block = 0) && (!tn || sh.block = 1)))

def tilesOf (cols : Nat) : Nat := (cols + 127) / 128

/-- Checks one stored tile: another format, rows or an unsealed slot is a seal fault, other columns are ATTN_FORM (R148). -/
def Ctx.checkStored (i : Ctx) (p : Nat) (sh : Shape) (k : Res) : Res :=
  let r := recShape (rd i.s.recs (tileSlot i.n p))
  i.check p { sh with cols := r.cols } true <| attnForm (r.cols = sh.cols) k

/-- A run of tiles side by side: `cols` columns from slot `p` on. -/
def Ctx.run (i : Ctx) (p : Nat) (sh : Shape) (cols : Nat) (state : Bool) (k : Res) : Res :=
  let z := tileSlots sh.fmt 0
  i.operand p (z * tilesOf cols) <|
    (List.range (tilesOf cols)).foldr (fun t k =>
      let sh := { sh with cols := min 128 (cols - 128 * t) }
      if state then i.check (p + z * t) sh true k else i.checkStored (p + z * t) sh k) k

/-- A grid of `rows` × `cols` elements in tile-row-major order from slot `p` on. -/
def Ctx.grid (i : Ctx) (p : Nat) (sh : Shape) (rows cols : Nat) (k : Res) : Res :=
  let z := tileSlots sh.fmt 0
  i.operand p (z * tilesOf cols * tilesOf rows) <|
    (List.range (tilesOf cols * tilesOf rows)).foldr (fun t k =>
      let a := t / tilesOf cols
      let b := t % tilesOf cols
      let r := recShape (rd i.s.recs (tileSlot i.n (p + z * t)))
      i.check (p + z * t) { sh with rows := r.rows, cols := r.cols } true <|
        attnForm (r.rows = min 128 (rows - 128 * a) && r.cols = min 128 (cols - 128 * b)) k) k

/-- A register tile operand. -/
def Ctx.regTile (i : Ctx) (p : Nat) (k : Res) : Res := i.operand p 8 <| i.check p regShape true k

/-- Element values of a run and of a grid. -/
def Ctx.runVal (i : Ctx) (p : Nat) (sh : Shape) (cols : Nat) : Nat → Nat → Val :=
  let z := tileSlots sh.fmt 0
  let ts := ((List.range (tilesOf cols)).map fun t => i.tile (p + z * t) sh).toArray
  fun r c => tileVal sh (ts.getD (c / 128) #[]) r (c % 128)

def Ctx.gridVal (i : Ctx) (p : Nat) (sh : Shape) (rows cols : Nat) : Nat → Nat → Val :=
  let z := tileSlots sh.fmt 0
  let w := tilesOf cols
  let ts := ((List.range (w * tilesOf rows)).map fun t => i.tile (p + z * t) sh).toArray
  fun r c => tileVal sh (ts.getD (r / 128 * w + c / 128) #[]) (r % 128) (c % 128)

/-- FP32 words of a run of state or accumulator tiles. -/
def Ctx.runWord (i : Ctx) (p cols : Nat) : Nat → Nat → Word :=
  let ts := ((List.range (tilesOf cols)).map fun t => i.tile (p + 128 * t) (f32Shape 0 0)).toArray
  fun r c => BitVec.ofNat 32 (tileCode 0 0 (ts.getD (c / 128) #[]) r (c % 128))

/-- Elements of a register tile by index. -/
def Ctx.regWord (i : Ctx) (p : Nat) : Nat → Word := let a := (bytesReg (i.tile p regShape)).toArray; fun e => a.getD e 0

/-- Marks the slots of operands as read (R108). -/
def Ctx.reading (i : Ctx) (rs : List (Nat × Nat)) : State := rs.foldl (fun s r => readSlots s i.n r.1 r.2) i.s

/-- The columns of a matrix of values as rows of a buffer, so that they are computed once. -/
def tabulate (rows cols : Nat) (v : Nat → Nat → Val) : List (List Val) :=
  (List.range rows).map fun r => (List.range cols).map (v r)

/-- A buffer's element; one outside it is +0. -/
def bufVal (b : List (List Val)) : Nat → Nat → Val :=
  let a := (b.map List.toArray).toArray
  fun r c => (a.getD r #[]).getD c (.fin false 0 0)

/-- A dot product over `n` columns: K tiles of 128 in ascending order, groups of 32, from `acc` (R73 to R76). -/
def dot (n : Nat) (acc : Word) (a b : Nat → Val) : Word :=
  (List.range (tilesOf n)).foldl (fun acc t =>
    addGroups acc (groupsOf (min 128 (n - 128 * t)) (fun k => a (128 * t + k)) fun k => b (128 * t + k))) acc

/-- round_p (R127). -/
def AttnBlock.roundP (b : AttnBlock) (w : Word) : Val := if b.f32 then Sys2Proof.Machine.f32 w else roundBf16 (Sys2Proof.Machine.f32 w)

/-- Writes a run of FP32 tiles, each sealed and checked (R84, R99). Of several non-finite tiles of one instruction the first in this order is recorded:
the tiles of a run ascending, and the runs in the order in which the instruction's body writes them (DESIGN CHOICE, log 122). -/
def Ctx.putRun (i : Ctx) (s : State) (p rows cols : Nat) (w : Nat → Nat → Word) : State :=
  (List.range (tilesOf cols)).foldl (fun s t =>
    let n := min 128 (cols - 128 * t)
    let sh := f32Shape rows n
    let bs := wordsTile rows n fun r c => w r (128 * t + c)
    nfWrite i (storeTile s i.n (p + 128 * t) sh bs) uAttn (tileAddr i.n (512 * (p + 128 * t))) (tileHits sh bs.toArray)) s

/-- Writes a statistic tile whole: row groups M, L, S and D (R130); −infinity in M beside an L of +0 is exempt (R132). -/
def Ctx.putStat (i : Ctx) (s : State) (p : Nat) (m l sv d : Nat → Word) : State :=
  let t := (List.range 1024).map fun e =>
    match e / 128 with
    | 0 => m e
    | 1 => l (e % 128)
    | 2 => sv (e % 128)
    | 3 => d (e % 128)
    | _ => 0
  let a := t.toArray
  let hits := regHits t fun e => !(e < 128 && a.getD e 0 == 0xFF800000#32 && a.getD (128 + e) 0 == 0#32)
  nfWrite i (storeTile s i.n p regShape (regBytes t)) uAttn (tileAddr i.n (512 * p)) hits

/-! ### Expand and fold (R134, R135) -/

/-- AEXP. -/
def aexpBody (i : Ctx) : Res :=
  i.withShape (i.f 39 36) fun sa => i.withShape (i.f 35 32) fun sb => i.block fun b =>
    attnState (!b.absorbed) <| attnForm (storedForm sa true false && storedForm sb true false) <|
      let za := tileSlots sa.fmt 0
      let side := i.xa + za * tilesOf b.rank
      let zs := if b.side = 0 then 0 else za
      i.run i.xa sa b.rank false <|
      (fun k => if b.side = 0 then k else i.run side sa b.side false k) <|
      i.grid i.xb sb b.dim b.rank <| i.grid i.xc sb b.dim b.rank <|
        let lat := i.runVal i.xa sa b.rank
        let sv := i.runVal side sa b.side
        let up := fun p => (let w := i.gridVal p sb b.dim b.rank
          tabulate sa.rows b.dim fun r j => b.roundP (dot b.rank 0 (lat r) (w j)))
        let ke := (up i.xb).mapIdx fun r row => row ++ (List.range b.side).map (sv r)
        let zb := tileSlots sb.fmt 0 * tilesOf b.dim * tilesOf b.rank
        .done (setCore (i.reading [(i.xa, za * tilesOf b.rank + zs), (i.xb, zb), (i.xc, zb)]) i.n fun c =>
          { c with attn := { c.attn with expand := some (ke, up i.xc) } })

def execAexp (n : Nat) (s : State) : Out := tileInstr 0x21 aexpBody n s

/-- AFOLD: the query with A_K, or the output gradient with A_V, whose side columns stay empty. -/
def afoldBody (i : Ctx) : Res :=
  i.withShape (i.f 39 36) fun sa => i.withShape (i.f 35 32) fun sb => i.block fun b =>
    attnState b.absorbed <| attnForm (storedForm sa true false && storedForm sb true false) <|
      let grad := i.f 24 24 = 1
      let cols := if grad then b.dim else b.dim + b.side
      i.run i.xa sa cols false <| i.grid i.xb sb b.rank b.dim <|
        let q := i.runVal i.xa sa cols
        let w := i.gridVal i.xb sb b.rank b.dim
        let rows := (tabulate sa.rows b.rank fun r j => b.roundP (dot b.dim 0 (q r) (w j))).mapIdx fun r row =>
          row ++ (List.range b.side).map fun c => if grad then .fin false 0 0 else q r (b.dim + c)
        let v := some (b.serial, rows)
        let s := i.reading [(i.xa, tileSlots sa.fmt 0 * tilesOf cols), (i.xb, tileSlots sb.fmt 0 * tilesOf b.dim * tilesOf b.rank)]
        .done (setCore s i.n fun c =>
          { c with attn := if grad then { c.attn with foldG := v } else { c.attn with foldQ := v } })

def execAfold (n : Nat) (s : State) : Out := tileInstr 0x22 afoldBody n s

/-! ### Visibility and skipping (R138 to R140) -/

/-- Whether key (kp, ks) is visible to query (qp, qs); both lie inside their blocks. -/
def visible (b : AttnBlock) (qp qs kp ks : Nat) : Bool :=
  qp < b.qlen && kp < b.klen && (!b.causal || kp ≤ qp) &&
  (!b.windowed || (if b.causal then qp - kp < b.window else qp - kp < b.window && kp - qp < b.window)) &&
  (!b.segmented || qs = ks)

def least (l : List Nat) : Nat := l.foldl min (2 ^ 32)
def most (l : List Nat) : Nat := l.foldl max 0

/-- The test of R140 over the valid entries of both records. -/
def skips (b : AttnBlock) (q k : Nat → Nat) (nq nk : Nat) : Bool :=
  let qs := (List.range nq).map q
  let ks := (List.range nk).map k
  let qg := (List.range nq).map fun n => q (128 + n)
  let kg := (List.range nk).map fun n => k (128 + n)
  b.qlen ≤ least qs || b.klen ≤ least ks || (b.causal && most qs < least ks) ||
  (b.windowed && most ks + b.window ≤ least qs) || (b.windowed && !b.causal && most qs + b.window ≤ least ks) ||
  (b.segmented && (most kg < least qg || most qg < least kg))

/-! ### The block products' operands -/

/-- What ABLK and ABBLK work on: query, keys and values by row and column, the operands' slots. -/
structure Pair where
  q    : Nat → Nat → Val
  k    : Nat → Nat → Val
  v    : Nat → Nat → Val
  read : List (Nat × Nat)

/-- What a block pair asks of the pipeline's state and of its operands' forms, before any operand is read (R134 to R136, R148). -/
def Ctx.pairForm (i : Ctx) (b : AttnBlock) (sa sb : Shape) (k : Res) : Res :=
  if b.absorbed then
    match i.c.attn.foldQ with
    | none => .fault fAttnState 0 none
    | some (serial, rows) =>
      attnState (serial = b.serial) <|
        attnForm (fmtOk sb.fmt && sb.kind = 0 && sb.order = 0 && !isMx sb.fmt && rows.length = sa.rows) k
  else
    match i.c.attn.expand with
    | none => .fault fAttnState 0 none
    | some (ke, ve) =>
      attnForm (storedForm sa true false && ke.length = sb.rows && ke.all (fun r => r.length = b.score) && ve.length = sb.rows &&
        ve.all fun r => r.length = b.dim) k

/-- Runs `k` on the query and key operands of a block pair under the mode of the block (R134, R135). -/
def Ctx.pair (i : Ctx) (b : AttnBlock) (sa sb : Shape) (k : Pair → Res) : Res :=
  if b.absorbed then
    let z := tileSlots sb.fmt 0
    let side := i.xa + z * tilesOf b.rank
    i.run i.xa sb b.rank false <|
    (fun r => if b.side = 0 then r else i.run side sb b.side false r) <|
      let lat := i.runVal i.xa sb b.rank
      let sv := i.runVal side sb b.side
      k ⟨bufVal (i.c.attn.foldQ.elim [] (·.2)), fun r c => if c < b.rank then lat r c else sv r (c - b.rank), lat,
        [(i.xa, z * (tilesOf b.rank + tilesOf b.side))]⟩
  else
    let e := i.c.attn.expand.getD ([], [])
    i.run i.xa sa b.score false <|
      k ⟨i.runVal i.xa sa b.score, bufVal e.1, bufVal e.2, [(i.xa, tileSlots sa.fmt 0 * tilesOf b.score)]⟩

/-- One row of the forward pseudocode of R128: the new m, l and o row. `t k` is the scaled score, `vis k` the visibility. -/
def forwardRow (b : AttnBlock) (nk : Nat) (t : Nat → Word) (vis : Nat → Bool) (v : Nat → Nat → Val) (m l : Word) (o : Nat → Word) :
    Word × Word × List Word :=
  let ts := ((List.range nk).map t).toArray
  let t := fun k => ts.getD k 0
  let bm := ((List.range nk).filter vis).foldl (fun a k => maxF32 a (t k)) 0xFF800000#32
  let mn := maxF32 m bm
  let same := mn = m ∨ ((f32 mn).isZero ∧ (f32 m).isZero)
  let alpha := if same then 0x3F800000#32 else exp2Val (f32 (subF32 m mn))
  let pb := ((List.range nk).map fun k => if vis k then b.roundP (exp2Val (f32 (subF32 (t k) mn))) else .fin false 0 0).toArray
  let p := fun k => pb.getD k (.fin false 0 0)
  let scale := fun w => if alpha = 0x3F800000#32 then w else mulF32 w alpha
  let clean := fun w => if alpha ≠ 0x3F800000#32 ∧ scale w = 0x80000000#32 then 0#32 else scale w
  (mn, dot nk (scale l) p fun _ => .fin false 1 0,
    (List.range b.value).map fun j => dot nk (clean (o j)) p fun k => v k j)

/-- ABLK (R128 to R132, R140). -/
def ablkBody (i : Ctx) : Res :=
  i.withShape (i.f 39 36) fun sa => i.withShape (i.f 35 32) fun sb => i.block fun b =>
    i.pairForm b sa sb <| i.pair b sa sb fun pr =>
      let first := i.f 27 27 = 1
      let nq := sa.rows
      let nk := sb.rows
      let stat := i.xd + 128 * tilesOf b.value
      i.regTile i.xb <| i.regTile i.xc <|
      i.operand i.xd (128 * tilesOf b.value + 8) <|
      (fun r => if first then r else i.run i.xd (f32Shape nq 0) b.value true <| i.regTile stat r) <|
        let qr := i.regWord i.xb
        let kr := i.regWord i.xc
        let old := i.regWord stat
        let oo := i.runWord i.xd b.value
        let m0 := fun r => if first then 0xFF800000#32 else old r
        let l0 := fun r => if first then 0#32 else old (128 + r)
        let o0 := fun r c => if first then 0#32 else oo r c
        let skip := skips b (fun n => (qr n).toNat) (fun n => (kr n).toNat) nq nk
        let s := i.reading (pr.read ++ [(i.xb, 8), (i.xc, 8)] ++ if first then [] else [(i.xd, 128 * tilesOf b.value + 8)])
        if skip ∧ ¬ first then .done s
        else
          let rows := ((List.range nq).map fun r =>
            if skip then (m0 r, l0 r, (List.range b.value).map (o0 r))
            else
              let vis := fun k => visible b (qr r).toNat (qr (128 + r)).toNat (kr k).toNat (kr (128 + k)).toNat
              forwardRow b nk (fun k => mulF32 (dot b.score 0 (pr.q r) (pr.k k)) b.scaleC) vis pr.v (m0 r) (l0 r) (o0 r)).toArray
          let os := (rows.map fun r => r.2.2.toArray)
          let row := fun r => rows.getD r (0xFF800000#32, 0#32, [])
          let s := i.putRun s i.xd nq b.value fun r c => (os.getD r #[]).getD c 0
          .done (i.putStat s stat (fun r => (row r).1) (fun r => (row r).2.1) (fun _ => 0) fun _ => 0)

def execAblk (n : Nat) (s : State) : Out := tileInstr 0x23 ablkBody n s

/-- ACLOSE (R133); the statistics of rows beyond the block are those of a row with no visible key (R130). -/
def acloseBody (i : Ctx) : Res :=
  i.withShape (i.f 39 36) fun sa => i.block fun b =>
    let nq := sa.rows
    let stat := i.xa + 128 * tilesOf b.value
    i.run i.xa (f32Shape nq 0) b.value true <| i.regTile stat <|
    i.operand i.xb (128 * tilesOf b.value + 8) <|
      let old := i.regWord stat
      let o := i.runWord i.xa b.value
      let reached := fun r => old (128 + r) ≠ 0#32
      let s := i.reading [(i.xa, 128 * tilesOf b.value + 8)]
      let s := i.putRun s i.xb nq b.value fun r c => if reached r then divF32 (o r c) (old (128 + r)) else 0
      .done (i.putStat s (i.xb + 128 * tilesOf b.value) (fun r => if r < nq then old r else 0xFF800000#32)
        (fun r => if r < nq then old (128 + r) else 0) (fun r => if r < nq ∧ reached r then log2F32 (old (128 + r)) else 0) fun _ => 0)

def execAclose (n : Nat) (s : State) : Out := tileInstr 0x24 acloseBody n s

/-- ADPREP (R141). -/
def adprepBody (i : Ctx) : Res :=
  i.withShape (i.f 39 36) fun sa => i.withShape (i.f 35 32) fun sb => i.block fun b =>
    attnForm (storedForm sa true false && storedForm sb true false && sa.rows = sb.rows) <|
      i.run i.xa sa b.dim false <| i.run i.xb sb b.dim false <| i.regTile i.xc <| i.operand i.xd 8 <|
        let o := i.runVal i.xa sa b.dim
        let g := i.runVal i.xb sb b.dim
        let old := i.regWord i.xc
        let d := fun r => if r < sa.rows ∧ old (128 + r) ≠ 0#32 then dot b.dim 0 (g r) (o r) else 0
        let s := i.reading [(i.xa, tileSlots sa.fmt 0 * tilesOf b.dim), (i.xb, tileSlots sb.fmt 0 * tilesOf b.dim), (i.xc, 8)]
        .done (i.putStat s i.xd old (fun r => old (128 + r)) (fun r => old (256 + r)) d)

def execAdprep (n : Nat) (s : State) : Out := tileInstr 0x25 adprepBody n s

/-- What ABBLK asks of its output gradient before any operand is read (R135, R136). -/
def Ctx.gradientForm (i : Ctx) (b : AttnBlock) (nq : Nat) (k : Res) : Res :=
  if b.absorbed then
    match i.c.attn.foldG with
    | none => .fault fAttnState 0 none
    | some (serial, rows) => attnState (serial = b.serial) <| attnForm (rows.length = nq) k
  else i.withShape (i.f 31 28) fun sc => attnForm (storedForm sc true false && sc.rows = nq) k

/-- The output gradient of ABBLK: stored tiles in expand mode, the fold buffer in absorbed mode, and where the dq tiles start. -/
def Ctx.gradient (i : Ctx) (b : AttnBlock) (k : (Nat → Nat → Val) → Nat → List (Nat × Nat) → Res) : Res :=
  let p := i.xd + 8
  if b.absorbed then k (bufVal (i.c.attn.foldG.elim [] (·.2))) p []
  else
    i.withShape (i.f 31 28) fun sc =>
      let z := tileSlots sc.fmt 0 * tilesOf b.dim
      i.run p sc b.dim false <| k (i.runVal p sc b.dim) (p + z) [(p, z)]

/-- ABBLK (R142, R143, R140). -/
def abblkBody (i : Ctx) : Res :=
  i.withShape (i.f 39 36) fun sa => i.withShape (i.f 35 32) fun sb => i.block fun b =>
    i.pairForm b sa sb <| i.gradientForm b sa.rows <| i.pair b sa sb fun pr =>
      let nq := sa.rows
      let nk := sb.rows
      let w := b.score
      i.regTile i.xb <| i.regTile i.xc <| i.regTile i.xd <|
      i.gradient b fun dout dq gread =>
        let dk := dq + 128 * tilesOf w
        let dv := dk + 128 * tilesOf w
        let vt := if b.absorbed then 0 else tilesOf b.dim
        i.operand dq (128 * (2 * tilesOf w + vt)) <|
        (fun r => if i.f 27 27 = 1 then r else i.run dq (f32Shape nq 0) w true r) <|
        (fun r => if i.f 26 26 = 1 then r else i.run dk (f32Shape nk 0) w true r) <|
        (fun r => if b.absorbed ∨ i.f 25 25 = 1 then r else i.run dv (f32Shape nk 0) b.dim true r) <|
          let qr := i.regWord i.xb
          let kr := i.regWord i.xc
          let st := i.regWord i.xd
          let kept := fun (zero : Bool) p z => if zero then [] else [(p, 128 * z)]
          let s := i.reading (pr.read ++ gread ++ [(i.xb, 8), (i.xc, 8), (i.xd, 8)] ++ kept (i.f 27 27 = 1) dq (tilesOf w) ++
            kept (i.f 26 26 = 1) dk (tilesOf w) ++ kept (i.f 25 25 = 1) dv vt)
          if skips b (fun n => (qr n).toNat) (fun n => (kr n).toNat) nq nk then .done s
          else
            let cell := fun r k =>
              let vis := visible b (qr r).toNat (qr (128 + r)).toNat (kr k).toNat (kr (128 + k)).toNat
              let t := mulF32 (dot w 0 (pr.q r) (pr.k k)) b.scaleC
              let p := if vis ∧ st r ≠ 0xFF800000#32 then exp2Val (f32 (subF32 (subF32 t (st r)) (st (256 + r)))) else 0#32
              let dp := dot b.value 0 (dout r) (pr.v k)
              let ds := mulF32 (mulF32 p (subF32 dp (st (384 + r)))) b.scaleTau
              (b.roundP p, b.roundP ds)
            let cells := ((List.range nq).map fun r => ((List.range nk).map (cell r)).toArray).toArray
            let at' := fun r k => (cells.getD r #[]).getD k (.fin false 0 0, .fin false 0 0)
            let start := fun (zero : Bool) p cols => if zero then fun _ _ => 0#32 else i.runWord p cols
            let q0 := start (i.f 27 27 = 1) dq w
            let k0 := start (i.f 26 26 = 1) dk w
            let v0 := start (i.f 25 25 = 1) dv b.dim
            let nq' := fun k j => dot nq (k0 k j) (fun r => (at' r k).2) fun r => pr.q r j
            let s := i.putRun s dq nq w fun r j => dot nk (q0 r j) (fun k => (at' r k).2) fun k => pr.k k j
            let s := i.putRun s dk nk w fun k j =>
              if b.absorbed ∧ j < b.rank then dot nq (nq' k j) (fun r => (at' r k).1) fun r => dout r j else nq' k j
            .done (if b.absorbed then s else
              i.putRun s dv nk b.dim fun k j => dot nq (v0 k j) (fun r => (at' r k).1) fun r => dout r j)

def execAbblk (n : Nat) (s : State) : Out := tileInstr 0x26 abblkBody n s

end Sys2Proof.Machine
end

