-- ==== Sys2Proof/Machine/Firmware.lean ====
section
/-! DEFINITION. Firmware.lean: IDENTIFY and the firmware slots (02_host_commands.md). -/

namespace Sys2Proof.Machine

/-! ### IDENTIFY (R49) -/

/-- The cores that the identity block counts: none before stage CORES, as in RECOVERY (R471). -/
def namedCores (s : State) : List Nat := if s.pwr.stage = .recovery then [] else enabledCores s

/-- BOOT_SLOT: the slot that booted, bit 7 for the fallback. -/
def bootSlot (s : State) : Nat := s.fw.running + (if s.fw.fallback then 0x80 else 0)

/-- Channels that the map in force leaves out (R260). -/
def mappedOut (s : State) : Nat := 384 - (s.hbm.lists.getD 0 []).length - (s.hbm.lists.getD 1 []).length

/-- HBM_BYTES (R260) and LPDDR_BYTES (R264). -/
def usableHbm (s : State) : Nat := if s.pwr.stage = .recovery then 0 else hbmBytes - mappedOut s * 0x60000000
def usableLpddr : Nat := 830 * 2 ^ 30 + 1008 * 2 ^ 20

/-- CORE_MASK: bit 80 × die + position for each enabled core (R89). -/
def coreMask (s : State) : Nat := (namedCores s).foldl (fun m n => m ||| 2 ^ (80 * dieOf n + (coreAt s n).pos)) 0

/-- The identity block. -/
def identity (s : State) : List Byte :=
  let rs := reservedRanges s
  serialBytes ++ le 4 s.fw.level.toNat ++ le 4 s.fw.version.toNat ++ le 4 s.fw.minSec ++ le 1 (namedCores s).length ++
    le 1 (b2n s.fw.ownerKey.isSome) ++ le 1 (bootSlot s) ++ [0] ++ le 8 (usableHbm s) ++ le 8 usableLpddr ++
    le 4 (s.fab.device.getD 0xFFFFFFFF) ++ le 4 rs.length ++ zeros 8 ++ le 20 (coreMask s) ++ zeros 12 ++
    rs.flatMap fun r => le 8 r.1 ++ le 8 r.2

def identifyBody (mb : Nat) (c : Cmd) (s : State) : State :=
  if !clean c 0 0 false then finish s mb c stMalformed else finish s mb c 0 (identity s)

def execIdentify (mb : Nat) (tag : DWord) (s : State) : Out := mbCommand mb tag 2 1 (identifyBody mb) s

/-! ### Images (the table "Firmware image header") -/

def imLevel (im : List Byte) : Nat := field im 8 4
def imVersion (im : List Byte) : Nat := field im 0xC 4
def imSecurity (im : List Byte) : Nat := field im 0x10 4
def imBody (im : List Byte) : Nat := field im 0x14 4

/-- Whether an image is whole: its header, and the body that it announces. -/
def imWhole (im : List Byte) : Bool := decide (4096 ≤ im.length) && im.length = 4096 + imBody im

/-- The header fields that have one legal value or a range. -/
def imHeaderOk (im : List Byte) : Bool :=
  im.take 8 == ascii "TK9-FW01" && imSecurity im ≤ 63 && imBody im ≤ fwSlotBytes - 4096 && sub im 0x48 3000 == zeros 3000 &&
    sub im 0xC60 928 == zeros 928

/-- What a verification finds (R58), by the boot ROM or for VERIFY: OK, or the first failing check. -/
def imVerdict (minSec : Nat) (im : List Byte) : Nat :=
  if !imWhole im then stIncomplete
  else if !imHeaderOk im || !Config.signatureOk im || sub im 0x18 48 != sha384 (im.drop 4096) then stSignature
  else if imSecurity im < minSec then stRollback
  else 0

/-! ### QUERY, STAGE, VERIFY, ACTIVATE (R57, R58) -/

def slotCode : SlotState → Nat
  | .empty => 0
  | .staged => 1
  | .verified => 2
  | .active => 3

/-- The 16 bytes of a slot in QUERY's response: where its three fields stand in them is open (log 12). -/
def slotEntry (x : FwSlot) : List Byte :=
  let whole := imWhole x.image
  (List.range 16).map
    (Config.slotByte (slotCode x.state) (if whole then imVersion x.image else 0) (if whole then imSecurity x.image else 0))

def queryBody (mb : Nat) (c : Cmd) (s : State) : State :=
  if !clean c 0 0 false then finish s mb c stMalformed else finish s mb c 0 (slotEntry (fwSlotAt s 0) ++ slotEntry (fwSlotAt s 1))

def execQuery (mb : Nat) (tag : DWord) (s : State) : Out := mbCommand mb tag 3 1 (queryBody mb) s

/-- STAGE (R57): the slot that runs is refused; the other one is invalidated and takes the image. -/
def stageBody (mb : Nat) (c : Cmd) (s : State) : State :=
  let k := c.arg0.toNat
  if !clean c 1 0 true then finish s mb c stMalformed
  else if fwSlotBytes < c.payload.length then finish s mb c stTooLong
  else if slotRuns s k then finish s mb c stResource
  else finish (setSlot s k ⟨.staged, c.payload⟩) mb c 0

def execStage (mb : Nat) (tag : DWord) (s : State) : Out := mbCommand mb tag 3 2 (stageBody mb) s

/-- VERIFY (R58). -/
def verifyBody (mb : Nat) (c : Cmd) (s : State) : State :=
  let k := c.arg0.toNat
  let x := fwSlotAt s k
  if !clean c 1 0 false then finish s mb c stMalformed
  else
    match imVerdict s.fw.minSec x.image with
    | 0 => finish (setSlot s k (if x.state = .staged then { x with state := .verified } else x)) mb c 0
    | st => finish s mb c st

def execVerify (mb : Nat) (tag : DWord) (s : State) : Out := mbCommand mb tag 3 3 (verifyBody mb) s

/-- The slot becomes the active one; the other is no longer (R58). -/
def activateSlot (s : State) (k : Nat) : State :=
  let y := fwSlotAt s (1 - k)
  let s := setSlot s (1 - k) (if y.state = .active then { y with state := .verified } else y)
  let s := setSlot s k { fwSlotAt s k with state := .active }
  { s with fw := { s.fw with next := k } }

/-- The payload of kinds 15 and 16: FW_VERSION and SECURITY_VERSION (R463). -/
def versions (im : List Byte) : DWord := BitVec.ofNat 64 (imVersion im + 2 ^ 32 * imSecurity im)

/-- The fused minimum rises to the image's security version (R58). -/
def raiseSecurity (s : State) (k : Nat) : State :=
  let im := (fwSlotAt s k).image
  if s.fw.minSec < imSecurity im then fbEntry { s with fw := { s.fw with minSec := imSecurity im } } 16 (versions im) else s

def activateBody (mb : Nat) (c : Cmd) (s : State) : State :=
  let k := c.arg0.toNat
  if !clean c 1 1 false then finish s mb c stMalformed
  else if slotRuns s k then finish s mb c stResource
  else if (fwSlotAt s k).state ≠ .verified then finish s mb c stIncomplete
  else
    let s := activateSlot s k
    let s := fbEntry s 15 (versions (fwSlotAt s k).image)
    finish (if c.arg1.getLsbD 0 then raiseSecurity s k else s) mb c 0

def execActivate (mb : Nat) (tag : DWord) (s : State) : Out := mbCommand mb tag 3 4 (activateBody mb) s

end Sys2Proof.Machine
end

