-- ==== Sys2Proof/Machine/Reset.lean ====
section
/-! DEFINITION. Reset.lean: the reset levels and what each of them ends, loses and keeps (18_power_clocks_reset.md, R448; R62, R64,
R452, R507). -/

namespace Sys2Proof.Machine

/-! ### What a reset ends at the mailboxes (R62, R452) -/

/-- A hint's operation whose command is gone: its page moves on, and nobody is told. -/
def HintOp.orphan (o : HintOp) (mb : Nat) (tag : DWord) : HintOp := if o.mb = mb && o.tag = tag then { o with mb := 16 } else o

/-- The moves of a TIER_HINT go on without it. -/
def detachHint (s : State) (mb : Nat) (tag : DWord) : State :=
  mapPages s fun p => { p with move := p.move.map fun m => { m with ops := m.ops.map fun o => o.orphan mb tag } }

/-- A snapshot goes on without its SNAP_TAKE. -/
def detachSnap (s : State) (mb : Nat) (tag : DWord) : State :=
  let f (x : SnapRun) : SnapRun := if x.cmd = some (mb, tag) then { x with cmd := none } else x
  resOf s fun r => { r with snap := r.snap.map f, waiting := r.waiting.map f }

/-- What a function reset makes of a command's work: a snapshot, the moves of a hint and a draining context go on; everything else ends as
by an abort. -/
def resetTarget (s : State) (mb : Nat) (c : Cmd) : State :=
  if !c.started then endEarly s mb c.tag stAborted
  else
    match c.cls, c.code with
    | 5, 4 => finishTag (endLaunchOf s mb c) mb c.tag stAborted
    | 7, 4 => finishTag (detachSnap s mb c.tag) mb c.tag stAborted
    | 8, 2 => finishTag (setVis s (nth c.aux 0) fun v => { v with drain := none }) mb c.tag stAborted
    | 10, 0x42 => finishTag (detachHint s mb c.tag) mb c.tag stAborted
    | 10, 0x44 => finishTag (endCopy s mb c) mb c.tag stAborted
    | _, _ => endTarget s mb c

/-- Ends every outstanding command of every mailbox. -/
def resetCommands (s : State) : State :=
  (List.range 16).foldl (fun s mb => (mbAt s mb).cmds.foldl (fun s c => resetTarget s mb c) s) s

/-- A host link that is down takes no record: host memory and the message log stay as they were. -/
def withoutRecords (s t : State) : State := { t with host := { t.host with mem := s.host.mem, msi := s.host.msi } }

/-- A mailbox after a function reset (R62, R473, R478): ring registers, holdoff, status and lock-out stay. -/
def Mailbox.functionReset (m : Mailbox) : Mailbox :=
  { m with
    cmdProd := 0, cmdCons := 0, cplProd := 0, cplCons := 0, session := none, challenge := none, cmds := [], chain := none, held := []
    irqLast := none, irqWait := false }

/-- A mailbox after a warm reset: holdoff and status go too. -/
def Mailbox.warmReset (m : Mailbox) : Mailbox := { m.functionReset with status := 0, holdoff := 0 }

def mapMailboxes (s : State) (f : Mailbox → Mailbox) : State := { s with host := { s.host with mbs := s.host.mbs.map f } }

/-- Sessions closed, windows revoked, ring pointers and ORDINAL at zero. -/
def closeLink (s : State) (f : Mailbox → Mailbox) : State :=
  let s := mapMailboxes (revokeWindows s fun _ => true) f
  { s with host := { s.host with ordinal := 0 } }

/-! ### The record of a reset (R463, R472) -/

/-- LEVEL and SOURCE, the field-book entry, and the counter `k`. -/
def noteReset (s : State) (level source k : Nat) : State :=
  let s := countUp { s with pwr := { s.pwr with level, source } } k 1
  fbEntry s 14 (BitVec.ofNat 64 (level + 256 * source))

/-- Whether a reset request can act (R507): 54 V is present, and MOD_RESET_N is not held low. -/
def resetOk (s : State) : Bool := s.pwr.powered && !s.pwr.pinHeld

/-! ### Function reset -/

/-- The MSI-X table and its pending bits in their PCIe reset state (R482). -/
def resetMsix (s : State) : State := { s with host := { s.host with msix := HostLink.reset.msix, pending := 0, funcMask := false } }

/-- A function reset (R62, R64): jobs, programs, tiers, topology, memories and the far ports are as before. With the link down (sources 2
and 3) its records are discarded. -/
def functionReset (s : State) (source : Nat) : State :=
  let t := resetCommands s
  let t := if source < 2 then t else withoutRecords s t
  noteReset (resetMsix (closeLink t Mailbox.functionReset)) 2 source cFunction

/-- FUNCTION_RESET: it reaches an endpoint that is powered. -/
def execFunctionReset (source : Nat) (s : State) : Out :=
  onUnit source 4 (.next (if resetOk s && s.pwr.endpoint then functionReset s source else s))

/-! ### What a warm reset loses -/

/-- A core that the reset leaves dark: fuses, fences and passed tests stay. -/
def Core.darkened (c : Core) (n : Nat) : Core :=
  { Core.reset n with pos := c.pos, enabled := c.enabled, cause := c.cause, retested := c.retested }

/-- The cores: writes in flight are cut off, every core is dark, every slot record unsealed. -/
def dropCores (s : State) : State :=
  let s := s.cores.foldl (fun s c => c.moves.foldl discardMove s) s
  { s with cores := s.cores.mapIdx fun n c => c.darkened n, recs := [] }

/-- The on-chip memories (R448): the bytes of staging memory and hub SRAM are undefined; a tile store reads as zero when its core
lights. -/
def dropCtl (s : State) : State :=
  let s := { s with ctl := s.ctl.filter fun c => c.1 < tileBase 0 }
  havocCtl s 0 (hubBase + 0x1000000)

/-- Telemetry in Sysen's memories (R454, R456, R458, R460); the field book goes on. -/
def Tel.warm (t : Tel) : Tel :=
  { t with
    stepRec := none, closed := [], nextSeq := 0, stream := none, events := [], nextEvent := 0, dropped := 0
    logs := List.replicate 4 ⟨0, []⟩, rate := [], errTimes := [], sealTimes := [] }

/-- The settings of R506, and what Sysen keeps of them. -/
def Pwr.warm (p : Pwr) : Pwr :=
  { p with cap := 1850, hostLimit := 3200, dimAfter := 500, darkAfter := 100, standby := false, mounted := false }

/-- The fabric: no device number, no topology, every port DOWN, no transaction. Cables and lane swaps stay. -/
def Fab.warm (f : Fab) : Fab :=
  { Fab.reset with spares := f.spares, present := f.present, nextTx := f.nextTx, sent := f.sent, flits := f.flits, blocks := f.blocks }

/-- A far port: DOWN, without configuration, keys and paths (R373); the optic stays in its cage. -/
def FarPort.warm (x : FarPort) : FarPort := { FarPort.reset with optic := x.optic, own := x.own, refused := x.refused, dropped := x.dropped }

def Far.warm (f : Far) : Far := { f with ports := f.ports.map FarPort.warm, limits := [] }

/-- The resilience engine: no configuration, no committed step (R448); flash, Lantern's settings and state stay. -/
def Resil.warm (r : Resil) : Resil :=
  { Resil.reset with
    slots := r.slots, bias := r.bias, weights := r.weights, caps := r.caps, lantern := r.lantern, score := r.score, below := r.below, evalAt := r.evalAt
    evacuate := r.evacuate }

/-- The pictures of the engines that decode are cut off (R422). -/
def dropPictures (s : State) : State :=
  s.vis.engines.foldl (fun s e => match e with
    | some (n, _, _) => havocLocal s (vDpbBase (visAt s n).desc) (vDpbLen (visAt s n).desc)
    | none => s) s

/-- What the firmware that runs has given the identity registers (R471). -/
def Fw.stopped (f : Fw) : Fw := { f with version := 0, level := 0, fallback := false }

/-- Everything that a warm and a cold reset both lose. -/
def dropWork (s : State) : State :=
  { s with
    fw := s.fw.stopped, tel := s.tel.warm, pwr := s.pwr.warm
    dieSems := List.replicate 2 (List.replicate 1024 0), hubSems := List.replicate 1024 0, semOver := 0
    programs := [], tables := [], job := Job.reset, stackSet := [], tier := ⟨[], [], [], List.replicate 8 0⟩
    fab := s.fab.warm, far := s.far.warm, coll := ⟨0, none, [], [], [], 0⟩, res := s.res.warm, vis := Vis.reset }

/-! ### Warm reset -/

/-- The stage that a warm reset begins at: ROM, or the thermal hold (R443, R449). -/
def warmStage (s : State) (source : Nat) : Stage := if source = 3 ∨ s.pwr.stage = .hold then .hold else .rom

/-- HBM and LPDDR go into self-refresh until stage MEMORY (R448). Survey is suspended: a window that was open waits again, and a shadow
re-centre ends (R258). -/
def selfRefresh (s : State) : State :=
  { s with hbm := { s.hbm with held := [], waiting := s.hbm.held ++ s.hbm.waiting, shadows := [], selfRefresh := true } }

def warmReset (s : State) (source : Nat) : State :=
  let s := closeLink (resetCommands s) Mailbox.warmReset
  let s := drawIncarnation (dropWork (dropPictures (dropCtl (dropCores s))))
  let s := selfRefresh { s with pwr := { s.pwr with stage := warmStage s source } }
  noteReset s 1 source cWarm

/-- Whether a warm reset can act: the module runs, no power fault is in force, and stage POWER is over. -/
def warmOk (s : State) : Bool := resetOk s && !s.pwr.fault && s.pwr.stage ≠ .power

def execWarmReset (source : Nat) (s : State) : Out := onUnit source 4 (.next (if warmOk s then warmReset s source else s))

/-- SYSEN_WATCHDOG_EXPIRY: 2 s without service. -/
def execSysenWatchdogExpiry (s : State) : Out :=
  .next (if warmOk s && s.pwr.stage ≠ .hold then warmReset (advance s (s.time + 2000000000)) 2 else s)

/-! ### Cold reset and the loss of the rails -/

/-- The host link as cold reset leaves it (R448): everything at its reset value. What host memory holds is the host's. -/
def HostLink.cold (h : HostLink) : HostLink := { HostLink.reset with mem := h.mem, msi := h.msi }

/-- Lamplighter with every rail but PILOT off; LIMIT, TRIP, the measures and the energy count are the pilot domain's (R432, R453). -/
def Pwr.dark (p : Pwr) : Pwr :=
  { p.warm with
    stage := .power, rails := 1, endpoint := false, clock0 := 0, clock1 := 0, divider := none, powThrottle := false, therm0 := false
    therm1 := false, lowSince := none }

/-- Memory channels and lanes as the field book keeps them (R254, R255, R259). -/
def Hbm.cold (h : Hbm) : Hbm :=
  { Hbm.reset with mapout := h.mapout, failed := h.failed, degraded := h.degraded, repaired := h.repaired, scrub := 0 }

def Lpddr.cold (l : Lpddr) : Lpddr := { Lpddr.reset with failed := l.failed, degraded := l.degraded }

/-- Everything that the rails but PILOT hold up is gone (log 1). A cold reset also zeroes the headers of the held vault slots (R390). -/
def dropPower (s : State) : State :=
  let s := dropWork s
  { s with
    cores := s.cores.mapIdx fun n c => c.darkened n
    ctl := [], recs := [], dram := [], poison := []
    host := s.host.cold, pwr := s.pwr.dark, tel := { s.tel with mask := Tel.reset.mask }
    hbm := s.hbm.cold, lpddr := s.lpddr.cold
    res := { Resil.reset with slots := s.res.slots } }

/-- A cold reset begins (R448, R434): boot goes on from stage POWER; a power fault is over. -/
def coldReset (s : State) (source : Nat) : State :=
  let s := drawIncarnation (dropPower s)
  noteReset { s with pwr := { s.pwr with fault := false } } 0 source (if source = 0 then cPowerLoss else cCold)

def execColdReset (source : Nat) (s : State) : Out := onUnit source 3 (.next (if resetOk s then coldReset s source else s))

/-- POWER_ARRIVAL (R432, R433, R464): the pilot domain starts, module time runs from 0, the newest commit image counts. With MOD_RESET_N
low the cold reset waits for its release (R507). -/
def powerArrival (s : State) : State :=
  let tel := { s.tel with
    counters := s.tel.saved, hist := s.tel.savedHist, fbRate := [], commitTime := none, hour := [0, 0, 0, 0] }
  let s := { s with time := 0, tel, pwr := { Pwr.reset with pinHeld := s.pwr.pinHeld, ibis := s.pwr.ibis } }
  if s.pwr.pinHeld then countUp s cPowerLoss 1 else coldReset s 0

def execPowerArrival (s : State) : Out := .next (if s.pwr.powered then s else powerArrival s)

/-- POWER_LOSS (R491, R492): below 40.0 V, 54 V is gone, and the pilot domain with it. -/
def powerLoss (s : State) : State :=
  let s := dropPower s
  { s with pwr := { Pwr.reset with powered := false, rails := 0, pinHeld := s.pwr.pinHeld, ibis := s.pwr.ibis } }

def execPowerLoss (mv : Nat) (s : State) : Out := .next (if s.pwr.powered && mv < 40000 then powerLoss s else s)

/-- MOD_RESET_N_ASSERT (R507): low for 1 ms; every rail but PILOT is off while it is low. -/
def pinLow (s : State) : State :=
  let s := dropPower (advance s (s.time + 1000000))
  { s with pwr := { s.pwr with pinHeld := true } }

def execModResetNAssert (s : State) : Out := .next (if resetOk s then pinLow s else s)

/-- MOD_RESET_N_RELEASE: the cold reset begins. -/
def execModResetNRelease (s : State) : Out :=
  .next (if s.pwr.powered && s.pwr.pinHeld then coldReset { s with pwr := { s.pwr with pinHeld := false } } 1 else s)

/-! ### RESET and the sideband (R64, R453) -/

/-- RESET: its record comes before the reset begins. -/
def resetBody (mb : Nat) (c : Cmd) (s : State) : State :=
  if !clean c all64 0 false || !(c.arg0 = 1 || c.arg0 = 2) then finish s mb c stMalformed
  else
    let s := finish s mb c 0
    if c.arg0 = 1 then warmReset s 0 else functionReset s 0

def execResetCmd (mb : Nat) (tag : DWord) (s : State) : Out := mbCommand mb tag 2 4 (resetBody mb) s

def execSidebandColdReset (s : State) : Out := .next (if resetOk s then coldReset s 2 else s)
def execSidebandWarmReset (s : State) : Out := .next (if warmOk s then warmReset s 1 else s)

/-- SIDEBAND_TRIP_CLEAR (R453, R490): the module lets THERM_N go. -/
def execSidebandTripClear (s : State) : Out :=
  .next (if s.pwr.powered then { s with pwr := { s.pwr with trip := false, thermN := false } } else s)

/-- SIDEBAND_LIMIT_WRITE: 100 to 200 in units of 16 W; other values are ignored. -/
def execSidebandLimitWrite (value : Byte) (s : State) : Out :=
  .next (if s.pwr.powered && 100 ≤ value.toNat && value.toNat ≤ 200 then { s with pwr := { s.pwr with boardLimit := value } } else s)

end Sys2Proof.Machine
end

