-- ==== Sys2Proof/Machine/Boot.lean ====
section
/-! DEFINITION. Boot.lean: the stages of the boot sequence (18_power_clocks_reset.md, R434, R449, R451). -/

namespace Sys2Proof.Machine

/-- A boot stage is done: `k` is what it does, where the module stands at that stage and may run. -/
def atStage (st : Stage) (k : State → State) (s : State) : Out :=
  .next (if resetOk s && !s.pwr.fault && s.pwr.stage = st then k s else s)

def setStage (s : State) (st : Stage) : State := { s with pwr := { s.pwr with stage := st } }

/-- Whether the boot follows a warm reset. -/
def warmBoot (s : State) : Bool := s.pwr.level = 1

/-- BOOT_POWER: the nine rails in order, the PLLs at their lowest setting; the endpoint answers from power-good on (R435, R450). -/
def execBootPower (s : State) : Out :=
  atStage .power (fun s => { s with pwr := { s.pwr with stage := .rom, rails := 9, endpoint := true, clock0 := 800, clock1 := 800 } }) s

/-- What the boot ROM finds in a slot. -/
def slotBoots (s : State) (k : Nat) : Bool := imVerdict s.fw.minSec (fwSlotAt s k).image = 0

/-- BOOT_ROM (R58, R451): the active slot, or the other one, or RECOVERY. -/
def bootRom (s : State) : State :=
  let k := s.fw.next
  if slotBoots s k then setStage { s with fw := { s.fw with running := k, fallback := false } } .firmware
  else if slotBoots s (1 - k) then setStage { s with fw := { s.fw with running := 1 - k, fallback := true } } .firmware
  else setStage s .recovery

def execBootRom (s : State) : Out := atStage .rom bootRom s

/-- Fenced cores that have passed CORE_RETEST rejoin the enabled set (R109). -/
def rejoin (s : State) : State :=
  if s.cores.any (·.retested) then
    fbState { s with cores := s.cores.map fun c => if c.retested then { c with enabled := true, cause := none, retested := false } else c }
  else s

/-- The bits of ERROR_STATUS that a boot sets (R481), and the entry of a fallback boot. -/
def bootErrors (s : State) : State :=
  let s := if warmBoot s && s.pwr.source = 2 then setError s 0 else s
  let s := if warmBoot s && s.pwr.source = 3 then setError s 1 else s
  if s.fw.fallback then setError (fbEntry s 17 0) 2 else s

/-- BOOT_FIRMWARE: the image's version and interface level; after a warm reset the tested cores rejoin here. -/
def bootFirmware (s : State) : State :=
  let im := (fwSlotAt s s.fw.running).image
  let s := { s with fw := { s.fw with version := BitVec.ofNat 32 (imVersion im), level := BitVec.ofNat 32 (imLevel im) } }
  setStage (bootErrors (if warmBoot s then rejoin s else s)) .memory

def execBootFirmware (s : State) : Out := atStage .firmware bootFirmware s

/-! ### Map-out (R259 to R261) -/

def moFlags (m : List Byte) : Nat := field m 0 1
/-- The channels a record lists for a die. -/
def moList (m : List Byte) (die : Nat) : List Nat := (List.range (field m (1 + die) 1)).map fun i => field m (4 + 16 * die + i) 1

/-- A record of flags and two lists. -/
def moRecord (flags : Nat) (l0 l1 : List Nat) : List Byte :=
  let row (l : List Nat) : List Byte := (l.map (BitVec.ofNat 8)) ++ zeros (16 - l.length)
  le 1 flags ++ le 1 l0.length ++ le 1 l1.length ++ [0] ++ row l0 ++ row l1 ++ zeros 12

/-- A die's list with its failed channels, unless it would exceed 16. -/
def moGrown (s : State) (die : Nat) : List Nat :=
  let all := (List.range 192).filter fun c => (moList s.hbm.mapout die).contains c || s.hbm.failed.contains (192 * die + c)
  if all.length ≤ 16 then all else moList s.hbm.mapout die

/-- A new map-out record goes to the field book. -/
def storeMapout (s : State) (m : List Byte) : State :=
  if s.hbm.mapout = m then s else fbState (fbEntry { s with hbm := { s.hbm with mapout := m } } 11 0)

/-- AUTO adds every failed channel (R261). -/
def growMapout (s : State) : State :=
  let f := moFlags s.hbm.mapout
  if bit f 0 && bit f 1 then storeMapout s (moRecord f (moGrown s 0) (moGrown s 1)) else s

/-- The service lists in force (R244, R260). -/
def mapLists (s : State) : State :=
  let keep (die : Nat) : List Nat :=
    if bit (moFlags s.hbm.mapout) 0 then nativeList.filter fun c => !(moList s.hbm.mapout die).contains c else nativeList
  { s with hbm := { s.hbm with lists := [keep 0, keep 1] } }

/-- A lane that fails training (R253, R254): the spare takes its place, or the pseudo-channel is degraded. -/
def laneFails (s : State) (x : Nat × Nat × Nat) : State :=
  if spareUsed s x.1 x.2.1 || x.2.2 = 36 then hbmDegrade s x.1 x.2.1 x.2.2 else repairLane s x.1 x.2.1 x.2.2

/-- BOOT_MEMORY: training and map-out after a cold reset, the end of self-refresh after a warm one. -/
def bootMemory (hbm lpddr : List Nat) (lanes : List (Nat × Nat × Nat)) (s : State) : State :=
  if warmBoot s then setStage (leaveRefresh s) .fabric
  else
    let s := mapLists (growMapout s)
    let s := hbm.foldl hbmFail s
    let s := lanes.foldl laneFails s
    setStage (lpddr.foldl lpddrFail s) .cores

/-- Whether the operands name channels and lanes that exist. -/
def trainable (hbm lpddr : List Nat) (lanes : List (Nat × Nat × Nat)) : Bool :=
  hbm.all (· < 384) && lpddr.all (· < 64) && lanes.all fun x => x.1 < 384 && x.2.1 < 2 && x.2.2 < 37

def execBootMemory (failedHbm failedLpddr : List Nat) (failedLanes : List (Nat × Nat × Nat)) (s : State) : Out :=
  if trainable failedHbm failedLpddr failedLanes then atStage .memory (bootMemory failedHbm failedLpddr failedLanes) s
  else .refused .noSuchUnit

/-- BOOT_CORES: the tested cores rejoin, and one whose self-test fails is fenced (R106). -/
def bootCores (failed : List Nat) (s : State) : State := setStage (failed.foldl (fun s n => fenceCore s n 2) (rejoin s)) .fabric

def execBootCores (failed : List Nat) (s : State) : Out :=
  if failed.all (· < 152) then atStage .cores (bootCores failed) s else .refused .noSuchUnit

/-- Optics that declare no more than 16 W are powered (R487). -/
def powerOptics (s : State) (on : Bool) : State :=
  let f (x : FarPort) : FarPort := { x with optic := x.optic.map fun o => (o.1, on && o.1.any (· ≤ 16000)) }
  { s with far := { s.far with ports := s.far.ports.map f } }

/-- BOOT_FABRIC: every near port with a cable trains; the far ports stay DOWN. -/
def bootFabric (s : State) : State := setStage ((List.range 36).foldl trainPort (powerOptics s true)) .flash

def execBootFabric (s : State) : Out := atStage .fabric bootFabric s

/-- BOOT_FLASH: a slot left WRITING is TORN (R397). -/
def bootFlash (s : State) : State :=
  let s := resOf s fun r => { r with slots := r.slots.map fun x => if x.state = 1 then { x with state := 3 } else x }
  { s with pwr := { s.pwr with mounted := true } }

def execBootFlash (s : State) : Out := atStage .flash bootFlash s

/-- BOOT_READY. -/
def execBootReady (s : State) : Out := atStage .flash (fun s => if s.pwr.mounted then setStage s .ready else s) s

end Sys2Proof.Machine
end

