-- ==== Sys2Proof/Machine/SeqRows.lean ====
section
/-! DEFINITION. SeqRows.lean: an entry of the walk starts (10_pipeline_sequencer.md, R233, R234, R241, R242). -/

namespace Sys2Proof.Machine

/-- The entry is marked started: its semaphore is taken in the same step, its place among the started entries is kept. -/
def markEntry (s : State) (i : Nat) (e : Entry) : State :=
  let gap := e.kind = 3 && wGap s e && !wFixed s i e && !wLatest s i e
  let s := if noSem e.waitSem then s else semTake s 0 (groupDie s e.group) e.waitSem e.waitCount
  let order := s.job.starts
  let s := setEntry s i fun x => { x with phase := .started, order, start := s.time, gap, insts := [] }
  jobOf s fun j => { j with starts := j.starts + 1 }

/-- Whether an entry completes as it starts: a SYNC, a skipped B, a W whose layers are all frozen (R234, R242). -/
def atOnce (s : State) (e : Entry) : Bool :=
  e.kind = 6 || frozenSkip s e

/-- The first UPDATE entry of the step. -/
def firstUpdate (s : State) (e : Entry) : Bool := e.kind = 4 && s.job.pairs.all fun p => p.1.kind ≠ 4 || p.2.phase = .pending

/-- A pending entry starts. -/
def startEntry (s : State) (i : Nat) (e : Entry) (x : EntryState) : State :=
  let first := firstUpdate s e
  let skip := atOnce s e
  let s := markEntry s i e
  let s := if first then noteUpdate s s.job.step else s
  if skip then completeEntry s i
  else if e.kind = 5 then startCollective s (e.program % 4096) i
  else
    let s := if wantsReturns s e x then issueReturns s i e s.time else s
    setEntry s i fun x => { x with insts := List.replicate e.instances ⟨.pending, false, false, [], []⟩ }

/-- Entry `i` starts if it may; one whose group has no enabled core left fails (R445). -/
def tryStart (s : State) (i : Nat) : State :=
  match s.job.pairs[i]? with
  | some (e, x) =>
    if !walking s || x.phase ≠ .pending then s
    else if (liveCores s e.group).isEmpty then failEntry s i
    else if startsNow s i e then startEntry s i e x
    else s
  | none => s

/-- The first entry that has not completed of a group without an enabled core fails, and the step with it (R445). -/
def failEmptyGroups (s : State) : State :=
  if !walking s then s
  else
    match (indexed s.job).find? fun p => (p.2.2.phase = .pending || p.2.2.phase = .started) && (liveCores s p.2.1.group).isEmpty with
    | some (i, _) => failEntry s i
    | none => s

def execEntryStart (entry : Nat) (s : State) : Out := .next (tryStart s entry)

/-- W_LATEST_START: the latest start of an eligible W entry comes (R241). -/
def wLatestStart (s : State) (i : Nat) : State :=
  match s.job.pairs[i]? with
  | some (e, x) =>
    if walking s && x.phase = .pending && e.kind = 3 && eligible s i e then tryStart (advance s (latestStart s i e)) i else s
  | none => s

def execWLatestStart (entry : Nat) (s : State) : Out := .next (wLatestStart s entry)

end Sys2Proof.Machine
end

