-- ==== Sys2Proof/Machine/Fences.lean ====
section
/-! DEFINITION. Fences.lean: the triggers of a fence, and where a fenced core's program goes on (04_cores_tile_store_seals.md, R106 to
R109). -/

namespace Sys2Proof.Machine

/-- A fence at once; an entry whose group has no enabled core left fails, and the step with it (R445). -/
def fenceNow (s : State) (n cause : Nat) : State := failEmptyGroups (fenceCore s n cause)

/-- IMMEDIATE_FENCE: the triggers that fence at once, by their row of R106's table: an uncorrectable error, which is also a seal fault of kind
4 (R93, R125, R148, R173), no retirement, the host's request. -/
def execImmediateFence (core cause : Nat) (s : State) : Out :=
  onUnit core 152 (onUnit cause 5 (.next <|
    if cause = 0 then failEmptyGroups (ownError s core) else if cause = 2 ∨ cause = 3 then s else fenceNow s core cause))

/-- Whether a core holds issued work that waits on no semaphore, fetch or stack operation. -/
def stuck (c : Core) : Bool :=
  c.launch.isSome && c.stop.isNone && c.ending.isNone && c.wait.isNone && c.cause.isNone &&
    c.moves.all fun m => !(m.kind = .fetch || m.kind = .gfetch || m.kind = .push || m.kind = .pop)

/-- NO_RETIRE_TIMEOUT: 100 ms without a retired instruction. -/
def execNoRetireTimeout (core : Nat) (s : State) : Out :=
  onUnit core 152 <|
    let c := coreAt s core
    .next (if stuck c then fenceNow (advance s (c.retired + 100000000)) core 1 else s)

/-- CORRECTED_ERROR_LIMIT: the 65th corrected error of an hour (R93, R106); those that MOVE_END has shown are among the 65. -/
def correctedLimit (s : State) (n : Nat) : State :=
  let c := coreAt s n
  let known := if c.hour + 3600000000000 ≤ s.time then 0 else c.corrected
  failEmptyGroups (storeErrors s n (max 1 (65 - known)))

def execCorrectedErrorLimit (core : Nat) (s : State) : Out :=
  onUnit core 152 (.next (if (coreAt s core).cause.isSome then s else correctedLimit s core))

/-! ### REISSUE (R108, R183) -/

/-- The launch of a program that starts anew on another core, with the identity of the first. The pairs of die and hub semaphores stay counted
(R201); the core's own semaphores are those of another core now, which have counted none. -/
def Launch.again (l : Launch) : Launch :=
  { l with pc := l.first, remote := false, localIn := false, own := [], seqs := [], counted := l.pairs }

/-- The instance that a launch is. -/
def setInstance (s : State) (l : Launch) (f : Inst → Inst) : State :=
  match l.sched with
  | some i => setEntry s i fun x => { x with insts := x.insts.modify (l.number % 65536) f }
  | none => s

/-- The launch moves to core `k`, whose place in the group it has from then on (R226). -/
def moveLaunch (s : State) (n k : Nat) (l : Launch) (p : Program) : State :=
  let (rank, size) := if l.sched.isSome then groupPlace s k else (l.rank, l.size)
  launchCore (setInstance (clearLaunch s n) l fun x => { x with phase := .running k }) k p { l.again with rank, size }

/-- A launch that is not reissued: its LAUNCH completes with DEVICE_FAULT, or its entry is reported failed and re-run. -/
def loseLaunch (s : State) (n : Nat) (l : Launch) : State :=
  let s := clearLaunch s n
  match l.host, l.sched with
  | some (mb, tag), _ =>
    if (findCmd s mb tag).any ending then s else finishTag s mb tag stDeviceFault [] (BitVec.ofNat 64 n)
  | none, some i =>
    settleEntry (setEntry (setInstance s l fun x => { x.keeping l with phase := .failed }) i fun x => { x with broken := true }) i
  | none, none => s

/-- The program of fenced core `n` starts again on the lowest idle enabled core of its die; it waits while every enabled one is busy. -/
def reissue (s : State) (n : Nat) : State :=
  let c := coreAt s n
  match c.launch with
  | some l =>
    if c.cause.isNone || c.stop.isSome || c.ending.isSome then s
    else
      let die := (enabledCores s).filter fun k => dieOf k = dieOf n
      let aborted := l.host.any fun h => (findCmd s h.1 h.2).any ending
      match die.find? fun k => (coreAt s k).launch.isNone, findProg s l.prog with
      | some k, some p => if l.bound || aborted then loseLaunch s n l else moveLaunch s n k l p
      | none, some _ => if l.bound || aborted || die.isEmpty then loseLaunch s n l else s
      | _, none => loseLaunch s n l
  | none => s

def execReissue (core : Nat) (s : State) : Out := onUnit core 152 (.next (reissue s core))

end Sys2Proof.Machine
end

