-- ==== Sys2Proof/Machine/Power.lean ====
section
/-! DEFINITION. Power.lean: power faults, throttling, core power states and the power class (18_power_clocks_reset.md; 21_module_hardware.md,
R492). -/

namespace Sys2Proof.Machine

def stPwrState : Nat := 0x0A01
def stPwrRange : Nat := 0x0A02
def stPwrTest : Nat := 0x0A03

/-! ### Faults, excursions, holds (R434, R443, R492) -/

/-- The in-band interrupt of `cause` is raised when its sideband bit has risen (R453, log 106). -/
def Pwr.interrupt (p : Pwr) (cause now : Nat) (rose : Bool) : Pwr := if rose then { p with ibis := p.ibis ++ [(cause, now)] } else p

/-- TRIP is raised, and THERM_N driven low (R453, R490). -/
def raiseTrip (s : State) : State :=
  { s with pwr := Pwr.interrupt { s.pwr with trip := true, thermN := true } 1 s.time (!s.pwr.trip) }

/-- The interrupt of THROTTLE, when a throttle is in force now and none was before. -/
def noteThrottle (before s : State) : State :=
  { s with pwr := s.pwr.interrupt 0 s.time (!throttled before && throttled s) }

/-- POWER_FAULT: every rail but PILOT goes down until a cold reset. -/
def powerFault (s : State) : State :=
  let s := countUp (fbEntry (raiseTrip s) 12 0) cPowerFault 1
  let s := dropPower s
  { s with pwr := { s.pwr with fault := true } }

/-- How long the input may stand at `mv` until that is a power fault (R492): none within limits. -/
def faultAfter (mv : Nat) : Option Nat := if mv < 46000 then some 10000000 else if 60000 < mv then some 100000 else none

/-- A power stage reports (`rail` 1 to 9), or the input (`rail` 0) has stood at `mv` too long. -/
def execPowerFault (rail mv : Nat) (s : State) : Out :=
  onUnit rail 10 <| .next <|
    if !resetOk s || s.pwr.fault then s
    else if rail ≠ 0 then powerFault s
    else match faultAfter mv with
      | some dt => powerFault (advance s (s.time + dt))
      | none => s

/-- One count in a bin of a histogram, values beyond its range in its end bins (R465). -/
def histCount (s : State) (id bin : Nat) : State :=
  { s with tel := { s.tel with hist := s.tel.hist.modify id fun l => l.modify (min bin (l.length - 1)) (· + 1) } }

/-- The operating range of the input (R491). -/
def inputInRange (mv : Nat) : Bool := 48000 ≤ mv && mv ≤ 58000

/-- INPUT_EXCURSION (R492): 100 µs outside the operating range open an excursion, and 100 µs within it close the one that is open and count
it. -/
def inputExcursion (s : State) (mv : Nat) : State :=
  if s.pwr.excursion ≠ inputInRange mv then s
  else
    let s := advance s (s.time + 100000)
    if s.pwr.excursion then
      histCount { s with pwr := { s.pwr with mv, excursion := false, excursions := s.pwr.excursions ++ [s.time] } } 20 ((s.pwr.mv - 46000) / 500)
    else { s with pwr := { s.pwr with mv, excursion := true } }

def execInputExcursion (mv : Nat) (s : State) : Out := .next (if s.pwr.powered then inputExcursion s mv else s)

/-- THROTTLE (R442, R459): an entry or an exit, of the power or of the thermal kind. -/
def throttleEvent (s : State) (entry thermal : Bool) : State := event s 10 (b2n entry + 2 * b2n thermal)

/-! ### Sensors (R442, R496) -/

/-- Warning, throttle and trip limit of a class, in 0.1 °C (the table of R496). -/
def classLimits : SensorClass → TempLimits
  | .c0 | .c1 | .hub => ⟨980, 1050, 1150⟩
  | .hbm => ⟨880, 950, 1050⟩
  | .lpddr => ⟨850, 950, 1050⟩
  | .nand => ⟨700, 800, 900⟩
  | .optics => ⟨700, 750, 800⟩
  | .stage => ⟨1100, 1200, 1300⟩
  | .inlet => ⟨450, 500, 550⟩

/-- The limits of one sensor: an optic's own thresholds take the place of those of its class that they lie below (R496). -/
def sensorLimits (s : State) (x : SensorClass × Nat) : TempLimits :=
  let l := classLimits x.1
  match x.1, (farAt s x.2).own with
  | .optics, some o => ⟨min l.warning o.warning, min l.throttle o.throttle, min l.trip o.trip⟩
  | _, _ => l

/-- The sensors that are read, with their readings: an optic's is read through its management, so only where one is powered. -/
def sensors (s : State) : List ((SensorClass × Nat) × Int) :=
  let row (k : SensorClass) (l : List Int) := l.mapIdx fun i v => ((k, i), v)
  let t := s.pwr.temps
  row .c0 t.c0 ++ row .c1 t.c1 ++ row .hub t.hub ++ row .hbm t.hbm ++ row .lpddr t.lpddr ++ row .nand t.nand ++
    ((row .optics t.optics).filter fun x => (farAt s x.1.2).optic.any (·.2)) ++ row .stage t.stages ++ row .inlet t.inlet

/-- The dies whose clock a sensor's throttle lowers (R442): its own for a C-die and for an HBM stack, both for any other. -/
def sensorDies : SensorClass × Nat → List Nat
  | (.c0, _) => [0]
  | (.c1, _) => [1]
  | (.hbm, i) => [i / 2 / 6]
  | _ => [0, 1]

/-- Whether a sensor's throttle holds at a reading: above the limit, or, once it holds, not yet 2 °C below it. -/
def stillHot (s : State) (x : (SensorClass × Nat) × Int) : Bool :=
  let lim := (sensorLimits s x.1).throttle
  lim < x.2 || (s.pwr.hot.contains x.1 && lim - 20 < x.2)

/-- Whether any sensor exceeds its throttle limit; whether any has reached its trip limit; whether all are 10 °C below their throttle limit. -/
def overThrottle (s : State) : Bool := (sensors s).any fun x => (sensorLimits s x.1).throttle < x.2
def tripReached (s : State) : Bool := (sensors s).any fun x => (sensorLimits s x.1).trip ≤ x.2
def holdOver (s : State) : Bool := (sensors s).all fun x => x.2 ≤ (sensorLimits s x.1).throttle - 100

/-- The hottest reading, 0 with none. -/
def hottest (xs : List Int) : Int := xs.foldl max (xs.headD 0)
/-- Lantern's input 13: degrees of the worst sensor above its warning limit, rounded up. -/
def overWarning (s : State) : Nat := ((sensors s).map fun x => ((x.2 - (sensorLimits s x.1).warning + 9) / 10).toNat).foldl max 0

/-- Since when a core clock has stood at 0.80 GHz with a throttle limit exceeded (R443). -/
def watchLow (s : State) : State :=
  let low := (s.pwr.clock0 = 800 || s.pwr.clock1 = 800) && overThrottle s
  { s with pwr := { s.pwr with lowSince := if low then some (s.pwr.lowSince.getD s.time) else none } }

/-- The readings come in: which throttles hold (R442), the hottest sensor, the excess over the warning limits. -/
def readSensors (s : State) (temps : Temps) : State :=
  let t := { s with pwr := { s.pwr with temps } }
  let hot := ((sensors t).filter (stillHot t)).map (·.1)
  let on (d : Nat) : Bool := hot.any fun x => (sensorDies x).contains d
  let t := { t with pwr := { t.pwr with
    hot, therm0 := on 0, therm1 := on 1, maxTemp := hottest ((sensors t).map (·.2)), overWarn := overWarning t } }
  let was := s.pwr.therm0 || s.pwr.therm1
  let t := noteThrottle s (watchLow t)
  if was = (on 0 || on 1) then t else throttleEvent t (on 0 || on 1) true

/-- A thermal trip (R443): the cores' clocks stop, the field book has it at once, and a warm reset ends in HOLD with the optics off. -/
def tripNow (s : State) : State :=
  let s := countUp (fbEntry (raiseTrip s) 13 0) cTrip 1
  let s := powerOptics { s with pwr := { s.pwr with clock0 := 0, clock1 := 0, lowSince := none } } false
  warmReset s 3

/-- THERMAL_TRIP: a sensor has reached its trip limit, or a clock stands at 0.80 GHz for 1 s while a throttle limit is exceeded. -/
def thermalTrip (s : State) (temps : Temps) : State :=
  let s := readSensors s temps
  if tripReached s then tripNow s
  else match s.pwr.lowSince with
    | some t => tripNow (advance s (t + 1000000000))
    | none => s

def execThermalTrip (temps : Temps) (s : State) : Out := .next (if warmOk s then thermalTrip s temps else s)

/-- THERMAL_HOLD_RELEASE: once every sensor is 10 °C below its throttle limit, boot goes on. -/
def holdRelease (s : State) (temps : Temps) : State :=
  let s := readSensors s temps
  if holdOver s then setStage { s with pwr := { s.pwr with clock0 := 800, clock1 := 800 } } .rom else s

def execThermalHoldRelease (temps : Temps) (s : State) : Out := atStage .hold (fun s => holdRelease s temps) s

/-! ### The power envelope (R440 to R442) -/

/-- The sustained limit in W. -/
def sustained (s : State) : Nat := min 3200 (min s.pwr.hostLimit (16 * s.pwr.boardLimit.toNat))

/-- Whether an average exceeds its limit; whether both stay below 0.95 of theirs. Powers are in mW. -/
def overPower (s : State) : Bool := 1000 * sustained s < s.pwr.avg1s || 1100 * sustained s < s.pwr.avg10ms
def underPower (s : State) : Bool := s.pwr.avg1s < 950 * sustained s && s.pwr.avg10ms < 1045 * sustained s

/-- One step of 25 MHz down, to the lowest setting; a stopped clock stays stopped. -/
def clockDown (c : Nat) : Nat := if c = 0 then 0 else max 800 (c - 25)
/-- One step up, to the cap. -/
def clockUp (cap c : Nat) : Nat := if c = 0 then 0 else max c (min cap (c + 25))
/-- A clock glides down by one step every 10 µs while an average exceeds its limit, and while it stands above the cap (R435, R440). -/
def clockGlide (high : Bool) (cap c : Nat) : Nat := if high || cap < c then clockDown c else c

/-- The throttle of R440 holds while an average exceeds its limit. -/
def setPowerThrottle (s : State) (on : Bool) : State :=
  if s.pwr.powThrottle = on then s
  else throttleEvent (noteThrottle s { s with pwr := { s.pwr with powThrottle := on } }) on false

/-- POWER_SAMPLE: every 10 µs. -/
def powerSample (s : State) (mv avg1s avg10ms : Nat) (temps : Temps) : State :=
  let dt := max (s.pwr.lastSample + 10000) s.time - s.pwr.lastSample
  let s := advance s (s.pwr.lastSample + 10000)
  let s := { s with pwr := { s.pwr with
    mv, avg1s, avg10ms, lastSample := s.time, energy := s.pwr.energy + avg10ms * dt } }
  let s := readSensors s temps
  let glide := clockGlide (overPower s) s.pwr.cap
  setPowerThrottle (watchLow { s with pwr := { s.pwr with clock0 := glide s.pwr.clock0, clock1 := glide s.pwr.clock1 } }) (overPower s)

def execPowerSample (mv avg1s avg10ms : Nat) (temps : Temps) (s : State) : Out :=
  .next (if s.pwr.powered then powerSample s mv avg1s avg10ms temps else s)

/-- CLOCK_RAISE: every 1 ms. -/
def clockRaise (s : State) : State :=
  let s := advance s (s.time + 1000000)
  if underPower s && !s.pwr.therm0 && !s.pwr.therm1 then
    watchLow { s with pwr := { s.pwr with clock0 := clockUp s.pwr.cap s.pwr.clock0, clock1 := clockUp s.pwr.cap s.pwr.clock1 } }
  else s

def execClockRaise (s : State) : Out := .next (if s.pwr.powered then clockRaise s else s)

/-- CURRENT_LIMIT: the dividers halve both clocks and step back over 100 µs; the PLL settings stay. -/
def currentLimit (s : State) : State :=
  let s := countUp (noteThrottle s { s with pwr := { s.pwr with divider := some s.time, curLimit := some s.time } }) cCurrent 1
  let s := advance (throttleEvent s true false) (s.time + 100000)
  throttleEvent { s with pwr := { s.pwr with divider := none } } false false

def execCurrentLimit (s : State) : Out := .next (if s.pwr.powered && s.pwr.rails = 9 then currentLimit s else s)

/-- THERMAL_THROTTLE: every 1 ms; the clock of a die for which a throttle holds steps down. -/
def thermalThrottle (s : State) (temps : Temps) : State :=
  let s := readSensors (advance s (s.time + 1000000)) temps
  let down (on : Bool) (c : Nat) : Nat := if on then clockDown c else c
  watchLow { s with pwr := { s.pwr with clock0 := down s.pwr.therm0 s.pwr.clock0, clock1 := down s.pwr.therm1 s.pwr.clock1 } }

def execThermalThrottle (temps : Temps) (s : State) : Out := .next (if s.pwr.powered then thermalThrottle s temps else s)

/-! ### Core power states (R436 to R439) -/

/-- Whether cores change state: the module serves and is not in standby. -/
def coresRun (s : State) : Bool := s.pwr.stage = .ready && !s.pwr.standby

/-- CORE_LIGHT: demand on an enabled core. -/
def execCoreLight (core : Nat) (s : State) : Out :=
  onUnit core 152 <|
    let c := coreAt s core
    .next (if coresRun s && c.enabled && (c.power ≠ .lit || !c.clockOn) then lightCore s core else s)

/-- Whether a move that is in flight accesses the window of core `n`. -/
def windowBusy (s : State) (n : Nat) : Bool := s.cores.any fun c => c.moves.any fun m => windowCore m.src = some n || windowCore m.dst = some n

/-- Whether a core is idle: no launch, no issued instruction, no access to its window (R437, R438). -/
def idle (s : State) (n : Nat) : Bool := (coreAt s n).launch.isNone && (coreAt s n).moves.isEmpty && !windowBusy s n

/-- A dimmed core keeps its tile store, its slot records and its instruction store (R436). -/
def dim (s : State) (n : Nat) : State :=
  setCore s n fun c => { c.wiped n with insns := c.insns, loaded := c.loaded, power := .dimmed, clockOn := false, dimSince := s.time }

def execCoreDim (core : Nat) (s : State) : Out :=
  onUnit core 152 <|
    let c := coreAt s core
    .next (if coresRun s && c.enabled && c.power = .lit && idle s core && !c.hold then dim (advance s (c.idleSince + s.pwr.dimAfter * 1000)) core
      else s)

/-- A dark core has lost everything (R436). -/
def darken (s : State) (n : Nat) : State := setCore (darkenStore s n) n fun c => { c.wiped n with power := .dark, clockOn := false }

/-- Whether a core belongs to a group of a job that is not IDLE. -/
def inJob (s : State) (n : Nat) : Bool := s.job.phase ≠ .idle && s.job.groups.any fun g => g.2.contains n

def execCoreDark (core : Nat) (s : State) : Out :=
  onUnit core 152 <|
    let c := coreAt s core
    .next (if coresRun s && c.enabled && c.power = .dimmed && !inJob s core then darken (advance s (c.dimSince + s.pwr.darkAfter * 1000000)) core
      else s)

/-- CORE_CLOCK_STOP (R437). -/
def execCoreClockStop (core : Nat) (s : State) : Out :=
  onUnit core 152 <|
    let c := coreAt s core
    .next (if c.power = .lit && c.clockOn && idle s core then setCore s core fun c => { c with clockOn := false } else s)

/-! ### The power class (R444 to R447, R506) -/

/-- Enabled cores in a power state. -/
def coresIn (s : State) (p : CorePower) : Nat := ((enabledCores s).filter fun n => (coreAt s n).power = p).length

def powerFlags (s : State) : Nat :=
  b2n s.pwr.powThrottle + 2 * b2n (s.pwr.therm0 || s.pwr.therm1) + 4 * b2n (within s s.pwr.curLimit 1000000000) + 8 * b2n s.pwr.standby

/-- The power status. -/
def powerStatus (s : State) : List Byte :=
  le 4 s.pwr.mv ++ le 4 s.pwr.avg1s ++ le 2 (sustained s) ++ le 2 s.pwr.hostLimit ++ le 2 (16 * s.pwr.boardLimit.toNat) ++ le 2 s.pwr.clock0 ++
    le 2 s.pwr.clock1 ++ le 2 s.pwr.cap ++ le 2 (powerFlags s) ++ le 1 (coresIn s .lit) ++ le 1 (coresIn s .dimmed) ++ le 1 (coresIn s .dark) ++
    le 1 (fencedCores s).length ++ le 2 (BitVec.ofInt 16 s.pwr.maxTemp).toNat ++ zeros 4 ++ le 8 (s.pwr.energy / 1000000000) ++ le 8 s.pwr.throttledNs ++ zeros 16

def pwrQueryBody (mb : Nat) (c : Cmd) (s : State) : State :=
  if !clean c 0 0 false then finish s mb c stMalformed else finish s mb c 0 (powerStatus s)

def execPwrQuery (mb : Nat) (tag : DWord) (s : State) : Out := mbCommand mb tag 10 1 (pwrQueryBody mb) s

/-- The host's limit and cap; 0 keeps a value. A clock above the cap glides down to it (`clockGlide`). -/
def setLimits (s : State) (limit cap : Nat) : State :=
  { s with pwr := { s.pwr with
    hostLimit := if limit = 0 then s.pwr.hostLimit else limit, cap := if cap = 0 then s.pwr.cap else cap } }

def pwrLimitBody (mb : Nat) (c : Cmd) (s : State) : State :=
  let limit := c.arg0.toNat
  let cap := c.arg1.toNat
  if !clean c 0xFFFF 0xFFFF false then finish s mb c stMalformed
  else if (limit ≠ 0 && (limit < 1600 || 3200 < limit)) || (cap ≠ 0 && (cap < 800 || 1850 < cap || cap % 25 ≠ 0)) then finish s mb c stPwrRange
  else finish (setLimits s limit cap) mb c 0

def execPwrLimit (mb : Nat) (tag : DWord) (s : State) : Out := mbCommand mb tag 10 2 (pwrLimitBody mb) s

/-- Whether CORE_STATE's request `r` is refused for core `n` (R506). -/
def coreStateRefused (s : State) (r n : Nat) : Bool :=
  (coreAt s n).cause.isSome || (r = 2 && (inJob s n || (coreAt s n).launch.any fun l => l.host.isSome))

/-- One core takes the request: 0 automatic, 1 held lit, 2 dark now. -/
def requestCore (r : Nat) (s : State) (n : Nat) : State :=
  let s := setCore s n fun c => { c with hold := r = 1 }
  if r = 1 then lightCore s n else if r = 2 then darken s n else s

def coreStateBody (mb : Nat) (c : Cmd) (s : State) : State :=
  let p := c.payload
  let mask := field p 0 20
  let r := field p 20 1
  let ns := (List.range 152).filter fun n => bit mask n
  if !clean c 0 0 true || p.length ≠ 24 || 2 ^ 152 ≤ mask || 2 < r || !(sub p 21 3 == zeros 3) then finish s mb c stMalformed
  else if ns.any (coreStateRefused s r) then finish s mb c stPwrState
  else finish (ns.foldl (requestCore r) s) mb c 0

def execCoreState (mb : Nat) (tag : DWord) (s : State) : Out := mbCommand mb tag 10 3 (coreStateBody mb) s

/-- Whether a fence of core `n` would leave a group of the loaded job with no enabled core. -/
def emptiesGroup (s : State) (n : Nat) : Bool :=
  s.job.phase ≠ .idle && s.job.groups.any fun g => g.2.contains n && g.2.all fun k => k = n || !(coreAt s k).enabled

def coreFenceBody (mb : Nat) (c : Cmd) (s : State) : State :=
  let n := c.arg0.toNat
  if !clean c 0xFF 1 false then finish s mb c stMalformed
  else if 152 ≤ n then finish s mb c stPwrRange
  else if (coreAt s n).cause.isSome || emptiesGroup s n then finish s mb c stPwrState
  else if c.arg1.getLsbD 0 || !stepRuns s then finish (fenceNow s n 4) mb c 0
  else setCore (markStarted s mb c.tag [n]) n fun x => { x with deferred := x.deferred.or (some 4) }

def execCoreFence (mb : Nat) (tag : DWord) (s : State) : Out := mbCommand mb tag 10 4 (coreFenceBody mb) s

/-- CORE_RETEST: a pass is written to the field book; the core rejoins at the next warm or cold reset. -/
def coreRetestBody (pass : Bool) (mb : Nat) (c : Cmd) (s : State) : State :=
  let n := c.arg0.toNat
  if !clean c 0xFF 0 false then finish s mb c stMalformed
  else if 152 ≤ n then finish s mb c stPwrRange
  else
    match (coreAt s n).cause with
    | none => finish s mb c stPwrState
    | some k =>
      if pass then
        let s := setCore s n fun c => { c with retested := true, corrected := 0 }
        finish (fbState (fbEntry s 2 (coreData s n k))) mb c 0
      else finish s mb c stPwrTest

def execCoreRetest (mb : Nat) (tag : DWord) (pass : Bool) (s : State) : Out := mbCommand mb tag 10 5 (coreRetestBody pass mb) s

/-- Whether a map-out record keeps its reserved fields at zero; whether its counts and lists are in range (R259). -/
def moClean (m : List Byte) : Bool :=
  moFlags m < 4 && sub m 3 1 == zeros 1 && sub m 0x24 12 == zeros 12 &&
    [0, 1].all fun d => let k := field m (1 + d) 1; sub m (4 + 16 * d + k) (16 - k) == zeros (16 - k)

def rising : List Nat → Bool
  | a :: b :: l => a < b && rising (b :: l)
  | _ => true

def moInRange (m : List Byte) : Bool :=
  [0, 1].all fun d => field m (1 + d) 1 ≤ 16 && (moList m d).all (· < 192) && rising (moList m d)

def hbmMapoutBody (mb : Nat) (c : Cmd) (s : State) : State :=
  let m := c.payload
  if !clean c 0 0 true || !(m.isEmpty || m.length = 48) then finish s mb c stMalformed
  else if m.isEmpty then finish s mb c 0 s.hbm.mapout
  else if !moInRange m then finish s mb c stPwrRange
  else if !moClean m then finish s mb c stMalformed
  else finish (storeMapout s m) mb c 0 m

def execHbmMapout (mb : Nat) (tag : DWord) (s : State) : Out := mbCommand mb tag 10 7 (hbmMapoutBody mb) s

def idleTimersBody (mb : Nat) (c : Cmd) (s : State) : State :=
  let d := c.arg0.toNat
  let k := c.arg1.toNat
  if !clean c 0xFFFFFFFF 0xFFFFFFFF false then finish s mb c stMalformed
  else if d < 10 || 1000000 < d || k < 1 || 3600000 < k then finish s mb c stPwrRange
  else finish { s with pwr := { s.pwr with dimAfter := d, darkAfter := k } } mb c 0

def execIdleTimers (mb : Nat) (tag : DWord) (s : State) : Out := mbCommand mb tag 10 8 (idleTimersBody mb) s

/-! ### Standby (R447) -/

def standbyOk (s : State) : Bool :=
  s.job.phase = .idle && s.vis.ctxs.all (fun v => v.phase = .free) && s.far.ports.all fun x => x.state = .down

/-- What a core runs is halted and reports; what it still has in flight is abandoned. -/
def endRun (s : State) (n : Nat) : State :=
  let s := trapStop (haltCore s n) n
  if (coreAt s n).stop.isSome then trapStop ((coreAt s n).moves.foldl (fun s m => abandonMove s n m) s) n else s

/-- A host launch ends before its core goes dark. -/
def darkenAll (s : State) : State := (enabledCores s).foldl (fun s n => darken (endRun s n) n) s

/-- Near ports down, memories in self-refresh, optics in low power, cores dark. -/
def enterStandby (s : State) : State :=
  let s := (List.range 36).foldl (fun s n => linkDown s n .down) (darkenAll s)
  let s := selfRefresh (powerOptics s false)
  { s with pwr := { s.pwr with standby := true } }

/-- The memories come back, every command bus re-centred first (R257, R291), and the near ports train. -/
def leaveStandby (s : State) : State :=
  let s := leaveRefresh { s with pwr := { s.pwr with standby := false } }
  (List.range 36).foldl trainPort (powerOptics s true)

def standbyBody (mb : Nat) (c : Cmd) (s : State) : State :=
  if !clean c 1 0 false then finish s mb c stMalformed
  else if c.arg0 = 1 then
    if s.pwr.standby then finish s mb c 0
    else if standbyOk s then finish (enterStandby s) mb c 0
    else finish s mb c stPwrState
  else finish (if s.pwr.standby then leaveStandby s else s) mb c 0

def execStandby (mb : Nat) (tag : DWord) (s : State) : Out := mbCommand mb tag 10 9 (standbyBody mb) s

end Sys2Proof.Machine
end

