-- ==== Sys2Proof/Machine/RegAccess.lean ====
section
/-! DEFINITION. RegAccess.lean: loads, stores, gathers and scatters of the vector engine (R157 to R160, R170, R171) and the seal class
(R196). -/

namespace Sys2Proof.Machine

def Ctx.accessSlot (i : Ctx) : Nat := i.slot (i.f 22 10) (i.f 26 23)
def Ctx.accessOn (i : Ctx) : Nat → Bool := i.active (i.f 35 35) (i.f 40 36)

/-- VLDR: a register tile into a register, active elements only. -/
def vldrBody (i : Ctx) : Res :=
  let p := i.accessSlot
  i.operand p 8 <| i.check p regShape false <|
    let new := (bytesReg (i.tile p regShape)).toArray
    let d := i.f 55 51
    let t := (i.t d).mapIdx fun e o => if i.accessOn e then new.getD e 0 else o
    .done (putT (((List.range 1024).filter i.accessOn).foldl (fun s e => readBytes s i.n (512 * p + 4 * e) 4) i.s) i.n d t)

def execVldr (n : Nat) (s : State) : Out := tileInstr 0x78 vldrBody n s

/-- VSTR: a register into a register tile, sealed by the write port over the bytes it then holds; what it writes itself are the active
elements. -/
def vstrBody (i : Ctx) : Res :=
  let p := i.accessSlot
  i.operand p 8 <|
    let old := (getSlots i.s (tileSlot i.n p) 8).toArray
    let new := (regBytes (i.t (i.f 55 51))).toArray
    let bs := (List.range 4096).map fun b => if i.accessOn (b / 4) then new.getD b 0 else old.getD b 0
    let s := putTile i.s (tileSlot i.n p) regShape bs (sealOf regShape bs)
    .done (((List.range 1024).filter i.accessOn).foldl (fun s e => ownBytes s i.n (512 * p + 4 * e) 4) s)

def execVstr (n : Nat) (s : State) : Out := tileInstr 0x79 vstrBody n s

/-- The form rules of VLDP and VSTP (R159, R173). -/
def packedForm (sh : Shape) : Bool := fmtOk sh.fmt && sh.kind = 0 && !(isMx sh.fmt && sh.block = 1)

/-- Tile-store byte offset of row `r` of sub-block (rb, cb) in a matrix tile at slot `p`, and of its scale byte (R159). -/
def lineOff (sh : Shape) (p rb cb r : Nat) : Nat := 512 * p + (32 * rb + r) * (4 * packedLen sh.fmt) + cb * packedLen sh.fmt
def lineScale (sh : Shape) (p rb cb r : Nat) : Nat := 512 * p + elemBytes sh.fmt + (32 * rb + r) * 4 + cb

/-- VLDP: a sub-block into packed rows; a row without an active element keeps its bits, an inactive element of another its code
(log 18). -/
def vldpBody (i : Ctx) : Res :=
  i.withShape (i.f 34 31) fun sh =>
    if !packedForm sh then .fault fVec 0 none
    else
      let p := i.accessSlot
      let n := tileSlots sh.fmt 0
      i.operand p n <| i.check p sh false <|
        let d := i.f 55 51
        let old := i.t d
        let rb := i.f 30 29
        let cb := i.f 28 27
        let rows := (List.range 32).flatMap fun r =>
          if (List.range 32).any fun c => i.accessOn (32 * r + c) then
            let line := (readRun i.s.ctl (tileBase i.n + lineOff sh p rb cb r) (packedLen sh.fmt)).toArray
            let code := fun c => if i.accessOn (32 * r + c) then unpackAt (width sh.fmt) line c else packedCode sh.fmt old r c
            packRow sh.fmt code (rd i.s.ctl (tileBase i.n + lineScale sh p rb cb r)).toNat
          else (List.range 32).map fun c => el old (32 * r + c)
        let live := (List.range 32).filter fun r => (List.range 32).any fun c => i.accessOn (32 * r + c)
        let scaled (s : State) (r : Nat) : State := if isMx sh.fmt then readBytes s i.n (lineScale sh p rb cb r) 1 else s
        .done (putT (live.foldl (fun s r => scaled (readBytes s i.n (lineOff sh p rb cb r) (packedLen sh.fmt)) r) i.s) i.n d rows)

def execVldp (n : Nat) (s : State) : Out := tileInstr 0x7A vldpBody n s

/-- The bytes of a packed row whose bits all belong to active elements. -/
def Ctx.wholeBytes (i : Ctx) (fmt r : Nat) : List Nat :=
  (List.range (packedLen fmt)).filter fun b =>
    (List.range 32).all fun c => i.accessOn (32 * r + c) || width fmt * (c + 1) ≤ 8 * b || 8 * (b + 1) ≤ width fmt * c

/-- One row of VSTP: its active elements, and its scale byte when it has one (R160). -/
def vstpRow (i : Ctx) (sh : Shape) (p rb cb : Nat) (t : Elems) (s : State) (r : Nat) : State :=
  if (List.range 32).any fun c => i.accessOn (32 * r + c) then
    let o := lineOff sh p rb cb r
    let line := (readRun s.ctl (tileBase i.n + o) (packedLen sh.fmt)).toArray
    let code := fun c => if i.accessOn (32 * r + c) then packedCode sh.fmt t r c else unpackAt (width sh.fmt) line c
    let s := putBytes s (tileBase i.n + o) (pack (width sh.fmt) 32 code)
    let s := (i.wholeBytes sh.fmt r).foldl (fun s b => ownBytes s i.n (o + b) 1) s
    let scale := lineScale sh p rb cb r
    if isMx sh.fmt then ownBytes (putBytes s (tileBase i.n + scale) [BitVec.ofNat 8 (packedScale t r)]) i.n scale 1 else s
  else s

/-- VSTP (R159, R160). -/
def vstpBody (i : Ctx) : Res :=
  i.withShape (i.f 34 31) fun sh =>
    if !packedForm sh then .fault fVec 0 none
    else
      let p := i.accessSlot
      let n := tileSlots sh.fmt 0
      i.operand p n <|
        .done ((List.range 32).foldl (vstpRow i sh p (i.f 30 29) (i.f 28 27) (i.t (i.f 55 51))) i.s)

def execVstp (n : Nat) (s : State) : Out := tileInstr 0x7B vstpBody n s

/-! ### Gathers and scatters -/

/-- Runs `k` when every offset is 4-byte aligned and inside the tile store and no fetch holds it; otherwise RANGE, or a wait. -/
def Ctx.offsets (i : Ctx) (os : List Nat) (k : Res) : Res :=
  match os.find? fun o => o % 4 ≠ 0 || o > 0x2FFFFC with
  | some o => .fault fRange o none
  | none => if os.any fun o => slotsHeld i.c (o / 512) 1 then .stall else k

/-- The active elements in ascending order. -/
def Ctx.actives (i : Ctx) : List Nat := (List.range 1024).filter i.accessOn
def Ctx.index (i : Ctx) (e : Nat) : Nat := (el (i.t (i.f 50 46)) e).toNat

/-- Stores one word at a tile-store offset: a partial write (R171). -/
def pokeWord (n : Nat) (s : State) (o : Nat) (w : Word) : State := ownBytes (putBytes s (tileBase n + o) (le 4 w.toNat)) n o 4

def vgathBody (i : Ctx) : Res :=
  let es := i.actives
  i.offsets (es.map i.index) <|
    let d := i.f 55 51
    let t := (i.t d).mapIdx fun e o =>
      if i.accessOn e then BitVec.ofNat 32 (rdNat i.s.ctl (tileBase i.n + i.index e) 4) else o
    .done (putT (es.foldl (fun s e => readBytes s i.n (i.index e) 4) i.s) i.n d t)

def execVgath (n : Nat) (s : State) : Out := tileInstr 0x7C vgathBody n s

/-- VSCAT: of several elements at one offset the highest e stands. -/
def vscatBody (i : Ctx) : Res :=
  let es := i.actives
  i.offsets (es.map i.index) <|
    .done (es.foldl (fun s e => pokeWord i.n s (i.index e) (el (i.t (i.f 55 51)) e)) i.s)

def execVscat (n : Nat) (s : State) : Out := tileInstr 0x7D vscatBody n s

/-- One element of VSCADD: the word it is added to, and the check of an FP32 value written (R171). -/
def vscaddStep (i : Ctx) (src : Elems) (s : State) (e : Nat) : State :=
  let o := i.index e
  let old := BitVec.ofNat 32 (rdNat s.ctl (tileBase i.n + o) 4)
  let v := if i.f 3 3 = 1 then old + el src e else addF32 old (el src e)
  let hits := if i.f 3 3 = 1 then [] else ((nonFinite (f32 v)).map fun k => (e / 32, e % 32, k)).toList
  nfWrite i (pokeWord i.n (readBytes s i.n o 4) o v) uVector (tileAddr i.n o) hits

/-- VSCADD: elements at one offset are added in ascending e; each FP32 value is a checked write of its own (log 87). -/
def vscaddBody (i : Ctx) : Res :=
  let es := i.actives
  i.offsets (es.map i.index) <| .done (es.foldl (vscaddStep i (i.t (i.f 55 51))) i.s)

def execVscadd (n : Nat) (s : State) : Out := tileInstr 0x7E vscaddBody n s

/-- The stores of VRSCAT in order, and the counters after them: offset and word. -/
def radix (keys payload : Nat → Word) (shift dist : Nat) (withKeys : Bool) :
    List Nat → (Nat → Nat) → List (Nat × Word) × (Nat → Nat)
  | [], cnt => ([], cnt)
  | e :: es, cnt =>
    let b := (keys e).toNat / 2 ^ shift % 256
    let o := cnt b
    let rest := radix keys payload shift dist withKeys es fun x => if x = b then (o + 4) % 2 ^ 32 else cnt x
    ((o, payload e) :: (if withKeys then [((o + dist) % 2 ^ 64, keys e)] else []) ++ rest.1, rest.2)

/-- VRSCAT (R170). -/
def vrscatBody (i : Ctx) : Res :=
  let keys := (i.t (i.f 50 46)).toArray
  let pay := (i.t (i.f 55 51)).toArray
  let tc := i.f 45 41
  let cnt := i.t tc
  let r := radix (fun e => keys.getD e 0) (fun e => pay.getD e 0) (i.f 9 5) (i.x (i.f 26 23)).toNat (i.f 4 4 = 1) i.actives
    fun b => (el cnt b).toNat
  i.offsets (r.1.map (·.1)) <|
    let s := r.1.foldl (fun s p => pokeWord i.n s p.1 p.2) i.s
    .done (putT s i.n tc (cnt.mapIdx fun e o => if e < 256 then BitVec.ofNat 32 (r.2 e) else o))

def execVrscat (n : Nat) (s : State) : Out := tileInstr 0x7F vrscatBody n s

/-! ### Seal class (R196) -/

def Ctx.sealSlot (i : Ctx) : Nat := i.slot (i.f 51 39) (i.f 38 35)

/-- Checks the shape register of SEAL and SCHK: a reserved FORMAT code raises ISA_ILLEGAL here (R175). -/
def Ctx.sealShape (i : Ctx) (k : Shape → Res) : Res :=
  i.withShape (i.f 55 52) fun sh => if fmtOk sh.fmt then k sh else .fault fIllegal (i.f 55 52) none

def sealBody (i : Ctx) : Res :=
  i.sealShape fun sh =>
    let p := i.sealSlot
    let n := tileSlots sh.fmt sh.kind
    i.operand p n <|
      .done (storeTile (readSlots i.s i.n p n) i.n p sh (getSlots i.s (tileSlot i.n p) n))

def execSealTile (n : Nat) (s : State) : Out := tileInstr 0x80 sealBody n s

/-- SCHK: the record's fields, then the seal over the bytes, against SH. -/
def schkBody (i : Ctx) : Res :=
  i.sealShape fun sh =>
    let p := i.sealSlot
    let n := tileSlots sh.fmt sh.kind
    i.operand p n <| i.check p sh true <|
      let bs := getSlots i.s (tileSlot i.n p) n
      let want := recSeal (rd i.s.recs (tileSlot i.n p))
      if sealOf sh bs = want then .done (readSlots i.s i.n p n)
      else
        let a := tileAddr i.n (512 * p)
        .fault fSeal a (some (sealRecord i.s a (unitId 1 (dieOf i.n) i.n) want (sealOf sh bs) 0 sh))

def execSchk (n : Nat) (s : State) : Out := tileInstr 0x81 schkBody n s

def srecBody (i : Ctx) : Res :=
  let p := i.sealSlot
  i.operand p 1 <| .done (putX i.s i.n (i.f 55 52) (rd i.s.recs (tileSlot i.n p)))

def execSrec (n : Nat) (s : State) : Out := tileInstr 0x82 srecBody n s

def sclrBody (i : Ctx) : Res :=
  let p := i.sealSlot
  let n := i.f 34 27 + 1
  i.operand p n <| .done (unsealSlots i.s (tileSlot i.n p) n)

def execSclr (n : Nat) (s : State) : Out := tileInstr 0x83 sclrBody n s

end Sys2Proof.Machine
end

