-- ==== Sys2Proof/Machine/Telemetry.lean ====
section
/-! DEFINITION. Telemetry.lean: reading step records, events, error logs and the field book; its samples and commits; STATUS
(19_telemetry_field_book.md). -/

namespace Sys2Proof.Machine

def stTelMalformed : Nat := 0x0901
def stTelNoJob : Nat := 0x0902
def stFbBusy : Nat := 0x0903
def stTelWindow : Nat := 0x0904

/-! ### Reading (R467) -/

/-- What a reading command returns: up to `k` of the items numbered from `first` on, and in RESULT0 the oldest number when `first` lies
before it. -/
def fromPoint {α : Type} (items : List α) (num : α → Nat) (first k : Nat) : List α × DWord :=
  let got := (items.filter fun x => first ≤ num x).take k
  match items.head? with
  | some x => (got, if first < num x then BitVec.ofNat 64 (num x) else 0)
  | none => (got, 0)

def telStepsBody (mb : Nat) (c : Cmd) (s : State) : State :=
  let k := c.arg1.toNat
  if !clean c all64 0x7FF false then finish s mb c stMalformed
  else if k = 0 || 1024 < k then finish s mb c stTelMalformed
  else if s.job.phase = .idle then finish s mb c stTelNoJob
  else
    let (rs, old) := fromPoint s.tel.closed (·.seq) c.arg0.toNat k
    finish s mb c 0 (rs.flatMap stepBytes) old

def execTelSteps (mb : Nat) (tag : DWord) (s : State) : Out := mbCommand mb tag 9 1 (telStepsBody mb) s

/-- TEL_STREAM (R457). -/
def telStreamBody (mb : Nat) (c : Cmd) (s : State) : State :=
  let p := c.payload
  let w := field p 0 1
  let o := field p 8 8
  let n := field p 16 8
  if !clean c 0 0 true || p.length ≠ 24 then finish s mb c stMalformed
  else if 1 < field p 1 1 || !(sub p 2 6 == zeros 6) || n % 4096 ≠ 0 || (field p 1 1 = 1 && n = 0) then finish s mb c stTelMalformed
  else if s.job.phase = .idle then finish s mb c stTelNoJob
  else if field p 1 1 = 0 then finish { s with tel := { s.tel with stream := none } } mb c 0
  else if !windowHolds s w o n then finish s mb c stTelWindow
  else finish { s with tel := { s.tel with stream := some ⟨w, o, n⟩ } } mb c 0

def execTelStream (mb : Nat) (tag : DWord) (s : State) : Out := mbCommand mb tag 9 2 (telStreamBody mb) s

/-- The 32 bytes of an event record (R458). -/
def eventBytes (e : Event) : List Byte := le 2 e.cls ++ zeros 2 ++ le 4 e.seq ++ le 8 e.time ++ le 8 e.step ++ le 8 e.data.toNat

def telEventsBody (mb : Nat) (c : Cmd) (s : State) : State :=
  let k := c.arg0.toNat
  if !clean c 0x7FF 0 false then finish s mb c stMalformed
  else if k = 0 || 1024 < k then finish s mb c stTelMalformed
  else
    finish { s with tel := { s.tel with events := s.tel.events.drop k } } mb c 0 ((s.tel.events.take k).flatMap eventBytes)

def execTelEvents (mb : Nat) (tag : DWord) (s : State) : Out := mbCommand mb tag 9 3 (telEventsBody mb) s

def telErrorsBody (mb : Nat) (c : Cmd) (s : State) : State :=
  if !clean c 3 all64 false then finish s mb c stMalformed
  else
    let l := s.tel.logs.getD c.arg0.toNat ⟨0, []⟩
    let (es, old) := fromPoint l.entries (·.1) c.arg1.toNat l.entries.length
    finish s mb c 0 (es.flatMap fun e => le 8 e.1 ++ e.2) old

def execTelErrors (mb : Nat) (tag : DWord) (s : State) : Out := mbCommand mb tag 9 4 (telErrorsBody mb) s

/-! ### The field book (R462 to R466) -/

/-- The lifetime counters as they stand, in the order of the block: what was accumulated before 54 V came and what since. -/
def totals (s : State) : List Nat :=
  ((s.tel.counters.set cLife (lifeS s)).modify cEnergy (· + s.pwr.energy / 1000000000000000)).modify cThrottled (· + s.pwr.throttledNs / 1000000000)

/-- The lifetime counter block (R466). -/
def counterBlock (s : State) : List Byte :=
  let t := totals s
  let size (i : Nat) : Nat := if 2 ≤ i && i < 8 then 4 else 8
  (List.range 25).flatMap (fun i => le (size i) (nth t i)) ++ le 2 s.hbm.repaired.length ++ le 2 s.fab.spares.length ++
    le 2 (fencedCores s).length ++ zeros 2 ++ le 8 s.tel.committedAt ++ zeros 64

/-- Counts the symbols that FEC has corrected since the last count: a free number (log 106). -/
def countFec (s : State) : State := bump (countUp s cFec (freeWord s).toNat) 1

/-- FB_COUNTERS: the block is read once the corrected symbols have been counted. -/
def fbCountersBody (mb : Nat) (c : Cmd) (s : State) : State :=
  if !clean c 0 0 false then finish s mb c stMalformed
  else
    let s := countFec s
    finish s mb c 0 (counterBlock s)

def execFbCounters (mb : Nat) (tag : DWord) (s : State) : Out := mbCommand mb tag 9 5 (fbCountersBody mb) s

def fbHistogramsBody (mb : Nat) (c : Cmd) (s : State) : State :=
  let k := c.arg0.toNat
  if !clean c 0x1F 0 false then finish s mb c stMalformed
  else if 27 < k then finish s mb c stTelMalformed
  else
    let bins := s.tel.hist.getD k []
    finish s mb c 0 (le 2 k ++ le 2 bins.length ++ le 8 s.tel.committedAt ++ zeros 4 ++ bins.flatMap (le 4))

def execFbHistograms (mb : Nat) (tag : DWord) (s : State) : Out := mbCommand mb tag 9 6 (fbHistogramsBody mb) s

/-- The 32 bytes of an event log entry (R463). -/
def fbBytes (e : FbEntry) : List Byte :=
  withCrc (le 4 e.seq ++ le 4 e.life ++ le 8 e.time ++ le 2 e.kind ++ le 2 e.count ++ le 8 e.data.toNat)

def fbLogBody (mb : Nat) (c : Cmd) (s : State) : State :=
  if !clean c 0xFFFFFFFF 0xFFFF false then finish s mb c stMalformed
  else
    let (es, old) := fromPoint s.tel.fbLog (·.seq) c.arg0.toNat c.arg1.toNat
    finish s mb c 0 (es.flatMap fbBytes) old

def execFbLog (mb : Nat) (tag : DWord) (s : State) : Out := mbCommand mb tag 9 7 (fbLogBody mb) s

/-- Images the commit area holds. -/
def commitSlots : Nat := 3840

/-- Writes a commit image into the next place of the commit area (R464). Its layout is not given but for the CRC at its end: the other bytes
are free (log 12). -/
def commitImage (s : State) : State :=
  let image := withCrc (freeBytes s 8188)
  let slot := (s.tel.images.head?.elim 0 fun x => x.1 + 1) % commitSlots
  bump { s with tel := { s.tel with
    images := (slot, image) :: s.tel.images.filter fun x => x.1 ≠ slot
    saved := totals s, savedHist := s.tel.hist, committedAt := lifeS s, commitTime := some s.time } } 8188

def fbCommitBody (mb : Nat) (c : Cmd) (s : State) : State :=
  if !clean c 0 0 false then finish s mb c stMalformed
  else if within s s.tel.commitTime 60000000000 then finish s mb c stFbBusy
  else
    let s := commitImage s
    finish s mb c 0 [] (BitVec.ofNat 64 s.tel.committedAt)

def execFbCommit (mb : Nat) (tag : DWord) (s : State) : Out := mbCommand mb tag 9 8 (fbCommitBody mb) s

/-- Erased flash (log 12). -/
def erased (n : Nat) : List Byte := List.replicate n 0xFF

/-- Sectors 16 to 1,023 (R462): the state records, whose layout is not given, the event log, the commit images. -/
def fbSectors (s : State) : List Byte :=
  let state := match s.tel.stateArea with
    | some b => (List.range 1048576).map fun i => Config.freeByte (b + i)
    | none => erased 1048576
  let log := (List.range 1048576).flatMap fun j =>
    match s.tel.fbLog.find? fun e => e.seq % 1048576 = j with
    | some e => fbBytes e
    | none => erased 32
  let images := (List.range commitSlots).flatMap fun k => ((s.tel.images.find? fun x => x.1 = k).map (·.2)).getD (erased 8192)
  state ++ log ++ images

def fbImageBody (mb : Nat) (c : Cmd) (s : State) : State :=
  if !clean c 0 0 false then finish s mb c stMalformed else finish s mb c 0 (fbSectors s)

def execFbImage (mb : Nat) (tag : DWord) (s : State) : Out := mbCommand mb tag 9 9 (fbImageBody mb) s

/-- Adds one to a bin of a histogram. -/
def hitBin (s : State) (id bin : Nat) : State :=
  { s with tel := { s.tel with hist := s.tel.hist.modify id fun l => l.modify (min bin (histBins id - 1)) (· + 1) } }

/-- The counters of histograms 24 to 27. -/
def hourCounts (s : State) : List Nat := [cHbmCorr, cLpCorr, cFec, cFarLost].map (nth s.tel.counters)

/-- The bin of an hour's count. -/
def countBin (n : Nat) : Nat := if n = 0 then 0 else Nat.log2 n + 1

/-- FIELD_BOOK_HOURLY_COMMIT: the hour's counts enter their histograms, and an image is written. -/
def hourlyCommit (s : State) : State :=
  let s := countFec (advance s ((s.time / 3600000000000 + 1) * 3600000000000))
  let now := hourCounts s
  let s := (List.range 4).foldl (fun s i => hitBin s (24 + i) (countBin (nth now i - nth s.tel.hour i))) s
  commitImage { s with tel := { s.tel with hour := now } }

def execFieldBookHourlyCommit (s : State) : Out := .next (hourlyCommit s)

/-- The hottest reading of each temperature histogram in 0.1 °C, where its class has a reading (R465). -/
def sampledTemps (s : State) : List (Option Int) :=
  let t := s.pwr.temps
  let fitted := (t.optics.zip s.far.ports).filterMap fun x => if x.2.optic.any (·.2) then some x.1 else none
  [t.c0.max?, t.c1.max?, t.hub.max?] ++ (List.range 12).map (fun k => ((t.hbm.drop (2 * k)).take 2).max?) ++
    [t.lpddr.max?, t.nand.max?, fitted.max?, t.stages.max?, t.inlet.max?]

/-- The bins that a sample falls into, by histogram (R465): temperatures, the averaged voltage, power, the two clocks. A class without a
reading has none. -/
def sampleBins (s : State) (mv : Nat) : List (Option Nat) :=
  let clock (c : Nat) : Nat := if c = 0 then 43 else min 42 ((c - 800) / 25)
  (sampledTemps s).map (·.map fun v => (v / 20).toNat) ++
    [some ((mv - 46000) / 500), some (s.pwr.avg1s / 100000), some (clock s.pwr.clock0), some (clock s.pwr.clock1)]

/-- FIELD_BOOK_SAMPLE: the next whole second; a histogram whose class has no reading takes its second in a free bin (log 110). -/
def fieldBookSample (s : State) (mv : Nat) : State :=
  let s := advance s ((s.time / 1000000000 + 1) * 1000000000)
  (sampleBins s mv).zipIdx.foldl (fun s x => match x.1 with
    | some k => hitBin s x.2 k
    | none => bump (hitBin s x.2 ((freeWord s).toNat % histBins x.2)) 1) s

def execFieldBookSample (mv : Nat) (s : State) : Out := .next (fieldBookSample s mv)

/-! ### STATUS (R461) -/

def jobCode : JobState → Nat
  | .idle => 0
  | .loaded => 1
  | .running => 2
  | .stopping => 3
  | .stopped => 4
  | .held => 5

/-- Boot stage codes (R449). -/
def stageCode : Stage → Nat
  | .power => 0
  | .rom => 1
  | .firmware => 2
  | .memory => 3
  | .cores => 4
  | .fabric => 5
  | .flash => 6
  | .ready => 7
  | .hold => 8
  | .recovery => 9

def statusBytes (s : State) : List Byte :=
  let fenced := fencedCores s
  le 8 s.time ++ le 8 (lifeS s) ++ le 1 (stageCode s.pwr.stage) ++ le 1 (jobCode s.job.phase) ++ le 1 s.res.lantern ++ le 1 (protection s) ++
    le 2 s.res.score ++ le 1 (enabledCores s).length ++ le 1 fenced.length ++
    le 8 (if s.job.phase = .idle then 2 ^ 64 - 1 else s.job.step) ++ le 8 (s.res.committed.getD (2 ^ 64 - 1)) ++ le 4 s.tel.events.length ++
    le 4 s.tel.dropped ++ le 2 s.hbm.degraded.length ++ le 2 s.hbm.failed.length ++ le 1 s.lpddr.degraded.length ++
    le 1 s.lpddr.failed.length ++ le 1 (s.fab.near.filter fun x => x.state = .failed).length ++
    le 1 (s.far.ports.filter fun x => x.state = .failed).length ++
    le 4 (b2n (throttled s) + 2 * b2n s.pwr.standby + 4 * b2n s.res.evacuate) ++ zeros 4 ++
    fenced.flatMap fun n => le 1 n ++ le 1 (dieOf n) ++ le 1 (coreAt s n).pos ++ le 1 ((coreAt s n).cause.getD 0)

def statusBody (mb : Nat) (c : Cmd) (s : State) : State :=
  if !clean c 0 0 false then finish s mb c stMalformed else finish s mb c 0 (statusBytes s)

def execStatus (mb : Nat) (tag : DWord) (s : State) : Out := mbCommand mb tag 2 2 (statusBody mb) s

end Sys2Proof.Machine
end

