-- ==== Sys2Proof/Machine/Registers.lean ====
section
/-! DEFINITION. Registers.lean: what the host and the board read: BAR0, the registers of BAR2 (20_register_map.md, R468 to R473, R478 to
R482) and the sideband (18_power_clocks_reset.md, R453). Reserved bits and offsets read as zero (R13). -/

namespace Sys2Proof.Machine

/-- A measure in a coarser unit of `unit` steps: exact where it is whole, else rounded one way or the other (log 109). -/
def coarse (unit : Nat) (v : Int) : Int := v / unit + (if v % unit ≠ 0 && Config.roundsUp unit v then 1 else 0)

/-- Fields of a register, as value and lowest bit. -/
def packFields (fs : List (Nat × Nat)) : Word := BitVec.ofNat 32 (fs.foldl (fun n f => n + f.1 * 2 ^ f.2) 0)

/-! ### Identity registers (R471) -/

/-- Whether stage FIRMWARE is over, so that the fields that come from firmware hold their values (R470). -/
def firmwareUp (s : State) : Bool :=
  match s.pwr.stage with
  | .memory | .cores | .fabric | .flash | .ready => true
  | _ => false

/-- Whether the memory map of stage MEMORY is in force and stage CORES has begun. -/
def mapUp (s : State) : Bool := firmwareUp s && s.pwr.stage ≠ .memory

/-- Usable HBM in MiB (R260, R471). -/
def hbmMib (s : State) : Nat := if mapUp s then usableHbm s / 2 ^ 20 else 0

/-- FIT of the ordering suffix -F8 (R4, R498), PRODUCT, MAGIC. -/
def fitCode : Nat := 0x08
def productCode : Nat := 0x09
def magicWord : Word := 0x4B54424D

/-- The identity register at an offset of its block. -/
def identityRead (s : State) (off : Nat) : Word :=
  match off with
  | 0x00 => magicWord
  | 0x04 => packFields [(productCode, 0), (fitCode, 8)]
  | 0x08 => packFields [((Config.stepping 0).toNat, 0), ((Config.stepping 1).toNat, 8), ((Config.stepping 2).toNat, 16)]
  | 0x0C => s.fw.level
  | 0x10 => s.fw.version
  | 0x14 => packFields [(s.fw.minSec % 64, 0), (b2n s.fw.ownerKey.isSome, 8), (if firmwareUp s then s.fw.running else 0, 9),
      (b2n (firmwareUp s && s.fw.fallback), 10)]
  | 0x18 => BitVec.ofNat 32 (s.fab.device.getD 0xFFFFFFFF)
  | 0x1C => packFields [(if mapUp s then (enabledCores s).length else 0, 0), (if firmwareUp s then (fencedCores s).length else 0, 8)]
  | 0x20 => BitVec.ofNat 32 (field serialBytes 0 4)
  | 0x24 => BitVec.ofNat 32 (field serialBytes 4 4)
  | 0x28 => BitVec.ofNat 32 (field serialBytes 8 4)
  | 0x2C => BitVec.ofNat 32 (field serialBytes 12 4)
  | 0x30 => BitVec.ofNat 32 (hbmMib s)
  | _ => 0

/-! ### Pilot-domain registers (R472) -/

def tempByte (s : State) : Nat := (BitVec.ofInt 8 (coarse 10 s.pwr.maxTemp)).toNat
def inputW (s : State) : Nat := (coarse 1000 s.pwr.avg1s).toNat % 65536

/-- LEVEL of the most recent reset, its SOURCE, clocks, time and limit. -/
def pilotRead (s : State) (off : Nat) : Word :=
  match off with
  | 0x00 => packFields [(stageCode s.pwr.stage, 0), (b2n (throttled s), 4), (b2n s.pwr.trip, 5), (b2n s.pwr.standby, 6), (tempByte s, 8),
      (inputW s, 16)]
  | 0x04 => BitVec.ofNat 32 s.pwr.mv
  | 0x08 => packFields [(s.pwr.level, 0), (s.pwr.source, 8)]
  | 0x0C => packFields [(s.pwr.clock0, 0), (s.pwr.clock1, 16)]
  | 0x10 => BitVec.ofNat 32 s.time
  | 0x14 => s.pwr.timeHi
  | 0x18 => BitVec.ofNat 32 (sustained s)
  | _ => 0

/-! ### Mailbox registers (R473, R478, R479) -/

/-- STATUS: the W1C bits, CPL_HELD, CHAIN_OPEN, OUTSTANDING. -/
def mbStatusRead (m : Mailbox) : Word :=
  packFields [(m.status.toNat, 0), (b2n !m.held.isEmpty, 8), (b2n m.chain.isSome, 9), (m.cmds.length, 16)]

/-- STATE of SESSION: 2 a session is open, 3 locked out, 1 a challenge less than 1 s old is pending, 0 none. -/
def sessionState (s : State) (m : Mailbox) : Nat :=
  if m.session.isSome then 2
  else if m.lockEnd.any (s.time < ·) then 3
  else if m.challenge.any fun c => s.time < c.time + 1000000000 then 1
  else 0

/-- SESSION: STATE, FAILS, the seconds of lock-out that remain. -/
def sessionRead (s : State) (m : Mailbox) : Word :=
  packFields [(sessionState s m, 0), (min m.fails 63, 2), ((m.lockEnd.elim 0 fun t => (t - s.time + 999999999) / 1000000000), 8)]

def mailboxRead (s : State) (mb off : Nat) : Word :=
  let m := mbAt s mb
  match off with
  | 0x00 => m.cmdProd
  | 0x04 => m.cmdCons
  | 0x08 => m.cplProd
  | 0x0C => m.cplCons
  | 0x10 => m.cplBase.setWidth 32
  | 0x14 => (m.cplBase >>> 32).setWidth 32
  | 0x18 => BitVec.ofNat 32 m.cplSize
  | 0x1C => mbStatusRead m
  | 0x20 => sessionRead s m
  | 0x24 => BitVec.ofNat 32 (m.session.elim 0 (·.next))
  | 0x28 => BitVec.ofNat 32 m.holdoff
  | _ => 0

/-! ### Error registers and MSI-X (R481, R482) -/

/-- ERROR_STATUS: bit n while any W1C bit of MBn's status is set, and the bits of the module. -/
def errorStatus (s : State) : Word :=
  packFields (((List.range 16).map fun n => (b2n ((mbAt s n).status ≠ 0), n)) ++ [(s.host.errBits.toNat, 16)])

/-- Word `w` of an MSI-X table entry. -/
def msixRead (s : State) (k w : Nat) : Word :=
  let e := s.host.msix.getD k ⟨0, 0, true⟩
  match w with
  | 0 => e.addr.setWidth 32
  | 1 => (e.addr >>> 32).setWidth 32
  | 2 => e.data
  | _ => BitVec.ofNat 32 (b2n e.masked)

/-! ### BAR2 and BAR0 -/

/-- The register at a 4-byte-aligned offset of BAR2 (R468). -/
def barRead (s : State) (off : Nat) : Word :=
  if off < 0x40 then identityRead s off
  else if 0x1000 ≤ off ∧ off < 0x1020 then pilotRead s (off - 0x1000)
  else if off = 0x2000 then errorStatus s
  else if off = 0x2004 then s.host.errEnable.setWidth 32
  else if 0x10000 ≤ off ∧ off < 0x11000 then mailboxRead s ((off - 0x10000) / 0x100) (off % 0x100)
  else if 0x20000 ≤ off ∧ off < 0x20200 then msixRead s ((off - 0x20000) / 16) (off % 16 / 4)
  else if off = 0x21000 then s.host.pending
  else 0

/-- A 4-byte read: only TIME_LO has an effect, the latch of TIME_HI (R469, R472). -/
def barRead4 (s : State) (off : Nat) : Word × State := (barRead s off, if off = 0x1010 then latchTime s else s)

/-- A read of `size` bytes of BAR2 (R469): 4 aligned bytes, or 8 as two of 4 with the lower offset first; any other reads as zero and sets
ACCESS_ERROR. -/
def barReadAccess (s : State) (off size : Nat) : DWord × State :=
  if size = 4 ∧ off % 4 = 0 then
    let r := barRead4 s off
    (r.1.setWidth 64, r.2)
  else if size = 8 ∧ off % 8 = 0 then
    let lo := barRead4 s off
    let hi := barRead4 lo.2 (off + 4)
    (hi.1 ++ lo.1, hi.2)
  else (0, setError s 4)

/-- A read of BAR0: the command rings, or zero before READY (R450). -/
def bar0Read (s : State) (off n : Nat) : List Byte :=
  let mb := off / 2 ^ 20
  if serving s mb then ringRead s mb (off % 2 ^ 20) n else zeros n

/-- TIME_LO_READ (R472): TIME_HI is latched at the same instant. -/
def execTimeLoRead (s : State) : Out := .next (if s.pwr.endpoint then (barReadAccess s 0x1010 4).2 else s)

/-! ### The sideband (R453) -/

/-- The sideband register at an offset; RESET_CTL is write-only. -/
def sidebandRead (s : State) (off : Nat) : Byte :=
  match off with
  | 0x00 => 0x39
  | 0x01 => BitVec.ofNat 8 (stageCode s.pwr.stage)
  | 0x02 => BitVec.ofNat 8 (coarse 250 s.pwr.mv).toNat
  | 0x03 => BitVec.ofNat 8 (inputW s)
  | 0x04 => BitVec.ofNat 8 (inputW s / 256)
  | 0x05 => BitVec.ofNat 8 (tempByte s)
  | 0x06 => BitVec.ofNat 8 (b2n (throttled s) + 2 * b2n s.pwr.trip + 4 * b2n s.pwr.fault)
  | 0x08 => s.pwr.boardLimit
  | _ => 0

/-! ### Pins of the sideband connector (R490) -/

/-- PILOT_PG is high while the pilot domain runs. -/
def pilotPg (s : State) : Bool := s.pwr.powered

/-- The test access port answers while MOD_RESET_N is held low, and at no other time. -/
def jtagAnswers (s : State) : Bool := s.pwr.powered && s.pwr.pinHeld

/-- The 48-bit provisioned ID of the I3C target: Mbonica's manufacturer code in bits 47 to 33, the serial number's low word in bits 31 to 0 (log
106). -/
def provisionedId : BitVec 48 := Config.manufacturer ++ BitVec.ofNat 32 (field serialBytes 0 4)

end Sys2Proof.Machine
end

