-- ==== Sys2Proof/Machine/Dispatch.lean ====
section
/-! DEFINITION. Dispatch.lean: the command's meaning, one arm per command. -/

namespace Sys2Proof.Machine

/-- What a command does to everything but the queue. -/
def exec (i : Instr) (s : State) : Host.Outcome State Fault Refusal :=
  match i with
  | .doorbell mb ptr bytes => Sys2Proof.Machine.execDoorbell mb ptr bytes s
  | .packetAcknowledge mb => Sys2Proof.Machine.execPacketAcknowledge mb s
  | .pad mb => Sys2Proof.Machine.execPad mb s
  | .openSession mb tag => Sys2Proof.Machine.execOpenSession mb tag s
  | .prove mb tag => Sys2Proof.Machine.execProve mb tag s
  | .closeSession mb tag => Sys2Proof.Machine.execCloseSession mb tag s
  | .provision mb tag => Sys2Proof.Machine.execProvision mb tag s
  | .rotate mb tag => Sys2Proof.Machine.execRotate mb tag s
  | .challengeExpiry mb => Sys2Proof.Machine.execChallengeExpiry mb s
  | .lockoutExpiry mb => Sys2Proof.Machine.execLockoutExpiry mb s
  | .identify mb tag => Sys2Proof.Machine.execIdentify mb tag s
  | .status mb tag => Sys2Proof.Machine.execStatus mb tag s
  | .eventMask mb tag => Sys2Proof.Machine.execEventMask mb tag s
  | .resetCmd mb tag => Sys2Proof.Machine.execResetCmd mb tag s
  | .echo mb tag => Sys2Proof.Machine.execEcho mb tag s
  | .query mb tag => Sys2Proof.Machine.execQuery mb tag s
  | .stage mb tag => Sys2Proof.Machine.execStage mb tag s
  | .verify mb tag => Sys2Proof.Machine.execVerify mb tag s
  | .activate mb tag => Sys2Proof.Machine.execActivate mb tag s
  | .write mb tag => Sys2Proof.Machine.execWrite mb tag s
  | .read mb tag => Sys2Proof.Machine.execRead mb tag s
  | .fill mb tag => Sys2Proof.Machine.execFill mb tag s
  | .writeTensor mb tag => Sys2Proof.Machine.execWriteTensor mb tag s
  | .readTensor mb tag => Sys2Proof.Machine.execReadTensor mb tag s
  | .windowGrant mb tag => Sys2Proof.Machine.execWindowGrant mb tag s
  | .windowRevoke mb tag => Sys2Proof.Machine.execWindowRevoke mb tag s
  | .hostReadTimeout mb tag => Sys2Proof.Machine.execHostReadTimeout mb tag s
  | .abort mb tag => Sys2Proof.Machine.execAbort mb tag s
  | .abortComplete mb tag => Sys2Proof.Machine.execAbortComplete mb tag s
  | .functionReset source => Sys2Proof.Machine.execFunctionReset source s
  | .warmReset source => Sys2Proof.Machine.execWarmReset source s
  | .coldReset source => Sys2Proof.Machine.execColdReset source s
  | .powerArrival => Sys2Proof.Machine.execPowerArrival s
  | .powerLoss mv => Sys2Proof.Machine.execPowerLoss mv s
  | .modResetNAssert => Sys2Proof.Machine.execModResetNAssert s
  | .modResetNRelease => Sys2Proof.Machine.execModResetNRelease s
  | .sysenWatchdogExpiry => Sys2Proof.Machine.execSysenWatchdogExpiry s
  | .bootPower => Sys2Proof.Machine.execBootPower s
  | .bootRom => Sys2Proof.Machine.execBootRom s
  | .bootFirmware => Sys2Proof.Machine.execBootFirmware s
  | .bootMemory failedHbm failedLpddr failedLanes => Sys2Proof.Machine.execBootMemory failedHbm failedLpddr failedLanes s
  | .bootCores failed => Sys2Proof.Machine.execBootCores failed s
  | .bootFabric => Sys2Proof.Machine.execBootFabric s
  | .bootFlash => Sys2Proof.Machine.execBootFlash s
  | .bootReady => Sys2Proof.Machine.execBootReady s
  | .thermalHoldRelease temps => Sys2Proof.Machine.execThermalHoldRelease temps s
  | .powerFault rail mv => Sys2Proof.Machine.execPowerFault rail mv s
  | .inputExcursion mv => Sys2Proof.Machine.execInputExcursion mv s
  | .powerSample mv avg1s avg10ms temps => Sys2Proof.Machine.execPowerSample mv avg1s avg10ms temps s
  | .clockRaise => Sys2Proof.Machine.execClockRaise s
  | .currentLimit => Sys2Proof.Machine.execCurrentLimit s
  | .thermalThrottle temps => Sys2Proof.Machine.execThermalThrottle temps s
  | .thermalTrip temps => Sys2Proof.Machine.execThermalTrip temps s
  | .coreLight core => Sys2Proof.Machine.execCoreLight core s
  | .coreDim core => Sys2Proof.Machine.execCoreDim core s
  | .coreDark core => Sys2Proof.Machine.execCoreDark core s
  | .coreClockStop core => Sys2Proof.Machine.execCoreClockStop core s
  | .pwrQuery mb tag => Sys2Proof.Machine.execPwrQuery mb tag s
  | .pwrLimit mb tag => Sys2Proof.Machine.execPwrLimit mb tag s
  | .coreState mb tag => Sys2Proof.Machine.execCoreState mb tag s
  | .coreFence mb tag => Sys2Proof.Machine.execCoreFence mb tag s
  | .coreRetest mb tag pass => Sys2Proof.Machine.execCoreRetest mb tag pass s
  | .nearPort mb tag => Sys2Proof.Machine.execNearPort mb tag s
  | .hbmMapout mb tag => Sys2Proof.Machine.execHbmMapout mb tag s
  | .idleTimers mb tag => Sys2Proof.Machine.execIdleTimers mb tag s
  | .standby mb tag => Sys2Proof.Machine.execStandby mb tag s
  | .noRetireTimeout core => Sys2Proof.Machine.execNoRetireTimeout core s
  | .correctedErrorLimit core => Sys2Proof.Machine.execCorrectedErrorLimit core s
  | .immediateFence core cause => Sys2Proof.Machine.execImmediateFence core cause s
  | .reissue core => Sys2Proof.Machine.execReissue core s
  | .progLoad mb tag => Sys2Proof.Machine.execProgLoad mb tag s
  | .progDrop mb tag => Sys2Proof.Machine.execProgDrop mb tag s
  | .progList mb tag => Sys2Proof.Machine.execProgList mb tag s
  | .launch mb tag => Sys2Proof.Machine.execLaunch mb tag s
  | .halt mb tag => Sys2Proof.Machine.execHalt mb tag s
  | .schedLoad mb tag => Sys2Proof.Machine.execSchedLoad mb tag s
  | .schedDrop mb tag => Sys2Proof.Machine.execSchedDrop mb tag s
  | .nop core => Sys2Proof.Machine.execNop core s
  | .endProg core => Sys2Proof.Machine.execEndProg core s
  | .trap core => Sys2Proof.Machine.execTrap core s
  | .trapStop core => Sys2Proof.Machine.execTrapStop core s
  | .setsh core => Sys2Proof.Machine.execSetsh core s
  | .dld core => Sys2Proof.Machine.execDld core s
  | .li core => Sys2Proof.Machine.execLi core s
  | .xalu core => Sys2Proof.Machine.execXalu core s
  | .br core => Sys2Proof.Machine.execBr core s
  | .loop core => Sys2Proof.Machine.execLoop core s
  | .brf core => Sys2Proof.Machine.execBrf core s
  | .rdst core => Sys2Proof.Machine.execRdst core s
  | .wrst core => Sys2Proof.Machine.execWrst core s
  | .drain core => Sys2Proof.Machine.execDrain core s
  | .mmul core => Sys2Proof.Machine.execMmul core s
  | .mload core => Sys2Proof.Machine.execMload core s
  | .mstore core => Sys2Proof.Machine.execMstore core s
  | .xpose core => Sys2Proof.Machine.execXpose core s
  | .acfg core => Sys2Proof.Machine.execAcfg core s
  | .aexp core => Sys2Proof.Machine.execAexp core s
  | .afold core => Sys2Proof.Machine.execAfold core s
  | .ablk core => Sys2Proof.Machine.execAblk core s
  | .aclose core => Sys2Proof.Machine.execAclose core s
  | .adprep core => Sys2Proof.Machine.execAdprep core s
  | .abblk core => Sys2Proof.Machine.execAbblk core s
  | .vadd core => Sys2Proof.Machine.execVadd core s
  | .vsub core => Sys2Proof.Machine.execVsub core s
  | .vmul core => Sys2Proof.Machine.execVmul core s
  | .vmin core => Sys2Proof.Machine.execVmin core s
  | .vmax core => Sys2Proof.Machine.execVmax core s
  | .vabs core => Sys2Proof.Machine.execVabs core s
  | .vneg core => Sys2Proof.Machine.execVneg core s
  | .vfma core => Sys2Proof.Machine.execVfma core s
  | .vdiv core => Sys2Proof.Machine.execVdiv core s
  | .vsqrt core => Sys2Proof.Machine.execVsqrt core s
  | .vrsqrt core => Sys2Proof.Machine.execVrsqrt core s
  | .vexp2 core => Sys2Proof.Machine.execVexp2 core s
  | .vlog2 core => Sys2Proof.Machine.execVlog2 core s
  | .vcmp core => Sys2Proof.Machine.execVcmp core s
  | .vsel core => Sys2Proof.Machine.execVsel core s
  | .viadd core => Sys2Proof.Machine.execViadd core s
  | .visub core => Sys2Proof.Machine.execVisub core s
  | .vimul core => Sys2Proof.Machine.execVimul core s
  | .vimin core => Sys2Proof.Machine.execVimin core s
  | .vimax core => Sys2Proof.Machine.execVimax core s
  | .vand core => Sys2Proof.Machine.execVand core s
  | .vor core => Sys2Proof.Machine.execVor core s
  | .vxor core => Sys2Proof.Machine.execVxor core s
  | .vnot core => Sys2Proof.Machine.execVnot core s
  | .vshl core => Sys2Proof.Machine.execVshl core s
  | .vshr core => Sys2Proof.Machine.execVshr core s
  | .vsra core => Sys2Proof.Machine.execVsra core s
  | .vbcast core => Sys2Proof.Machine.execVbcast core s
  | .viota core => Sys2Proof.Machine.execViota core s
  | .vxpose core => Sys2Proof.Machine.execVxpose core s
  | .vperm core => Sys2Proof.Machine.execVperm core s
  | .vrand core => Sys2Proof.Machine.execVrand core s
  | .rclr core => Sys2Proof.Machine.execRclr core s
  | .rrow core => Sys2Proof.Machine.execRrow core s
  | .rcol core => Sys2Proof.Machine.execRcol core s
  | .radd core => Sys2Proof.Machine.execRadd core s
  | .rtopk core => Sys2Proof.Machine.execRtopk core s
  | .rhist core => Sys2Proof.Machine.execRhist core s
  | .rread core => Sys2Proof.Machine.execRread core s
  | .scan core => Sys2Proof.Machine.execScan core s
  | .vcvt core => Sys2Proof.Machine.execVcvt core s
  | .fetch core => Sys2Proof.Machine.execFetch core s
  | .store core => Sys2Proof.Machine.execStore core s
  | .movem core => Sys2Proof.Machine.execMovem core s
  | .gfetch core => Sys2Proof.Machine.execGfetch core s
  | .atom core => Sys2Proof.Machine.execAtom core s
  | .msg core => Sys2Proof.Machine.execMsg core s
  | .moveEnd core id outcome => Sys2Proof.Machine.execMoveEnd core id outcome s
  | .fetchDeadline core id => Sys2Proof.Machine.execFetchDeadline core id s
  | .vldr core => Sys2Proof.Machine.execVldr core s
  | .vstr core => Sys2Proof.Machine.execVstr core s
  | .vldp core => Sys2Proof.Machine.execVldp core s
  | .vstp core => Sys2Proof.Machine.execVstp core s
  | .vgath core => Sys2Proof.Machine.execVgath core s
  | .vscat core => Sys2Proof.Machine.execVscat core s
  | .vscadd core => Sys2Proof.Machine.execVscadd core s
  | .vrscat core => Sys2Proof.Machine.execVrscat core s
  | .sealTile core => Sys2Proof.Machine.execSealTile core s
  | .schk core => Sys2Proof.Machine.execSchk core s
  | .srec core => Sys2Proof.Machine.execSrec core s
  | .sclr core => Sys2Proof.Machine.execSclr core s
  | .push core => Sys2Proof.Machine.execPush core s
  | .pop core => Sys2Proof.Machine.execPop core s
  | .sdrop core => Sys2Proof.Machine.execSdrop core s
  | .signal core => Sys2Proof.Machine.execSignal core s
  | .wait core => Sys2Proof.Machine.execWait core s
  | .waitSatisfy core => Sys2Proof.Machine.execWaitSatisfy core s
  | .syncTimeout core => Sys2Proof.Machine.execSyncTimeout core s
  | .fence core => Sys2Proof.Machine.execFence core s
  | .stackDrain stack => Sys2Proof.Machine.execStackDrain stack s
  | .stackSpill stack => Sys2Proof.Machine.execStackSpill stack s
  | .frameReturn stack req ok => Sys2Proof.Machine.execFrameReturn stack req ok s
  | .returnDeadline stack req => Sys2Proof.Machine.execReturnDeadline stack req s
  | .jobLoad mb tag => Sys2Proof.Machine.execJobLoad mb tag s
  | .jobStart mb tag => Sys2Proof.Machine.execJobStart mb tag s
  | .jobStop mb tag => Sys2Proof.Machine.execJobStop mb tag s
  | .jobLengths mb tag => Sys2Proof.Machine.execJobLengths mb tag s
  | .jobStatus mb tag => Sys2Proof.Machine.execJobStatus mb tag s
  | .jobUnload mb tag => Sys2Proof.Machine.execJobUnload mb tag s
  | .jobSwap mb tag => Sys2Proof.Machine.execJobSwap mb tag s
  | .entryStart entry => Sys2Proof.Machine.execEntryStart entry s
  | .returnRequest entry => Sys2Proof.Machine.execReturnRequest entry s
  | .wLatestStart entry => Sys2Proof.Machine.execWLatestStart entry s
  | .instanceDispatch entry => Sys2Proof.Machine.execInstanceDispatch entry s
  | .instanceEnd core => Sys2Proof.Machine.execInstanceEnd core s
  | .topoRoute mb tag => Sys2Proof.Machine.execTopoRoute mb tag s
  | .topoQuery mb tag => Sys2Proof.Machine.execTopoQuery mb tag s
  | .collDefine mb tag => Sys2Proof.Machine.execCollDefine mb tag s
  | .collDrop mb tag => Sys2Proof.Machine.execCollDrop mb tag s
  | .reshard mb tag => Sys2Proof.Machine.execReshard mb tag s
  | .genInstall => Sys2Proof.Machine.execGenInstall s
  | .collStatus mb tag => Sys2Proof.Machine.execCollStatus mb tag s
  | .collLimitExpiry handle => Sys2Proof.Machine.execCollLimitExpiry handle s
  | .colData p => Sys2Proof.Machine.execColData p s
  | .colCredit p => Sys2Proof.Machine.execColCredit p s
  | .colResend p => Sys2Proof.Machine.execColResend p s
  | .colCounts p => Sys2Proof.Machine.execColCounts p s
  | .colAbort p => Sys2Proof.Machine.execColAbort p s
  | .ringBlock p => Sys2Proof.Machine.execRingBlock p s
  | .ringCredit p => Sys2Proof.Machine.execRingCredit p s
  | .ringGrad p => Sys2Proof.Machine.execRingGrad p s
  | .ringResend p => Sys2Proof.Machine.execRingResend p s
  | .gradientHandoff ring => Sys2Proof.Machine.execGradientHandoff ring s
  | .tierPool mb tag => Sys2Proof.Machine.execTierPool mb tag s
  | .tierRegion mb tag => Sys2Proof.Machine.execTierRegion mb tag s
  | .tierHint mb tag => Sys2Proof.Machine.execTierHint mb tag s
  | .tierFlush mb tag => Sys2Proof.Machine.execTierFlush mb tag s
  | .tierCopy mb tag => Sys2Proof.Machine.execTierCopy mb tag s
  | .tierQuery mb tag => Sys2Proof.Machine.execTierQuery mb tag s
  | .pagePromote page => Sys2Proof.Machine.execPagePromote page s
  | .promoteFinalStage page => Sys2Proof.Machine.execPromoteFinalStage page s
  | .pageDemote page => Sys2Proof.Machine.execPageDemote page s
  | .demoteFinalStage page => Sys2Proof.Machine.execDemoteFinalStage page s
  | .granuleCopyArrival page granule gen => Sys2Proof.Machine.execGranuleCopyArrival page granule gen s
  | .promoteDeadline page => Sys2Proof.Machine.execPromoteDeadline page s
  | .pinEnd page => Sys2Proof.Machine.execPinEnd page s
  | .patrolScrub first second => Sys2Proof.Machine.execPatrolScrub first second s
  | .hbmEccCollect counts scrubbed => Sys2Proof.Machine.execHbmEccCollect counts scrubbed s
  | .hbmShadowRecentre channel pc lane margin => Sys2Proof.Machine.execHbmShadowRecentre channel pc lane margin s
  | .hbmWindowedRecentre channel pc lane => Sys2Proof.Machine.execHbmWindowedRecentre channel pc lane s
  | .hbmCaRecentre channel => Sys2Proof.Machine.execHbmCaRecentre channel s
  | .laneRepair channel pc lane => Sys2Proof.Machine.execLaneRepair channel pc lane s
  | .interfaceRecovery channel failed => Sys2Proof.Machine.execInterfaceRecovery channel failed s
  | .surveyWindowClose channel good margin => Sys2Proof.Machine.execSurveyWindowClose channel good margin s
  | .lpddrOscRead channel drift => Sys2Proof.Machine.execLpddrOscRead channel drift s
  | .lpddrRetrain channel failed => Sys2Proof.Machine.execLpddrRetrain channel failed s
  | .lpddrCaRecentre channel good => Sys2Proof.Machine.execLpddrCaRecentre channel good s
  | .zqLatch package => Sys2Proof.Machine.execZqLatch package s
  | .portTrained port => Sys2Proof.Machine.execPortTrained port s
  | .capabilityBlock port block => Sys2Proof.Machine.execCapabilityBlock port block s
  | .capabilityResend port => Sys2Proof.Machine.execCapabilityResend port s
  | .laneSwap port outbound lane fault => Sys2Proof.Machine.execLaneSwap port outbound lane fault s
  | .txRetune port margin => Sys2Proof.Machine.execTxRetune port margin s
  | .lossOfLock port relocked => Sys2Proof.Machine.execLossOfLock port relocked s
  | .cableRemoved pair => Sys2Proof.Machine.execCableRemoved pair s
  | .cableInserted pair => Sys2Proof.Machine.execCableInserted pair s
  | .flit port bytes => Sys2Proof.Machine.execFlit port bytes s
  | .rdReq p => Sys2Proof.Machine.execRdReq p s
  | .rdData p => Sys2Proof.Machine.execRdData p s
  | .wr p => Sys2Proof.Machine.execWr p s
  | .wrAck p => Sys2Proof.Machine.execWrAck p s
  | .atReq p => Sys2Proof.Machine.execAtReq p s
  | .atResp p => Sys2Proof.Machine.execAtResp p s
  | .msgPacket p => Sys2Proof.Machine.execMsgPacket p s
  | .msgAck p => Sys2Proof.Machine.execMsgAck p s
  | .err p => Sys2Proof.Machine.execErr p s
  | .packetHoldExpiry p => Sys2Proof.Machine.execPacketHoldExpiry p s
  | .fabricTimeout what => Sys2Proof.Machine.execFabricTimeout what s
  | .busyResend tx => Sys2Proof.Machine.execBusyResend tx s
  | .msgRetry tx => Sys2Proof.Machine.execMsgRetry tx s
  | .writeEntryRelease src tag => Sys2Proof.Machine.execWriteEntryRelease src tag s
  | .tagSweepStart domain => Sys2Proof.Machine.execTagSweepStart domain s
  | .farConfig mb tag => Sys2Proof.Machine.execFarConfig mb tag s
  | .farKey mb tag => Sys2Proof.Machine.execFarKey mb tag s
  | .farControl mb tag => Sys2Proof.Machine.execFarControl mb tag s
  | .farQuery mb tag => Sys2Proof.Machine.execFarQuery mb tag s
  | .farPaths mb tag => Sys2Proof.Machine.execFarPaths mb tag s
  | .farFrameSend port peer => Sys2Proof.Machine.execFarFrameSend port peer s
  | .data port frame => Sys2Proof.Machine.execData port frame s
  | .ack port frame => Sys2Proof.Machine.execAck port frame s
  | .hello port frame => Sys2Proof.Machine.execHello port frame s
  | .ackTimer port peer => Sys2Proof.Machine.execAckTimer port peer s
  | .retransmitTimeout port peer => Sys2Proof.Machine.execRetransmitTimeout port peer s
  | .pathResetTimeout port peer => Sys2Proof.Machine.execPathResetTimeout port peer s
  | .stopResetTimeout port => Sys2Proof.Machine.execStopResetTimeout port s
  | .pathIdleClose port peer => Sys2Proof.Machine.execPathIdleClose port peer s
  | .keepalive port peer => Sys2Proof.Machine.execKeepalive port peer s
  | .farRetune port corrected symbols => Sys2Proof.Machine.execFarRetune port corrected symbols s
  | .farRetrain port relocked => Sys2Proof.Machine.execFarRetrain port relocked s
  | .opticInserted port power own => Sys2Proof.Machine.execOpticInserted port power own s
  | .opticRemoved port => Sys2Proof.Machine.execOpticRemoved port s
  | .ready => Sys2Proof.Machine.execReady s
  | .veto => Sys2Proof.Machine.execVeto s
  | .commit => Sys2Proof.Machine.execCommit s
  | .rollback => Sys2Proof.Machine.execRollback s
  | .ask => Sys2Proof.Machine.execAsk s
  | .commitStallTimeout => Sys2Proof.Machine.execCommitStallTimeout s
  | .vaultHello => Sys2Proof.Machine.execVaultHello s
  | .vaultAccept => Sys2Proof.Machine.execVaultAccept s
  | .vaultRefuse => Sys2Proof.Machine.execVaultRefuse s
  | .vaultCopyEnd => Sys2Proof.Machine.execVaultCopyEnd s
  | .snapshotStart => Sys2Proof.Machine.execSnapshotStart s
  | .snapshotCommit => Sys2Proof.Machine.execSnapshotCommit s
  | .resConfig mb tag => Sys2Proof.Machine.execResConfig mb tag s
  | .resQuery mb tag => Sys2Proof.Machine.execResQuery mb tag s
  | .dataPos mb tag => Sys2Proof.Machine.execDataPos mb tag s
  | .snapTake mb tag => Sys2Proof.Machine.execSnapTake mb tag s
  | .snapList mb tag => Sys2Proof.Machine.execSnapList mb tag s
  | .snapDrop mb tag => Sys2Proof.Machine.execSnapDrop mb tag s
  | .snapExport mb tag nand => Sys2Proof.Machine.execSnapExport mb tag nand s
  | .restore mb tag nand => Sys2Proof.Machine.execRestore mb tag nand s
  | .lanternConfig mb tag => Sys2Proof.Machine.execLanternConfig mb tag s
  | .takeover mb tag => Sys2Proof.Machine.execTakeover mb tag s
  | .peerSwap mb tag => Sys2Proof.Machine.execPeerSwap mb tag s
  | .lanternEvaluate => Sys2Proof.Machine.execLanternEvaluate s
  | .visOpen mb tag => Sys2Proof.Machine.execVisOpen mb tag s
  | .visClose mb tag => Sys2Proof.Machine.execVisClose mb tag s
  | .visData mb tag => Sys2Proof.Machine.execVisData mb tag s
  | .visPull mb tag => Sys2Proof.Machine.execVisPull mb tag s
  | .visBoxes mb tag => Sys2Proof.Machine.execVisBoxes mb tag s
  | .visQuery mb tag => Sys2Proof.Machine.execVisQuery mb tag s
  | .decodeStart engine => Sys2Proof.Machine.execDecodeStart engine s
  | .decodeDone engine error => Sys2Proof.Machine.execDecodeDone engine error s
  | .frameTokenize ctx => Sys2Proof.Machine.execFrameTokenize ctx s
  | .telSteps mb tag => Sys2Proof.Machine.execTelSteps mb tag s
  | .telStream mb tag => Sys2Proof.Machine.execTelStream mb tag s
  | .telEvents mb tag => Sys2Proof.Machine.execTelEvents mb tag s
  | .telErrors mb tag => Sys2Proof.Machine.execTelErrors mb tag s
  | .fbCounters mb tag => Sys2Proof.Machine.execFbCounters mb tag s
  | .fbHistograms mb tag => Sys2Proof.Machine.execFbHistograms mb tag s
  | .fbLog mb tag => Sys2Proof.Machine.execFbLog mb tag s
  | .fbCommit mb tag => Sys2Proof.Machine.execFbCommit mb tag s
  | .fbImage mb tag => Sys2Proof.Machine.execFbImage mb tag s
  | .fieldBookHourlyCommit => Sys2Proof.Machine.execFieldBookHourlyCommit s
  | .fieldBookSample mv => Sys2Proof.Machine.execFieldBookSample mv s
  | .cplConsumerWrite mb value => Sys2Proof.Machine.execCplConsumerWrite mb value s
  | .cplRingConfig mb reg value => Sys2Proof.Machine.execCplRingConfig mb reg value s
  | .irqHoldoffWrite mb value => Sys2Proof.Machine.execIrqHoldoffWrite mb value s
  | .irqHoldoffExpiry mb => Sys2Proof.Machine.execIrqHoldoffExpiry mb s
  | .mailboxStatusClear mb value => Sys2Proof.Machine.execMailboxStatusClear mb value s
  | .errorStatusClear value => Sys2Proof.Machine.execErrorStatusClear value s
  | .timeLoRead => Sys2Proof.Machine.execTimeLoRead s
  | .registerWrite offset size value => Sys2Proof.Machine.execRegisterWrite offset size value s
  | .sidebandColdReset => Sys2Proof.Machine.execSidebandColdReset s
  | .sidebandWarmReset => Sys2Proof.Machine.execSidebandWarmReset s
  | .sidebandTripClear => Sys2Proof.Machine.execSidebandTripClear s
  | .sidebandLimitWrite value => Sys2Proof.Machine.execSidebandLimitWrite value s
  | .t7TagQuarantineEnd domain tag => Sys2Proof.Machine.execT7TagQuarantineEnd domain tag s
  | .farPortTrained port => Sys2Proof.Machine.execFarPortTrained port s
  | .functionMaskWrite => Sys2Proof.Machine.execFunctionMaskWrite s
  | .vectorSpacingExpiry vector => Sys2Proof.Machine.execVectorSpacingExpiry vector s

end Sys2Proof.Machine
end

