-- ==== Sys2Proof/Machine/Tick.lean ====
section
/-! DEFINITION. Tick.lean: what happens when no command waits: a nanosecond passes (log 3). -/

namespace Sys2Proof.Machine

/-- One nanosecond of module time, which runs while 54 V is present (R433): survey windows of HBM that may open do so (R258), those of near
and far ports close (R297, R371), and an entry whose group has no enabled core left fails (R445). -/
def tick (s : State) : State :=
  if s.pwr.powered then failEmptyGroups (endFarWindows (endWindows (pumpSurvey (pumpRings (advance s (s.time + 1)))))) else s

end Sys2Proof.Machine
end

