-- ==== Sys2Proof/Safety.lean ====
section
/-! DEFINITION. Safety.lean: what counts as a safe state and a safe step, and the words that statements use: what it means that a
core issues an instruction, that a command starts, and that a tile operand is in order. -/

namespace Sys2Proof.Machine

/-- A step that neither faults nor is refused. -/
def StepOk (s : State) : Prop := ∃ t, step s = .next t

/-- The memories in their canonical form: addresses strictly rising, no zero listed. -/
def State.MemoriesWf (s : State) : Prop :=
  Wf s.dram ∧ Wf s.ctl ∧ Wf s.recs ∧ Wf s.host.mem ∧ ∀ x ∈ s.res.slots, Wf x.image

/-! ### Tile instructions -/

/-- What core `n` issues in state `s` under launch `l`. -/
def ctxOf (s : State) (n : Nat) (l : Launch) : Ctx := ⟨n, coreAt s n, l, ((coreAt s n).insns.getD l.pc 0).toNat, s⟩

/-- Core `i.n` may issue in `i.s`, and the word at its index is one of opcode `op` that waits for no atomic and for no room in its unit's queue
(R185, R186, R195, R202). -/
def Issues (op : Nat) (i : Ctx) : Prop :=
  i.n < 152 ∧ issuing i.s i.n = some i.l ∧ i = ctxOf i.s i.n i.l ∧ i.l.pc < i.c.insns.length ∧ bits i.w 63 56 = op ∧
    awaitsAtom i.c (scalarRegs i.w) = false ∧ queueFull i.c op = false

/-- The instruction is done: the effect `s`, and the core is at the next index. -/
def Ctx.ends (i : Ctx) (s : State) : Out := .next (goto s i.n (i.l.pc + 1))

/-- The instruction is done and the core goes to index `t`. -/
def Ctx.branches (i : Ctx) (s : State) (t : Nat) : Out := .next (goto s i.n t)

/-- The instruction stops the core with a fault of kind 0 (R204, R205). -/
def Ctx.faults (i : Ctx) (code detail : Nat) : Out :=
  .next (stopCore i.s i.n 0 code i.l.pc (BitVec.ofNat 64 i.w) detail none)

/-- `n` slots from slot `p` on lie in the tile store and no fetch in flight holds one of them (R176, R203). -/
def Ctx.Free (i : Ctx) (p n : Nat) : Prop := p + n ≤ 6144 ∧ slotsHeld i.c p n = false

/-- The record of slot `p` is the head of a tile of shape `sh`, extents apart (R101). -/
def Ctx.Holds (i : Ctx) (p : Nat) (sh : Shape) : Prop := recCheck (rd i.s.recs (tileSlot i.n p)) sh false = none

/-- The record of slot `p` is the head of a tile of exactly shape `sh` (R101). -/
def Ctx.HoldsExactly (i : Ctx) (p : Nat) (sh : Shape) : Prop := recCheck (rd i.s.recs (tileSlot i.n p)) sh true = none

/-- A run of tiles side by side, `cols` columns of shape `sh` from slot `p` on, each sealed with exactly its shape (R136, R148). -/
def Ctx.RunHolds (i : Ctx) (p : Nat) (sh : Shape) (cols : Nat) : Prop :=
  i.Free p (tileSlots sh.fmt 0 * tilesOf cols) ∧
    ∀ t < tilesOf cols, i.HoldsExactly (p + tileSlots sh.fmt 0 * t) { sh with cols := min 128 (cols - 128 * t) }

/-- A grid of `rows` × `cols` elements in tile-row-major order from slot `p` on, each tile sealed with exactly its shape (R136). -/
def Ctx.GridHolds (i : Ctx) (p : Nat) (sh : Shape) (rows cols : Nat) : Prop :=
  i.Free p (tileSlots sh.fmt 0 * tilesOf cols * tilesOf rows) ∧
    ∀ t < tilesOf cols * tilesOf rows, i.HoldsExactly (p + tileSlots sh.fmt 0 * t)
      { sh with rows := min 128 (rows - 128 * (t / tilesOf cols)), cols := min 128 (cols - 128 * (t % tilesOf cols)) }

/-- The query and key operands of a block pair are in order under the mode of the block, and `pr` is what they give (R134, R135). -/
def Ctx.PairReady (i : Ctx) (b : AttnBlock) (sa sb : Shape) (pr : Pair) : Prop :=
  (b.absorbed = true ∧ ∃ rows, i.c.attn.foldQ = some (b.serial, rows) ∧ fmtOk sb.fmt = true ∧ sb.kind = 0 ∧ sb.order = 0 ∧
    isMx sb.fmt = false ∧ rows.length = sa.rows ∧ i.RunHolds i.xa sb b.rank ∧
    (b.side ≠ 0 → i.RunHolds (i.xa + tileSlots sb.fmt 0 * tilesOf b.rank) sb b.side) ∧
    pr = ⟨bufVal rows,
      fun r c => if c < b.rank then i.runVal i.xa sb b.rank r c
        else i.runVal (i.xa + tileSlots sb.fmt 0 * tilesOf b.rank) sb b.side r (c - b.rank),
      i.runVal i.xa sb b.rank, [(i.xa, tileSlots sb.fmt 0 * (tilesOf b.rank + tilesOf b.side))]⟩) ∨
  (b.absorbed = false ∧ ∃ ke ve, i.c.attn.expand = some (ke, ve) ∧ storedForm sa true false = true ∧ ke.length = sb.rows ∧
    (∀ r ∈ ke, r.length = b.score) ∧ ve.length = sb.rows ∧ (∀ r ∈ ve, r.length = b.dim) ∧ i.RunHolds i.xa sa b.score ∧
    pr = ⟨i.runVal i.xa sa b.score, bufVal ke, bufVal ve, [(i.xa, tileSlots sa.fmt 0 * tilesOf b.score)]⟩)

/-- The output gradient of ABBLK is in order: its values, where the dq run starts, the slots read (R142). -/
def Ctx.GradientReady (i : Ctx) (b : AttnBlock) (nq : Nat) (dout : Nat → Nat → Val) (dq : Nat) (gread : List (Nat × Nat)) : Prop :=
  (b.absorbed = true ∧ ∃ rows, i.c.attn.foldG = some (b.serial, rows) ∧ rows.length = nq ∧ dout = bufVal rows ∧ dq = i.xd + 8 ∧
    gread = []) ∨
  (b.absorbed = false ∧ ∃ sc, sc = i.shape (i.f 31 28) ∧ shapeOk sc = true ∧ storedForm sc true false = true ∧ sc.rows = nq ∧
    i.RunHolds (i.xd + 8) sc b.dim ∧ dout = i.runVal (i.xd + 8) sc b.dim ∧ dq = i.xd + 8 + tileSlots sc.fmt 0 * tilesOf b.dim ∧
    gread = [(i.xd + 8, tileSlots sc.fmt 0 * tilesOf b.dim)])

/-- The new contents of a tile register: `g e` at active elements, the old ones elsewhere (R151). -/
def Ctx.merged (i : Ctx) (men mask d : Nat) (g : Nat → Word) : Elems :=
  (List.range 1024).map fun e => if i.active men mask e then g e else el (i.t d) e

/-- The state after a vector instruction has written tile register DST and its result has been checked (R84, R150, R151). -/
def Ctx.vecState (i : Ctx) (ty fmt : Nat) (g : Nat → Word) : State :=
  let t := i.merged (i.f 30 30) (i.f 35 31) (i.f 55 51) g
  let on := i.active (i.f 30 30) (i.f 35 31)
  nfWrite i (putT i.s i.n (i.f 55 51) t) uVector (regAddr (i.f 55 51))
    (if ty = 0 then regHits t on else if ty = 4 then packedHits fmt t on else [])

/-- The first, second and third source register's element. -/
def Ctx.a (i : Ctx) (e : Nat) : Word := el (i.t (i.f 50 46)) e
def Ctx.b (i : Ctx) (e : Nat) : Word := el (i.t (i.f 45 41)) e
def Ctx.k (i : Ctx) (e : Nat) : Word := el (i.t (i.f 40 36)) e

/-- A vector instruction completes with `g` at the active elements; its TYPE and format are the word's. -/
def Ctx.vecEnds (i : Ctx) (g : Nat → Word) : Out := i.ends (i.vecState (i.f 29 27) (i.f 26 23) g)

/-- The 128 bytes of row ROW of a register that MSG sends (R195). -/
def Ctx.rowOut (i : Ctx) : List Byte := (List.range 32).flatMap fun c => le 4 (el (i.t (i.f 55 51)) (32 * i.f 50 46 + c)).toNat

/-! ### Mailbox commands -/

/-- Command `c` of class `cls` and code `code` may start now on mailbox `mb`, no ABORT being due, and standby does not refuse it (R35, R447). -/
def Starts (s : State) (mb : Nat) (tag : DWord) (cls code : Nat) (c : Cmd) : Prop :=
  mb < 16 ∧ starting s mb tag cls code = some c ∧ (s.pwr.standby = true → standbyAllows c = true)

/-- A read of host memory had no completion: AER logs it, and CPL_TIMEOUT is set (R28, R481). -/
def timeoutNoted (s : State) : State := setError { s with host := { s.host with aer := true } } 5

/-! ### Packets that arrive -/

/-- The state in which a packet is looked at: a window of its near port whose time is over has ended (R297). -/
def atPort (s : State) (p : Packet) : State := if p.port < 36 then endWindow s p.port else s

/-- The packet has left its port's buffer, whose room goes back to the sender (R299). -/
def taken (s : State) (p : Packet) : State := roomBack (takeIngress (atPort s p) p) p

/-- A packet of type `t` for this module arrives in order: at a port that is UP, or that delivered it before its window opened, with a header that
passes R304 and, on a version 1 link, within what that link carries. -/
def Arrives (s : State) (p : Packet) (t : Byte) : Prop :=
  p.type = t ∧ (p.port < 36 → (nearAt (atPort s p) p.port).state = .up ∨ inIngress (atPort s p) p = true) ∧ packetOk p = true ∧
    (onV1 (atPort s p) p = true → v1Ok (atPort s p) p = true) ∧ (atPort s p).fab.device = some p.target

end Sys2Proof.Machine
end

