-- ==== Sys2Proof/WellFormed.lean ====
section
/-! DEFINITION. WellFormed.lean: the commands whose operands name units and codes that the module has. Everything else an operand
holds (a tag, an address, a packet) may be anything the outside sends. -/

namespace Sys2Proof

/-- Whether every mailbox, core, channel, port, page and code that a command names exists (00_scope.md and the chapters of the units). -/
def Instr.wf : Instr → Bool
  | .doorbell mb _ _ | .packetAcknowledge mb | .pad mb | .openSession mb _ | .prove mb _ | .closeSession mb _
  | .provision mb _ | .rotate mb _ | .challengeExpiry mb | .lockoutExpiry mb | .identify mb _ | .status mb _
  | .eventMask mb _ | .resetCmd mb _ | .echo mb _ | .query mb _ | .stage mb _ | .verify mb _ | .activate mb _ | .write mb _
  | .read mb _ | .fill mb _ | .writeTensor mb _ | .readTensor mb _ | .windowGrant mb _ | .windowRevoke mb _
  | .hostReadTimeout mb _ | .abort mb _ | .abortComplete mb _ | .pwrQuery mb _ | .pwrLimit mb _ | .coreState mb _
  | .coreFence mb _ | .coreRetest mb _ _ | .nearPort mb _ | .hbmMapout mb _ | .idleTimers mb _ | .standby mb _
  | .progLoad mb _ | .progDrop mb _ | .progList mb _ | .launch mb _ | .halt mb _ | .schedLoad mb _ | .schedDrop mb _
  | .jobLoad mb _ | .jobStart mb _ | .jobStop mb _ | .jobLengths mb _ | .jobStatus mb _ | .jobUnload mb _ | .jobSwap mb _
  | .topoRoute mb _ | .topoQuery mb _ | .collDefine mb _ | .collDrop mb _ | .reshard mb _ | .collStatus mb _ | .tierPool mb _
  | .tierRegion mb _ | .tierHint mb _ | .tierFlush mb _ | .tierCopy mb _ | .tierQuery mb _ | .farConfig mb _ | .farKey mb _
  | .farControl mb _ | .farQuery mb _ | .farPaths mb _ | .resConfig mb _ | .resQuery mb _ | .dataPos mb _ | .snapTake mb _
  | .snapList mb _ | .snapDrop mb _ | .snapExport mb _ _ | .restore mb _ _ | .lanternConfig mb _ | .takeover mb _
  | .peerSwap mb _ | .visOpen mb _ | .visClose mb _ | .visData mb _ | .visPull mb _ | .visBoxes mb _ | .visQuery mb _
  | .telSteps mb _ | .telStream mb _ | .telEvents mb _ | .telErrors mb _ | .fbCounters mb _ | .fbHistograms mb _
  | .fbLog mb _ | .fbCommit mb _ | .fbImage mb _ | .cplConsumerWrite mb _ | .irqHoldoffWrite mb _ | .irqHoldoffExpiry mb
  | .mailboxStatusClear mb _ => decide (mb < 16)
  | .functionReset source | .warmReset source => decide (source < 4)
  | .coldReset source => decide (source < 3)
  | .powerArrival | .powerLoss _ | .modResetNAssert | .modResetNRelease | .sysenWatchdogExpiry | .bootPower | .bootRom
  | .bootFirmware | .bootFabric | .bootFlash | .bootReady | .thermalHoldRelease _ | .inputExcursion _ | .powerSample _ _ _ _
  | .clockRaise | .currentLimit | .thermalThrottle _ | .thermalTrip _ | .entryStart _ | .returnRequest _ | .wLatestStart _
  | .instanceDispatch _ | .genInstall | .collLimitExpiry _ | .colData _ | .colCredit _ | .colResend _ | .colCounts _
  | .colAbort _ | .ringBlock _ | .ringCredit _ | .ringGrad _ | .ringResend _ | .patrolScrub _ _ | .hbmEccCollect _ _
  | .rdReq _ | .rdData _ | .wr _ | .wrAck _ | .atReq _ | .atResp _ | .msgPacket _ | .msgAck _ | .err _ | .packetHoldExpiry _
  | .fabricTimeout _ | .busyResend _ | .msgRetry _ | .writeEntryRelease _ _ | .ready | .veto | .commit | .rollback | .ask
  | .commitStallTimeout | .vaultHello | .vaultAccept | .vaultRefuse | .vaultCopyEnd | .snapshotStart | .snapshotCommit
  | .lanternEvaluate | .fieldBookHourlyCommit | .fieldBookSample _ | .errorStatusClear _ | .timeLoRead | .registerWrite _ _ _
  | .sidebandColdReset | .sidebandWarmReset | .sidebandTripClear | .sidebandLimitWrite _ | .functionMaskWrite => true
  | .bootMemory failedHbm failedLpddr failedLanes
    => failedHbm.all (· < 384) && failedLpddr.all (· < 64) && failedLanes.all fun x => x.1 < 384 && x.2.1 < 2 && x.2.2 < 37
  | .bootCores failed => failed.all (· < 152)
  | .powerFault rail _ => decide (rail < 10)
  | .coreLight core | .coreDim core | .coreDark core | .coreClockStop core | .noRetireTimeout core
  | .correctedErrorLimit core | .reissue core | .nop core | .endProg core | .trap core | .trapStop core | .setsh core
  | .dld core | .li core | .xalu core | .br core | .loop core | .brf core | .rdst core | .wrst core | .drain core
  | .mmul core | .mload core | .mstore core | .xpose core | .acfg core | .aexp core | .afold core | .ablk core | .aclose core
  | .adprep core | .abblk core | .vadd core | .vsub core | .vmul core | .vmin core | .vmax core | .vabs core | .vneg core
  | .vfma core | .vdiv core | .vsqrt core | .vrsqrt core | .vexp2 core | .vlog2 core | .vcmp core | .vsel core | .viadd core
  | .visub core | .vimul core | .vimin core | .vimax core | .vand core | .vor core | .vxor core | .vnot core | .vshl core
  | .vshr core | .vsra core | .vbcast core | .viota core | .vxpose core | .vperm core | .vrand core | .rclr core | .rrow core
  | .rcol core | .radd core | .rtopk core | .rhist core | .rread core | .scan core | .vcvt core | .fetch core | .store core
  | .movem core | .gfetch core | .atom core | .msg core | .moveEnd core _ _ | .fetchDeadline core _ | .vldr core | .vstr core
  | .vldp core | .vstp core | .vgath core | .vscat core | .vscadd core | .vrscat core | .sealTile core | .schk core
  | .srec core | .sclr core | .push core | .pop core | .sdrop core | .signal core | .wait core | .waitSatisfy core
  | .syncTimeout core | .fence core | .instanceEnd core => decide (core < 152)
  | .immediateFence core cause => decide (core < 152) && decide (cause < 5)
  | .stackDrain stack | .stackSpill stack | .frameReturn stack _ _ | .returnDeadline stack _ => decide (stack < 128)
  | .gradientHandoff ring => decide (ring < 8)
  | .pagePromote page | .promoteFinalStage page | .pageDemote page | .demoteFinalStage page | .promoteDeadline page
  | .pinEnd page => decide (page < 524288)
  | .granuleCopyArrival page granule _ => decide (page < 524288) && decide (granule < 32)
  | .hbmShadowRecentre channel pc lane _ | .hbmWindowedRecentre channel pc lane | .laneRepair channel pc lane
    => decide (channel < 384) && decide (pc < 2) && decide (lane < 37)
  | .hbmCaRecentre channel | .interfaceRecovery channel _ | .surveyWindowClose channel _ _ => decide (channel < 384)
  | .lpddrOscRead channel _ | .lpddrRetrain channel _ | .lpddrCaRecentre channel _ => decide (channel < 64)
  | .zqLatch package => decide (package < 16)
  | .portTrained port | .capabilityBlock port _ | .capabilityResend port | .txRetune port _ | .lossOfLock port _
  | .flit port _ => decide (port < 36)
  | .laneSwap port _ lane _ => decide (port < 36) && decide (lane < 4)
  | .cableRemoved pair | .cableInserted pair => decide (pair < 18)
  | .tagSweepStart domain | .t7TagQuarantineEnd domain _ => decide (domain < 3)
  | .farFrameSend port _ | .data port _ | .ack port _ | .hello port _ | .ackTimer port _ | .retransmitTimeout port _
  | .pathResetTimeout port _ | .stopResetTimeout port | .pathIdleClose port _ | .keepalive port _ | .farRetune port _ _
  | .farRetrain port _ | .opticInserted port _ _ | .opticRemoved port | .farPortTrained port => decide (port < 8)
  | .decodeStart engine | .decodeDone engine _ => decide (engine < 8)
  | .frameTokenize ctx => decide (ctx < 256)
  | .cplRingConfig mb reg _ => decide (mb < 16) && decide (reg < 3)
  | .vectorSpacingExpiry vector => decide (vector = 16 ∨ vector = 17)

end Sys2Proof
end

