-- ==== Sys2Proof/Certificates/Slice0/Obligations.lean ====
section
/-! DEFINITION. Obligations.lean: the statements for the provers, each with the rules it rests on. -/

open Sys2Proof Sys2Proof.Machine

/-- For every state and command, a step with the command at the front of the queue is the command's execution on the state with the
rest of the queue; with an empty queue and 54 V present the step is a tick: module time moves on by 1 ns, rings that had to wait
try again, survey windows of the memories open, those of near and far ports close, and an entry whose group has no enabled core
left fails (that this happens in a tick is the model's choice, logs 2 and 3). With no ring, step, window and throttle only the
time changes; without 54 V nothing does. (02_host_commands.md; R35) -/
def Obligations.StepTakesTheFront : Prop :=
  (∀ (c : Instr) (rest : List Instr) (s : State),
    step { s with pending := c :: rest } = exec c { s with pending := rest }) ∧
  (∀ s : State, s.pending = [] → step s = .next (tick s)) ∧
  (∀ s : State, s.pwr.powered = false → tick s = s) ∧
  (∀ s : State, s.pwr.powered = true →
    tick s = failEmptyGroups (endFarWindows (endWindows (pumpSurvey (pumpRings (advance s (s.time + 1))))))) ∧
  (∀ s : State, s.pwr.powered = true → s.coll.rings = [] → s.tel.stepRec = none → throttled s = false → s.hbm.waiting = [] →
    (∀ n < 36, (nearAt s n).window = none) → (∀ n < 8, (farAt s n).held = none) → s.job.phase ≠ .running → s.job.phase ≠ .stopping →
    tick s = { s with time := s.time + 1 })

/-- In every state, whatever the module is doing, a command whose operands name mailboxes, cores, ports, channels, pages and codes
that the module has (the check of well-formedness) answers a next state, and any other command is refused as naming no unit
(that refusal is the model's choice, log 2). No command faults. (00_scope.md; 02_host_commands.md; 04_cores_tile_store_seals.md;
11_hbm.md; 12_memory_tiers.md; 13_ewete_fabric.md; 15_far_ports.md; 17_vision_front_end.md; 18_power_clocks_reset.md;
20_register_map.md) -/
def Obligations.EveryCommandCompletesOrNamesNoUnit : Prop :=
  ∀ (c : Instr) (s : State),
    (c.wf = true → ∃ t, exec c s = .next t) ∧ (c.wf = false → exec c s = .refused .noSuchUnit)

/-- Module time is 0, the boot stage is POWER, every mailbox has zero ring pointers, an unconfigured completion ring, a clear
status, no hold-off, no session and no command; every MSI-X vector is masked; ERROR_ENABLE is all ones; the host power limit and
the core count stand at their defaults; every core is dark with zero scalar, shape, descriptor and tile registers, no open
accumulator or reduction tile and no launch. (Module time 0 and the dark cores follow from the model's choice of the reset
instant, log 8.) (20_register_map.md; 18_power_clocks_reset.md; 07_vector_reduction.md; 08_tile_program_isa.md; R149; R164;
R174; R473; R478; R479; R481) -/
def Obligations.ResetValues : Prop :=
  State.reset.time = 0 ∧ State.reset.pwr.stage = .power ∧ State.reset.pending = [] ∧
  State.reset.host.mbs = List.replicate 16 Mailbox.reset ∧
  Mailbox.reset.cmdProd = 0 ∧ Mailbox.reset.cmdCons = 0 ∧ Mailbox.reset.cplSize = 0 ∧ Mailbox.reset.status = 0 ∧
  Mailbox.reset.holdoff = 0 ∧ Mailbox.reset.session = none ∧ Mailbox.reset.cmds = [] ∧
  (∀ e ∈ State.reset.host.msix, e.masked = true) ∧ State.reset.host.errEnable = 0x3FFFFF ∧ State.reset.pwr.hostLimit = 3200 ∧
  State.reset.cores.length = 152 ∧
  (∀ c ∈ State.reset.cores, c.power = .dark ∧ c.launch = none ∧ c.x = List.replicate 16 0 ∧ c.sh = List.replicate 16 0 ∧
    c.t = List.replicate 32 (List.replicate 1024 0) ∧ c.acc = List.replicate 4 none ∧ c.u = List.replicate 8 none ∧
    c.nf0 = 0 ∧ c.fsw = 0)

/-- In stage READY, a doorbell on a configured mailbox whose pointer R32 admits stores the host's bytes in the ring and moves the
producer pointer; one that R32 refuses sets BAD_DOORBELL and moves nothing. A whole packet at the consumer pointer that passes
every check is acknowledged: the consumer pointer moves past it and it becomes an outstanding command. A whole pad moves the
consumer pointer to the start of the ring and leaves no record. (02_host_commands.md; R29; R30; R32; R33; R34; R37; R38; R478) -/
def Obligations.DoorbellAndTake : Prop :=
  ∀ s mb, mb < 16 → s.pwr.stage = .ready → s.pwr.endpoint = true →
    (∀ ptr bytes s1, (mbAt s mb).cplSize ≠ 0 →
      s1 = ringWrite (ringWrite s mb (ptrOff (mbAt s mb).cmdProd) ((bytes.take (2 ^ 20)).take (2 ^ 20 - ptrOff (mbAt s mb).cmdProd))) mb 0
        ((bytes.take (2 ^ 20)).drop (2 ^ 20 - ptrOff (mbAt s mb).cmdProd)) →
      (badDoorbell (mbAt s mb).cmdCons ptr = false →
        exec (.doorbell mb ptr bytes) s = .next (setMb s1 mb fun m => { m with cmdProd := ptr })) ∧
      (badDoorbell (mbAt s mb).cmdCons ptr = true → exec (.doorbell mb ptr bytes) s = .next (setMbStatus s1 mb sBadDoorbell))) ∧
    (∀ o hdr size, o = ptrOff (mbAt s mb).cmdCons → hdr = ringRead s mb o 64 → (mbAt s mb).cmdProd ≠ (mbAt s mb).cmdCons →
      size ≤ ptrDist (2 ^ 20) (mbAt s mb).cmdProd (mbAt s mb).cmdCons →
      (∀ h pay s1, findPacket hdr o = (.packet, size) → h = parseHeader hdr → pay = ringRead s mb (o + 64) h.plen →
        s1 = setMb s mb (fun m => { m with cmdCons := ptrAdd (2 ^ 20) m.cmdCons size }) →
        checkHeader s1 mb h = none → checkChain (mbAt s1 mb) h pay = none →
        exec (.packetAcknowledge mb) s = .next (accept s1 mb h pay)) ∧
      (findPacket hdr o = (.pad, size) →
        exec (.pad mb) s = .next (setMb s mb fun m => { m with cmdCons := ptrAdd (2 ^ 20) m.cmdCons size }) ∧
        exec (.packetAcknowledge mb) s = .next (setMb s mb fun m => { m with cmdCons := ptrAdd (2 ^ 20) m.cmdCons size })))

/-- OPEN of a 32-byte nonce on a mailbox without a session stores a challenge and answers the device nonce and the serial number.
PROVE with a proof that holds opens the session with next sequence number 1, consumes the challenge, clears the failure count
and answers the session id (a free value, log 7) and its own proof. PROVISION without an owner key stores the payload as the
key. ROTATE under a session whose confirmation verifies stores the new key. CHALLENGE_EXPIRY ends the challenge 1 s after OPEN;
LOCKOUT_EXPIRY ends the lock-out at its end. (02_host_commands.md; R43; R44; R46; R48) -/
def Obligations.SessionsOpenAndClose : Prop :=
  ∀ s mb, mb < 16 →
    (∀ tag c, Starts s mb tag 1 1 c → clean c 0 0 true = true → c.payload.length = 32 → (mbAt s mb).session = none →
      exec (.openSession mb tag) s = .next (finish (setMb (bump s 32) mb fun m =>
        { m with challenge := some ⟨c.payload, freeBytes s 32, m.cplBase, m.cplSize, s.time⟩ }) mb c 0
        (freeBytes s 32 ++ serialBytes))) ∧
    (∀ tag c ch key fields id, Starts s mb tag 1 2 c → clean c 0 0 true = true → c.payload.length = 48 → (mbAt s mb).session = none →
      (mbAt s mb).challenge = some ch → s.fw.ownerKey = some key → proofHolds s mb c.payload = true →
      fields = sessionFields mb ch (mbAt s mb).cplBase (mbAt s mb).cplSize → id = (freeWord s).setWidth 32 →
      exec (.prove mb tag) s = .next (finish (setMb (bump s 1) mb fun m =>
        { m with session := some ⟨id, 1, fields⟩, challenge := none, fails := 0, lockEnd := none }) mb c 0
        (le 4 id.toNat ++ hmac key (ascii "TK9-PROVE" ++ fields ++ le 4 id.toNat)))) ∧
    (∀ tag c, Starts s mb tag 1 4 c → clean c 0 0 true = true → c.payload.length = 48 → s.fw.ownerKey = none →
      exec (.provision mb tag) s = .next (finish (fbEntry { s with fw := { s.fw with ownerKey := some c.payload } } 18 0) mb c 0)) ∧
    (∀ tag c q key new, Starts s mb tag 1 5 c → clean c 0 0 true = true → c.payload.length = 96 → (mbAt s mb).session = some q →
      s.fw.ownerKey = some key → new = List.zipWith (· ^^^ ·) (c.payload.take 48) (hmac key (ascii "TK9-ROTATE" ++ q.fields)) →
      c.payload.drop 48 = hmac new (ascii "TK9-CONFIRM" ++ le 4 q.id.toNat) →
      exec (.rotate mb tag) s = .next (finish (fbEntry { s with fw := { s.fw with ownerKey := some new } } 18 0) mb c 0)) ∧
    (∀ ch, (mbAt s mb).challenge = some ch → exec (.challengeExpiry mb) s =
      .next (setMb (advance s (ch.time + 1000000000)) mb fun m => { m with challenge := none })) ∧
    (∀ t, (mbAt s mb).lockEnd = some t → exec (.lockoutExpiry mb) s =
      .next (setMb (advance s t) mb fun m => { m with lockEnd := none }))

/-- A well-formed PROVE on a mailbox without a session whose proof does not hold completes AUTH_FAILED; afterwards the mailbox has
no challenge and no session, its failure count is one higher, and from the third failure in a row on it is locked out for 1 s
doubled with each further failure, at most 64 s. (02_host_commands.md; R44) -/
def Obligations.ChallengeIsConsumed : Prop :=
  ∀ s mb tag c, s.host.mbs.length = 16 → Starts s mb tag 1 2 c → clean c 0 0 true = true → c.payload.length = 48 →
    (mbAt s mb).session = none → proofHolds s mb c.payload = false →
    ∃ t, exec (.prove mb tag) s = .next (finish t mb c stAuth) ∧ (mbAt t mb).challenge = none ∧ (mbAt t mb).session = none ∧
      (mbAt t mb).fails = (mbAt s mb).fails + 1 ∧
      (2 ≤ (mbAt s mb).fails → (mbAt t mb).lockEnd = some (s.time + 1000000000 * min 64 (2 ^ ((mbAt s mb).fails + 1 - 3)))) ∧
      (∀ k ≠ mb, mbAt t k = mbAt s k) ∧ t.fw = s.fw ∧ t.cores = s.cores ∧ t.dram = s.dram

/-- IDENTIFY answers the identity block, STATUS the device status, ECHO its payload; EVENT_MASK stores its argument; QUERY answers
the two slot entries (their layout is open, log 12); STAGE of the slot that does not run stores the image as STAGED; VERIFY
completes with the verdict on the image and makes a STAGED slot VERIFIED when it is good; ACTIVATE makes a VERIFIED slot the
active one for the next reset and records it in the field book. (02_host_commands.md; 19_telemetry_field_book.md; R49; R57; R58;
R458; R461; R504) -/
def Obligations.DeviceAndFirmwareCommands : Prop :=
  ∀ s mb tag c,
    (Starts s mb tag 2 1 c → clean c 0 0 false = true → exec (.identify mb tag) s = .next (finish s mb c 0 (identity s))) ∧
    (Starts s mb tag 2 2 c → clean c 0 0 false = true → exec (.status mb tag) s = .next (finish s mb c 0 (statusBytes s))) ∧
    (Starts s mb tag 2 3 c → clean c all64 0 false = true →
      exec (.eventMask mb tag) s = .next (finish { s with tel := { s.tel with mask := c.arg0 } } mb c 0)) ∧
    (Starts s mb tag 2 5 c → clean c 0 0 true = true → c.payload.length ≤ 2 ^ 20 →
      exec (.echo mb tag) s = .next (finish s mb c 0 c.payload)) ∧
    (Starts s mb tag 3 1 c → clean c 0 0 false = true →
      exec (.query mb tag) s = .next (finish s mb c 0 (slotEntry (fwSlotAt s 0) ++ slotEntry (fwSlotAt s 1)))) ∧
    (Starts s mb tag 3 2 c → clean c 1 0 true = true → c.payload.length ≤ fwSlotBytes → slotRuns s c.arg0.toNat = false →
      exec (.stage mb tag) s = .next (finish (setSlot s c.arg0.toNat ⟨.staged, c.payload⟩) mb c 0)) ∧
    (∀ x, x = fwSlotAt s c.arg0.toNat → Starts s mb tag 3 3 c → clean c 1 0 false = true →
      exec (.verify mb tag) s = .next (if imVerdict s.fw.minSec x.image = 0 then
        finish (setSlot s c.arg0.toNat (if x.state = .staged then ⟨.verified, x.image⟩ else x)) mb c 0
        else finish s mb c (imVerdict s.fw.minSec x.image))) ∧
    (∀ t, t = activateSlot s c.arg0.toNat → Starts s mb tag 3 4 c → clean c 1 1 false = true → slotRuns s c.arg0.toNat = false →
      (fwSlotAt s c.arg0.toNat).state = .verified → c.arg1 = 0 → exec (.activate mb tag) s =
        .next (finish (fbEntry t 15 (versions (fwSlotAt t c.arg0.toNat).image)) mb c 0) ∧ t.fw.next = c.arg0.toNat)

/-- With no failed channel and no channel held by a survey window (a request to such a channel waits, log 116), WRITE stores its
payload, FILL the pattern byte by address modulo 8, and WRITE_TENSOR every padded tile and its seal, in memory that exists and
is not reserved; READ answers the bytes of a readable range without poison; READ_TENSOR answers the tiles when every seal
agrees. WINDOW_GRANT adds the window; WINDOW_REVOKE removes it and ends a telemetry stream into it. (02_host_commands.md; R51;
R53; R55; R56) -/
def Obligations.MemoryCommands : Prop :=
  ∀ s mb tag c, s.hbm.failed = [] → s.lpddr.failed = [] → s.hbm.held = [] →
    (Starts s mb tag 4 1 c → clean c all64 0 true = true → c.payload ≠ [] → freeRange s c.arg0.toNat c.payload.length = true →
      exec (.write mb tag) s = .next (finish (writeLocal s c.arg0.toNat c.payload) mb c 0)) ∧
    (Starts s mb tag 4 2 c → clean c all64 all64 false = true → c.arg1.toNat ≠ 0 → c.arg1.toNat ≤ 2 ^ 32 →
      readable s c.arg0.toNat c.arg1.toNat = true → s.poison = [] →
      exec (.read mb tag) s = .next (finish (touchRead s c.arg0.toNat c.arg1.toNat) mb c 0 (readDiag s c.arg0.toNat c.arg1.toNat))) ∧
    (Starts s mb tag 4 3 c → clean c all64 all64 true = true → c.payload.length = 8 → c.arg1.toNat ≠ 0 →
      freeRange s c.arg0.toNat c.arg1.toNat = true → exec (.fill mb tag) s = .next (finish (writeLocal s c.arg0.toNat
        ((List.range c.arg1.toNat).map fun i => c.payload.getD ((c.arg0.toNat + i) % 8) 0)) mb c 0)) ∧
    (∀ d, d = parseDesc (c.payload.take 32) → Starts s mb tag 4 4 c → clean c 0 0 true = true → tensorCheck s d = none →
      c.payload.length = 32 + (tileGrid d).length * d.own →
      exec (.writeTensor mb tag) s = .next (finish (((tileGrid d).mapIdx fun k ij => (k, ij)).foldl (fun s x =>
        putTensorTile s d x.2 ((c.payload.drop (32 + x.1 * d.own)).take d.own)) s) mb c 0)) ∧
    (∀ d bs, d = parseDesc c.payload → Starts s mb tag 4 5 c → clean c 0 0 true = true → c.payload.length = 32 →
      tensorCheck s d = none → readTiles s d (unitId 8 2 mb) (tileGrid d) [] = (bs, none) →
      exec (.readTensor mb tag) s = .next (finish (touchTiles s d (tileGrid d)) mb c 0 bs)) ∧
    (∀ w len, w = bits c.arg1.toNat 63 60 → len = bits c.arg1.toNat 47 0 → Starts s mb tag 4 6 c →
      clean c all64 0xF000FFFFFFFFFFFF false = true → c.arg0.toNat % 4096 = 0 → len % 4096 = 0 → (∀ x ∈ s.host.windows, x.num ≠ w) →
      exec (.windowGrant mb tag) s = .next (finish { s with host := { s.host with
        windows := s.host.windows ++ [⟨w, mb, c.arg0.toNat, len⟩] } } mb c 0)) ∧
    (∀ w, w = bits c.arg1.toNat 63 60 → Starts s mb tag 4 7 c → clean c 0 0xF000000000000000 false = true →
      (∀ x ∈ s.host.windows, x.num = w → x.mb = mb) →
      exec (.windowRevoke mb tag) s = .next (finish (revokeWindows s fun x => x.num = w) mb c 0))

/-- ABORT of one outstanding command that has not started ends it ABORTED and completes OK with 1 in RESULT0; an ABORT without a
target completes NOTHING_TO_ABORT; one whose targets all end at once, of whatever kind, completes with their number, and
otherwise it waits with the tags of those left (an ABORT of all passes over ABORT and CLOSE, log 144). ABORT_COMPLETE ends a
waiting ABORT, once the last packet of its copies can land no more and every target has its record, with their number; until
then it changes nothing. CLOSE of a mailbox with no other command revokes its windows, completes OK and closes the session.
Where a read of host memory has no completion within 50 ms, a TIER_COPY into LPDDR, a VIS_PULL, started or not, and a RESTORE
from a window end HOST_TIMEOUT, AER logs it and CPL_TIMEOUT is set; the copy's destination and the sides of the restore are
undefined, a ring stays as it was. TIER_COPY from host memory to LPDDR, with no failed and no held channel, completes with the
window's bytes stored. (02_host_commands.md; 12_memory_tiers.md; 17_vision_front_end.md; R28; R46; R59; R60; R61; R288; R404;
R421) -/
def Obligations.AbortsAndTimeouts : Prop :=
  ∀ s mb tag c, mb < 16 → s.pwr.standby = false →
    (∀ x, findCmd s mb tag = some c → c.cls = 11 → c.whole = true → c.started = false → clean c all64 0x10F false = true →
      c.arg1 = BitVec.ofNat 64 mb → findCmd s mb c.arg0 = some x → isAbortOrClose x = false → x.started = false → ending x = false →
      exec (.abort mb tag) s = .next (finish (finish (chainSpoil s x) mb x stAborted) mb c 0 [] 1)) ∧
    (findCmd s mb tag = some c → c.cls = 11 → c.whole = true → c.started = false → clean c all64 0x10F false = true →
      c.arg1 = BitVec.ofNat 64 mb → findCmd s mb c.arg0 = none →
      exec (.abort mb tag) s = .next (finish s mb c stNothing [] 0)) ∧
    (∀ b ts n t left, findCmd s mb tag = some c → c.cls = 11 → c.whole = true → c.started = false → clean c all64 0x10F false = true →
      b = bits c.arg1.toNat 3 0 → (mb = 0 ∨ b = mb) → (c.arg1.getLsbD 8 = true → c.arg0 = 0) → ts = abortTargets s b c →
      (∀ x ∈ ts, isAbortOrClose x = false) → n = (ts.filter fun x => !decided s b x).length → t = ts.foldl (fun s x => endTarget s b x) s →
      left = (ts.map (·.tag)).filter (fun x => (findCmd t b x).isSome) → exec (.abort mb tag) s = .next
        (if left = [] then finish t mb c (if n = 0 then stNothing else 0) [] (BitVec.ofNat 64 n)
        else markStarted t mb c.tag ([0, n, b] ++ left.map (·.toNat)))) ∧
    (∀ b n tags t, findCmd s mb tag = some c → c.cls = 11 → c.started = true → c.aux = [0, n, b] ++ tags →
      t = (tags.map (BitVec.ofNat 64)).foldl (fun s x => endStopped s b x) (advance s (copyLimits s b (tags.map (BitVec.ofNat 64)))) →
      ((∀ x ∈ tags, findCmd t b (BitVec.ofNat 64 x) = none) →
        exec (.abortComplete mb tag) s = .next (finish t mb c (if n = 0 then stNothing else 0) [] (BitVec.ofNat 64 n))) ∧
      (∀ x ∈ tags, (findCmd t b (BitVec.ofNat 64 x)).isSome = true → exec (.abortComplete mb tag) s = .next s)) ∧
    (Starts s mb tag 1 3 c → clean c 0 0 false = true → (mbAt s mb).cmds = [c] → c.tag = tag →
      exec (.closeSession mb tag) s =
        .next (setMb (finish (revokeWindows s fun w => w.mb = mb) mb c 0) mb fun m => { m with session := none })) ∧
    (∀ t, t = advance s (s.time + 50000000) →
      (Starts s mb tag 8 4 c → c.payload.length = 24 → windowHolds s (field c.payload 1 1) (field c.payload 8 8) (field c.payload 16 8) = true →
        exec (.hostReadTimeout mb tag) s = .next (timeoutNoted (finish t mb c stHostTimeout))) ∧
      (Starts s mb tag 10 0x44 c → copyFormOk c.payload = true → copyRefused s c.payload = none → cpHost c.payload = true →
        cpOut c.payload = false →
        exec (.hostReadTimeout mb tag) s = .next (timeoutNoted (finish (havocLocal t (cpNear c.payload) (cpLen c.payload)) mb c stHostTimeout))) ∧
      (Starts s mb tag 7 8 c → restoreReadsHost s c = true →
        exec (.hostReadTimeout mb tag) s = .next (timeoutNoted (finish (restoreLost t) mb c stHostTimeout))) ∧
      (∀ n, findCmd s mb tag = some c → c.cls = 8 → c.code = 4 → c.started = true → n = nth c.aux 0 →
        (visAt s n).waits.contains (mb, tag) = true → exec (.hostReadTimeout mb tag) s = .next (pumpVis (timeoutNoted (finish
          (setVis t n fun v => { v with waits := v.waits.filter fun w => w ≠ (mb, c.tag) }) mb c stHostTimeout)) n))) ∧
    (∀ p, p = c.payload → Starts s mb tag 10 0x44 c → clean c 0 0 true = true → copyFormOk p = true → copyNearOk s p = true →
      cpHost p = true → cpOut p = false → (s.host.windows.any fun w => w.num = cpWindow p) = true →
      windowHolds s (cpWindow p) (cpFar p) (cpLen p) = true → s.hbm.failed = [] → s.lpddr.failed = [] → s.hbm.held = [] →
      exec (.tierCopy mb tag) s = .next (finish (writeLocal s (cpNear p)
        (readRun s.host.mem (windowAddr s (cpWindow p) (cpFar p)) (cpLen p))) mb c 0))

/-- On a mailbox that serves, a write to CPL_CONSUMER that would release bytes not yet passed with CPL_PRODUCER, whose offset lies
at or beyond the ring size, or with nonzero bits [5:0] or [31:27], only sets BAD_RELEASE; any other value becomes CPL_CONSUMER,
and the held records are written, in order, as far as they have room, each as a due record of the mailbox. (R475) -/
def Obligations.CompletionReleaseIsChecked : Prop :=
  ∀ s mb v size, mb < 16 → s.pwr.endpoint = true → serving s mb = true →
    size = (if (mbAt s mb).cplSize = 0 then 0 else 2 ^ (mbAt s mb).cplSize) →
    (bits v.toNat 31 27 ≠ 0 ∨ bits v.toNat 5 0 ≠ 0 ∨ size ≤ ptrOff v ∨
        ptrDist size (mbAt s mb).cplProd (mbAt s mb).cplCons < ptrDist size (mbAt s mb).cplProd v →
      exec (.cplConsumerWrite mb v) s = .next (setMbStatus s mb sBadRelease)) ∧
    (bits v.toNat 31 27 = 0 → bits v.toNat 5 0 = 0 → ptrOff v < size →
        ptrDist size (mbAt s mb).cplProd v ≤ ptrDist size (mbAt s mb).cplProd (mbAt s mb).cplCons →
      exec (.cplConsumerWrite mb v) s = .next ((mbAt s mb).held.foldl (fun s r => postRecord s mb r)
        (setMb (setMb s mb fun m => { m with cplCons := v }) mb fun m => { m with held := [] }))) ∧
    (bits v.toNat 31 27 = 0 → bits v.toNat 5 0 = 0 → ptrOff v < size → s.host.mbs.length = 16 →
        ptrDist size (mbAt s mb).cplProd v ≤ ptrDist size (mbAt s mb).cplProd (mbAt s mb).cplCons → ∃ t,
      exec (.cplConsumerWrite mb v) s = .next t ∧ (mbAt t mb).cplCons = v ∧
      ∃ n ≤ (mbAt s mb).held.length, (mbAt t mb).held = (mbAt s mb).held.drop n)

/-- With the endpoint up and the mailbox serving: a completion ring register takes its value and both completion pointers return to
zero on a mailbox with no session, command or held record; IRQ_HOLDOFF takes at most 10,000 µs; a mailbox status write clears
the bits written 1; the end of a hold-off raises the mailbox's vector once; an error status write clears its bits; a read of
TIME_LO latches TIME_HI; a BAR2 write of 4 aligned bytes reaches its register and one that R469 refuses sets ACCESS_ERROR;
clearing the Function Mask sends the pending vectors; and the end of a vector's 10 µs spacing raises it once for what waited.
(20_register_map.md; R469; R472; R473; R476; R478; R480; R481; R482; R458) -/
def Obligations.RegisterWritesComplete : Prop :=
  ∀ s, s.pwr.endpoint = true →
    (∀ mb v, mb < 16 → serving s mb = true →
      ((mbAt s mb).session = none → (mbAt s mb).cmds = [] → (mbAt s mb).held = [] →
        exec (.cplRingConfig mb 0 v) s = .next (setMb s mb fun m => { m with
          cplBase := BitVec.ofNat 64 (2 ^ 32 * bits m.cplBase.toNat 63 32 + 4096 * bits v.toNat 31 12), cplProd := 0, cplCons := 0 }) ∧
        exec (.cplRingConfig mb 1 v) s = .next (setMb s mb fun m => { m with
          cplBase := BitVec.ofNat 64 (2 ^ 32 * v.toNat + bits m.cplBase.toNat 31 0), cplProd := 0, cplCons := 0 }) ∧
        (bits v.toNat 7 0 = 0 ∨ (20 ≤ bits v.toNat 7 0 ∧ bits v.toNat 7 0 ≤ 26) → exec (.cplRingConfig mb 2 v) s =
          .next (setMb s mb fun m => { m with cplSize := bits v.toNat 7 0, cplProd := 0, cplCons := 0 }))) ∧
      ((mbAt s mb).session ≠ none → (mbAt s mb).cmds = [] → (mbAt s mb).held = [] →
        exec (.cplRingConfig mb 0 v) s = .next (setMbStatus s mb sLockViolation)) ∧
      (bits v.toNat 15 0 ≤ 10000 → exec (.irqHoldoffWrite mb v) s = .next (setMb s mb fun m => { m with holdoff := bits v.toNat 15 0 })) ∧
      (10000 < bits v.toNat 15 0 → exec (.irqHoldoffWrite mb v) s = .next (setMbStatus s mb sConfigRefused)) ∧
      exec (.mailboxStatusClear mb v) s = .next (setMb s mb fun m => { m with status := m.status &&& ~~~v.setWidth 6 })) ∧
    (∀ mb t, mb < 16 → (mbAt s mb).irqWait = true → t = advance s ((mbAt s mb).irqLast.getD 0 + (mbAt s mb).holdoff * 1000) →
      exec (.irqHoldoffExpiry mb) s = .next (raiseVector (setMb t mb fun m => { m with irqWait := false, irqLast := some t.time }) mb)) ∧
    (∀ v, exec (.errorStatusClear v) s = .next { s with host := { s.host with errBits := s.host.errBits &&& ~~~(v >>> 16).setWidth 6 } }) ∧
    exec .timeLoRead s = .next { s with pwr := { s.pwr with timeHi := BitVec.ofNat 32 (s.time / 2 ^ 32) } } ∧
    (∀ v, exec (.registerWrite 0x2004 4 v) s =
      .next { s with host := { s.host with errEnable := (v.setWidth 32 : Word).setWidth 22 } }) ∧
    (∀ off size v, ¬ (size = 4 ∧ off % 4 = 0) → ¬ (size = 8 ∧ off % 8 = 0) → exec (.registerWrite off size v) s = .next (setError s 4)) ∧
    exec .functionMaskWrite s = .next (sendPending { s with host := { s.host with funcMask := false } }) ∧
    (∀ t, s.host.evWait = true → t = advance s (s.host.evLast.getD 0 + 10000) → exec (.vectorSpacingExpiry 16) s =
      .next (raiseVector { t with host := { t.host with evWait := false, evLast := some t.time } } 16)) ∧
    (∀ t, s.host.errWait = true → t = advance s (s.host.errLast.getD 0 + 10000) → exec (.vectorSpacingExpiry 17) s =
      .next (raiseVector { t with host := { t.host with errWait := false, errLast := some t.time } } 17))

/-- Completing an outstanding command with a response of at most 64 KiB takes the command off its mailbox, raises ORDINAL by one,
and, where no record is held and the ring has room, writes the record at the producer pointer (or at the start of the ring when
it does not fit before its end), and moves the producer pointer past it; otherwise the record joins the held ones and not one
byte of host memory changes. No other mailbox, no core and no memory of the module changes. (02_host_commands.md;
20_register_map.md; R41; R42; R474) -/
def Obligations.RecordsReachTheRing : Prop :=
  ∀ s mb c status pay r0 r1, s.host.mbs.length = 16 → mb < 16 → pay.length ≤ 65536 → c.flags.getLsbD 0 = false →
    ∀ r, r = ⟨c.cls, c.code, status, c.tag, c.seq, 0, r0, r1, s.host.ordinal, false, false, pay⟩ →
    let t := finish s mb c status pay r0 r1
    t.host.ordinal = s.host.ordinal + 1 ∧ (∀ x ∈ (mbAt t mb).cmds, x.tag ≠ c.tag) ∧
    (∀ k ≠ mb, mbAt t k = mbAt s k) ∧ t.cores = s.cores ∧ t.dram = s.dram ∧ t.ctl = s.ctl ∧ t.recs = s.recs ∧ t.time = s.time ∧
    ((mbAt s mb).held = [] → hasRoom (mbAt s mb) r = true →
      (mbAt t mb).held = [] ∧
      (mbAt t mb).cplProd = mkPtr (2 ^ (mbAt s mb).cplSize) ((recordPlace (mbAt s mb) r).1 + recordLen r) (recordPlace (mbAt s mb) r).2.1 ∧
      readRun t.host.mem ((mbAt s mb).cplBase.toNat + (recordPlace (mbAt s mb) r).1) 64 =
        recordHeader mb (!(recordPlace (mbAt s mb) r).2.1) r ∧
      readRun t.host.mem ((mbAt s mb).cplBase.toNat + (recordPlace (mbAt s mb) r).1 + 64) pay.length = pay) ∧
    ((mbAt s mb).held ≠ [] ∨ hasRoom (mbAt s mb) r = false →
      (mbAt t mb).held = (mbAt s mb).held ++ [r] ∧ t.host.mem = s.host.mem)

/-- With 54 V present and MOD_RESET_N released, the function-reset command of an endpoint that is up performs the function reset;
the warm-reset command, the sideband and the watchdog (after 2 s) perform a warm reset from any stage but POWER unless a power
fault is in force; the cold-reset command and the sideband perform a cold reset, as do the arrival of 54 V and the release of
MOD_RESET_N; MOD_RESET_N low and an input below 40.0 V take the rails down; RESET completes OK and then performs the level it
names. The sideband clears TRIP and THERM_N and sets the board limit within 100 to 200. What each level leaves is the statement
ResetLevelsLoseAndKeep. (18_power_clocks_reset.md; 02_host_commands.md; 21_module_hardware.md; R62; R64; R432; R433; R448; R453;
R491; R492; R507) -/
def Obligations.ResetsComplete : Prop :=
  (∀ s source, s.pwr.powered = true → s.pwr.pinHeld = false →
    (source < 4 → s.pwr.endpoint = true → exec (.functionReset source) s = .next (functionReset s source)) ∧
    (source < 4 → s.pwr.fault = false → s.pwr.stage ≠ .power → exec (.warmReset source) s = .next (warmReset s source)) ∧
    (source < 3 → exec (.coldReset source) s = .next (coldReset s source)) ∧
    exec .sidebandColdReset s = .next (coldReset s 2) ∧
    (s.pwr.fault = false → s.pwr.stage ≠ .power → exec .sidebandWarmReset s = .next (warmReset s 1) ∧
      (s.pwr.stage ≠ .hold → exec .sysenWatchdogExpiry s = .next (warmReset (advance s (s.time + 2000000000)) 2))) ∧
    exec .modResetNAssert s = .next (pinLow s) ∧ (∀ mv, exec (.powerLoss mv) s = .next (if mv < 40000 then powerLoss s else s))) ∧
  (∀ s mb tag c, Starts s mb tag 2 4 c → clean c all64 0 false = true → (c.arg0 = 1 → exec (.resetCmd mb tag) s =
      .next (warmReset (finish s mb c 0) 0)) ∧ (c.arg0 = 2 → exec (.resetCmd mb tag) s = .next (functionReset (finish s mb c 0) 0))) ∧
  (∀ s, s.pwr.powered = false → exec .powerArrival s = .next (powerArrival s)) ∧
  (∀ s, s.pwr.powered = true → s.pwr.pinHeld = true →
    exec .modResetNRelease s = .next (coldReset { s with pwr := { s.pwr with pinHeld := false } } 1)) ∧
  (∀ s, s.pwr.powered = true →
    exec .sidebandTripClear s = .next { s with pwr := { s.pwr with trip := false, thermN := false } } ∧
    ∀ v : Byte, exec (.sidebandLimitWrite v) s = if 100 ≤ v.toNat ∧ v.toNat ≤ 200 then
      .next { s with pwr := { s.pwr with boardLimit := v } } else .next s)

/-- A function reset leaves no session and no window, ORDINAL 0, LEVEL 2 and the source. A warm reset leaves every core dark and
without a launch, no slot record, no program, no job, no device number, ORDINAL 0, LEVEL 1 and its source; stage HOLD after a
thermal trip, and (with no command outstanding) stage ROM otherwise; with no command outstanding, no move in flight and no
engine decoding, HBM and LPDDR keep every byte. A cold reset leaves stage POWER with the endpoint down, empty HBM, LPDDR and
on-chip memories, LEVEL 0, and keeps module time, the owner key, the firmware slots and the snapshot slots. Loss of 54 V leaves
the module without power; its arrival starts module time from 0. (18_power_clocks_reset.md; 02_host_commands.md; R62; R433;
R448; R449; R463; R472) -/
def Obligations.ResetLevelsLoseAndKeep : Prop :=
  (∀ s source, let t := functionReset s source
    t.host.ordinal = 0 ∧ t.host.windows = [] ∧ (∀ m ∈ t.host.mbs, m.session = none ∧ m.cmds = [] ∧ m.held = []) ∧
    t.pwr.level = 2 ∧ t.pwr.source = source) ∧
  (∀ s source, let t := warmReset s source
    (∀ c ∈ t.cores, c.power = .dark ∧ c.launch = none ∧ c.moves = []) ∧ t.recs = [] ∧ t.programs = [] ∧ t.job = Job.reset ∧
    t.host.ordinal = 0 ∧ t.pwr.level = 1 ∧ t.pwr.source = source ∧ t.fab.device = none ∧ (source = 3 → t.pwr.stage = .hold) ∧
    ((∀ m ∈ s.host.mbs, m.cmds = []) → source ≠ 3 → s.pwr.stage ≠ .hold → t.pwr.stage = .rom) ∧
    ((∀ m ∈ s.host.mbs, m.cmds = []) → (∀ c ∈ s.cores, c.moves = []) → (∀ e ∈ s.vis.engines, e = none) → t.dram = s.dram)) ∧
  (∀ s source, let t := coldReset s source
    t.pwr.stage = .power ∧ t.pwr.endpoint = false ∧ t.dram = [] ∧ t.ctl = [] ∧ t.recs = [] ∧ t.poison = [] ∧ t.pwr.level = 0 ∧
    t.time = s.time ∧ t.fw.ownerKey = s.fw.ownerKey ∧ t.fw.slots = s.fw.slots ∧ t.fw.minSec = s.fw.minSec ∧ t.res.slots = s.res.slots ∧
    (∀ c ∈ t.cores, c.power = .dark ∧ c.launch = none)) ∧
  (∀ s, (powerLoss s).pwr.powered = false ∧ (powerLoss s).dram = [] ∧ (powerArrival s).time = 0 ∧ (powerArrival s).pwr.powered = true)

/-- With 54 V present, MOD_RESET_N released and no power fault: stage POWER brings up nine rails, both clocks at 0.80 GHz and the
endpoint; stage ROM boots the active slot, or the other one as fallback, or ends in RECOVERY; stage FIRMWARE takes the image's
version and level; stage MEMORY maps and trains channels after a cold reset (what training finds is given, log 3) and ends
self-refresh after a warm one; stage CORES lets tested cores rejoin and fences the failed ones; stage FABRIC trains the near
ports; stage FLASH marks torn slots; READY follows; and in a thermal hold the sensors are read, and boot goes on at stage ROM
once each of them is 10 °C below its throttle limit. (18_power_clocks_reset.md; R434; R435; R443; R449; R450; R451; R487) -/
def Obligations.BootStagesAdvance : Prop :=
  ∀ s, s.pwr.powered = true → s.pwr.pinHeld = false → s.pwr.fault = false →
    (s.pwr.stage = .power → exec .bootPower s = .next { s with pwr := { s.pwr with
      stage := .rom, rails := 9, endpoint := true, clock0 := 800, clock1 := 800 } }) ∧
    (s.pwr.stage = .rom → exec .bootRom s = .next
      (if imVerdict s.fw.minSec (fwSlotAt s s.fw.next).image = 0 then
        { s with fw := { s.fw with running := s.fw.next, fallback := false }, pwr := { s.pwr with stage := .firmware } }
      else if imVerdict s.fw.minSec (fwSlotAt s (1 - s.fw.next)).image = 0 then
        { s with fw := { s.fw with running := 1 - s.fw.next, fallback := true }, pwr := { s.pwr with stage := .firmware } }
      else { s with pwr := { s.pwr with stage := .recovery } })) ∧
    (s.pwr.stage = .firmware → exec .bootFirmware s = .next (bootFirmware s)) ∧
    (∀ hbm lpddr lanes, (∀ c ∈ hbm, c < 384) → (∀ c ∈ lpddr, c < 64) → (∀ x ∈ lanes, x.1 < 384 ∧ x.2.1 < 2 ∧ x.2.2 < 37) →
      s.pwr.stage = .memory → exec (.bootMemory hbm lpddr lanes) s = .next (if s.pwr.level = 1 then setStage (leaveRefresh s) .fabric
        else setStage (lpddr.foldl lpddrFail (lanes.foldl laneFails (hbm.foldl hbmFail (mapLists (growMapout s))))) .cores)) ∧
    (∀ failed, (∀ n ∈ failed, n < 152) → s.pwr.stage = .cores → exec (.bootCores failed) s =
      .next (setStage (failed.foldl (fun s n => fenceCore s n 2) (rejoin s)) .fabric)) ∧
    (s.pwr.stage = .fabric → exec .bootFabric s = .next (setStage ((List.range 36).foldl trainPort (powerOptics s true)) .flash)) ∧
    (s.pwr.stage = .flash → exec .bootFlash s = .next { s with
      res := { s.res with slots := s.res.slots.map fun x => if x.state = 1 then { x with state := 3 } else x }
      pwr := { s.pwr with mounted := true } }) ∧
    (s.pwr.stage = .flash → s.pwr.mounted = true → exec .bootReady s = .next { s with pwr := { s.pwr with stage := .ready } }) ∧
    (∀ temps u, u = readSensors s temps → s.pwr.stage = .hold → exec (.thermalHoldRelease temps) s = .next
      (if (∀ x ∈ sensors u, x.2 ≤ (sensorLimits u x.1).throttle - 100) then
        { u with pwr := { u.pwr with clock0 := 800, clock1 := 800, stage := .rom } } else u))

/-- With 54 V present, and the sensors' and the input's measures given (log 3): a power sample comes 10 µs after the last one,
stores the measures, adds to the energy count, reads the sensors, and steps both running clocks down 25 MHz (not below 0.80
GHz), with the power throttle in force, exactly when an average exceeds its limit; a clock above the cap glides down by the same
step. A clock raise 1 ms later steps them up, to the cap at most, exactly when both averages are below 0.95 of their limits and
no thermal throttle holds. With all rails up the current limit is noted and counted, halves both clocks for 100 µs and lets them go. 1 ms later a thermal throttle reads the
sensors and steps down the clock of each die for which a throttle holds. 100 µs of the input outside 48 to 58 V open an
excursion and 100 µs within it close it, count it and put its voltage in the histogram. A fault of a stage, the input below 46 V
for 10 ms or above 60 V for 100 µs, with no fault in force, sets TRIP, is counted and recorded, drops every rail but PILOT and
holds until a cold reset. With the module running, a sensor at its trip limit, or a clock at 0.80 GHz for 1 s with a throttle
limit exceeded, sets TRIP, stops the clocks, turns the optics off and ends in a warm reset of source 3. (That a reading falls on
its row, and that TRIP and a throttle queue an in-band interrupt, are logs 3 and 106.) A sensor reading sets a die's throttle
exactly when a sensor that acts on it (its own, its six stacks; for hub, LPDDR, NAND, optics, stages and inlet both dies)
exceeds its throttle limit, or held before and is not yet 2 °C below it; limits are the class's, lowered by an optic's own
thresholds; overWarn is the worst excess over a warning limit in whole degrees, rounded up; a clock at 0.80 GHz over a throttle
limit is timed from the first such reading; nothing else changes. An optic is read only where one is powered (log 111).
(18_power_clocks_reset.md; 21_module_hardware.md; R434; R435; R440; R441; R442; R443; R453; R459; R492; R496) -/
def Obligations.PowerEventsComplete : Prop :=
  (∀ s, s.pwr.powered = true →
    (∀ mv a1 a10 temps t u high, t = advance s (s.pwr.lastSample + 10000) →
      u = readSensors { t with pwr := { t.pwr with
        mv := mv, avg1s := a1, avg10ms := a10, lastSample := t.time,
        energy := t.pwr.energy + a10 * (max (s.pwr.lastSample + 10000) s.time - s.pwr.lastSample) } } temps →
      (high = true ↔ 1000 * sustained u < a1 ∨ 1100 * sustained u < a10) →
      exec (.powerSample mv a1 a10 temps) s = .next (setPowerThrottle (watchLow { u with pwr := { u.pwr with
        clock0 := if high = true ∨ u.pwr.cap < u.pwr.clock0 then (if u.pwr.clock0 = 0 then 0 else max 800 (u.pwr.clock0 - 25)) else u.pwr.clock0
        clock1 := if high = true ∨ u.pwr.cap < u.pwr.clock1 then (if u.pwr.clock1 = 0 then 0 else max 800 (u.pwr.clock1 - 25))
          else u.pwr.clock1 } }) high)) ∧
    (∀ t, t = advance s (s.time + 1000000) → exec .clockRaise s = .next
      (if t.pwr.avg1s < 950 * sustained t ∧ t.pwr.avg10ms < 1045 * sustained t ∧ t.pwr.therm0 = false ∧ t.pwr.therm1 = false then
        watchLow { t with pwr := { t.pwr with
          clock0 := if t.pwr.clock0 = 0 then 0 else max t.pwr.clock0 (min t.pwr.cap (t.pwr.clock0 + 25))
          clock1 := if t.pwr.clock1 = 0 then 0 else max t.pwr.clock1 (min t.pwr.cap (t.pwr.clock1 + 25)) } }
      else t)) ∧
    (∀ t u, t = countUp (noteThrottle s { s with pwr := { s.pwr with divider := some s.time, curLimit := some s.time } }) cCurrent 1 →
      u = advance (throttleEvent t true false) (s.time + 100000) → s.pwr.rails = 9 →
      exec .currentLimit s = .next (throttleEvent { u with pwr := { u.pwr with divider := none } } false false)) ∧
    (∀ temps u, u = readSensors (advance s (s.time + 1000000)) temps → exec (.thermalThrottle temps) s = .next
      (watchLow { u with pwr := { u.pwr with
        clock0 := if u.pwr.therm0 = true ∧ u.pwr.clock0 ≠ 0 then max 800 (u.pwr.clock0 - 25) else u.pwr.clock0
        clock1 := if u.pwr.therm1 = true ∧ u.pwr.clock1 ≠ 0 then max 800 (u.pwr.clock1 - 25) else u.pwr.clock1 } })) ∧
    (∀ mv t, t = advance s (s.time + 100000) → exec (.inputExcursion mv) s = .next
      (if s.pwr.excursion = false ∧ (mv < 48000 ∨ 58000 < mv) then { t with pwr := { t.pwr with mv := mv, excursion := true } }
      else if s.pwr.excursion = true ∧ 48000 ≤ mv ∧ mv ≤ 58000 then
        histCount { t with pwr := { t.pwr with mv := mv, excursion := false, excursions := t.pwr.excursions ++ [t.time] } } 20
          ((t.pwr.mv - 46000) / 500)
      else s)) ∧
    (s.pwr.pinHeld = false → s.pwr.fault = false →
      (∀ rail mv, rail ≠ 0 → rail < 10 → exec (.powerFault rail mv) s = .next (powerFault s)) ∧
      (∀ mv, exec (.powerFault 0 mv) s = .next (if mv < 46000 then powerFault (advance s (s.time + 10000000))
        else if 60000 < mv then powerFault (advance s (s.time + 100000)) else s)) ∧
      (∀ temps u, u = readSensors s temps → s.pwr.stage ≠ .power → exec (.thermalTrip temps) s = .next
        (if (∃ x ∈ sensors u, (sensorLimits u x.1).trip ≤ x.2) then tripNow u
        else match u.pwr.lowSince with
          | some t => tripNow (advance u (t + 1000000000))
          | none => u)))) ∧
  (∀ s, let u := powerFault s
    u.pwr.fault = true ∧ u.pwr.trip = true ∧ u.pwr.thermN = true ∧ u.pwr.rails = 1 ∧ u.pwr.endpoint = false ∧ u.pwr.stage = .power ∧
    u.dram = [] ∧ u.time = s.time ∧ (s.pwr.trip = false → u.pwr.ibis = s.pwr.ibis ++ [(1, s.time)])) ∧
  (∀ s t, t = countUp (fbEntry (raiseTrip s) 13 0) cTrip 1 →
    tripNow s = warmReset (powerOptics { t with pwr := { t.pwr with clock0 := 0, clock1 := 0, lowSince := none } } false) 3) ∧
  ∀ s temps, let u := readSensors s temps
    (∀ die, (if die = 0 then u.pwr.therm0 else u.pwr.therm1) = true ↔ ∃ x ∈ sensors u, (sensorDies x.1).contains (min die 1) = true ∧
      ((sensorLimits u x.1).throttle < x.2 ∨ (x.1 ∈ s.pwr.hot ∧ (sensorLimits u x.1).throttle - 20 < x.2))) ∧
    u.pwr.temps = temps ∧
    (∀ x ∈ sensors u, (x.2 - (sensorLimits u x.1).warning + 9) / 10 ≤ (u.pwr.overWarn : Int)) ∧
    (u.pwr.lowSince.isSome = true ↔ (s.pwr.clock0 = 800 ∨ s.pwr.clock1 = 800) ∧
      ∃ x ∈ sensors u, (sensorLimits u x.1).throttle < x.2) ∧
    (∀ x : SensorClass × Nat, (sensorLimits s x).throttle ≤ (classLimits x.1).throttle ∧ (sensorLimits s x).trip ≤ (classLimits x.1).trip ∧
      ∀ o, x.1 = .optics → (farAt s x.2).own = some o → (sensorLimits s x).throttle ≤ o.throttle) ∧
    u.pwr.clock0 = s.pwr.clock0 ∧ u.pwr.clock1 = s.pwr.clock1 ∧ u.pwr.cap = s.pwr.cap ∧ u.pwr.stage = s.pwr.stage ∧ u.time = s.time ∧
    u.cores = s.cores ∧ u.dram = s.dram ∧ u.ctl = s.ctl ∧ u.recs = s.recs ∧ u.job = s.job ∧ u.fab = s.fab ∧ u.far = s.far

/-- PWR_QUERY answers the power status; PWR_LIMIT sets the host limit and the clock cap within their ranges and answers PWR_RANGE
outside them; CORE_STATE applies its request to every core of its mask, or answers PWR_STATE when one of them cannot take it;
CORE_FENCE with IMMEDIATE, or outside a step, fences the core at once, within a step it waits for the end of the step, and it
answers PWR_STATE for a core that is fenced or the last of a group; CORE_RETEST that passes marks the core for the next reset,
takes its corrected errors to 0 and records it, one that fails answers PWR_TEST (what the test finds is given, log 3);
HBM_MAPOUT stores a record in range, and answers the stored one without a payload; IDLE_TIMERS sets both times; STANDBY enters
standby when nothing runs and leaves it again. (18_power_clocks_reset.md; 11_hbm.md; 13_ewete_fabric.md; R109; R259; R440; R444;
R445; R446; R447; R506; R93) -/
def Obligations.PowerCommandsComplete : Prop :=
  ∀ s mb tag c,
    (Starts s mb tag 10 1 c → clean c 0 0 false = true → exec (.pwrQuery mb tag) s = .next (finish s mb c 0 (powerStatus s))) ∧
    (∀ limit cap, limit = c.arg0.toNat → cap = c.arg1.toNat → Starts s mb tag 10 2 c → clean c 0xFFFF 0xFFFF false = true →
      exec (.pwrLimit mb tag) s = .next
        (if (limit = 0 ∨ (1600 ≤ limit ∧ limit ≤ 3200)) ∧ (cap = 0 ∨ (800 ≤ cap ∧ cap ≤ 1850 ∧ cap % 25 = 0)) then
          finish (setLimits s limit cap) mb c 0 else finish s mb c stPwrRange)) ∧
    (∀ mask r ns, mask = field c.payload 0 20 → r = field c.payload 20 1 → ns = (List.range 152).filter (fun n => bit mask n) →
      Starts s mb tag 10 3 c → clean c 0 0 true = true → c.payload.length = 24 → mask < 2 ^ 152 → r ≤ 2 → sub c.payload 21 3 = zeros 3 →
      exec (.coreState mb tag) s = .next (if (∀ n ∈ ns, coreStateRefused s r n = false) then finish (ns.foldl (requestCore r) s) mb c 0
        else finish s mb c stPwrState)) ∧
    (∀ n, n = c.arg0.toNat → Starts s mb tag 10 4 c → clean c 0xFF 1 false = true → exec (.coreFence mb tag) s = .next
      (if 152 ≤ n then finish s mb c stPwrRange
      else if (coreAt s n).cause ≠ none ∨ emptiesGroup s n = true then finish s mb c stPwrState
      else if c.arg1.getLsbD 0 = true ∨ stepRuns s = false then finish (failEmptyGroups (fenceCore s n 4)) mb c 0
      else setCore (markStarted s mb c.tag [n]) n fun x => { x with deferred := x.deferred.or (some 4) })) ∧
    (∀ n, n = c.arg0.toNat → Starts s mb tag 10 5 c → clean c 0xFF 0 false = true →
      (152 ≤ n → ∀ pass, exec (.coreRetest mb tag pass) s = .next (finish s mb c stPwrRange)) ∧
      (n < 152 → (coreAt s n).cause = none → ∀ pass, exec (.coreRetest mb tag pass) s = .next (finish s mb c stPwrState)) ∧
      (∀ k t, n < 152 → (coreAt s n).cause = some k → t = setCore s n (fun c => { c with retested := true, corrected := 0 }) →
        exec (.coreRetest mb tag true) s = .next (finish (fbState (fbEntry t 2 (coreData t n k))) mb c 0) ∧
        exec (.coreRetest mb tag false) s = .next (finish s mb c stPwrTest))) ∧
    (Starts s mb tag 10 7 c → clean c 0 0 true = true →
      (c.payload = [] → exec (.hbmMapout mb tag) s = .next (finish s mb c 0 s.hbm.mapout)) ∧
      (c.payload.length = 48 → exec (.hbmMapout mb tag) s = .next
        (if moInRange c.payload = false then finish s mb c stPwrRange else if moClean c.payload = false then finish s mb c stMalformed
        else finish (storeMapout s c.payload) mb c 0 c.payload))) ∧
    (∀ d k, d = c.arg0.toNat → k = c.arg1.toNat → Starts s mb tag 10 8 c → clean c 0xFFFFFFFF 0xFFFFFFFF false = true →
      exec (.idleTimers mb tag) s = .next (if 10 ≤ d ∧ d ≤ 1000000 ∧ 1 ≤ k ∧ k ≤ 3600000 then
        finish { s with pwr := { s.pwr with dimAfter := d, darkAfter := k } } mb c 0 else finish s mb c stPwrRange)) ∧
    (Starts s mb tag 10 9 c → clean c 1 0 false = true →
      (c.arg0 = 1 → exec (.standby mb tag) s = .next (if s.pwr.standby = true then finish s mb c 0
        else if standbyOk s = true then finish (enterStandby s) mb c 0 else finish s mb c stPwrState)) ∧
      (c.arg0 = 0 → exec (.standby mb tag) s = .next (finish (if s.pwr.standby = true then leaveStandby s else s) mb c 0)))

/-- In stage READY outside standby: an enabled core that is not lit, or whose clock stands, lights (from the dark with everything at
core reset and an empty tile store); a lit idle core that is not held dims after the idle time and keeps its tile store, records
and program; a dimmed core outside the job's groups goes dark after the second time and loses its tile store; an idle lit core's
clock stops at once; while a move accesses its window a core neither dims nor stops its clock. An uncorrectable error in a core's own memories is logged as a seal fault of kind 4 (what the manual does
not say of it is a free value, log 118) and fences the core; the other immediate triggers fence it; either fails the entry of a
group it empties. 100 ms without a retired instruction fences a core with issued work and no wait; the corrected-error limit of
an hour (which hour is the model's choice, log 117) fences at once outside a step and at the end of the step within one. A
fenced core's launch starts again, from its first index, with its identity and its pairs of die and hub semaphores, on the
lowest idle enabled core of its die, unless it has consumed something, issued an atomic or a message, or is being aborted: then
it is lost; it waits while every enabled core of the die is busy. (18_power_clocks_reset.md; 04_cores_tile_store_seals.md; R436;
R437; R438; R445; R506; R93; R105; R106; R107; R108) -/
def Obligations.CoresChangeStateAndAreFenced : Prop :=
  (∀ s n, n < 152 → s.pwr.stage = .ready → s.pwr.standby = false → (coreAt s n).enabled = true →
    ((coreAt s n).power ≠ .lit ∨ (coreAt s n).clockOn = false → exec (.coreLight n) s = .next (lightCore s n)) ∧
    ((coreAt s n).power = .lit → (coreAt s n).launch = none → (coreAt s n).moves = [] → windowBusy s n = false → (coreAt s n).hold = false →
      exec (.coreDim n) s = .next (setCore (advance s ((coreAt s n).idleSince + s.pwr.dimAfter * 1000)) n fun c =>
        { c.wiped n with
          insns := c.insns, loaded := c.loaded, power := .dimmed, clockOn := false
          dimSince := (advance s ((coreAt s n).idleSince + s.pwr.dimAfter * 1000)).time })) ∧
    ((coreAt s n).power = .dimmed → inJob s n = false → exec (.coreDark n) s =
      .next (setCore (darkenStore (advance s ((coreAt s n).dimSince + s.pwr.darkAfter * 1000000)) n) n fun c =>
        { c.wiped n with power := .dark, clockOn := false }))) ∧
  (∀ s n, n < 152 → (coreAt s n).power = .lit → (coreAt s n).clockOn = true → (coreAt s n).launch = none → (coreAt s n).moves = [] →
    windowBusy s n = false → exec (.coreClockStop n) s = .next (setCore s n fun c => { c with clockOn := false })) ∧
  (∀ s n k m, n < 152 → k < 152 → m ∈ (coreAt s k).moves → windowCore m.src = some n ∨ windowCore m.dst = some n → s.cores.length = 152 →
    exec (.coreDim n) s = .next s ∧ exec (.coreClockStop n) s = .next s) ∧
  (∀ s n, n < 152 →
    ((coreAt s n).cause = none → exec (.immediateFence n 0) s =
      .next (failEmptyGroups (fenceCore (bump (logSeal s (ownErrorRecord s n)) 15) n 0))) ∧
    (∀ cause, cause = 1 ∨ cause = 4 → exec (.immediateFence n cause) s = .next (failEmptyGroups (fenceCore s n cause))) ∧
    (stuck (coreAt s n) = true → exec (.noRetireTimeout n) s =
      .next (failEmptyGroups (fenceCore (advance s ((coreAt s n).retired + 100000000)) n 1))) ∧
    (∀ anew known k t, anew = decide ((coreAt s n).hour + 3600000000000 ≤ s.time) → known = (if anew then 0 else (coreAt s n).corrected) →
      k = max 1 (65 - known) →
      t = setCore (countUp s cSram k) n (fun c => { c with corrected := known + k, hour := if anew then s.time else (coreAt s n).hour }) →
      (coreAt s n).cause = none → exec (.correctedErrorLimit n) s = .next (failEmptyGroups
        (if stepRuns s = true then setCore t n fun c => { c with deferred := c.deferred.or (some 3) } else fenceCore t n 3))) ∧
    (∀ l p die aborted, (coreAt s n).launch = some l → (coreAt s n).cause.isSome = true → (coreAt s n).stop = none →
      (coreAt s n).ending = none → die = (enabledCores s).filter (fun k => dieOf k = dieOf n) → findProg s l.prog = some p →
      aborted = (l.host.any fun h => (findCmd s h.1 h.2).any ending) →
      (∀ k place, die.find? (fun k => (coreAt s k).launch.isNone) = some k →
        place = (if l.sched.isSome then groupPlace s k else (l.rank, l.size)) → exec (.reissue n) s = .next
          (if l.bound = true ∨ aborted = true then loseLaunch s n l
          else launchCore (setInstance (clearLaunch s n) l fun x => { x with phase := .running k }) k p
            { l with pc := l.first, remote := false, localIn := false, own := [], seqs := [], rank := place.1, size := place.2
                     counted := l.counted.filter fun q => semScope q.1 ≠ 0 })) ∧
      (die.find? (fun k => (coreAt s k).launch.isNone) = none → exec (.reissue n) s = .next
        (if l.bound = true ∨ aborted = true ∨ die = [] then loseLaunch s n l else s))) ∧
    (∀ t, t = fenceCore s n 0 → (coreAt s n).cause = none → s.cores.length = 152 →
      (coreAt t n).enabled = false ∧ (coreAt t n).cause = some 0 ∧ (coreAt t n).power = .dark ∧ (coreAt t n).moves = []))

/-- A core that issues NOP, SETSH, LI, XALU or DLD goes on to the next index. SETSH puts IMM24 into SH; LI puts the sign-extended
IMM32 into XD, or with bit 51 puts IMM32 above the low half of XD; XALU puts the operation of its SUB field, over X[XA] and
X[XB] or the sign-extended IMM20, into XD; DLD puts 32 bytes of a sealed register tile of descriptors into D. X0 discards what
is written to it. Nothing else changes. BR goes to TARGET when its condition (EQ, NE, LT, GE, LTU, GEU, always) holds between
X[XA] and X[XB], and to the next index otherwise. LOOP subtracts 1 from XC and goes to TARGET while the result is not 0. BRF,
with no move in flight that could change the fetch status word, goes to TARGET when a flag it names is set. Nothing else
changes. (08_tile_program_isa.md; R174; R185; R186) -/
def Obligations.ScalarAndBranchInstructionsComplete : Prop :=
  ∀ i : Ctx,
    (Issues 0x01 i → exec (.nop i.n) i.s = i.ends i.s) ∧
    (Issues 0x04 i → exec (.setsh i.n) i.s =
      i.ends (setCore i.s i.n fun c => { c with sh := c.sh.set (i.f 55 52) (BitVec.ofNat 24 (i.f 23 0)) })) ∧
    (Issues 0x06 i → i.f 51 51 = 0 → exec (.li i.n) i.s =
      i.ends (putX i.s i.n (i.f 55 52) ((BitVec.ofNat 32 (i.f 31 0)).signExtend 64))) ∧
    (Issues 0x06 i → i.f 51 51 = 1 → exec (.li i.n) i.s =
      i.ends (putX i.s i.n (i.f 55 52) (BitVec.ofNat 64 (2 ^ 32 * i.f 31 0 + (i.x (i.f 55 52)).toNat % 2 ^ 32)))) ∧
    (∀ b, b = (if i.f 39 39 = 1 then (BitVec.ofNat 20 (i.f 19 0)).signExtend 64 else i.x (i.f 47 44)) →
      let a := i.x (i.f 51 48)
      ∀ r ∈ [(0, a + b), (1, a - b), (2, a * b), (3, a &&& b), (4, a ||| b), (5, a ^^^ b), (6, a <<< (b.toNat % 64)),
          (7, a >>> (b.toNat % 64)), (8, a.sshiftRight (b.toNat % 64)), (9, if a.toInt ≤ b.toInt then a else b),
          (10, if a.toInt ≤ b.toInt then b else a), (11, if a.toNat ≤ b.toNat then a else b),
          (12, if a.toNat ≤ b.toNat then b else a)],
        Issues 0x07 i → i.f 43 40 = r.1 → exec (.xalu i.n) i.s = i.ends (putX i.s i.n (i.f 55 52) r.2)) ∧
    (∀ p, p = i.slot (i.f 51 39) (i.f 38 35) → Issues 0x05 i → i.Free p 8 → i.Holds p regShape →
      exec (.dld i.n) i.s = i.ends (setCore (readSlots i.s i.n p 8) i.n fun c =>
        { c with d := c.d.set (i.f 55 52) (readRun i.s.ctl (tileBase i.n + 512 * p + 32 * i.f 34 28) 32) })) ∧
    (∀ a b, a = i.x (i.f 55 52) → b = i.x (i.f 51 48) →
      ∀ r ∈ [(0, decide (a = b)), (1, decide (a ≠ b)), (2, decide (a.toInt < b.toInt)), (3, decide (b.toInt ≤ a.toInt)),
          (4, decide (a.toNat < b.toNat)), (5, decide (b.toNat ≤ a.toNat)), (6, true)],
        Issues 0x08 i → i.f 47 45 = r.1 →
          exec (.br i.n) i.s = if r.2 then i.branches i.s (i.f 12 0) else i.ends i.s) ∧
    (∀ v, v = i.x (i.f 55 52) - 1 → Issues 0x09 i →
      exec (.loop i.n) i.s =
        if v = 0 then i.ends (putX i.s i.n (i.f 55 52) v) else i.branches (putX i.s i.n (i.f 55 52) v) (i.f 12 0)) ∧
    (Issues 0x0A i → ((i.f 49 49 = 1 ∨ i.f 48 48 = 1) → fswBusy i.c = false) →
      exec (.brf i.n) i.s =
        if (i.f 50 50 = 1 ∧ i.c.nf0.getLsbD 63 = true) ∨ (i.f 49 49 = 1 ∧ i.c.fsw.getLsbD 62 = true) ∨
            (i.f 48 48 = 1 ∧ i.c.fsw.getLsbD 63 = true)
        then i.branches i.s (i.f 12 0) else i.ends i.s)

/-- RDST puts the status word that SEL names into XD (the non-finite record, the fetch status word, the launch identity, the core
and group, the deadline, the module time, the wait limit, the job seed); selector 2 waits while a fetch is in flight; selector
6, the cycle count, is a free value (the model's choice, log 17). WRST writes the non-finite record, the fetch status word or
the wait limit and nothing else. (08_tile_program_isa.md; R178; R85) -/
def Obligations.StatusWordsReadAndWritten : Prop :=
  ∀ i : Ctx,
    (∀ r ∈ [(0, i.c.nf0), (1, i.c.nf1), (2, i.c.fsw), (3, BitVec.ofNat 64 (2 ^ 32 * i.l.number + 2 ^ 16 * i.l.layer + i.l.mb)),
        (4, BitVec.ofNat 64 (2 ^ 48 * i.l.entry + i.l.step)), (5, BitVec.ofNat 64 (i.n + 2 ^ 8 * i.l.rank + 2 ^ 16 * i.l.size)),
        (7, BitVec.ofNat 64 i.l.deadline), (8, BitVec.ofNat 64 i.s.time), (9, BitVec.ofNat 64 i.l.waitLimit), (10, i.s.job.seed)],
      Issues 0x0B i → i.f 51 48 = r.1 → (r.1 = 2 → fswBusy i.c = false) →
        exec (.rdst i.n) i.s = i.ends (putX i.s i.n (i.f 55 52) r.2)) ∧
    (Issues 0x0B i → i.f 51 48 = 6 → exec (.rdst i.n) i.s = i.ends (putX (bump i.s 1) i.n (i.f 55 52) (freeWord i.s))) ∧
    (∀ w, w = (i.x (i.f 55 52)).toNat → Issues 0x0C i →
      (i.f 51 48 = 0 → exec (.wrst i.n) i.s =
        i.ends (setCore i.s i.n fun c => { c with nf0 := BitVec.ofNat 64 (wrstNf c.nf0.toNat w) })) ∧
      (i.f 51 48 = 2 → exec (.wrst i.n) i.s =
        i.ends (setCore i.s i.n fun c => { c with fsw := BitVec.ofNat 64 (wrstFsw c.fsw.toNat w) })) ∧
      (i.f 51 48 = 9 → exec (.wrst i.n) i.s =
        i.ends (setCore i.s i.n fun c => { c with launch := c.launch.map fun l => { l with waitLimit := w } })))

/-- With nothing in flight, END of a host launch idles the core and completes the LAUNCH command with OK and CODE in RESULT0; END of
a scheduled launch leaves its code to the sequencer; a valid non-finite record and a code of 128 or more are counted in the step
record first. TRAP stops the core with kind 2 and its code, and DRAIN goes on; with something in flight none of the three has an
effect yet. A core stopped by kind 0 to 2 reports once nothing is in flight; one that was halted (kind 3) waits 1 ms for what is
in flight, and a host launch until its last far packet can land no more, then gives up its moves and reports. The report logs
the trap record and the non-finite words, logs a seal fault record, counts a valid non-finite record, empties the units, and
completes the LAUNCH with status 0x0504 and the trap record, or leaves the kind to the sequencer. (08_tile_program_isa.md; R85;
R183; R185; R204; R316; R368) -/
def Obligations.LaunchEndsAndTraps : Prop :=
  (∀ i : Ctx, i.c.moves = [] → ∀ u v, u = (if i.c.nf0.getLsbD 63 = true then stepCount i.s 11 else i.s) →
    v = (if 128 ≤ i.f 55 48 then stepCount u 13 else u) →
    (∀ mb tag c, Issues 0x02 i → i.l.host = some (mb, tag) → findCmd (clearLaunch v i.n) mb tag = some c → exec (.endProg i.n) i.s =
      i.ends (finish (clearLaunch v i.n) mb c 0 [] (BitVec.ofNat 64 (i.f 55 48)))) ∧
    (Issues 0x02 i → i.l.host = none → exec (.endProg i.n) i.s =
      i.ends (setCore v i.n fun c => { c with ending := some (false, i.f 55 48), idleSince := v.time })) ∧
    (Issues 0x03 i → exec (.trap i.n) i.s =
      i.branches (stopCore i.s i.n 2 (i.f 55 48) i.l.pc (BitVec.ofNat 64 i.w) 0 none) i.l.pc) ∧
    (Issues 0x0D i → exec (.drain i.n) i.s = i.ends i.s)) ∧
  (∀ i : Ctx, i.c.moves ≠ [] →
    (Issues 0x02 i → exec (.endProg i.n) i.s = .next i.s) ∧ (Issues 0x03 i → exec (.trap i.n) i.s = .next i.s) ∧
    (Issues 0x0D i → exec (.drain i.n) i.s = .next i.s)) ∧
  (∀ s n t l, n < 152 → (coreAt s n).stop = some t → (coreAt s n).launch = some l →
    (t.kind ≠ 3 → (coreAt s n).moves = [] → exec (.trapStop n) s = .next (reportStop s n l t)) ∧
    (t.kind ≠ 3 → (coreAt s n).moves ≠ [] → exec (.trapStop n) s = .next s) ∧
    (∀ u v, t.kind = 3 → u = (if (coreAt s n).moves = [] then s else advance s (t.since + 1000000)) →
      v = (if l.host.isSome = true then advance u (farLast u (ownedBy n) l.start) else u) →
      exec (.trapStop n) s = .next (reportStop ((coreAt s n).moves.foldl (fun s m => abandonMove s n m) v) n l t))) ∧
  ∀ s n t l s1 s2 s3, s1 = logError s 3 (trapRecord n l t ++ le 8 (coreAt s n).nf0.toNat ++ le 8 (coreAt s n).nf1.toNat) →
    s2 = t.report.elim s1 (logSeal s1) → s3 = (if (coreAt s n).nf0.getLsbD 63 = true then stepCount s2 11 else s2) →
    (∀ mb tag c, l.host = some (mb, tag) → findCmd s3 mb tag = some c → ending c = false → reportStop s n l t =
      finish (clearLaunch (setCore s3 n emptyUnits) n) mb c 0x0504 (trapRecord n l t)) ∧
    (l.host = none → reportStop s n l t = setCore (setCore s3 n emptyUnits) n fun c =>
      { c with stop := none, ending := some (true, t.kind), idleSince := s3.time })

/-- A core that issues VADD, VSUB, VMUL, VMIN, VMAX, VABS, VNEG, VFMA, VDIV, VSQRT, VRSQRT, VEXP2, VLOG2 or VCMP (FP32) writes at
every active element of DST the named function of the source elements, keeps the inactive elements, checks the result for
non-finite values as its TYPE says, and goes on to the next index; nothing else changes. One of them whose TYPE is 100 with a
reserved FMT stops the core with VEC_FORM (VCMP writes a mask and has no such check). (07_vector_reduction.md;
08_tile_program_isa.md; R150; R151; R153; R189) -/
def Obligations.FloatVectorResults : Prop :=
  (∀ i : Ctx, (i.f 29 27 = 4 → fmtOk (i.f 26 23) = true) →
    (Issues 0x30 i → exec (.vadd i.n) i.s = i.vecEnds fun e => addF32 (i.a e) (i.b e)) ∧
    (Issues 0x31 i → exec (.vsub i.n) i.s = i.vecEnds fun e => subF32 (i.a e) (i.b e)) ∧
    (Issues 0x32 i → exec (.vmul i.n) i.s = i.vecEnds fun e => mulF32 (i.a e) (i.b e)) ∧
    (Issues 0x33 i → exec (.vmin i.n) i.s = i.vecEnds fun e => minF32 (i.a e) (i.b e)) ∧
    (Issues 0x34 i → exec (.vmax i.n) i.s = i.vecEnds fun e => maxF32 (i.a e) (i.b e)) ∧
    (Issues 0x35 i → exec (.vabs i.n) i.s = i.vecEnds fun e =>
      if (f32 (i.a e)).isNan then 0x7FC00000#32 else i.a e &&& 0x7FFFFFFF#32) ∧
    (Issues 0x36 i → exec (.vneg i.n) i.s = i.vecEnds fun e =>
      if (f32 (i.a e)).isNan then 0x7FC00000#32 else i.a e ^^^ 0x80000000#32) ∧
    (Issues 0x37 i → exec (.vfma i.n) i.s = i.vecEnds fun e => fmaF32 (i.a e) (i.b e) (i.k e)) ∧
    (Issues 0x38 i → exec (.vdiv i.n) i.s = i.vecEnds fun e => divF32 (i.a e) (i.b e)) ∧
    (Issues 0x39 i → exec (.vsqrt i.n) i.s = i.vecEnds fun e => sqrtF32 (i.a e)) ∧
    (Issues 0x3A i → exec (.vrsqrt i.n) i.s = i.vecEnds fun e => rsqrtF32 (i.a e)) ∧
    (Issues 0x3B i → exec (.vexp2 i.n) i.s = i.vecEnds fun e => exp2Val (f32 (i.a e))) ∧
    (Issues 0x3C i → exec (.vlog2 i.n) i.s = i.vecEnds fun e => log2F32 (i.a e)) ∧
    (∀ r ∈ [(0, fun o => decide (o = some Ordering.eq)), (1, fun o => decide (o ≠ some Ordering.eq)),
        (2, fun o => decide (o = some Ordering.lt)), (3, fun o => decide (o = some Ordering.lt ∨ o = some Ordering.eq)),
        (4, fun o => decide (o = some Ordering.gt)), (5, fun o => decide (o = some Ordering.gt ∨ o = some Ordering.eq)),
        (6, fun o => decide (o = none))],
      Issues 0x3D i → i.f 29 27 = 0 → i.f 22 16 = r.1 → exec (.vcmp i.n) i.s = i.ends (i.vecState 3 0 fun e =>
        if r.2 ((f32 (i.a e)).cmp (f32 (i.b e))) then 0xFFFFFFFF#32 else 0#32))) ∧
  (∀ i : Ctx, ∀ r ∈ [(0x30, Instr.vadd i.n), (0x31, .vsub i.n), (0x32, .vmul i.n), (0x33, .vmin i.n), (0x34, .vmax i.n), (0x35, .vabs i.n),
      (0x36, .vneg i.n), (0x37, .vfma i.n), (0x38, .vdiv i.n), (0x39, .vsqrt i.n), (0x3A, .vrsqrt i.n), (0x3B, .vexp2 i.n),
      (0x3C, .vlog2 i.n)], Issues r.1 i → i.f 29 27 = 4 → fmtOk (i.f 26 23) = false → exec r.2 i.s = i.faults fVec 0)

/-- A core that issues VSEL, VIADD, VISUB, VIMUL, VIMIN, VIMAX, VAND, VOR, VXOR, VNOT, VSHL, VSHR, VSRA or VCMP of an integer TYPE
writes at every active element of DST the named function of the source elements (minimum, maximum and comparison signed for TYPE
001, unsigned otherwise; shift amounts are the low five bits; a comparison gives all ones or zero), keeps the inactive elements,
checks the result as its TYPE says, and goes on to the next index; nothing else changes. One of them, VCMP apart, whose TYPE is
100 with a reserved FMT stops the core with VEC_FORM. (07_vector_reduction.md; 08_tile_program_isa.md; R150; R151; R154; R189) -/
def Obligations.IntegerVectorResults : Prop :=
  (∀ i : Ctx, (i.f 29 27 = 4 → fmtOk (i.f 26 23) = true) →
    (Issues 0x3E i → exec (.vsel i.n) i.s = i.vecEnds fun e => if i.k e ≠ 0 then i.a e else i.b e) ∧
    (Issues 0x40 i → exec (.viadd i.n) i.s = i.vecEnds fun e => i.a e + i.b e) ∧
    (Issues 0x41 i → exec (.visub i.n) i.s = i.vecEnds fun e => i.a e - i.b e) ∧
    (Issues 0x42 i → exec (.vimul i.n) i.s = i.vecEnds fun e => i.a e * i.b e) ∧
    (Issues 0x43 i → exec (.vimin i.n) i.s = i.vecEnds fun e =>
      if i.f 29 27 = 1 then (if (i.b e).toInt < (i.a e).toInt then i.b e else i.a e)
      else if (i.b e).toNat < (i.a e).toNat then i.b e else i.a e) ∧
    (Issues 0x44 i → exec (.vimax i.n) i.s = i.vecEnds fun e =>
      if i.f 29 27 = 1 then (if (i.a e).toInt < (i.b e).toInt then i.b e else i.a e)
      else if (i.a e).toNat < (i.b e).toNat then i.b e else i.a e) ∧
    (Issues 0x45 i → exec (.vand i.n) i.s = i.vecEnds fun e => i.a e &&& i.b e) ∧
    (Issues 0x46 i → exec (.vor i.n) i.s = i.vecEnds fun e => i.a e ||| i.b e) ∧
    (Issues 0x47 i → exec (.vxor i.n) i.s = i.vecEnds fun e => i.a e ^^^ i.b e) ∧
    (Issues 0x48 i → exec (.vnot i.n) i.s = i.vecEnds fun e => ~~~(i.a e)) ∧
    (Issues 0x49 i → exec (.vshl i.n) i.s = i.vecEnds fun e => i.a e <<< ((i.b e).toNat % 32)) ∧
    (Issues 0x4A i → exec (.vshr i.n) i.s = i.vecEnds fun e => i.a e >>> ((i.b e).toNat % 32)) ∧
    (Issues 0x4B i → exec (.vsra i.n) i.s = i.vecEnds fun e => (i.a e).sshiftRight ((i.b e).toNat % 32)) ∧
    (∀ lt, lt = (fun a b : Word => if i.f 29 27 = 1 then decide (a.toInt < b.toInt) else decide (a.toNat < b.toNat)) →
      ∀ r ∈ [(0, fun a b => decide (a = b)), (1, fun a b => decide (a ≠ b)), (2, fun a b => lt a b), (3, fun a b => !lt b a),
          (4, fun a b => lt b a), (5, fun a b => !lt a b), (6, fun _ _ => false)],
        Issues 0x3D i → i.f 29 27 ≠ 0 → i.f 22 16 = r.1 → exec (.vcmp i.n) i.s = i.ends (i.vecState 3 0 fun e =>
          if r.2 (i.a e) (i.b e) then 0xFFFFFFFF#32 else 0#32))) ∧
  (∀ i : Ctx, ∀ r ∈ [(0x3E, Instr.vsel i.n), (0x40, .viadd i.n), (0x41, .visub i.n), (0x42, .vimul i.n), (0x43, .vimin i.n), (0x44, .vimax i.n),
      (0x45, .vand i.n), (0x46, .vor i.n), (0x47, .vxor i.n), (0x48, .vnot i.n), (0x49, .vshl i.n), (0x4A, .vshr i.n), (0x4B, .vsra i.n)],
    Issues r.1 i → i.f 29 27 = 4 → fmtOk (i.f 26 23) = false → exec r.2 i.s = i.faults fVec 0)

/-- A core that issues VBCAST (element, row or column K), VIOTA (X plus the index), VXPOSE (the transpose), VPERM (the element that
B names modulo 1,024) or VRAND (the draw at X plus the index, for FP32 divided by 65,536) writes that value at every active
element of DST, keeps the inactive elements, and goes on to the next index; the first four check the result only when their TYPE
is FP32. VCVT from any format to FP32 writes the value of each active element, rounded by its mode and with or without
saturation, the bits themselves from FP32 (the canonical NaN for a NaN), and keeps the inactive elements; to a packed format it
writes each row's codes and scale and zeros elsewhere. It records what is non-finite in the source or the result. With a
reserved format VCVT, and with TYPE 100 and a reserved FMT each of the others, stops the core with VEC_FORM. (A convert of a
format to itself, and of packed rows with inactive elements, are read as logs 18 and 19 say.) (03_number_formats.md;
07_vector_reduction.md; 08_tile_program_isa.md; R81; R82; R83; R84; R155; R156; R161; R173; R189) -/
def Obligations.LayoutVectorResults : Prop :=
  (∀ i : Ctx, (i.f 29 27 = 4 → fmtOk (i.f 26 23) = true) → ∀ ends, ends = (fun g => i.ends (i.vecState (if i.f 29 27 = 0 then 0 else 1) 0 g)) →
    (Issues 0x50 i → i.f 17 16 = 0 → exec (.vbcast i.n) i.s = ends fun _ => i.a (i.f 9 0)) ∧
    (Issues 0x50 i → i.f 17 16 = 1 → exec (.vbcast i.n) i.s = ends fun e => i.a (32 * (i.f 9 0 % 32) + e % 32)) ∧
    (Issues 0x50 i → i.f 17 16 = 2 → exec (.vbcast i.n) i.s = ends fun e => i.a (32 * (e / 32) + i.f 9 0 % 32)) ∧
    (Issues 0x51 i → exec (.viota i.n) i.s = ends fun e => (i.x (i.f 15 12)).setWidth 32 + BitVec.ofNat 32 e) ∧
    (Issues 0x52 i → exec (.vxpose i.n) i.s = ends fun e => i.a (32 * (e % 32) + e / 32)) ∧
    (Issues 0x53 i → exec (.vperm i.n) i.s = ends fun e => i.a ((i.b e).toNat % 1024)) ∧
    (∀ r, r = (fun e => draw i.s.job.seed i.l.step i.l.mb i.l.layer (i.f 7 0) (i.x (i.f 15 12) + BitVec.ofNat 64 e)) →
      Issues 0x54 i → exec (.vrand i.n) i.s = i.vecEnds fun e =>
        if i.f 29 27 = 0 then roundF32 (.fin false (r e) (-16)) else BitVec.ofNat 32 (r e))) ∧
  (∀ i : Ctx, ∀ r ∈ [(0x50, Instr.vbcast i.n), (0x51, .viota i.n), (0x52, .vxpose i.n), (0x53, .vperm i.n), (0x54, .vrand i.n)],
    Issues r.1 i → i.f 29 27 = 4 → fmtOk (i.f 26 23) = false → exec r.2 i.s = i.faults fVec 0) ∧
  ∀ i : Ctx, ∀ sf tf src sat on mode, sf = i.f 45 42 → tf = i.f 41 38 → src = i.t (i.f 50 46) → sat = decide (i.f 35 35 = 1) →
    on = i.active (i.f 29 29) (i.f 34 30) →
    mode = (fun e => if i.f 37 36 = 0 then Round.rne else if i.f 37 36 = 1 then .rtz
      else .sr (draw i.s.job.seed i.l.step i.l.mb i.l.layer (i.f 28 21) (i.x (i.f 20 17) + BitVec.ofNat 64 e))) →
    (∀ t, fmtOk sf = true → t = i.merged (i.f 29 29) (i.f 34 30) (i.f 55 51) (fun e =>
        if sf ≠ 0 then BitVec.ofNat 32 (encode 0 (mode e) sat (packedVal sf src (e / 32) (e % 32)))
        else if (f32 (i.a e)).isNan then 0x7FC00000#32 else i.a e) →
      Issues 0x6C i → tf = 0 → exec (.vcvt i.n) i.s = i.ends (nfWrite i (putT i.s i.n (i.f 55 51) t) uConvert (regAddr (i.f 55 51))
        ((List.range 1024).filterMap fun e => if on e then (cvtKind (cvtSource sf src e) (f32 (el t e))).map fun k => (e / 32, e % 32, k)
          else none))) ∧
    (∀ rows, fmtOk sf = true → fmtOk tf = true → tf ≠ 0 → rows = (List.range 32).map (cvtRow sf tf sat mode on src) → Issues 0x6C i →
      exec (.vcvt i.n) i.s = i.ends (nfWrite i (putT i.s i.n (i.f 55 51) (rows.flatMap (·.1))) uConvert (regAddr (i.f 55 51))
        ((List.range 1024).filterMap fun e => if on e then
          ((rows.getD (e / 32) ([], fun _ => none)).2 (e % 32)).map fun k => (e / 32, e % 32, k) else none))) ∧
    (Issues 0x6C i → fmtOk sf = false ∨ fmtOk tf = false → exec (.vcvt i.n) i.s = i.faults fVec 0)

/-- RCLR opens a reduction tile in its mode with the initial elements of the mode; RROW and RCOL merge the active elements of each
row or column into row DROW of an open tile; RADD merges the active elements element-wise; RTOPK and RHIST change a tile of
their mode; RREAD writes an open tile into DST and checks it; SCAN writes the running merge of every row. On a tile that is not
open in a fitting mode, each stops the core with RED_STATE and the tile's number; RCLR with a list length outside 1 to 16 stops
it with VEC_FORM. (07_vector_reduction.md; 08_tile_program_isa.md; R162; R164; R165; R166; R167; R168; R190) -/
def Obligations.ReductionResults : Prop :=
  ∀ i : Ctx,
    (∀ m, Issues 0x60 i → redMode (i.f 41 39) (i.f 38 34) = some m → exec (.rclr i.n) i.s =
      i.ends (i.putU ⟨m, (List.range 1024).map fun e => redInit m (e % 32)⟩)) ∧
    (Issues 0x60 i → redMode (i.f 41 39) (i.f 38 34) = none → exec (.rclr i.n) i.s = i.faults fVec 0) ∧
    (∀ r m, i.u = some r → redMerge r.mode = some m →
      (∀ new, new = (List.range 1024).map (fun e =>
          let old := el r.el e
          let line := ((List.range 32).filter fun j => i.redOn (32 * (e % 32) + j)).map fun j => el (i.t (i.f 52 48)) (32 * (e % 32) + j)
          if e / 32 = i.f 38 34 then (m.all line).elim old (m.two old) else old) →
        Issues 0x61 i → exec (.rrow i.n) i.s = i.ends (i.putU ⟨r.mode, new⟩)) ∧
      (∀ new, new = (List.range 1024).map (fun e =>
          let old := el r.el e
          let line := ((List.range 32).filter fun j => i.redOn (32 * j + e % 32)).map fun j => el (i.t (i.f 52 48)) (32 * j + e % 32)
          if e / 32 = i.f 38 34 then (m.all line).elim old (m.two old) else old) →
        Issues 0x62 i → exec (.rcol i.n) i.s = i.ends (i.putU ⟨r.mode, new⟩)) ∧
      (Issues 0x63 i → exec (.radd i.n) i.s = i.ends (i.putU ⟨r.mode,
        r.el.mapIdx fun e o => if i.redOn e then m.two o (el (i.t (i.f 52 48)) e) else o⟩))) ∧
    (∀ k es rows new, i.u = some ⟨.topk k, es⟩ →
      rows = (fun r => (((((List.range 32).filter fun c => i.redOn (32 * r + c)).map fun c =>
        (el (i.t (i.f 52 48)) (32 * r + c), (i.x (i.f 28 25)).setWidth 32 + BitVec.ofNat 32 c)).foldl (fun l a => insertRank a l)
          ((List.range k).map fun j => (el es (32 * r + j), el es (32 * r + 16 + j)))).take k)) →
      new = (List.range 1024).map (fun e =>
        if e % 32 % 16 < k then
          (if e % 32 < 16 then ((rows (e / 32)).getD (e % 32 % 16) (0, 0)).1 else ((rows (e / 32)).getD (e % 32 % 16) (0, 0)).2)
        else if e % 32 < 16 then 0xFF800000#32 else 0xFFFFFFFF#32) →
      Issues 0x64 i → exec (.rtopk i.n) i.s = i.ends (i.putU ⟨.topk k, new⟩)) ∧
    (∀ es, i.u = some ⟨.hist, es⟩ → Issues 0x65 i → exec (.rhist i.n) i.s = i.ends (i.putU ⟨.hist, es.mapIdx fun b o =>
      o + BitVec.ofNat 32 (((List.range 1024).filter fun e => i.redOn e && decide ((el (i.t (i.f 52 48)) e).toNat / 2 ^ i.f 33 29 % 256 = b)).length)⟩)) ∧
    (∀ r checked, i.u = some r →
      (r.mode = .sumI ∨ r.mode = .hist → checked = fun _ => false) → (r.mode = .sumF ∨ r.mode = .maxF ∨ r.mode = .minF → checked = fun _ => true) →
      (∀ k, r.mode = .topk k → checked = fun e => decide (e % 32 < 16)) →
      Issues 0x66 i → exec (.rread i.n) i.s =
        i.ends (nfWrite i (putT i.s i.n (i.f 24 20) r.el) uReduce (regAddr (i.f 24 20)) (regHits r.el checked))) ∧
    (∀ m ys, m = scanOp (i.f 33 31) (i.f 30 30 = 1) →
      ys = scanRows m (i.f 29 29 = 1) (fun e => el (i.t (i.f 50 46)) e) (i.active (i.f 23 23) (i.f 28 24))
        (fun e => i.f 40 40 = 1 && el (i.t (i.f 45 41)) e ≠ 0) 32 0 (if i.f 34 34 = 1 then some (el (i.t (i.f 39 35)) 1023) else none) →
      ∀ t, t = i.merged (i.f 23 23) (i.f 28 24) (i.f 55 51) (fun e => (ys.getD e none).getD (el (i.t (i.f 55 51)) e)) →
      Issues 0x68 i → exec (.scan i.n) i.s = i.ends (nfWrite i (putT i.s i.n (i.f 55 51) t) uScan (regAddr (i.f 55 51))
        (if m.isFloat then regHits t (i.active (i.f 23 23) (i.f 28 24)) else []))) ∧
    (i.u = none → (Issues 0x61 i → exec (.rrow i.n) i.s = i.faults fRed (i.f 55 53)) ∧
      (Issues 0x62 i → exec (.rcol i.n) i.s = i.faults fRed (i.f 55 53)) ∧ (Issues 0x63 i → exec (.radd i.n) i.s = i.faults fRed (i.f 55 53)) ∧
      (Issues 0x64 i → exec (.rtopk i.n) i.s = i.faults fRed (i.f 55 53)) ∧ (Issues 0x65 i → exec (.rhist i.n) i.s = i.faults fRed (i.f 55 53)) ∧
      (Issues 0x66 i → exec (.rread i.n) i.s = i.faults fRed (i.f 55 53)))

/-- With operands whose shapes fit, which lie in the tile store, are not held by a fetch and are sealed with exactly their shapes,
MMUL puts the product over the old accumulator (or over zero with Z) into accumulator ACC, MLOAD opens the accumulator with the
tile's words, MSTORE writes the open accumulator as a sealed FP32 tile, and XPOSE writes the transposed tile, sealed; the two
stores are checked for non-finite values. Each goes on to the next index. (05_matrix_engine.md; 08_tile_program_isa.md; R110;
R111; R114; R115; R117; R187) -/
def Obligations.MatrixResults : Prop :=
  ∀ i : Ctx,
    (∀ sa sb tn k m n pa pb old, sa = i.shape (i.f 51 48) → sb = i.shape (i.f 47 44) → tn = decide (i.f 55 55 = 1) →
      k = (if tn then sa.rows else sa.cols) → m = (if tn then sa.cols else sa.rows) → n = (if tn then sb.cols else sb.rows) →
      pa = i.slot (i.f 43 31) (i.f 17 14) → pb = i.slot (i.f 30 18) (i.f 13 10) →
      shapeOk sa = true → shapeOk sb = true → matrixForm tn sa = true → matrixForm tn sb = true →
      k = (if tn then sb.rows else sb.cols) → i.Free pa (tileSlots sa.fmt 0) → i.Free pb (tileSlots sb.fmt 0) →
      i.HoldsExactly pa sa → i.HoldsExactly pb sb →
      (i.f 54 54 = 1 ∧ (i.acc (i.f 53 52)).elim [] (·.el) = old ∨ i.f 54 54 = 0 ∧ i.acc (i.f 53 52) = some ⟨m, n, old⟩) →
      Issues 0x10 i → exec (.mmul i.n) i.s = i.ends (putAcc
        (readSlots (readSlots i.s i.n pa (tileSlots sa.fmt 0)) i.n pb (tileSlots sb.fmt 0)) i.n (i.f 53 52)
        ⟨m, n, product m n k (i.f 54 54 = 1) old
          (fun r k => if tn then tileVal sa (i.tile pa sa) k r else tileVal sa (i.tile pa sa) r k)
          (fun c k => if tn then tileVal sb (i.tile pb sb) k c else tileVal sb (i.tile pb sb) c k)⟩)) ∧
    (∀ sh p, sh = i.shape (i.f 51 48) → p = i.slot (i.f 43 31) (i.f 17 14) → shapeOk sh = true →
      sh.fmt = 0 → sh.kind = 0 → sh.order = 0 → sh.block = 0 → i.Free p 128 → i.HoldsExactly p sh →
      Issues 0x11 i → exec (.mload i.n) i.s =
        i.ends (putAcc (readSlots i.s i.n p 128) i.n (i.f 53 52) ⟨sh.rows, sh.cols, tileWords (i.tile p sh)⟩)) ∧
    (∀ p a sh bs, p = i.slot (i.f 43 31) (i.f 17 14) → i.Free p 128 → i.acc (i.f 53 52) = some a → sh = f32Shape a.rows a.cols →
      bs = wordsTile a.rows a.cols (fun r c => el a.el (128 * r + c)) →
      Issues 0x12 i → exec (.mstore i.n) i.s =
        i.ends (nfWrite i (storeTile i.s i.n p sh bs) uMatrix (tileAddr i.n (512 * p)) (tileHits sh bs.toArray))) ∧
    (∀ sh p q n bs, sh = i.shape (i.f 51 48) → p = i.slot (i.f 43 31) (i.f 17 14) → q = i.slot (i.f 30 18) (i.f 13 10) →
      n = tileSlots sh.fmt 0 → shapeOk sh = true → fmtOk sh.fmt = true → sh.kind = 0 → sh.order = 0 → overlap p n q n = false →
      i.Free p n → i.Free q n → i.HoldsExactly p sh → bs = transposeTile sh (i.tile p sh) →
      Issues 0x13 i → exec (.xpose i.n) i.s =
        i.ends (nfWrite i (storeTile (readSlots i.s i.n p n) i.n q (transposeShape sh) bs) uMatrix (tileAddr i.n (512 * q))
          (tileHits (transposeShape sh) bs.toArray))) ∧
    (∀ p, p = i.slot (i.f 43 31) (i.f 17 14) → i.Free p 128 → i.acc (i.f 53 52) = none → Issues 0x12 i →
      exec (.mstore i.n) i.s = i.faults fAcc (i.f 53 52))

/-- ACFG loads a well-formed control block. With a block in force and every operand in the tile store, not held, and sealed as the
instruction needs it, AEXP fills the expansion buffer with the expanded keys (with their side columns) and values; AFOLD fills
the fold buffer of the query, or of the output gradient, whose side columns are zero; ACLOSE writes O over L (0 in a row without
keys) with M, L and log2 L, and beyond the block's rows −∞, 0 and 0; ADPREP writes the dot products of output gradient and
output beside M, L and S. Each goes on to the next index. (06_attention_pipeline.md; 08_tile_program_isa.md; R133; R134; R135;
R137; R141; R148; R188) -/
def Obligations.AttentionBufferResults : Prop :=
  ∀ i : Ctx,
    (∀ p b, p = (i.x (i.f 55 52)).toNat % 8192 → i.Free p 8 → i.Holds p regShape →
      parseBlock (i.c.attn.acfgs + 1) (getSlots i.s (tileSlot i.n p) 8) = some b → Issues 0x20 i →
      exec (.acfg i.n) i.s = i.ends (setCore (readSlots i.s i.n p 8) i.n fun c =>
        { c with attn := { c.attn with block := some b, acfgs := c.attn.acfgs + 1 } })) ∧
    (∀ sa b stat, sa = i.shape (i.f 39 36) → shapeOk sa = true → i.c.attn.block = some b → stat = i.xa + 128 * tilesOf b.value →
      i.RunHolds i.xa (f32Shape sa.rows 0) b.value → i.Free stat 8 → i.HoldsExactly stat regShape →
      i.Free i.xb (128 * tilesOf b.value + 8) → Issues 0x24 i →
      exec (.aclose i.n) i.s = i.ends (i.putStat
        (i.putRun (i.reading [(i.xa, 128 * tilesOf b.value + 8)]) i.xb sa.rows b.value fun r c =>
          if i.regWord stat (128 + r) ≠ 0#32 then divF32 (i.runWord i.xa b.value r c) (i.regWord stat (128 + r)) else 0)
        (i.xb + 128 * tilesOf b.value) (fun r => if r < sa.rows then i.regWord stat r else 0xFF800000#32)
        (fun r => if r < sa.rows then i.regWord stat (128 + r) else 0)
        (fun r => if r < sa.rows ∧ i.regWord stat (128 + r) ≠ 0#32 then log2F32 (i.regWord stat (128 + r)) else 0) fun _ => 0)) ∧
    (∀ sa sb b, sa = i.shape (i.f 39 36) → sb = i.shape (i.f 35 32) → shapeOk sa = true → shapeOk sb = true →
      i.c.attn.block = some b →
      (storedForm sa true false = true → storedForm sb true false = true → sa.rows = sb.rows →
        i.RunHolds i.xa sa b.dim → i.RunHolds i.xb sb b.dim → i.Free i.xc 8 → i.HoldsExactly i.xc regShape → i.Free i.xd 8 →
        Issues 0x25 i → exec (.adprep i.n) i.s = i.ends (i.putStat
          (i.reading [(i.xa, tileSlots sa.fmt 0 * tilesOf b.dim), (i.xb, tileSlots sb.fmt 0 * tilesOf b.dim), (i.xc, 8)]) i.xd
          (i.regWord i.xc) (fun r => i.regWord i.xc (128 + r)) (fun r => i.regWord i.xc (256 + r))
          fun r => if r < sa.rows ∧ i.regWord i.xc (128 + r) ≠ 0#32 then
            dot b.dim 0 (i.runVal i.xb sb b.dim r) (i.runVal i.xa sa b.dim r) else 0)) ∧
      (storedForm sa true false = true → storedForm sb true false = true →
        (∀ side up ke, side = i.xa + tileSlots sa.fmt 0 * tilesOf b.rank →
          up = (fun p => tabulate sa.rows b.dim fun r j =>
            b.roundP (dot b.rank 0 (i.runVal i.xa sa b.rank r) (i.gridVal p sb b.dim b.rank j))) →
          ke = (up i.xb).mapIdx (fun r row => row ++ (List.range b.side).map (i.runVal side sa b.side r)) →
          b.absorbed = false → i.RunHolds i.xa sa b.rank → (b.side ≠ 0 → i.RunHolds side sa b.side) →
          i.GridHolds i.xb sb b.dim b.rank → i.GridHolds i.xc sb b.dim b.rank →
          Issues 0x21 i → exec (.aexp i.n) i.s = i.ends (setCore
            (i.reading [(i.xa, tileSlots sa.fmt 0 * tilesOf b.rank + if b.side = 0 then 0 else tileSlots sa.fmt 0),
              (i.xb, tileSlots sb.fmt 0 * tilesOf b.dim * tilesOf b.rank), (i.xc, tileSlots sb.fmt 0 * tilesOf b.dim * tilesOf b.rank)]) i.n
            fun c => { c with attn := { c.attn with expand := some (ke, up i.xc) } })) ∧
        (∀ grad cols rows, grad = decide (i.f 24 24 = 1) → cols = (if grad then b.dim else b.dim + b.side) →
          rows = (tabulate sa.rows b.rank fun r j =>
            b.roundP (dot b.dim 0 (i.runVal i.xa sa cols r) (i.gridVal i.xb sb b.rank b.dim j))).mapIdx (fun r row =>
              row ++ (List.range b.side).map fun c => if grad then .fin false 0 0 else i.runVal i.xa sa cols r (b.dim + c)) →
          b.absorbed = true → i.RunHolds i.xa sa cols → i.GridHolds i.xb sb b.rank b.dim →
          Issues 0x22 i → exec (.afold i.n) i.s = i.ends (setCore
            (i.reading [(i.xa, tileSlots sa.fmt 0 * tilesOf cols), (i.xb, tileSlots sb.fmt 0 * tilesOf b.dim * tilesOf b.rank)]) i.n
            fun c => if grad then { c with attn := { c.attn with foldG := some (b.serial, rows) } }
              else { c with attn := { c.attn with foldQ := some (b.serial, rows) } }))))

/-- With a block in force, the query and key operands of its mode in order, the position records, the statistics and (for ABBLK) the
gradients as needed, ABLK writes the O run and the statistics that the forward pseudocode gives, from empty ones with FIRST;
ABBLK adds the block pair's contributions to the dq, dk and (in expand mode) dv runs, from zero where the word says so. A pair
that the test of R140 skips leaves ABLK with FIRST the empty state and otherwise changes no tile. Each goes on to the next
index. (06_attention_pipeline.md; 08_tile_program_isa.md; R128; R130; R134; R135; R140; R142; R143; R188) -/
def Obligations.AttentionBlockResults : Prop :=
  ∀ i : Ctx, ∀ sa sb b pr, sa = i.shape (i.f 39 36) → sb = i.shape (i.f 35 32) → shapeOk sa = true → shapeOk sb = true →
    i.c.attn.block = some b → i.PairReady b sa sb pr →
    i.Free i.xb 8 → i.HoldsExactly i.xb regShape → i.Free i.xc 8 → i.HoldsExactly i.xc regShape →
    ∀ skip vis, skip = skips b (fun n => (i.regWord i.xb n).toNat) (fun n => (i.regWord i.xc n).toNat) sa.rows sb.rows →
    vis = (fun r k => visible b (i.regWord i.xb r).toNat (i.regWord i.xb (128 + r)).toNat (i.regWord i.xc k).toNat
      (i.regWord i.xc (128 + k)).toNat) →
    (∀ first stat m0 l0 o0 row, first = decide (i.f 27 27 = 1) → stat = i.xd + 128 * tilesOf b.value →
      m0 = (fun r => if first then 0xFF800000#32 else i.regWord stat r) → l0 = (fun r => if first then 0#32 else i.regWord stat (128 + r)) →
      o0 = (fun r c => if first then 0#32 else i.runWord i.xd b.value r c) →
      row = (fun r => if skip then (m0 r, l0 r, (List.range b.value).map (o0 r)) else
        forwardRow b sb.rows (fun k => mulF32 (dot b.score 0 (pr.q r) (pr.k k)) b.scaleC) (vis r) pr.v (m0 r) (l0 r) (o0 r)) →
      i.Free i.xd (128 * tilesOf b.value + 8) →
      (first = false → i.RunHolds i.xd (f32Shape sa.rows 0) b.value ∧ i.Free stat 8 ∧ i.HoldsExactly stat regShape) →
      Issues 0x23 i → exec (.ablk i.n) i.s = i.ends
        (let s0 := i.reading (pr.read ++ [(i.xb, 8), (i.xc, 8)] ++ if first then [] else [(i.xd, 128 * tilesOf b.value + 8)])
        if skip && !first then s0
        else i.putStat
          (i.putRun s0 i.xd sa.rows b.value fun r c =>
            if r < sa.rows then (row r).2.2.getD c 0 else 0)
          stat (fun r => if r < sa.rows then (row r).1 else 0xFF800000#32) (fun r => if r < sa.rows then (row r).2.1 else 0)
          (fun _ => 0) fun _ => 0)) ∧
    (∀ dout dq gread dk dv cell, i.GradientReady b sa.rows dout dq gread → i.Free i.xd 8 → i.HoldsExactly i.xd regShape →
      dk = dq + 128 * tilesOf b.score → dv = dk + 128 * tilesOf b.score →
      i.Free dq (128 * (2 * tilesOf b.score + if b.absorbed then 0 else tilesOf b.dim)) →
      (i.f 27 27 = 0 → i.RunHolds dq (f32Shape sa.rows 0) b.score) → (i.f 26 26 = 0 → i.RunHolds dk (f32Shape sb.rows 0) b.score) →
      (b.absorbed = false → i.f 25 25 = 0 → i.RunHolds dv (f32Shape sb.rows 0) b.dim) →
      cell = (fun r k =>
        let p := if vis r k ∧ i.regWord i.xd r ≠ 0xFF800000#32 then exp2Val (f32 (subF32 (subF32
          (mulF32 (dot b.score 0 (pr.q r) (pr.k k)) b.scaleC) (i.regWord i.xd r)) (i.regWord i.xd (256 + r)))) else 0#32
        let ds := mulF32 (mulF32 p (subF32 (dot b.value 0 (dout r) (pr.v k)) (i.regWord i.xd (384 + r)))) b.scaleTau
        if r < sa.rows ∧ k < sb.rows then (b.roundP p, b.roundP ds) else (.fin false 0 0, .fin false 0 0)) →
      Issues 0x26 i → exec (.abblk i.n) i.s = i.ends
        (let s0 := i.reading (pr.read ++ gread ++ [(i.xb, 8), (i.xc, 8), (i.xd, 8)] ++
          (if i.f 27 27 = 1 then [] else [(dq, 128 * tilesOf b.score)]) ++ (if i.f 26 26 = 1 then [] else [(dk, 128 * tilesOf b.score)]) ++
          if i.f 25 25 = 1 then [] else [(dv, 128 * if b.absorbed then 0 else tilesOf b.dim)])
        let s1 := i.putRun s0 dq sa.rows b.score fun r j => dot sb.rows
          (if i.f 27 27 = 1 then 0#32 else i.runWord dq b.score r j) (fun k => (cell r k).2) fun k => pr.k k j
        let sum := fun k j => dot sa.rows (if i.f 26 26 = 1 then 0#32 else i.runWord dk b.score k j) (fun r => (cell r k).2) fun r => pr.q r j
        let s2 := i.putRun s1 dk sb.rows b.score fun k j =>
          if b.absorbed ∧ j < b.rank then dot sa.rows (sum k j) (fun r => (cell r k).1) fun r => dout r j else sum k j
        if skip then s0 else if b.absorbed then s2 else i.putRun s2 dv sb.rows b.dim fun k j => dot sa.rows
          (if i.f 25 25 = 1 then 0#32 else i.runWord dv b.dim k j) (fun r => (cell r k).1) fun r => dout r j))

/-- VLDR reads the active elements of a sealed register tile into its register; VSTR writes them into a register tile, which it
seals; VLDP and VSTP move a sub-block of packed rows (a row without an active element keeps its bits; the inactive elements of
another, log 18), and stop the core with VEC_FORM for a form R159 does not allow; VGATH, VSCAT, VSCADD and VRSCAT, with every
offset aligned and in the tile store, read or store the words of the active elements; VSCADD in FP32 checks each value that it
writes (log 87). An offset that is not aligned or lies outside the tile store stops the core with RANGE. SEAL seals the bytes of
the slots under SH; SCHK goes on when record and seal agree and stops the core with SEAL and a fault record when the seal does
not; SREC reads a slot record; SCLR unseals slots. A partial store unseals the tile it lies in. What a launch reads of its tile
store without having written it is noted for R108, and what it has written is its own. (04_cores_tile_store_seals.md;
07_vector_reduction.md; 08_tile_program_isa.md; R108; R157; R159; R160; R170; R171; R173; R196) -/
def Obligations.TileAccessResults : Prop :=
  ∀ i : Ctx, ∀ p on live, p = i.slot (i.f 22 10) (i.f 26 23) → on = i.active (i.f 35 35) (i.f 40 36) →
    live = (List.range 1024).filter on →
    (i.Free p 8 → i.Holds p regShape → Issues 0x78 i → exec (.vldr i.n) i.s =
      i.ends (putT (live.foldl (fun s e => readBytes s i.n (512 * p + 4 * e) 4) i.s) i.n (i.f 55 51) ((i.t (i.f 55 51)).mapIdx fun e o =>
        if on e then el (bytesReg (i.tile p regShape)) e else o))) ∧
    (∀ bs, bs = (List.range 4096).map (fun b => if on (b / 4) then (regBytes (i.t (i.f 55 51))).getD b 0
        else (getSlots i.s (tileSlot i.n p) 8).getD b 0) → i.Free p 8 → Issues 0x79 i → exec (.vstr i.n) i.s =
      i.ends (live.foldl (fun s e => ownBytes s i.n (512 * p + 4 * e) 4)
        (putTile i.s (tileSlot i.n p) regShape bs (sealOf regShape bs)))) ∧
    (∀ sh rb cb, sh = i.shape (i.f 34 31) → rb = i.f 30 29 → cb = i.f 28 27 → shapeOk sh = true →
      (packedForm sh = false → (Issues 0x7A i → exec (.vldp i.n) i.s = i.faults fVec 0) ∧ (Issues 0x7B i → exec (.vstp i.n) i.s = i.faults fVec 0)) ∧
      (packedForm sh = true → i.Free p (tileSlots sh.fmt 0) →
        (∀ rows reads, i.Holds p sh →
          rows = (List.range 32).flatMap (fun r =>
            if (∃ c < 32, on (32 * r + c) = true) then packRow sh.fmt
              (fun c => if on (32 * r + c) then unpackAt (width sh.fmt)
                  (readRun i.s.ctl (tileBase i.n + lineOff sh p rb cb r) (packedLen sh.fmt)).toArray c
                else packedCode sh.fmt (i.t (i.f 55 51)) r c)
              (rd i.s.ctl (tileBase i.n + lineScale sh p rb cb r)).toNat
            else (List.range 32).map fun c => el (i.t (i.f 55 51)) (32 * r + c)) →
          reads = ((List.range 32).filter fun r => (List.range 32).any fun c => on (32 * r + c)).foldl (fun s r =>
            let s := readBytes s i.n (lineOff sh p rb cb r) (packedLen sh.fmt)
            if isMx sh.fmt then readBytes s i.n (lineScale sh p rb cb r) 1 else s) i.s →
          Issues 0x7A i → exec (.vldp i.n) i.s = i.ends (putT reads i.n (i.f 55 51) rows)) ∧
        (Issues 0x7B i → exec (.vstp i.n) i.s = i.ends ((List.range 32).foldl (vstpRow i sh p rb cb (i.t (i.f 55 51))) i.s)))) ∧
    ((∀ e ∈ live, i.index e % 4 = 0 ∧ i.index e ≤ 0x2FFFFC ∧ slotsHeld i.c (i.index e / 512) 1 = false) →
      (Issues 0x7C i → exec (.vgath i.n) i.s = i.ends (putT
        (live.foldl (fun s e => readBytes s i.n (i.index e) 4) i.s) i.n (i.f 55 51)
        ((i.t (i.f 55 51)).mapIdx fun e o => if on e then BitVec.ofNat 32 (rdNat i.s.ctl (tileBase i.n + i.index e) 4) else o))) ∧
      (Issues 0x7D i → exec (.vscat i.n) i.s = i.ends
        (live.foldl (fun s e => pokeWord i.n s (i.index e) (el (i.t (i.f 55 51)) e)) i.s)) ∧
      (i.f 3 3 = 1 → Issues 0x7E i → exec (.vscadd i.n) i.s = i.ends (live.foldl (fun s e => pokeWord i.n (readBytes s i.n (i.index e) 4)
        (i.index e) (BitVec.ofNat 32 (rdNat s.ctl (tileBase i.n + i.index e) 4) + el (i.t (i.f 55 51)) e)) i.s)) ∧
      (i.f 3 3 = 0 → Issues 0x7E i → exec (.vscadd i.n) i.s = i.ends (live.foldl (fun s e =>
        let v := addF32 (BitVec.ofNat 32 (rdNat s.ctl (tileBase i.n + i.index e) 4)) (el (i.t (i.f 55 51)) e)
        nfWrite i (pokeWord i.n (readBytes s i.n (i.index e) 4) (i.index e) v) uVector (tileAddr i.n (i.index e))
          ((nonFinite (f32 v)).map fun k => (e / 32, e % 32, k)).toList) i.s))) ∧
    (∀ o, (live.map i.index).find? (fun o => o % 4 ≠ 0 || o > 0x2FFFFC) = some o →
      ∀ r ∈ [(0x7C, Instr.vgath i.n), (0x7D, .vscat i.n), (0x7E, .vscadd i.n)], Issues r.1 i → exec r.2 i.s = i.faults fRange o) ∧
    (∀ r, r = radix (el (i.t (i.f 50 46))) (el (i.t (i.f 55 51))) (i.f 9 5) (i.x (i.f 26 23)).toNat (i.f 4 4 = 1) live
        (fun b => (el (i.t (i.f 45 41)) b).toNat) →
      (∀ o ∈ r.1, o.1 % 4 = 0 ∧ o.1 ≤ 0x2FFFFC ∧ slotsHeld i.c (o.1 / 512) 1 = false) → Issues 0x7F i →
      exec (.vrscat i.n) i.s = i.ends (putT (r.1.foldl (fun s o => pokeWord i.n s o.1 o.2) i.s) i.n (i.f 45 41)
        ((i.t (i.f 45 41)).mapIdx fun e o => if e < 256 then BitVec.ofNat 32 (r.2 e) else o))) ∧
    (∀ q, q = i.slot (i.f 51 39) (i.f 38 35) →
      (∀ sh n want got a, sh = i.shape (i.f 55 52) → n = tileSlots sh.fmt sh.kind → want = recSeal (rd i.s.recs (tileSlot i.n q)) →
        got = sealOf sh (getSlots i.s (tileSlot i.n q) n) → a = tileAddr i.n (512 * q) →
        shapeOk sh = true → fmtOk sh.fmt = true → i.Free q n →
        (Issues 0x80 i → exec (.sealTile i.n) i.s =
          i.ends (storeTile (readSlots i.s i.n q n) i.n q sh (getSlots i.s (tileSlot i.n q) n))) ∧
        (i.HoldsExactly q sh → got = want → Issues 0x81 i → exec (.schk i.n) i.s = i.ends (readSlots i.s i.n q n)) ∧
        (i.HoldsExactly q sh → got ≠ want → Issues 0x81 i → exec (.schk i.n) i.s = .next (stopCore i.s i.n 0 fSeal i.l.pc (BitVec.ofNat 64 i.w) a
          (some (sealRecord i.s a (unitId 1 (dieOf i.n) i.n) want got 0 sh))))) ∧
      (i.Free q 1 → Issues 0x82 i → exec (.srec i.n) i.s = i.ends (putX i.s i.n (i.f 55 52) (rd i.s.recs (tileSlot i.n q)))) ∧
      (i.Free q (i.f 34 27 + 1) → Issues 0x83 i → exec (.sclr i.n) i.s =
        i.ends (unsealSlots i.s (tileSlot i.n q) (i.f 34 27 + 1))))

/-- With descriptors in order and no on-chip offset of theirs out of range, tile coordinates inside the grid and slots free, FETCH
unseals its destination slots and starts its read with its class, deadline and completion signal; STORE takes the sealed source
tile and its seal at issue; MOVEM starts between two grids of one legend; GFETCH unseals the slots of its granules, and is LATE
at once where its deadline has passed; ATOM and MSG leave with their operand and mark the launch as one that cannot be reissued.
Each goes on to the next index. A read that starts puts its move in flight; with no deadline, or one that can be met, it is in
flight (from this module's memory) or its transaction is sent (from another module); with a deadline in the past it ends LATE,
and a class D read that is not admitted ends LATE as refused, its destination slots undefined. (08_tile_program_isa.md; R92;
R96; R191; R192; R193; R194; R195; R279) -/
def Obligations.MovesIssue : Prop :=
  (∀ i : Ctx,
    (∀ d sh p r c, d = parseDesc (i.c.d.getD (i.f 55 52) []) → descOk d = true → d.outOfRange i.s = none →
      descPlaced d (tileExists i.s) = true →
      r = bits (i.x (i.f 51 48)).toNat 31 0 → c = bits (i.x (i.f 51 48)).toNat 63 32 → r < d.tr → c < d.tc → sh = d.shape r c →
      (p = i.slot (i.f 47 35) (i.f 34 31) → i.Free p (Shape.slots sh) →
        (Issues 0x70 i → exec (.fetch i.n) i.s = i.ends (startRead (unsealSlots i.s (tileSlot i.n p) (Shape.slots sh)) i.n
          { bareMove i .fetch (i.f 30 19) with
            rclass := i.f 18 17, deadline := i.deadline (i.f 16 15) (i.f 14 11),
            shape := some sh, src := d.addr r c, srcSeal := d.sealAddr r c, slots := [(p, Shape.slots sh)] })) ∧
        (mayWrite i.s (d.addr r c) (Shape.bytes sh) = true → i.HoldsExactly p sh → isAway i.s (d.addr r c) = false →
          Issues 0x71 i → exec (.store i.n) i.s = i.ends (launchMove (readSlots i.s i.n p (Shape.slots sh)) i.n
            { bareMove i .store (i.f 30 19) with
              shape := some sh, src := tileAddr i.n (512 * p), dst := d.addr r c,
              dstSeal := d.sealAddr r c, carried := recSeal (rd i.s.recs (tileSlot i.n p)),
              bytes := getSlots i.s (tileSlot i.n p) (Shape.slots sh), remote := false }))) ∧
      (∀ e, e = parseDesc (i.c.d.getD (i.f 34 31) []) → descOk e = true → e.outOfRange i.s = none →
        descPlaced e (tileExists i.s) = true → e.legend = d.legend →
        r < e.tr → c < e.tc → e.shape r c = sh → mayWrite i.s (e.addr r c) (Shape.bytes sh) = true →
        Issues 0x72 i → exec (.movem i.n) i.s = i.ends (startRead i.s i.n
          { bareMove i .movem (i.f 30 19) with
            rclass := i.f 18 17, deadline := i.deadline (i.f 16 15) (i.f 14 11),
            shape := some sh, src := d.addr r c, srcSeal := d.sealAddr r c, dst := e.addr r c, dstSeal := e.sealAddr r c }))) ∧
    (∀ base p gs m u, base = (parseDesc (i.c.d.getD (i.f 55 52) [])).base → p = i.slot (i.f 40 28) (i.f 27 24) → gs = i.gathers base →
      i.Free p 128 → base < 2 ^ 41 → base % 64 = 0 → localExists i.s base 64 = true →
      (∀ g ∈ gs, gatherable i.s base g.2 = true) →
      m = { bareMove i .gfetch (i.f 23 12) with
        deadline := i.deadline (i.f 11 10) (i.f 9 6), src := base, slots := [(p, 128)], list := gs } →
      u = launchMove (gs.foldl (fun s g => unsealSlots s (tileSlot i.n (p + g.1 / 8)) 1) i.s) i.n m →
      Issues 0x73 i → exec (.gfetch i.n) i.s = i.ends (if isLate u m then endLate (spoil u i.n m) i.n m true else u)) ∧
    (∀ a, a = (i.x (i.f 55 52)).toNat → atomOk i.s a = true → isAway i.s a = false →
      Issues 0x74 i → exec (.atom i.n) i.s = i.ends (issuedRemote (launchMove i.s i.n
        { bareMove i .atom (i.f 30 19) with
          dst := a, reg := i.f 43 40, remote := false,
          bytes := le 8 (i.x (i.f 51 48)).toNat ++ le 8 (i.x (i.f 47 44)).toNat }) i.n)) ∧
    (∀ a, a = (i.x (i.f 45 42)).toNat → (space a = 0 ∧ device a = 0) ∨ space a = 1 → isAway i.s a = false →
      Issues 0x75 i → exec (.msg i.n) i.s = i.ends (issuedRemote (launchMove i.s i.n
        { bareMove i .msg (i.f 30 19) with
          dst := a, remote := false,
          bytes := i.rowOut }) i.n))) ∧
  ∀ s n m k u, k = { m with remote := isAway s m.src } → u = readOwn (launchMove s n k) n k →
    (isLate u m = true → startRead s n m = endLate (spoilSlots u n k) n k true) ∧
    (isLate u m = false → isAway s m.src = true →
      startRead s n m = moveTx u n k .read m.src m.srcSeal (Shape.bytes (moveShape m) / 64) []) ∧
    (isLate u m = false → isAway s m.src = false →
      ((m.deadline = none ∨ space m.src = 2 → startRead s n m = u) ∧
        ∀ d, m.deadline = some d → space m.src ≠ 2 →
          (admitted u (offset m.src) 0 d = true → startRead s n m = u) ∧
          (admitted u (offset m.src) 0 d = false → startRead s n m = endRefused (spoilSlots u n k) n k)))

/-- With its operands in order and a destination on another module, STORE, ATOM and MSG put their move in flight as a remote one and
start the write, atomic or message transaction that carries it; each goes on to the next index. PUSH, with its frame tag and
stack in order and a sealed source tile, takes the tile and its seal at issue. (08_tile_program_isa.md; 13_ewete_fabric.md;
R191; R195; R197; R313) -/
def Obligations.AwayMovesIssue : Prop :=
  ∀ i : Ctx,
    (∀ d sh p r c m, d = parseDesc (i.c.d.getD (i.f 55 52) []) → descOk d = true → d.outOfRange i.s = none →
      descPlaced d (tileExists i.s) = true →
      r = bits (i.x (i.f 51 48)).toNat 31 0 → c = bits (i.x (i.f 51 48)).toNat 63 32 → r < d.tr → c < d.tc → sh = d.shape r c →
      p = i.slot (i.f 47 35) (i.f 34 31) → i.Free p (Shape.slots sh) → mayWrite i.s (d.addr r c) (Shape.bytes sh) = true →
      i.HoldsExactly p sh → isAway i.s (d.addr r c) = true →
      m = { bareMove i .store (i.f 30 19) with
        shape := some sh, src := tileAddr i.n (512 * p), dst := d.addr r c,
        dstSeal := d.sealAddr r c, carried := recSeal (rd i.s.recs (tileSlot i.n p)),
        bytes := getSlots i.s (tileSlot i.n p) (Shape.slots sh), remote := true } →
      Issues 0x71 i → exec (.store i.n) i.s = i.ends (moveTx (launchMove (readSlots i.s i.n p (Shape.slots sh)) i.n m) i.n m .write
        m.dst m.dstSeal (Shape.bytes sh / 64) m.bytes)) ∧
    (∀ a m, a = (i.x (i.f 55 52)).toNat → atomOk i.s a = true → isAway i.s a = true →
      m = { bareMove i .atom (i.f 30 19) with
        dst := a, reg := i.f 43 40, remote := true,
        bytes := le 8 (i.x (i.f 51 48)).toNat ++ le 8 (i.x (i.f 47 44)).toNat } →
      Issues 0x74 i → exec (.atom i.n) i.s = i.ends (moveTx (issuedRemote (launchMove i.s i.n m) i.n) i.n m .atomic a a 1 m.bytes)) ∧
    (∀ a m, a = (i.x (i.f 45 42)).toNat → isAway i.s a = true →
      m = { bareMove i .msg (i.f 30 19) with
        dst := a, remote := true,
        bytes := i.rowOut } →
      Issues 0x75 i → exec (.msg i.n) i.s = i.ends (newTx (issuedRemote (launchMove i.s i.n m) i.n)
        { bareTx .message (.move i.n m.id) (coreDomain i.n) (device a) (bits a 5 0) 2 with data := m.bytes })) ∧
    (∀ sh tag p k, sh = i.shape (i.f 52 49) → shapeOk sh = true → tag = i.x (i.f 31 28) → p = i.slot (i.f 48 36) (i.f 35 32) →
      i.stack = some k → tagUse tag ≠ 3 → bits tag.toNat 58 56 = 0 → i.Free p (Shape.slots sh) → i.HoldsExactly p sh →
      Issues 0x90 i → exec (.push i.n) i.s = i.ends (launchMove (readSlots i.s i.n p (Shape.slots sh)) i.n
        { bareMove i .push (i.f 27 16) with
          shape := some sh, src := tileAddr i.n (512 * p),
          carried := recSeal (rd i.s.recs (tileSlot i.n p)), bytes := getSlots i.s (tileSlot i.n p) (Shape.slots sh),
          stack := k, ftag := tag }))

/-- MOVE_END of a move that has to wait changes nothing. A FETCH that has a good tile puts it and its seal into its destination
slots and closes with its signal. A seal fault stops a plain core once (a core already stopped only logs it), and ends a class D
or class P one with its record logged; any other failure stops a plain core with TRANSFER. A FETCH past its deadline ends LATE
without reading. A tile in this module's memory whose bytes agree with its seal-table entry is good, one that disagrees is a
fault of kind 0 with both seals; a sealed tile of a slot memory is taken with its record's seal, an unsealed slot is a fault of
kind 2; a tile of another module is what its transaction brought. A GFETCH whose granules can be read puts them into its slots;
a bad granule is its failure. FETCH_DEADLINE ends a fetch LATE, but not a MOVEM to another module. When the move waits for
nothing more: a STORE or MOVEM to another module closes when its write was answered OK, ends LATE when its deadline had passed
by then, and fails on any other answer. A STORE here whose tile agrees with its seal writes tile and seal; a tile damaged in
transit is a seal fault; an uncorrectable error of the tile store logs a fault of kind 4 and fences the core. A MOVEM that has
its tile writes it here, or sends its write to the other module with the seal it carries. An ATOM writes the former value to its
register, from the answer or from this module's doubleword. A MSG is delivered to its queue here, and fails after the fabric
time-out if the queue stays full. (08_tile_program_isa.md; 04_cores_tile_store_seals.md; R93; R99; R104; R105; R192; R193; R194;
R195; R311; R315) -/
def Obligations.FetchEnds : Prop :=
  (∀ s n id m o, n < 152 → (coreAt s n).moves.find? (fun m => m.id = id) = some m →
    (moveWaits s n m = true → exec (.moveEnd n id o) s = .next s) ∧
    (moveWaits s n m = false → m.kind = .fetch ∨ m.kind = .gfetch → isLate s m = true →
      exec (.moveEnd n id o) s = .next (endLate (spoil s n m) n m true)) ∧
    (moveWaits s n m = false → m.kind = .fetch → isLate s m = false →
      (∀ bs crc u p, readSource s m (unitId 2 (dieOf n) n) true o = (.tile bs crc, u) → p = (m.slots.headD (0, 0)).1 →
        exec (.moveEnd n id o) s =
          .next (closeMove (ownSlots (putTile u (tileSlot n p) (moveShape m) bs crc) n p (Shape.slots (moveShape m))) n m)) ∧
      (∀ r u v, readSource s m (unitId 2 (dieOf n) n) true o = (.bad r, u) → v = (if field r 24 1 = 0 then spoil u n m else u) →
        (m.rclass = 0 → (coreAt v n).stop = none → exec (.moveEnd n id o) s =
          .next (closeMove (stopCore v n 0 fSeal m.index m.word (field r 0 8) (some r)) n m)) ∧
        (m.rclass = 0 → (coreAt v n).stop ≠ none → exec (.moveEnd n id o) s = .next (closeMove (logSeal v r) n m)) ∧
        (m.rclass ≠ 0 → exec (.moveEnd n id o) s = .next (endLate (spoil (logSeal v r) n m) n m (m.rclass = 1)))) ∧
      (∀ a u, readSource s m (unitId 2 (dieOf n) n) true o = (.lost a, u) →
        (m.rclass = 0 → (coreAt (spoil u n m) n).stop = none → exec (.moveEnd n id o) s =
          .next (closeMove (stopCore (spoil u n m) n 0 fTransfer m.index m.word a none) n m)) ∧
        (m.rclass ≠ 0 → exec (.moveEnd n id o) s = .next (endLate (spoil u n m) n m (m.rclass = 1))))) ∧
    (moveWaits s n m = false → m.kind = .gfetch → isLate s m = false →
      (∀ u p, o = .arrived → readGranules s m.list .arrived = (none, u) → p = (m.slots.headD (0, 0)).1 →
        exec (.moveEnd n id o) s = .next (closeMove (m.list.foldl (fun v g => ownBytes
          { v with ctl := writeRun v.ctl (tileBase n + 512 * p + 64 * g.1) (readLocal v g.2 64) } n (512 * p + 64 * g.1) 64) u) n m)) ∧
      (∀ g u, o ≠ .failed → o ≠ .uncorrectable → readGranules s m.list o = (some g, u) →
        exec (.moveEnd n id o) s = .next (endLost u n m g)))) ∧
  (∀ s m unit here sh, moveShape m = sh →
    (∀ u bs want, isAway s m.src = false → space m.src ≠ 2 →
      u = touchRead (touchRead s (offset m.src) (Shape.bytes sh)) (offset m.srcSeal) 4 →
      badGranule u (offset m.src) (Shape.bytes sh) = none → badGranule u (offset m.srcSeal) 4 = none →
      bs = readLocal u (offset m.src) (Shape.bytes sh) → want = BitVec.ofNat 32 (unle (readLocal u (offset m.srcSeal) 4)) →
      (sealOf sh bs = want → readSource s m unit here .arrived = (.tile bs want, u)) ∧
      (sealOf sh bs ≠ want → readSource s m unit true .arrived =
        (.bad (sealRecord u m.src unit want (sealOf sh bs) 0 sh), u))) ∧
    (∀ r, isAway s m.src = false → space m.src = 2 → ctlExists s (offset m.src) (Shape.bytes sh) = true →
      r = rd s.recs (slotAt (offset m.src)) →
      (recCheck r sh true = some 2 → readSource s m unit here .arrived = (.bad (sealRecord s m.src unit 0 0 2 sh), s)) ∧
      (recCheck r sh true = none → sealOf sh (getSlots s (slotAt (offset m.src)) (Shape.slots sh)) = recSeal r →
        readSource s m unit true .arrived =
          (.tile (getSlots s (slotAt (offset m.src)) (Shape.slots sh)) (recSeal r), windowTouched s m.src))) ∧
    (isAway s m.src = true →
      (m.status ≠ some rOk → readSource s m unit here .arrived = (.lost m.src, s)) ∧
      (m.status = some rOk → isT7 s (device m.src) = false → sealOf sh m.bytes = m.carried →
        readSource s m unit here .arrived = (.tile m.bytes m.carried, s)))) ∧
  (∀ s n id m d, n < 152 → (coreAt s n).moves.find? (fun m => m.id = id) = some m → m.deadline = some d →
    (m.kind ≠ .movem ∨ isAway s m.dst = false → exec (.fetchDeadline n id) s = .next (endLate (spoil (advance s (d + 1)) n m) n m true)) ∧
    (m.kind = .movem → isAway s m.dst = true → exec (.fetchDeadline n id) s = .next (advance s (d + 1)))) ∧
  (∀ s n m, m.rclass = 0 → endLate s n m true = closeMove (setCore (stepCount (if tierD s n m then tierCount s 1 1 else s) 2) n
    fun c => fswRecord c true m.order m.index (m.slots.headD (0, 0)).1) n m) ∧
  ∀ s n id m sh, n < 152 → (coreAt s n).moves.find? (fun m => m.id = id) = some m → moveWaits s n m = false → moveShape m = sh →
    (∀ o, (m.kind = .store ∧ isAway s m.dst = true) ∨ (m.kind = .movem ∧ m.writing = true) → isAway s m.dst = true →
      ∀ f : State → State, f = (if m.kind = .movem then pumpTx else fun s => s) →
      (m.deadline.any (· < m.since) = true → exec (.moveEnd n id o) s = .next (f (endLate s n m true))) ∧
      (m.deadline.any (· < m.since) = false →
        (m.status = some rOk → exec (.moveEnd n id o) s = .next (f (closeMove s n m))) ∧
        (m.status ≠ some rOk → exec (.moveEnd n id o) s = .next (f (endLost s n m m.dst))))) ∧
    (m.kind = .store → isAway s m.dst = false →
      (∀ crc, crc = m.carried → sealOf sh m.bytes = crc → space m.dst ≠ 2 ∨ ctlExists s (offset m.dst) (Shape.bytes sh) = true →
        deadRange s m.dst (Shape.bytes sh) = false → exec (.moveEnd n id .arrived) s =
          .next (closeMove (wroteOwn (landTile s m.dst m.dstSeal sh m.bytes crc) n m.dst (Shape.bytes sh)) n m)) ∧
      exec (.moveEnd n id .failed) s = .next (endLost s n m m.dst) ∧
      exec (.moveEnd n id .uncorrectable) s = .next (fenceCore (logSeal s
        (sealRecord s m.src (unitId 1 (dieOf n) n) m.carried 0 4 sh)) n 0)) ∧
    (∀ o, m.kind = .movem → m.writing = false →
      (isLate s m = true → isAway s m.dst = false → exec (.moveEnd n id o) s = .next (endLate (spoil s n m) n m true)) ∧
      (∀ bs crc u, readSource s m (movemUnit s n m) (!isAway s m.dst) o = (.tile bs crc, u) →
        (isAway s m.dst = false → isLate s m = false → sealOf sh bs = crc →
          space m.dst ≠ 2 ∨ ctlExists u (offset m.dst) (Shape.bytes sh) = true → deadRange u m.dst (Shape.bytes sh) = false →
          exec (.moveEnd n id o) s =
            .next (closeMove (wroteOwn (landTile u m.dst m.dstSeal sh bs crc) n m.dst (Shape.bytes sh)) n m)) ∧
        (∀ m', isAway s m.dst = true → m' = { m with remote := true, writing := true, status := none, bytes := bs, carried := crc } →
          exec (.moveEnd n id o) s = .next (pumpTx (moveTx
            (setCore u n fun c => { c with moves := c.moves.map fun x => if x.id = m.id then m' else x }) n m' .write m.dst m.dstSeal
            (Shape.bytes sh / 64) bs)))) ∧
      (∀ a u, isLate s m = false ∨ isAway s m.dst = true → readSource s m (movemUnit s n m) (!isAway s m.dst) o = (.lost a, u) →
        exec (.moveEnd n id o) s = .next (if isAway s m.dst then pumpTx (endLost u n m a) else endLost u n m a))) ∧
    (m.kind = .atom →
      (m.remote = true →
        (m.status = some rOk → exec (.moveEnd n id .arrived) s =
          .next (closeMove (putX s n m.reg (BitVec.ofNat 64 (unle m.bytes))) n m)) ∧
        (m.status ≠ some rOk → exec (.moveEnd n id .arrived) s = .next (endLost s n m m.dst))) ∧
      (∀ old u, m.remote = false → badGranule s (offset m.dst) 8 = none →
        atomLocal s (offset m.dst) (bits m.word.toNat 39 36) m.bytes = (old, u) → exec (.moveEnd n id .arrived) s =
          .next (closeMove (putX u n m.reg (BitVec.ofNat 64 (unle old))) n m))) ∧
    (m.kind = .msg →
      (m.remote = true → exec (.moveEnd n id .arrived) s = .next (if m.status = some rOk then closeMove s n m else endLost s n m m.dst)) ∧
      (m.remote = false →
        (∀ u, deliver s (bits m.dst 5 0) m.bytes = some u → exec (.moveEnd n id .arrived) s = .next (closeMove u n m)) ∧
        (deliver s (bits m.dst 5 0) m.bytes = none → exec (.moveEnd n id .arrived) s =
          .next (if m.since + 2000000 ≤ s.time then endLost s n m m.dst else s))))

/-- SIGNAL goes in flight and is applied as soon as no earlier write on this module holds it back: writes here hold it, a STORE or
MOVEM to another module, or an ATOM or MSG that another serves, does not. WAIT on a pair not yet counted takes its count at once
from a semaphore that holds it, and otherwise the core waits at its index; a waiting core takes the count when it is there and
goes on; a wait longer than the wait limit stops the core with SYNC. A pair that is already counted is satisfied without taking.
FENCE of kind 3 goes on with nothing but signals in flight, of the other kinds with no write on this module, no atomic and no
message in flight and every write to another module sent; otherwise it waits. (08_tile_program_isa.md; R198; R199; R200; R201;
R319) -/
def Obligations.SynchronisationResults : Prop :=
  (∀ i : Ctx,
    (∀ m, m = { bareMove i .signal (i.f 55 44) with dst := i.f 43 28 } →
      Issues 0xA0 i → exec (.signal i.n) i.s = i.ends (applySignals (launchMove i.s i.n m) i.n)) ∧
    (∀ sem, sem = i.f 55 44 → (sem, nextSeq i.l sem) ∈ i.l.counted → Issues 0xA1 i →
      exec (.wait i.n) i.s = i.ends (setLaunch i.s i.n fun l => takeSeq l sem)) ∧
    (∀ sem k, sem = i.f 55 44 → k = i.f 43 28 → (sem, nextSeq i.l sem) ∉ i.l.counted → Issues 0xA1 i →
      (k ≤ semGet i.s i.n (dieOf i.n) sem → exec (.wait i.n) i.s = i.ends (semTake
        (setLaunch i.s i.n fun l => { takeSeq l sem with counted := (sem, nextSeq i.l sem) :: l.counted }) i.n (dieOf i.n) sem k)) ∧
      (semGet i.s i.n (dieOf i.n) sem < k → exec (.wait i.n) i.s =
        i.branches (setCore i.s i.n fun c => { c with wait := some (sem, k, i.s.time) }) i.l.pc)) ∧
    (Issues 0xA2 i →
      ((i.f 55 52 = 3 ∧ ∀ m ∈ i.c.moves, m.kind = .signal) ∨ (i.f 55 52 ≠ 3 ∧ ∀ m ∈ i.c.moves, holdsFence i.s i.n m = false) →
        exec (.fence i.n) i.s = i.ends i.s) ∧
      ((i.f 55 52 = 3 ∧ ∃ m ∈ i.c.moves, m.kind ≠ .signal) ∨ (i.f 55 52 ≠ 3 ∧ ∃ m ∈ i.c.moves, holdsFence i.s i.n m = true) →
        exec (.fence i.n) i.s = .next i.s))) ∧
  (∀ s n m, (m.kind = .store ∨ m.kind = .movem → writesHere s m = !isAway s m.dst) ∧
    (m.kind = .atom ∨ m.kind = .msg → writesHere s m = !m.remote ∧ holdsFence s n m = true) ∧
    (m.kind = .store ∨ m.kind = .movem → holdsFence s n m = (!isAway s m.dst || unsent s n m)) ∧
    (m.kind = .fetch ∨ m.kind = .gfetch ∨ m.kind = .push ∨ m.kind = .pop → writesHere s m = true ∧ holdsFence s n m = true)) ∧
  (∀ s n l sem k t, n < 152 → (coreAt s n).wait = some (sem, k, t) → (coreAt s n).launch = some l →
    ((sem, nextSeq l sem) ∈ l.counted → exec (.waitSatisfy n) s = .next (goto (setCore (setLaunch s n fun l' => takeSeq l' sem) n
      fun c => { c with wait := none }) n (l.pc + 1))) ∧
    ((sem, nextSeq l sem) ∉ l.counted →
    (k ≤ semGet s n (dieOf n) sem → exec (.waitSatisfy n) s = .next (goto (setCore (semTake
      (setLaunch s n fun l' => { takeSeq l' sem with counted := (sem, nextSeq l sem) :: l'.counted }) n (dieOf n) sem k) n
      fun c => { c with wait := none }) n (l.pc + 1))) ∧
    (semGet s n (dieOf n) sem < k → exec (.waitSatisfy n) s = .next s ∧
      (l.waitLimit ≠ 0 → exec (.syncTimeout n) s = .next (stopCore (advance s (t + l.waitLimit * 1000)) n 0 fSync l.pc
        ((coreAt s n).insns.getD l.pc 0) sem none)))))

/-- POP of a frame of this step, with a fitting shape and use, takes its destination slots out of seal and starts its move; SDROP
removes the frame unless it is spilling, returning or being popped, and does nothing where there is none. STACK_DRAIN moves the
oldest whole frame of the top buffer into the body; a frame that fails its check is dropped, and with no room in the body it
waits while spilling can make some, else it is dropped. STACK_SPILL completes the frame that is spilling, or starts the next one
where the body has to give up frames; FRAME_RETURN lands the frame that is returning, or starts the next spilled frame of its
live request, which a request that is not admitted starts no more; RETURN_DEADLINE ends the request. What lies on a channel
under survey waits. A frame passes its check when it can be read, its top-buffer record names its shape and seal, and its bytes
give its seal. Who a drop is recorded against is log 121's choice. A pushed tile that arrives whole and has room becomes a
frame, under its tag, with the next PUSH_SEQ of its step; one that only W would read of a frozen layer is not kept; a tag that
is there with the same seal is complete, with another seal its frame is replaced and the divergence recorded; a frame that is
spilling or returning makes the push wait, as does a top buffer without room; with no directory entry free the stack overflows
and the frame is dropped. A POP whose frame is whole puts its tile into the slots and takes the pop: a frame with a second pop
to come stays, any other goes. A dropped frame, a POP past its deadline and one whose transfer fails end LATE; a returning frame
makes it wait; a tag that is not there stops the core with STACK, or is LATE where the stack has overflowed. Where frames lie is
the model's choice (log 15). (09_backward_activation_stack.md; R211; R212; R213; R214; R215; R216; R217; R218; R219; R220; R221) -/
def Obligations.StackUnitMovesFrames : Prop :=
  (∀ i : Ctx, ∀ sh tag p n k e st f, sh = i.shape (i.f 52 49) → tag = i.x (i.f 31 28) → p = i.slot (i.f 48 36) (i.f 35 32) →
    n = Shape.slots sh → i.stack = some k → stackAt i.s k = some st →
    (findFrame st tag (stepLow i.l) = none → Issues 0x92 i → exec (.sdrop i.n) i.s = i.ends i.s) ∧
    (findFrame st tag (stepLow i.l) = some f →
      (shapeOk sh = true → entryOf i.s i.l = some e → f.shape = shapeBits sh → useForbidden e.kind (effUse i.s tag) = false → i.Free p n →
        Issues 0x91 i → exec (.pop i.n) i.s = i.ends (startPop (unsealSlots i.s (tileSlot i.n p) n) i.n
          { bareMove i .pop (i.f 27 16) with
            rclass := 1, deadline := i.deadline (i.f 15 14) (i.f 13 10), shape := some sh, slots := [(p, n)], stack := k, ftag := tag }
          (some f))) ∧
      (Issues 0x92 i → exec (.sdrop i.n) i.s =
        if f.loc = .spilling ∨ f.loc = .returning ∨ popInFlight i.s k tag = true then .next i.s else i.ends (removeFrame i.s k f)))) ∧
  (∀ s n m f u, u = launchMove s n m →
    (isLate u m = true ∨ f.loc = .dropped → startPop s n m (some f) = endLate (spoil u n m) n m true) ∧
    (isLate u m = false → f.loc ≠ .dropped →
      (f.loc ≠ .spilled ∨ m.deadline = none → startPop s n m (some f) = u) ∧
      (∀ d, f.loc = .spilled → m.deadline = some d →
        startPop s n m (some f) = if admitted u f.addr 0 d then u else endRefused (spoil u n m) n m))) ∧
  (∀ s k st, k < 128 → stackAt s k = some st →
    (nextDrain st = none → exec (.stackDrain k) s = .next s) ∧
    (∀ f a, nextDrain st = some f → bodyFit st f = some a →
      (heldRange s a (frameBytes f) = true → exec (.stackDrain k) s = .next s) ∧
      (∀ u, heldRange s a (frameBytes f) = false → frameCheck s f (memUnit s a) st.die true = (true, u) → exec (.stackDrain k) s =
        .next (putFrame (unsealSlots (writeLocal u a (frameData u f)) (slotAt f.addr) f.size) k { f with loc := .body, addr := a })) ∧
      (∀ u, heldRange s a (frameBytes f) = false → frameCheck s f (memUnit s a) st.die true = (false, u) →
        exec (.stackDrain k) s = .next (dropFrame u k f))) ∧
    (∀ f, nextDrain st = some f → bodyFit st f = none →
      exec (.stackDrain k) s = .next (if canSpill s st then s else dropFrame s k f)) ∧
    (∀ f, st.frames.find? (fun f => f.loc = .spilling) = some f →
      (heldRange s f.addr (frameBytes f) = true → exec (.stackSpill k) s = .next s) ∧
      (∀ ok u, heldRange s f.addr (frameBytes f) = false → frameCheck s f (memUnit s f.dest) st.die true = (ok, u) →
        exec (.stackSpill k) s = .next (if ok then
          putFrame (writeLocal u f.dest (frameData u f)) k { f with loc := .spilled, addr := f.dest, dest := 0 } else dropFrame u k f))) ∧
    (∀ u, st.frames.find? (fun f => f.loc = .spilling) = none →
      u = setStack s k (fun x => { x with spilling := decide (st.high * st.bodyLen < 100 * occupancy st) ||
        (st.spilling && decide (st.low * st.bodyLen < 100 * occupancy st)) }) →
      (mustSpill s st = false → exec (.stackSpill k) s = .next u) ∧
      (∀ f a, mustSpill s st = true → nextSpill u st = some f → spillFit st f = some a →
        exec (.stackSpill k) s = .next (putFrame u k { f with loc := .spilling, dest := a }))) ∧
    (∀ req f ok, st.frames.find? (fun f => f.loc = .returning) = some f →
      (heldRange s f.dest (frameBytes f) = true → exec (.frameReturn k req ok) s = .next s) ∧
      (∀ pass u, heldRange s f.dest (frameBytes f) = false → frameCheck s f (memUnit s f.dest) st.die ok = (pass, u) →
        exec (.frameReturn k req ok) s = .next (if pass then
          putFrame (writeLocal u f.dest (frameData u f)) k { f with loc := .body, addr := f.dest, dest := 0 } else dropFrame u k f))) ∧
    (∀ req r f ok, st.frames.find? (fun f => f.loc = .returning) = none → st.reqs.find? (fun r => r.num = req) = some r →
      nextReturn st r = some f → liveReq s r = true → r.refused = false →
      (r.deadline.any (fun d => !admitted s f.addr (frameBytes f) d) = true → exec (.frameReturn k req ok) s =
        .next (tierCount (setStack s k fun x =>
          { x with reqs := x.reqs.map fun y => if y.num = req then { y with refused := true } else y }) 0 1)) ∧
      (∀ a, r.deadline.any (fun d => !admitted s f.addr (frameBytes f) d) = false → bodyFit st f = some a →
        exec (.frameReturn k req ok) s = .next (putFrame s k { f with loc := .returning, dest := a }))) ∧
    (∀ req r d, st.reqs.find? (fun r => r.num = req) = some r → r.deadline = some d → exec (.returnDeadline k req) s =
      .next (setStack (advance s d) k fun st => { st with reqs := st.reqs.filter fun x => x.num ≠ req }))) ∧
  (∀ s f unit die, frameBad s f = none → sealOf (shapeOf f.shape) (frameData s f) = f.crc →
    (f.loc = .top → recCheck (rd s.recs (slotAt f.addr)) (shapeOf f.shape) true = none ∧ recSeal (rd s.recs (slotAt f.addr)) = f.crc) →
    frameCheck s f unit die true = (true, s)) ∧
  (∀ s n id m sh step, n < 152 → (coreAt s n).moves.find? (fun m => m.id = id) = some m → moveWaits s n m = false → moveShape m = sh →
    step = (coreAt s n).launch.elim 0 stepLow →
    (m.kind = .push → sealOf sh m.bytes = m.carried →
      (tagUse m.ftag = 1 → layerMode s (tagLayer m.ftag) = 1 → exec (.moveEnd n id .arrived) s = .next (closeMove (stepCount s 0) n m)) ∧
      (tagUse m.ftag ≠ 1 ∨ layerMode s (tagLayer m.ftag) ≠ 1 → exec (.moveEnd n id .arrived) s =
        .next ((takePush s m.stack m step).elim s fun u => closeMove (stepCount u 0) n m))) ∧
    (m.kind = .push → exec (.moveEnd n id .failed) s = .next (endLost s n m m.src)) ∧
    (m.kind = .push → exec (.moveEnd n id .uncorrectable) s =
      .next (fenceCore (logSeal s (sealRecord s m.src (unitId 1 (dieOf n) n) m.carried 0 4 sh)) n 0)) ∧
    (∀ st o, m.kind = .pop → stackAt s m.stack = some st →
      (isLate s m = true → exec (.moveEnd n id o) s = .next (endLate (spoil s n m) n m true)) ∧
      (isLate s m = false → findFrame st m.ftag step = none →
        (st.overflow = true → exec (.moveEnd n id o) s = .next (endLate (spoil s n m) n m true)) ∧
        (st.overflow = false → (coreAt s n).stop = none → exec (.moveEnd n id o) s =
          .next (closeMove (stopCore s n 0 fStack m.index m.word (2 ^ 60 + 2 ^ 57 * st.num + bits m.ftag.toNat 56 0) none) n m))) ∧
      (∀ f, isLate s m = false → findFrame st m.ftag step = some f →
        (f.loc = .returning → exec (.moveEnd n id o) s = .next s) ∧
        (f.loc = .dropped → exec (.moveEnd n id o) s = .next (endLate (spoil s n m) n m true)) ∧
        (f.loc ≠ .returning → exec (.moveEnd n id .failed) s = .next (endLate (spoil s n m) n m true)) ∧
        (f.loc = .top → recCheck (rd s.recs (slotAt f.addr)) (shapeOf f.shape) true = none → recSeal (rd s.recs (slotAt f.addr)) = f.crc →
          exec (.moveEnd n id .uncorrectable) s = .next (endLate (spoil (logSeal s
            (sealRecord s (frameSource f) (unitId 2 (dieOf n) n) f.crc 0 4 sh)) n m) n m true)) ∧
        (∀ p kind, f.loc = .top ∧ recCheck (rd s.recs (slotAt f.addr)) (shapeOf f.shape) true = none ∧
            recSeal (rd s.recs (slotAt f.addr)) = f.crc ∨
          (f.loc = .body ∨ f.loc = .spilled ∨ f.loc = .spilling) ∧ badGranule s f.addr (frameBytes f) = none →
          sealOf sh (frameData s f) = f.crc → p = (m.slots.headD (0, 0)).1 →
          kind = ((coreAt s n).launch.bind (entryOf s)).elim 0 (·.kind) →
          exec (.moveEnd n id .arrived) s = .next (closeMove (popTaken
            (ownSlots (putTile s (tileSlot n p) sh (frameData s f) f.crc) n p (Shape.slots sh)) m.stack f kind) n m))))) ∧
  (∀ s k m step st, stackAt s k = some st →
    (∀ f, findFrame st m.ftag step = some f →
      (f.loc = .spilling ∨ f.loc = .returning → takePush s k m step = none) ∧
      (f.loc ≠ .spilling → f.loc ≠ .returning → f.crc = m.carried → takePush s k m step = some s) ∧
      (f.loc ≠ .spilling → f.loc ≠ .returning → f.crc ≠ m.carried →
        (fit st.topBase st.topLen (topUsed st) (Shape.bytes (moveShape m)) = none → takePush s k m step = none) ∧
        ∀ a, fit st.topBase st.topLen (topUsed st) (Shape.bytes (moveShape m)) = some a → takePush s k m step =
          some (diverged (placeFrame (setStack (removeFrame s k f) k fun x =>
            { x with nextSeq := (takePushSeq st step).2.nextSeq }) k m f.slot a step (takePushSeq st step).1) st.num m.ftag))) ∧
    (findFrame st m.ftag step = none →
      (freeEntry st m.ftag = none → takePush s k m step =
        some (reportDrop (setStack s k fun st => { st with overflow := true }) m.ftag)) ∧
      (∀ slot, freeEntry st m.ftag = some slot →
        (fit st.topBase st.topLen (topUsed st) (Shape.bytes (moveShape m)) = none → takePush s k m step = none) ∧
        ∀ a, fit st.topBase st.topLen (topUsed st) (Shape.bytes (moveShape m)) = some a → takePush s k m step =
          some (placeFrame (setStack s k fun x => { x with nextSeq := (takePushSeq st step).2.nextSeq }) k m slot a step
            (takePushSeq st step).1)))) ∧
  ∀ s k f kind two, two = (effUse s f.tag = 2) →
    (two → kind ≠ 3 → f.pops = 0 → popTaken s k f kind = putFrame s k { f with pops := 1 }) ∧
    (two → kind = 3 → f.pops = 0 → popTaken s k f kind =
      removeFrame { s with tel := { s.tel with unpopped := s.tel.unpopped + 1 } } k f) ∧
    (¬ two ∨ f.pops ≠ 0 → popTaken s k f kind = removeFrame s k f)

/-- A program image that passes its checks is loaded under its number, in the place of an earlier one, when no core runs that
program and the pools have room; one that fails answers the first failing word and loads nothing, one whose program runs
PROG_IN_USE, one without room PROG_POOL_FULL; its data tiles are sealed as it is loaded. PROG_DROP removes a loaded program that
nothing runs or names; PROG_LIST answers the loaded programs in ascending number. LAUNCH places the launch state, the argument
words and the data tiles on an idle enabled core (answers CORE_BUSY on any other, PROG_UNKNOWN for a number not loaded); where
the words still have their CRC and the data tiles their seals, nothing fails. HALT stops a launch of the host as a trap of kind
3 does, and answers NOTHING_TO_ABORT where nothing runs. A schedule table of whole entries that passes its checks is loaded; one
that fails answers the first failing entry, one not of whole entries MALFORMED; SCHED_DROP removes one that the job does not
name (that a table the job names stays as it is: log 38). (08_tile_program_isa.md; 10_pipeline_sequencer.md; R49; R180; R181;
R182; R183; R204; R228; R231) -/
def Obligations.ProgramCommandsComplete : Prop :=
  ∀ s mb tag c,
    (∀ num rest, num = c.arg0.toNat → rest = s.programs.filter (fun p => p.num ≠ num) → Starts s mb tag 5 1 c →
      clean c 0xFFF 0 true = true →
      (imgBad c.payload = none → runsOf s num = 0 → rest.foldl (fun n p => n + p.image.length) c.payload.length ≤ poolBytes s →
        exec (.progLoad mb tag) s =
          .next (finish { s with programs := rest ++ [⟨num, s.loads, c.payload,
            (List.range (imgTiles c.payload)).map fun t => sealOf regShape (imgTile c.payload t)⟩], loads := s.loads + 1 } mb c 0)) ∧
      (imgBad c.payload = none → 0 < runsOf s num → exec (.progLoad mb tag) s = .next (finish s mb c 0x0503)) ∧
      (imgBad c.payload = none → runsOf s num = 0 → poolBytes s < rest.foldl (fun n p => n + p.image.length) c.payload.length →
        exec (.progLoad mb tag) s = .next (finish s mb c 0x0502)) ∧
      (∀ w, imgBad c.payload = some w → exec (.progLoad mb tag) s = .next (finish s mb c 0x0501 [] (BitVec.ofNat 64 w)))) ∧
    (∀ num, num = c.arg0.toNat → Starts s mb tag 5 2 c → clean c 0xFFF 0 false = true →
      ((findProg s num).isSome = true → runsOf s num = 0 → jobNames s num = false →
        exec (.progDrop mb tag) s = .next (finish { s with programs := s.programs.filter fun p => p.num ≠ num } mb c 0)) ∧
      ((findProg s num).isSome = true → 0 < runsOf s num ∨ jobNames s num = true →
        exec (.progDrop mb tag) s = .next (finish s mb c 0x0503)) ∧
      (findProg s num = none → exec (.progDrop mb tag) s = .next (finish s mb c 0x0506))) ∧
    (Starts s mb tag 5 3 c → clean c 0 0 false = true → exec (.progList mb tag) s =
      .next (finish s mb c 0 ((sortedProgs s).flatMap fun p =>
        le 2 p.num ++ le 2 (imgCount p.image) ++ le 2 (imgTiles p.image) ++ le 2 (runsOf s p.num)))) ∧
    (∀ n p entry first, n = field c.payload 0 2 → findProg s (field c.payload 2 2) = some p → entry = field c.payload 4 4 →
      first = (if entry = 0xFFFFFFFF then imgEntry p.image else entry) → Starts s mb tag 5 4 c → clean c 0 0 true = true →
      c.payload.length = 72 → field c.payload 8 4 < 2 → n < 152 → (coreAt s n).enabled = true → (coreAt s n).launch = none →
      entry = 0xFFFFFFFF ∨ entry < imgCount p.image →
      exec (.launch mb tag) s = .next (launchCore (markStarted s mb c.tag [n]) n p (hostLaunch s mb c.tag c.payload p first))) ∧
    (∀ n, n = field c.payload 0 2 → Starts s mb tag 5 4 c → clean c 0 0 true = true → c.payload.length = 72 → field c.payload 8 4 < 2 →
      (findProg s (field c.payload 2 2) = none → exec (.launch mb tag) s = .next (finish s mb c 0x0506)) ∧
      ((findProg s (field c.payload 2 2)).isSome = true →
        152 ≤ n ∨ (coreAt s n).enabled = false ∨ (coreAt s n).launch.isSome = true →
        exec (.launch mb tag) s = .next (finish s mb c 0x0505))) ∧
    (∀ n, n = c.arg0.toNat → Starts s mb tag 5 5 c → clean c 0xFF 0 false = true → n < 152 → (coreAt s n).enabled = true →
      (∀ l, (coreAt s n).launch = some l → l.host.isSome = true →
        exec (.halt mb tag) s = .next (finish (stopFar (haltCore s n) n) mb c 0)) ∧
      ((coreAt s n).launch = none → exec (.halt mb tag) s = .next (finish s mb c 2))) ∧
    (∀ num, num = c.arg0.toNat → Starts s mb tag 5 0x10 c → clean c 0xF 0 true = true →
      (c.payload.length % 64 ≠ 0 → exec (.schedLoad mb tag) s = .next (finish s mb c 0x10)) ∧
      (c.payload.length % 64 = 0 → tableBad c.payload = none → tableNamed s num = false ∨ findTable s num = none → exec (.schedLoad mb tag) s =
        .next (finish { s with tables := (num, parseTable c.payload) :: s.tables.filter fun t => t.1 ≠ num } mb c 0)) ∧
      (c.payload.length % 64 = 0 → tableBad c.payload = none → tableNamed s num = true → (findTable s num).isSome = true →
        exec (.schedLoad mb tag) s = .next (finish s mb c 0x0582)) ∧
      (∀ i, c.payload.length % 64 = 0 → tableBad c.payload = some i →
        exec (.schedLoad mb tag) s = .next (finish s mb c 0x0581 [] (BitVec.ofNat 64 i)))) ∧
    (∀ num, num = c.arg0.toNat → Starts s mb tag 5 0x11 c → clean c 0xF 0 false = true → (findTable s num).isSome = true →
      tableNamed s num = false →
      exec (.schedDrop mb tag) s = .next (finish { s with tables := s.tables.filter fun t => t.1 ≠ num } mb c 0)) ∧
    ∀ n p l u, insnsWhole p.image = true → tileBad p = none → u = lightCore s n →
      launchCore s n p l = setCore (placeData (setCore u n fun x => { x.launched p
          { l with start := s.time, waitLimit := imgWait p.image } u.time with loaded := (coreAt u n).loaded }) n p) n
        fun x => { x with loaded := some (p.num, p.load) }

/-- JOB_LOAD of a descriptor whose every check passes puts a new job, LOADED, in the place of one that is not running; one that
fails answers the lowest failing offset and changes nothing. JOB_START of a table that is loaded and fits starts the walk of its
step; JOB_SWAP keeps a table for the next flip; JOB_STOP with 0 lets the step finish, with 1 fails it; JOB_UNLOAD ends a job
that is not running; JOB_STATUS answers a block whose layout is open (log 36); JOB_LENGTHS stores a whole length table for a
step in reach; a table that is not whole answers its first failing entry, one for a step out of reach JOB_STEP, and stores
nothing. A command that the job's state does not admit answers JOB_STATE. TOPO_ROUTE of valid records stores each in its route
table; one not of whole records is MALFORMED. That JOB_SWAP checks its table is the model's choice (log 41).
(10_pipeline_sequencer.md; 13_ewete_fabric.md; R49; R225; R227; R228; R229; R232; R237; R240; R324) -/
def Obligations.JobCommandsComplete : Prop :=
  ∀ s mb tag c,
    (Starts s mb tag 6 1 c → clean c 0 0 true = true → jobIn s [.idle, .stopped, .held] = true →
      (∀ xs, jobBad s c.payload = none → jobSects c.payload = .ok xs →
        exec (.jobLoad mb tag) s = .next (finish (loadJob s c.payload xs) mb c 0)) ∧
      (∀ o, jobBad s c.payload = some o → exec (.jobLoad mb tag) s = .next (finish s mb c 0x0601 [] (BitVec.ofNat 64 o)))) ∧
    (Starts s mb tag 6 1 c → clean c 0 0 true = true → jobIn s [.idle, .stopped, .held] = false →
      exec (.jobLoad mb tag) s = .next (finish s mb c 0x0602)) ∧
    (∀ n, n = c.arg0.toNat → Starts s mb tag 6 2 c → clean c (2 ^ 48 - 1) 0 false = true →
      jobIn s [.loaded, .stopped, .held] = true → tableStop s (s.job.swap.getD s.job.schedule) = none → s.res.lost = false →
      (s.job.phase = .loaded ∨ n = nextStep s → exec (.jobStart mb tag) s = .next (finish (startJob s n) mb c 0)) ∧
      (s.job.phase ≠ .loaded → n ≠ nextStep s → exec (.jobStart mb tag) s = .next (finish s mb c 0x0604))) ∧
    (Starts s mb tag 6 7 c → clean c 0xF 0 false = true → jobIn s [.running, .stopped, .held, .loaded] = true →
      tableStop s c.arg0.toNat = none →
      exec (.jobSwap mb tag) s = .next (finish (jobOf s fun j => { j with swap := some c.arg0.toNat }) mb c 0)) ∧
    (Starts s mb tag 6 3 c → clean c 1 0 false = true →
      (c.arg0 = 0 → s.job.phase = .running →
        exec (.jobStop mb tag) s = .next (finish (jobOf s fun j => { j with phase := .stopping }) mb c 0)) ∧
      (c.arg0 = 1 → s.job.phase = .running ∨ s.job.phase = .stopping →
        exec (.jobStop mb tag) s = .next (failStep (finish s mb c 0) none)) ∧
      (s.job.phase ≠ .running → s.job.phase ≠ .stopping → exec (.jobStop mb tag) s = .next (finish s mb c 0x0602))) ∧
    (Starts s mb tag 6 6 c → clean c 0 0 false = true → jobIn s [.loaded, .stopped, .held] = true →
      exec (.jobUnload mb tag) s = .next (finish (unloadJob s) mb c 0) ∧ (unloadJob s).job = Job.reset ∧ (unloadJob s).stackSet = []) ∧
    (Starts s mb tag 6 5 c → clean c 0 0 false = true →
      exec (.jobStatus mb tag) s = .next (finish (bump s 1) mb c 0 (Config.jobStatus s.freeCount))) ∧
    (∀ n xs, n = c.arg0.toNat → xs = (records 4 c.payload).map (fun r => field r.2 0 4) → Starts s mb tag 6 4 c →
      clean c (2 ^ 48 - 1) 0 true = true → s.job.phase ≠ .idle →
      (lengthsBad s.job.microBatches c.payload = none → lengthsTaken s n = true → exec (.jobLengths mb tag) s =
        .next (finish (jobOf s fun j => { j with lengths := (n, xs) :: j.lengths.filter fun l => l.1 ≠ n }) mb c 0)) ∧
      (lengthsBad s.job.microBatches c.payload = none → lengthsTaken s n = false →
        exec (.jobLengths mb tag) s = .next (finish s mb c 0x0604)) ∧
      (∀ o, lengthsBad s.job.microBatches c.payload = some o →
        exec (.jobLengths mb tag) s = .next (finish s mb c 0x0601 [] (BitVec.ofNat 64 o)))) ∧
    (Starts s mb tag 6 0x20 c → clean c 0 0 true = true →
      (c.payload.length % 16 ≠ 0 → exec (.topoRoute mb tag) s = .next (finish s mb c 0x10)) ∧
      (c.payload.length % 16 = 0 → firstBad (routeChecks c.payload) = none →
        exec (.topoRoute mb tag) s = .next (finish { s with fab := { s.fab with
          routes := (records 16 c.payload).foldl (fun rt r =>
            rt.modify (field r.2 0 1) fun t => t.set (field r.2 1 1) (BitVec.ofNat 64 (field r.2 8 8))) s.fab.routes } } mb c 0)) ∧
      (∀ o, c.payload.length % 16 = 0 → firstBad (routeChecks c.payload) = some o →
        exec (.topoRoute mb tag) s = .next (finish s mb c 0x0681 [] (BitVec.ofNat 64 o))))

/-- For a table that is loaded and fits, and a job that no failed restore has left without weights: from LOADED, JOB_START of any
step starts the job; from STOPPED or HELD it starts it exactly when it names the step after the last committed one, and
completes JOB_STEP otherwise. The started job is RUNNING with its step counter at that step, every entry of its table pending
and an open step record of that step; cores, memories, mailboxes and time are as they were. A restore leaves the job HELD with
the restored step as the last committed step. (R229) -/
def Obligations.JobStartNamesItsStep : Prop :=
  (∀ s mb tag c n, n = c.arg0.toNat → Starts s mb tag 6 2 c → clean c (2 ^ 48 - 1) 0 false = true →
    tableStop s (s.job.swap.getD s.job.schedule) = none → s.res.lost = false →
    (s.job.phase = .loaded → exec (.jobStart mb tag) s = .next (finish (startJob s n) mb c 0)) ∧
    (s.job.phase = .stopped ∨ s.job.phase = .held → ∀ k, s.res.committed = some k →
      (n = k + 1 → exec (.jobStart mb tag) s = .next (finish (startJob s n) mb c 0)) ∧
      (n ≠ k + 1 → exec (.jobStart mb tag) s = .next (finish s mb c 0x0604)))) ∧
  (∀ s n, let t := startJob s n
    t.job.phase = .running ∧ t.job.step = n ∧ t.job.swap = none ∧ t.job.schedule = s.job.swap.getD s.job.schedule ∧
    (∀ x ∈ t.job.walk, x = freshEntry) ∧ t.job.walk.length = t.job.table.length ∧
    (∀ e, findTable s (s.job.swap.getD s.job.schedule) = some e → t.job.table = e) ∧
    (∃ r, t.tel.stepRec = some r ∧ r.step = n ∧ r.seq = s.tel.nextSeq ∧ r.start = s.time) ∧
    t.cores = s.cores ∧ t.dram = s.dram ∧ t.ctl = s.ctl ∧ t.recs = s.recs ∧ t.host = s.host ∧ t.time = s.time) ∧
  (∀ s b r, let t := restored s b r
    t.job.phase = .held ∧ t.res.committed = some (field b 8 8))

/-- ENTRY_START of a pending entry that may start, in a group with an enabled core, starts it: a SYNC, a skipped B or an all-frozen
W completes at once, a COLLECTIVE starts its operation, any other has its instances pending and its returns asked for; in a
group without an enabled core it fails the entry. W_LATEST_START starts an eligible W entry when its latest start has come.
RETURN_REQUEST issues the return requests LEAD_US before the start as it is predicted then. INSTANCE_DISPATCH launches the next
pending instance of the first started entry of its group on the lowest idle core, with the launch identity of R234; the cheaper
path takes the RECOMPUTE program. INSTANCE_END clears the core and keeps the launch's die and hub pairs: an instance that ended
with END is done and lets its entry complete; one that ended with code 1 runs again as the cheaper path, once; a fault is
retried once unless the launch cannot start anew, which makes the entry run again once; any other trap fails the entry. Rows
about no entry, or with no step walking, change nothing. (10_pipeline_sequencer.md; 04_cores_tile_store_seals.md; R108; R201;
R233; R234; R235; R238; R239; R241; R242; R445) -/
def Obligations.SequencerMovesOn : Prop :=
  (∀ s i, s.job.pairs[i]? = none ∨ walking s = false →
    exec (.entryStart i) s = .next s ∧ exec (.wLatestStart i) s = .next s ∧ exec (.returnRequest i) s = .next s ∧
      exec (.instanceDispatch i) s = .next s) ∧
  (∀ s i e x, s.job.pairs[i]? = some (e, x) → walking s = true →
    (x.phase = .pending →
      ((liveCores s e.group).isEmpty = false → startsNow s i e = true → exec (.entryStart i) s = .next (startEntry s i e x)) ∧
      ((liveCores s e.group).isEmpty = false → startsNow s i e = false → exec (.entryStart i) s = .next s) ∧
      ((liveCores s e.group).isEmpty = true → exec (.entryStart i) s = .next (failEntry s i)) ∧
      (e.kind = 3 → eligible s i e = true → exec (.wLatestStart i) s = .next (tryStart (advance s (latestStart s i e)) i)) ∧
      (∀ u, wantsReturns s e x = true → u = advance s (predStart s i e - e.leadUs * 1000) → exec (.returnRequest i) s =
        .next (if predStart u i e ≤ u.time + e.leadUs * 1000 then issueReturns u i e (predStart u i e) else u)) ∧
      (wantsReturns s e x = false → exec (.returnRequest i) s = .next s)) ∧
    (x.phase ≠ .pending → exec (.entryStart i) s = .next s ∧ exec (.wLatestStart i) s = .next s ∧ exec (.returnRequest i) s = .next s) ∧
    (∀ cores n k inst p l, cores = liveCores s e.group → x.phase = .started →
      (∀ q ∈ s.job.pairs, ¬(q.1.group = e.group ∧ q.2.phase = .started ∧ q.2.order < x.order ∧ hasPending q.2 = true)) →
      cores.find? (fun n => (coreAt s n).launch.isNone) = some n → x.insts.findIdx? (fun k => k.phase = .pending) = some k →
      x.insts[k]? = some inst → findProg s (if inst.cheap then e.recompute else e.program) = some p →
      l = instanceLaunch (if inst.cheap then stepCount s 3 else s) i k (cores.findIdx fun c => c = n) cores.length e x inst p →
      exec (.instanceDispatch i) s = .next (launchCore (setEntry (if inst.cheap then stepCount s 3 else s) i fun x =>
        { x with insts := x.insts.set k { inst with phase := .running n } }) n p l)) ∧
    (∀ n l k y t put, n < 152 → (coreAt s n).launch = some l → l.sched = some i → k = l.number % 65536 →
      x.phase = .started → x.insts[k]? = some y → y.phase = .running n → t = clearLaunch s n →
      put = (fun (f : Inst → Inst) => setEntry t i fun x => { x with insts := x.insts.modify k fun y => f (y.keeping l) }) →
      (∀ code, code ≠ 1 → (coreAt s n).ending = some (false, code) →
        exec (.instanceEnd n) s = .next (settleEntry (put fun y => { y with phase := .done }) i)) ∧
      ((coreAt s n).ending = some (false, 1) →
        (l.cheaper = false → e.recompute ≠ 0xFFFF →
          exec (.instanceEnd n) s = .next (put fun y => { y with phase := .pending, cheap := true })) ∧
        (l.cheaper = true ∨ e.recompute = 0xFFFF → exec (.instanceEnd n) s = .next (failEntry t i))) ∧
      ((coreAt s n).ending = some (true, 0) → y.again = false →
        (l.bound = false → exec (.instanceEnd n) s = .next (put fun y => { y with phase := .pending, again := true })) ∧
        (l.bound = true → exec (.instanceEnd n) s = .next (settleEntry
          (setEntry (put fun y => { y with phase := .failed }) i fun x => { x with broken := true }) i))) ∧
      (∀ code, code ≠ 0 ∨ y.again = true → (coreAt s n).ending = some (true, code) →
        exec (.instanceEnd n) s = .next (failEntry t i)))) ∧
  (∀ s i e x m u, m = markEntry s i e → u = (if firstUpdate s e then noteUpdate m m.job.step else m) →
    (atOnce s e = true → startEntry s i e x = completeEntry u i) ∧
    (atOnce s e = false → e.kind = 5 → startEntry s i e x = startCollective u (e.program % 4096) i) ∧
    (atOnce s e = false → e.kind ≠ 5 → startEntry s i e x =
      setEntry (if wantsReturns u e x then issueReturns u i e u.time else u) i fun x =>
        { x with insts := List.replicate e.instances ⟨.pending, false, false, [], []⟩ })) ∧
  ∀ s i e x, s.job.pairs[i]? = some (e, x) → x.phase = .started → x.insts.all instEnded = true →
    (x.broken = false → settleEntry s i = completeEntry s i) ∧
    (x.broken = true → bit e.flags 2 = true ∨ x.rerun = true → settleEntry s i = failEntry s i) ∧
    (x.broken = true → bit e.flags 2 = false → x.rerun = false → settleEntry s i = setEntry s i fun x => { x with
      broken := false, rerun := true, insts := x.insts.map fun k => { k with phase := .pending, cheap := false, again := false } })

/-- COLL_DEFINE of descriptors that all pass and name no operation in progress defines each; a failing one answers its index and
defines none, one of an operation in progress COLL_IN_USE, a payload not of whole descriptors MALFORMED. COLL_DROP removes a
definition that nothing uses, and answers which of the two it is where it does not; COLL_STATUS answers its 32 bytes; TOPO_QUERY
answers the near ports. RESHARD to the next generation waits, and installs at once when no step walks and nothing runs;
GEN_INSTALL installs then too, and changes nothing while there is nothing to install. RESHARD with DISCARD ends every operation,
installs, and fails the step of the first one (log 42 for a step with none). An operation or ring whose limit has passed ends
with outcome 3. A gradient hand-off takes the consumer's semaphore, hands one more item over, and sends its tiles when each is
sealed; an image of the last step is not sent; an unsealed tile is logged as a seal fault and ends the ring with outcome 2; a
ring with nothing to take changes nothing. (14_collectives_meridian.md; 13_ewete_fabric.md; R49; R333; R338; R343; R344; R345;
R352; R295; R100; R105) -/
def Obligations.CollectiveCommandsComplete : Prop :=
  (∀ s mb tag c,
    (∀ ds, ds = (records 128 c.payload).map (fun r => r.2) → Starts s mb tag 6 0x22 c → clean c 0 0 true = true → c.payload.length % 128 = 0 →
      (ds.all (collOk s) = true → (ds.any fun d => collBusy s (field d 0 2)) = false → exec (.collDefine mb tag) s =
        .next (finish { s with coll := { s.coll with defs := ds.foldl (fun defs d =>
          ⟨field d 0 2, d, 0, 0, 0, 0, 0, 0, none⟩ :: defs.filter fun x => x.handle ≠ field d 0 2) s.coll.defs } } mb c 0)) ∧
      (ds.all (collOk s) = true → (ds.any fun d => collBusy s (field d 0 2)) = true →
        exec (.collDefine mb tag) s = .next (finish s mb c 0x0683)) ∧
      (∀ i, ds.findIdx? (fun d => !collOk s d) = some i →
        exec (.collDefine mb tag) s = .next (finish s mb c 0x0682 [] (BitVec.ofNat 64 i)))) ∧
    (Starts s mb tag 6 0x22 c → clean c 0 0 true = true → c.payload.length % 128 ≠ 0 →
      exec (.collDefine mb tag) s = .next (finish s mb c 0x10)) ∧
    (∀ h, h = c.arg0.toNat → Starts s mb tag 6 0x23 c → clean c 0xFFF 0 false = true →
      (findDef s h = none → exec (.collDrop mb tag) s = .next (finish s mb c 0x0684)) ∧
      ((findDef s h).isSome = true →
        (collBusy s h = false → (∀ t ∈ s.tables, ∀ e ∈ t.2, ¬(e.kind = 5 ∧ e.program % 4096 = h)) → exec (.collDrop mb tag) s =
          .next (finish { s with coll := { s.coll with defs := s.coll.defs.filter fun d => d.handle ≠ h } } mb c 0)) ∧
        (collBusy s h = true ∨ (∃ t ∈ s.tables, ∃ e ∈ t.2, e.kind = 5 ∧ e.program % 4096 = h) → exec (.collDrop mb tag) s =
          .next (finish s mb c 0x0683)))) ∧
    (∀ d, Starts s mb tag 6 0x25 c → clean c 0xFFF 0 false = true → findDef s c.arg0.toNat = some d →
      exec (.collStatus mb tag) s = .next (finish s mb c 0 (collStatusBytes d))) ∧
    (Starts s mb tag 6 0x21 c → clean c 0 0 false = true → exec (.topoQuery mb tag) s =
      .next (finish s mb c 0 (s.fab.near.flatMap fun x => le 1 (portCode x.state) ++ le 1 x.version ++ zeros 2 ++ le 4 (peerDevice x)))) ∧
    (∀ gen lists o r t u, gen = bits c.arg0.toNat 15 0 → Starts s mb tag 6 0x24 c → clean c 0x1FFFF 0 true = true → s.job.phase ≠ .idle →
      firstBad (reshardChecks s c.payload) = none → reshardParts s c.payload = some (lists, o) →
      r = ⟨mb, c.tag, gen, lists.map (·.2), (records 64 (c.payload.drop o)).map fun x => parseRing x.2⟩ →
      (gen ≠ (s.coll.gen + 1) % 65536 ∨ s.coll.pending.isSome = true → exec (.reshard mb tag) s = .next (finish s mb c 0x0685)) ∧
      (gen = (s.coll.gen + 1) % 65536 → s.coll.pending = none →
        (bit c.arg0.toNat 16 = false → t = markStarted { s with coll := { s.coll with pending := some r } } mb c.tag [] →
          (walking s = true ∨ s.coll.runs ≠ [] ∨ s.coll.rings ≠ [] → exec (.reshard mb tag) s = .next t) ∧
          (walking s = false → s.coll.runs = [] → s.coll.rings = [] → exec (.reshard mb tag) s = .next (installReshard t r))) ∧
        (bit c.arg0.toNat 16 = true → u = installReshard (markStarted (discardAll s) mb c.tag []) r →
          (∀ e, discardedEntry s = some e → exec (.reshard mb tag) s = .next (failStep u (some e))) ∧
          (discardedEntry s = none → exec (.reshard mb tag) s = .next u)))) ∧
    (∀ o, Starts s mb tag 6 0x24 c → clean c 0x1FFFF 0 true = true → s.job.phase ≠ .idle → firstBad (reshardChecks s c.payload) = some o →
      exec (.reshard mb tag) s = .next (finish s mb c 0x0681 [] (BitVec.ofNat 64 o)))) ∧
  (∀ s r, walking s = false → s.coll.pending = some r → s.coll.runs = [] → s.coll.rings = [] →
    exec .genInstall s = .next (installReshard s r) ∧ (installReshard s r).coll.gen = r.gen) ∧
  (∀ s, walking s = true ∨ s.coll.pending = none ∨ s.coll.runs ≠ [] ∨ s.coll.rings ≠ [] → exec .genInstall s = .next s) ∧
  (∀ s h, findDef s h = none → exec (.collLimitExpiry h) s = .next s) ∧
  (∀ s h d limit, findDef s h = some d → limit = dLimit d.desc → limit ≠ 0 →
    (∀ r, findRun s h = some r → exec (.collLimitExpiry h) s = .next (collFail (advance s (r.start + limit * 1000000)) h 3)) ∧
    (∀ r, findRun s h = none → s.coll.rings.find? (fun r => r.handle = h) = some r →
      exec (.collLimitExpiry h) s = .next (ringFail (advance s (r.start + limit * 1000000)) r.ring 3))) ∧
  ∀ s ring c r sem rest, ring < 8 → ringCtx s ring = some c → findRing s ring = some r → purposeSems s (0x28 + ring) = sem :: rest →
    (r.backward = false ∨ r.handed = c.n * c.rec'.blocks ∨ ringHolds s c sem = false → exec (.gradientHandoff ring) s = .next s) ∧
    (∀ h t, r.backward = true → h = r.handed → h ≠ c.n * c.rec'.blocks → ringHolds s c sem = true →
      t = setRing (ringTake s c sem) ring (fun r => { r with handed := h + 1 }) →
      (c.items ≤ h → exec (.gradientHandoff ring) s = .next (pumpRing t ring)) ∧
      (∀ tiles, h < c.items → gradImage t c h = .ok tiles →
        exec (.gradientHandoff ring) s = .next (pumpRing (queueItem t ring true (c.items + h) tiles) ring)) ∧
      (∀ q, h < c.items → gradImage t c h = .error q →
        exec (.gradientHandoff ring) s = .next (ringFail (logSeal t q) ring 2)))

/-- A COL_DATA packet of an operation in progress from a member that is expected to send its tile is kept while the tile is not
whole, and the whole tile is then checked, asked for once more where its seal disagrees, and ends the operation with outcome 2
where it does so again; a COL_CREDIT from a rank that this one sends to raises its limit and lets go of the tiles that it
covers, one from any other rank is stale; a COL_RESEND sends the kept tile once more, and the operation ends with outcome 1
where no port leads to its receiver; COL_COUNTS of an exchange is taken once per sender; COL_ABORT from a rank that the
operation has to do with, or a neighbour of the ring, ends it with outcome 5. A packet out of order is passed over. A packet
that belongs to no operation of the running step changes nothing but the count of stale packets. (14_collectives_meridian.md;
R299; R336; R337; R339; R340; R341; R342; R345; R104) -/
def Obligations.CollectivePacketsAct : Prop :=
  (∀ s p t, t = taken s p →
    (Arrives s p 0x20 → runOf t p = none → exec (.colData p) s = .next (stepCount t 12)) ∧
    (Arrives s p 0x21 → runOf t p = none → exec (.colCredit p) s = .next (stepCount t 12)) ∧
    (Arrives s p 0x22 → runOf t p = none → exec (.colResend p) s = .next (stepCount t 12)) ∧
    (Arrives s p 0x23 → runOf t p = none → exec (.colCounts p) s = .next (stepCount t 12)) ∧
    (Arrives s p 0x24 → bit p.channel.toNat 15 = false → runOf t p = none → exec (.colAbort p) s = .next (stepCount t 12)) ∧
    (Arrives s p 0x24 → bit p.channel.toNat 15 = true → ringOf t p true = none → ringOf t p false = none →
      exec (.colAbort p) s = .next (stepCount t 12))) ∧
  (∀ s p t o r q item, t = taken s p → runOf t p = some (o, r) → q = p.spec3.toNat → item = p.addr % 2 ^ 32 →
    (Arrives s p 0x20 → itemExpected t o r q item = false → exec (.colData p) s = .next (stepCount t 12)) ∧
    (∀ idx bs rest u, Arrives s p 0x20 → itemExpected t o r q item = true →
      (idx, bs) = (if p.index = 0 then (0, []) else (r.parts.find? fun x => x.1 = q && x.2.1 = item).elim (0, []) (·.2.2)) →
      rest = r.parts.filter (fun x => !(x.1 = q && x.2.1 = item)) →
      (p.index.toNat ≠ idx → exec (.colData p) s = .next t) ∧
      (p.index.toNat = idx → bs.length + p.payload.length < Shape.bytes (expectShape o p) → exec (.colData p) s =
        .next (setRun t o.h fun r => { r with parts := (q, item, idx + 1, bs ++ p.payload) :: rest })) ∧
      (p.index.toNat = idx → Shape.bytes (expectShape o p) ≤ bs.length + p.payload.length → u = setRun t o.h (fun r => { r with parts := rest }) →
        exec (.colData p) s = .next (tileWhole u o r p (bs ++ p.payload)))) ∧
    (Arrives s p 0x21 → o.receivers.contains q = false → exec (.colCredit p) s = .next (stepCount t 12)) ∧
    (Arrives s p 0x21 → o.receivers.contains q = true → exec (.colCredit p) s = .next (pumpRun (setRun
      (setMate t o.h q fun m => { m with limit := max m.limit p.spec0.toNat }) o.h
      fun r => { r with out := r.out.filter fun x => !(x.rcv = q && x.place.any (· < item)) }) o.h)) ∧
    (∀ x u, Arrives s p 0x22 → (r.out.filter fun x => x.rcv = q && x.item = item && x.place.isSome).getLast? = some x →
      (sendTile t 0x20 (o.dev x.rcv) o.rank o.h x = some u → exec (.colResend p) s = .next u) ∧
      (sendTile t 0x20 (o.dev x.rcv) o.rank o.h x = none → exec (.colResend p) s = .next (collFail t o.h 1))) ∧
    (Arrives s p 0x23 → dOp o.d = 5 → (r.counts.any fun c => c.1 = q) = false → p.payload.length = 8 → exec (.colCounts p) s =
      .next (pumpRun (creditAll (placeHeld (setRun t o.h fun r =>
        { r with counts := r.counts ++ [(q, field p.payload 0 4, field p.payload 4 4)] }) o) o) o.h)) ∧
    (Arrives s p 0x23 → dOp o.d ≠ 5 ∨ (r.counts.any fun c => c.1 = q) = true → exec (.colCounts p) s = .next (stepCount t 12)) ∧
    (Arrives s p 0x24 → bit p.channel.toNat 15 = false →
      ((r.mates.any fun m => m.rank = q) = true → exec (.colAbort p) s = .next (collFail t o.h 5)) ∧
      ((r.mates.any fun m => m.rank = q) = false → exec (.colAbort p) s = .next (stepCount t 12)))) ∧
  (∀ s p c r, Arrives s p 0x24 → bit p.channel.toNat 15 = true → ringOf (taken s p) p true = some (c, r) →
    exec (.colAbort p) s = .next (ringFail (taken s p) r.ring 5)) ∧
  ∀ s o r p q t sh bs, q = p.spec3.toNat → t = p.addr % 2 ^ 32 → sh = expectShape o p → arrivalOk s p sh bs = none →
    (r.asked.contains (q, t) = true → tileWhole s o r p bs = collFail (tileSpoiled s o r p q t sh bs) o.h 2) ∧
    (∀ port, r.asked.contains (q, t) = false →
      pickPort (setRun s o.h fun r => { r with asked := (q, t) :: r.asked }) (o.dev q) 2 = some port →
      tileWhole s o r p bs = sendOn (setRun s o.h fun r => { r with asked := (q, t) :: r.asked }) port
        [collPacket (setRun s o.h fun r => { r with asked := (q, t) :: r.asked }) 0x22 (o.dev q) t 0 0 o.rank o.h false])

/-- A packet of a block or gradient item that the predecessor may send is kept while its tile is not whole; the whole tile is then
checked into its slot. A RING_CREDIT from the successor raises the limit of the flow it speaks of (which flow is the model's
reading, log 35) and lets go of the tiles it covers. A RING_RESEND sends the kept tiles of its item once more, of either flow;
one without a kept tile is stale. A tile whose seal disagrees has its item asked for once more, and what still comes of the
first sending is passed over. A packet that belongs to no ring of the running step only raises the count of stale packets.
(14_collectives_meridian.md; R299; R342; R347; R349; R350; R351; R352; R104) -/
def Obligations.RingPacketsAct : Prop :=
  (∀ s p t, t = taken s p →
    (Arrives s p 0x30 → ringOf t p true = none → exec (.ringBlock p) s = .next (stepCount t 12)) ∧
    (Arrives s p 0x31 → ringOf t p false = none → exec (.ringCredit p) s = .next (stepCount t 12)) ∧
    (Arrives s p 0x32 → ringOf t p true = none → exec (.ringGrad p) s = .next (stepCount t 12)) ∧
    (Arrives s p 0x33 → ringOf t p false = none → exec (.ringResend p) s = .next (stepCount t 12))) ∧
  (∀ s p t c r q j idx bs, t = taken s p → ringOf t p true = some (c, r) → q = p.addr % 2 ^ 32 →
    (Arrives s p 0x30 → c.items ≤ q ∨ r.blk.got.contains q = true ∨ r.blk.told.2 ≤ q → exec (.ringBlock p) s = .next (stepCount t 12)) ∧
    (Arrives s p 0x32 → r.backward = false ∨ q < c.items ∨ 2 * c.items ≤ q ∨ r.grad.got.contains q = true ∨ r.grad.told.2 ≤ q →
      exec (.ringGrad p) s = .next (stepCount t 12)) ∧
    (Arrives s p 0x30 → q < c.items → r.blk.got.contains q = false → q < r.blk.told.2 →
      (j, idx, bs) = (r.blk.parts.find? fun x => x.1 = q).elim (0, 0, []) (·.2) → p.index.toNat ≠ idx →
      exec (.ringBlock p) s = .next t) ∧
    (Arrives s p 0x32 → r.backward = true → c.items ≤ q → q < 2 * c.items → r.grad.got.contains q = false → q < r.grad.told.2 →
      (j, idx, bs) = (r.grad.parts.find? fun x => x.1 = q).elim (0, 0, []) (·.2) → p.index.toNat ≠ idx →
      exec (.ringGrad p) s = .next t) ∧
    (Arrives s p 0x30 → q < c.items → r.blk.got.contains q = false → q < r.blk.told.2 →
      (j, idx, bs) = (r.blk.parts.find? fun x => x.1 = q).elim (0, 0, []) (·.2) → p.index.toNat = idx →
      (bs.length + p.payload.length < Shape.bytes (ringShape c false j p) → exec (.ringBlock p) s =
        .next (setRing t r.ring fun r => { r with blk := { r.blk with
          parts := (q, j, idx + 1, bs ++ p.payload) :: r.blk.parts.filter fun x => x.1 ≠ q } })) ∧
      (Shape.bytes (ringShape c false j p) ≤ bs.length + p.payload.length →
        exec (.ringBlock p) s = .next (ringTile t c r false q j p (bs ++ p.payload)))) ∧
    (Arrives s p 0x32 → r.backward = true → c.items ≤ q → q < 2 * c.items → r.grad.got.contains q = false → q < r.grad.told.2 →
      (j, idx, bs) = (r.grad.parts.find? fun x => x.1 = q).elim (0, 0, []) (·.2) → p.index.toNat = idx →
      (bs.length + p.payload.length < Shape.bytes (ringShape c true j p) → exec (.ringGrad p) s =
        .next (setRing t r.ring fun r => { r with grad := { r.grad with
          parts := (q, j, idx + 1, bs ++ p.payload) :: r.grad.parts.filter fun x => x.1 ≠ q } })) ∧
      (Shape.bytes (ringShape c true j p) ≤ bs.length + p.payload.length →
        exec (.ringGrad p) s = .next (ringTile t c r true q j p (bs ++ p.payload))))) ∧
  (∀ s p t c r q, t = taken s p → ringOf t p false = some (c, r) → q = p.addr % 2 ^ 32 →
    (Arrives s p 0x31 → (r.backward = false ∨ p.spec0.toNat ≤ c.items) → exec (.ringCredit p) s =
      .next (pumpRing (setRing t r.ring fun r => { r with blk := { r.blk with
        limit := max r.blk.limit p.spec0.toNat, cred := max r.blk.cred q
        out := r.blk.out.filter fun x => !(x.place.isSome && x.item < q) } }) r.ring)) ∧
    (Arrives s p 0x31 → r.backward = true → c.items < p.spec0.toNat → exec (.ringCredit p) s =
      .next (pumpRing (setRing t r.ring fun r => { r with grad := { r.grad with
        limit := max r.grad.limit p.spec0.toNat, cred := max r.grad.cred q
        out := r.grad.out.filter fun x => !(x.place.isSome && x.item < q) } }) r.ring)) ∧
    (∀ grad kept sent, Arrives s p 0x33 → grad = decide (c.items ≤ q) → kept = (r.flow grad).out.filter (fun x => x.item = q && x.place.isSome) →
      sent = kept.foldl (fun (s : Option State) x =>
        s.bind fun s => sendTile s (if grad then 0x32 else 0x30) c.nextDev c.rank (ringChannel r.ring) x) (some t) →
      (kept = [] → exec (.ringResend p) s = .next (stepCount t 12)) ∧
      (∀ u, kept ≠ [] → sent = some u → exec (.ringResend p) s = .next u) ∧
      (sent = none → exec (.ringResend p) s = .next (ringFail t r.ring 1)))) ∧
  ∀ s c r grad q j p bs sh count, sh = ringShape c grad j p →
    count = (if grad then gradTiles c.rec' else (imageShapes c.rec').length) →
    ((r.flow grad).redo.contains q = true → ringTile s c r grad q j p bs = nextTile s r.ring grad q j count) ∧
    (∀ crc u, (r.flow grad).redo.contains q = false → (r.flow grad).asked.contains q = false → arrivalOk s p sh bs = some crc →
      u = setDef (putTile s (slotAt (ringPlace c grad q j)) sh bs crc) r.handle (fun d => { d with received := d.received + 1 }) →
      ringTile s c r grad q j p bs = pumpRing (if j + 1 = count then itemWhole u c grad q else nextTile u r.ring grad q j count) r.ring) ∧
    ((r.flow grad).redo.contains q = false → arrivalOk s p sh bs = none →
      ringTile s c r grad q j p bs = ringSpoiled s c r grad q j count p sh bs)

/-- A tensor of tr × tc tiles has T = tr × tc tiles, and the tile of index i × tc + j is tile (i, j): its address, its seal-table
entry and its shape are those of row i and column j. For T tiles and N members, rank r is the owner of tile t exactly when
floor(T r / N) ≤ t < floor(T (r + 1) / N), and every tile has an owner below N. When T < N, some rank's chunk is empty. (R334) -/
def Obligations.ChunksPartitionTheTiles : Prop :=
  (∀ d : Desc, rangeTiles d = d.tr * d.tc ∧ ∀ i j, j < d.tc → tileAt d (i * d.tc + j) = d.addr i j ∧
    sealAt d (i * d.tc + j) = d.sealAddr i j ∧ tileShape d (i * d.tc + j) = d.shape i j) ∧
  (∀ T N t, t < T → 0 < N → chunkOf T N t < N ∧ ∀ r, chunkOf T N t = r ↔ T * r / N ≤ t ∧ t < T * (r + 1) / N) ∧
  (∀ T N, T < N → ∃ r < N, T * r / N = T * (r + 1) / N)

/-- A trained port sends its block and stands in EXCHANGE; the block of the expected peer brings it UP with the lower version and
the announced credits, another is an event; a missing block is sent again after 1 ms. At a port that is UP the swap of a lane, a
retune and loss of lock open a window, 10 ms after its last at the soonest: the port is HELD, its pair's other port is not, and
what waits takes that port; the command that meets the port HELD ends the window, after 30 or 150 µs, and the port serves again,
with its spare where it swapped, or fails without lock. A swap that is not due, or of a port not linked, changes nothing, and
one without a spare fails the port. That a window ends by the same row, and that a port which has not finished a transaction
opens none yet, are the model's choices (log 25). A removed cable takes both ports DOWN and is counted; an inserted one lets
them train. A flit in order is delivered and its credits taken; one that fails its check, or the first out of order, asks for a
resend. NEAR_PORT applies its request to each port of its mask. (13_ewete_fabric.md; 21_module_hardware.md; R294; R295; R296;
R297; R298; R299; R300; R303; R444; R486) -/
def Obligations.NearPortsMoveOn : Prop :=
  (∀ s n x, n < 36 → x = nearAt s n →
    (x.state = .train → exec (.portTrained n) s = .next (sendBlock (linkDown s n .exchange) n)) ∧
    (x.state ≠ .train → exec (.portTrained n) s = .next s) ∧
    (∀ b t, t = setNear s n (fun x => { x with block := b }) →
      (x.state = .exchange → blockExpected s n b = true → exec (.capabilityBlock n b) s =
        .next (drainEgress (setNear t n fun x => { x with
          state := .up, version := min 2 (field b 4 1), since := s.time, tuned := s.time
          credits := (List.range 4).map fun k => 4 * field b (0xE + k) 1 }) n)) ∧
      (x.state = .exchange → blockExpected s n b = false → x.block = [] →
        exec (.capabilityBlock n b) s = .next (event (if blockWhole b then t else s) 12 n)) ∧
      (x.state = .up ∨ x.state = .held → blockExpected s n b = true → exec (.capabilityBlock n b) s = .next t) ∧
      (x.state = .up ∨ x.state = .held → blockExpected s n b = false → exec (.capabilityBlock n b) s =
        .next (event (if blockWhole b then setNear t n (fun x => { x with state := .exchange, version := 0, window := none }) else s) 12 n)) ∧
      (x.state = .down ∨ x.state = .train ∨ x.state = .failed → exec (.capabilityBlock n b) s = .next s)) ∧
    (x.state = .exchange → x.block = [] → exec (.capabilityResend n) s = .next (sendBlock (advance s (x.sentAt + 1000000)) n)) ∧
    (x.state ≠ .exchange ∨ x.block ≠ [] → exec (.capabilityResend n) s = .next s) ∧
    (∀ out lane fault, lane < 4 →
      (x.state = .held → exec (.laneSwap n out lane fault) s = .next (closeNear s n)) ∧
      (x.state = .up → swapDue fault = true → noSpare s n out = false →
        exec (.laneSwap n out lane fault) s = .next (openNear s n s.time ⟨1, 0, out, lane, true⟩)) ∧
      (x.state = .exchange ∨ x.state = .train → swapDue fault = true → noSpare s n out = false →
        exec (.laneSwap n out lane fault) s = .next (swapped s n out lane)) ∧
      (x.state = .up ∨ x.state = .exchange ∨ x.state = .train → swapDue fault = true → noSpare s n out = true →
        exec (.laneSwap n out lane fault) s = .next (failPort s n lane)) ∧
      ((x.state ≠ .held ∧ swapDue fault = false) ∨ x.state = .down ∨ x.state = .failed → exec (.laneSwap n out lane fault) s = .next s)) ∧
    (∀ m, (x.state = .held → exec (.txRetune n m) s = .next (closeNear s n)) ∧
      (x.state = .up → exec (.txRetune n m) s =
        .next (openNear s n (if m < 75 then s.time else x.tuned + 60000000000) ⟨0, 0, false, 0, true⟩)) ∧
      (x.state ≠ .up → x.state ≠ .held → exec (.txRetune n m) s = .next s)) ∧
    (∀ r, ((∃ w, x.window = some w ∧ w.kind = 2) → exec (.lossOfLock n r) s = .next (closeNear s n)) ∧
      ((∀ w, x.window = some w → w.kind ≠ 2) →
        (x.state = .held → exec (.lossOfLock n r) s = .next (openNear (closeNear s n) n 0 ⟨2, 0, false, 0, r⟩)) ∧
        (x.state = .up → exec (.lossOfLock n r) s = .next (openNear s n s.time ⟨2, 0, false, 0, r⟩)) ∧
        (x.state = .exchange → exec (.lossOfLock n r) s = .next (if r then s else failPort (advance s (s.time + 150000)) n 0)) ∧
        (x.state = .down ∨ x.state = .train ∨ x.state = .failed → exec (.lossOfLock n r) s = .next s))) ∧
    (∀ w u, x.window = some w → u = advance s (w.start + (if w.kind = 0 then 30000 else 150000)) →
      (w.kind = 2 → w.good = false → closeNear s n = failPort u n 0) ∧
      (w.kind = 1 → closeNear s n =
        drainEgress (swapped (setNear u n fun x => { x with state := .up, window := none, since := u.time }) n w.out w.lane) n) ∧
      (w.kind ≠ 1 → (w.kind = 2 → w.good = true) → closeNear s n =
        drainEgress (setNear u n fun x => { x with state := .up, window := none, since := u.time, tuned := u.time }) n)) ∧
    (∀ due w u, u = closeNear s (otherPort n) → (w.kind = 2 ∨ drained s n = true → ∃ v, v = advance u (max due ((nearAt u n).since + 10000000)) ∧
        openNear s n due w = steer (setNear v n fun x => { x with state := .held, window := some { w with start := v.time } }) n) ∧
      (w.kind ≠ 2 → drained s n = false → openNear s n due w = s)) ∧
    (∀ b h t u, t = endWindow s n → h = field b 0 4 → (linked t n = false → exec (.flit n b) s = .next t) ∧
      (linked t n = true → b.length ≠ 512 ∨ field b 508 4 ≠ (crc32c (b.take 508)).toNat ∨ bit h 23 = true →
        exec (.flit n b) s = .next (sendFlit t n [] 0 0 true)) ∧
      (linked t n = true → b.length = 512 → field b 508 4 = (crc32c (b.take 508)).toNat → bit h 23 = false → u = flitControl t n h →
        (bits h 9 0 = (nearAt t n).rxNext → exec (.flit n b) s = .next (drainEgress (deliverFlit u n h (sub b 4 504)) n)) ∧
        (bits h 9 0 ≠ (nearAt t n).rxNext → exec (.flit n b) s = .next (drainEgress
          (if (nearAt t n).nak = false ∧ (bits h 9 0 + 1024 - (nearAt t n).rxNext) % 1024 < 512 then sendFlit u n [] 0 0 true else u) n))))) ∧
  (∀ s pair t, pair < 18 →
    (s.fab.present.getD pair false = true → exec (.cableRemoved pair) s =
      .next (linkDown (linkDown (fabCount (setPresent s pair false) 6 1) (2 * pair) .down) (2 * pair + 1) .down)) ∧
    (s.fab.present.getD pair false = false → exec (.cableRemoved pair) s = .next s) ∧
    (s.fab.present.getD pair false = true → exec (.cableInserted pair) s = .next s) ∧
    (s.fab.present.getD pair false = false → t = setPresent s pair true → exec (.cableInserted pair) s =
      .next (if fabricUp t = true then trainPort (trainPort t (2 * pair)) (2 * pair + 1) else t))) ∧
  (∀ s mb tag c, Starts s mb tag 10 6 c → clean c 0xFFFFFFFFF 3 false = true → c.arg1 ≠ 3 → exec (.nearPort mb tag) s =
    .next (finish (((List.range 36).filter fun n => c.arg0.getLsbD n).foldl (fun s n => nearRequest s n c.arg1.toNat) s) mb c 0))

/-- A read of an admitted range answers its bytes in data packets, with the stored seal where it asks for one, or MEMORY where a
granule cannot be read. The first packet of a write opens an entry; each stores its bytes; the last is acknowledged, after the
seal of a sealed write has been checked and stored: RESEND the first time it differs, then SEAL with a record. An atomic answers
the old doubleword. A message is stored in its queue, or answered FULL. What the module does not admit is answered RANGE or
ACCESS, a malformed request MALFORMED, a write without an entry to spare BUSY. A request to memory that a survey window holds
waits. A packet that fails its header, or does not fit a version 1 link, is discarded and counted; one for another module is
sent on with one hop less over the port of its transaction's first packet, and at 0 hops discarded. (13_ewete_fabric.md; R301;
R304; R305; R306; R307; R308; R309; R310; R311; R312; R322) -/
def Obligations.RequestsAreServed : Prop :=
  (∀ s p n, heldRequest s p n = true → (n = 64 * p.total → exec (.rdReq p) s = .next s) ∧
    (n = p.payload.length → exec (.wr p) s = .next s) ∧ (n = 8 → exec (.atReq p) s = .next s)) ∧
  (∀ s p n t, n = 64 * p.total → heldRequest s p n = false → Arrives s p 0x01 → t = taken s p →
    (p.total = 0 ∨ 1024 < p.total → exec (.rdReq p) s = .next (reply t p [answer t p 0x02 9])) ∧
    (p.total ≠ 0 → p.total ≤ 1024 →
      (∀ st, refuses t p p.addr n 0 = some st → exec (.rdReq p) s = .next (reply t p [answer t p 0x02 st])) ∧
      (refuses t p p.addr n 0 = none → ∀ a u, a = bits p.spec2.toNat 40 0 → u = touchRead t p.addr n →
        (badGranule t p.addr n = none → p.sealed = false →
          exec (.rdReq p) s = .next (reply u p (dataPackets u (answer u p 0x02 0) (readLocal u p.addr n)))) ∧
        (badGranule t p.addr n = none → p.sealed = true → badGranule t a 4 = none →
          exec (.rdReq p) s = .next (reply u p (dataPackets u { answer u p 0x02 0 with
            flags := 2, spec0 := BitVec.ofNat 32 (unle (readLocal u a 4)), spec1 := p.spec1 } (readLocal u p.addr n)))) ∧
        (∀ v, v = uncorrectables t p.addr n → badGranule t p.addr n ≠ none →
          exec (.rdReq p) s = .next (reply v p [answer v p 0x02 5])) ∧
        (∀ v, v = uncorrectables t a 4 → badGranule t p.addr n = none → p.sealed = true → badGranule t a 4 ≠ none →
          exec (.rdReq p) s = .next (reply v p [answer v p 0x02 5]))))) ∧
  (∀ s p t u e, heldRequest s p p.payload.length = false → Arrives s p 0x03 → t = taken s p → u = dropEntry t p →
    (p.index = 0 → p.total = 0 ∨ 1024 < p.total → exec (.wr p) s = .next (reply u p [answer u p 0x04 9])) ∧
    (p.index = 0 → p.total ≠ 0 → p.total ≤ 1024 →
      (∀ st, refuses u p p.addr (64 * p.total) 1 = some st → exec (.wr p) s = .next (reply u p [answer u p 0x04 st])) ∧
      (refuses u p p.addr (64 * p.total) 1 = none → 16384 ≤ (u.fab.entries.filter fun e => e.die = min 1 (portDie p.port)).length →
        exec (.wr p) s = .next (reply u p [answer u p 0x04 7])) ∧
      (refuses u p p.addr (64 * p.total) 1 = none → (u.fab.entries.filter fun e => e.die = min 1 (portDie p.port)).length < 16384 →
        e = ⟨p.src, p.tag, p.addr, p.total, 0, p.sealed, p.spec0, p.spec1.toNat, bits p.spec2.toNat 40 0, p.resend, u.time,
          min 1 (portDie p.port)⟩ → exec (.wr p) s = .next (writePacket u p e))) ∧
    (p.index ≠ 0 → t.fab.entries.find? (fun e => e.src = p.src && e.tag = p.tag) = some e → exec (.wr p) s = .next (writePacket t p e)) ∧
    (p.index ≠ 0 → t.fab.entries.find? (fun e => e.src = p.src && e.tag = p.tag) = none → exec (.wr p) s = .next t)) ∧
  (∀ s p e w, w = writeLocal s p.addr p.payload →
    (p.addr < e.addr ∨ e.addr + 64 * e.total < p.addr + p.payload.length → writePacket s p e = s) ∧
    (e.addr ≤ p.addr → p.addr + p.payload.length ≤ e.addr + 64 * e.total →
      (e.got + p.payload.length < 64 * e.total → writePacket s p e = { dropEntry w p with fab := { (dropEntry w p).fab with
        entries := (dropEntry w p).fab.entries ++ [{ e with got := e.got + p.payload.length, last := s.time }] } }) ∧
      (64 * e.total ≤ e.got + p.payload.length → ∀ d ack crc, d = dropEntry w p →
        ack = (fun (s : State) (st : Nat) => reply s p [{ answer s p 0x04 st with address := BitVec.ofNat 64 e.addr }]) →
        crc = sealOf (shapeOf e.header) (readLocal d e.addr (64 * e.total)) →
        (deadRange d e.addr (64 * e.total) = true → writePacket s p e = ack d 5) ∧
        (deadRange d e.addr (64 * e.total) = false →
          (e.sealed = false → writePacket s p e = ack d 0) ∧
          (e.sealed = true → crc = e.crc → writePacket s p e = ack (writeLocal d e.sealAddr (le 4 e.crc.toNat)) 0) ∧
          (e.sealed = true → crc ≠ e.crc → e.resend = false → writePacket s p e = ack d 1) ∧
          (e.sealed = true → crc ≠ e.crc → e.resend = true → writePacket s p e = ack (writeLocal
            (logSeal d (sealRecord d e.addr (memUnit d (physOf d e.addr)) e.crc crc 0 (shapeOf e.header))) e.sealAddr
            (le 4 (~~~e.crc).toNat)) 2))))) ∧
  (∀ s p t, heldRequest s p 8 = false → Arrives s p 0x05 → t = taken s p →
    (p.addr % 8 ≠ 0 ∨ 8 ≤ p.spec0.toNat ∨ p.payload.length ≠ 16 → exec (.atReq p) s = .next (reply t p [answer t p 0x06 9])) ∧
    (p.addr % 8 = 0 → p.spec0.toNat < 8 → p.payload.length = 16 →
      (∀ st, refuses t { p with flags := 0 } p.addr 8 2 = some st → exec (.atReq p) s = .next (reply t p [answer t p 0x06 st])) ∧
      (∀ g u, refuses t { p with flags := 0 } p.addr 8 2 = none → badGranule t p.addr 8 = some g → u = uncorrectable t g →
        exec (.atReq p) s = .next (reply u p [answer u p 0x06 5])) ∧
      (∀ old u, refuses t { p with flags := 0 } p.addr 8 2 = none → badGranule t p.addr 8 = none →
        (old, u) = atomLocal t p.addr p.spec0.toNat p.payload →
        exec (.atReq p) s = .next (reply u p [{ answer u p 0x06 0 with payload := old }])))) ∧
  (∀ s p t, Arrives s p 0x07 → t = taken s p →
    (p.payload.length ≠ 128 → exec (.msgPacket p) s = .next (reply t p [answer t p 0x08 9])) ∧
    (∀ u, p.payload.length = 128 → deliver t (bits p.addr 5 0) p.payload = some u →
      exec (.msgPacket p) s = .next (reply u p [answer u p 0x08 0])) ∧
    (p.payload.length = 128 → deliver t (bits p.addr 5 0) p.payload = none → exec (.msgPacket p) s = .next (reply t p [answer t p 0x08 6]))) ∧
  (∀ s p c v, (c, p.type) ∈ [(Instr.rdReq p, (0x01 : Byte)), (.wr p, 0x03), (.atReq p, 0x05), (.rdData p, 0x02), (.wrAck p, 0x04), (.atResp p, 0x06),
      (.msgPacket p, 0x07), (.msgAck p, 0x08), (.err p, 0x09), (.colData p, 0x20), (.colCredit p, 0x21), (.colResend p, 0x22),
      (.colCounts p, 0x23), (.colAbort p, 0x24), (.ringBlock p, 0x30), (.ringCredit p, 0x31), (.ringGrad p, 0x32), (.ringResend p, 0x33)] →
    (∀ n, heldRequest s p n = false) → (p.port < 36 → (nearAt (atPort s p) p.port).state = .up ∨ inIngress (atPort s p) p = true) →
    v = takeIngress (atPort s p) p →
    (packetOk p = false → exec c s = .next (roomBack (fabCount v 0 1) p)) ∧
    (packetOk p = true → onV1 v p = true → v1Ok v p = false → exec c s = .next (replyErr (roomBack (fabCount v 3 1) p) p 9)) ∧
    (packetOk p = true → (onV1 v p = true → v1Ok v p = true) →
      (v.fab.device = none → exec c s = .next (replyErr (roomBack v p) p 10)) ∧
      (∀ own, v.fab.device = some own → p.target ≠ own → exec c s = .next (forward v p)))) ∧
  (∀ s p known, known = (if p.index = 0 then none else (s.fab.flows.find? fun f => f.1 = flowKey p).map (·.2)) →
    (p.hops = 0 → forward s p = roomBack (fabCount s 1 1) p) ∧
    (∀ port, p.hops ≠ 0 → known.or (pickPort s p.target (vcOf p.type)) = some port → forward s p = sendOn { s with fab := { s.fab with
      flows := (flowKey p, port) :: s.fab.flows.filter fun f => f.1 ≠ flowKey p } } port [{ p with hops := p.hops - 1 }]) ∧
    (p.hops ≠ 0 → known.or (pickPort s p.target (vcOf p.type)) = none → forward s p = replyErr (roomBack (fabCount s 4 1) p) p 8))

/-- On a doubleword of HBM with no failed channel and no poison, an atomic of AOP 0 to 7 answers the eight bytes that stood there,
the little-endian number at the address is afterwards the sum modulo 2^64, and, or, exclusive or, the operand, the operand if
the compare value matched, the unsigned maximum or the unsigned minimum; every byte outside the doubleword, and every other part
of the state, is unchanged. (13_ewete_fabric.md; R311) -/
def Obligations.AtomicsReadModifyWrite : Prop :=
  ∀ s a aop arg, s.hbm.failed = [] → s.lpddr.failed = [] → s.poison = [] → a + 8 ≤ lpddrBase → aop < 8 →
    ∃ old t v w, atomLocal s a aop arg = (old, t) ∧ old = readRun s.dram a 8 ∧ v = BitVec.ofNat 64 (field arg 0 8) ∧
      w = BitVec.ofNat 64 (field arg 8 8) ∧
      (∀ x, x = BitVec.ofNat 64 (rdNat s.dram a 8) → BitVec.ofNat 64 (rdNat t.dram a 8) = match aop with
        | 0 => x + v | 1 => x &&& v | 2 => x ||| v | 3 => x ^^^ v | 4 => v | 5 => if x = w then v else x
        | 6 => if x.toNat < v.toNat then v else x | _ => if v.toNat < x.toNat then v else x) ∧
      (∀ b, b < a ∨ a + 8 ≤ b → rd t.dram b = rd s.dram b) ∧ t = { s with dram := t.dram }

/-- RD_DATA is collected until all of it has come, and then ends its read; a sealed read whose bytes do not give the seal that came
with them goes again once. WR_ACK, AT_RESP, MSG_ACK and ERR end theirs; a write answered BUSY goes again after 2 µs, a message
answered FULL after 10 µs, and a write answered RESEND at once and only once. An answer that no transaction waits for is counted
as late and changes nothing else. A packet held for 20 µs is discarded; a transaction without an answer, a tile or an item that
does not come end by the fabric time-out; a write entry without a packet for 10 ms is released; a tag sweep that may start opens
the next generation; a T7 tag leaves its quarantine. That a transaction which waits to be sent counts from its beginning is the
model's choice (log 135). (13_ewete_fabric.md; R104; R305; R307; R308; R310; R312; R314; R325; R326; R327; R345) -/
def Obligations.AnswersEndTransactions : Prop :=
  (∀ s p u, u = taken s p →
    (Arrives s p 0x02 → answered u p (some .read) = none → exec (.rdData p) s = .next (countUp u 22 1)) ∧
    (Arrives s p 0x04 → answered u p (some .write) = none → exec (.wrAck p) s = .next (countUp u 22 1)) ∧
    (Arrives s p 0x06 → answered u p (some .atomic) = none → exec (.atResp p) s = .next (countUp u 22 1)) ∧
    (Arrives s p 0x08 → answered u p (some .message) = none → exec (.msgAck p) s = .next (countUp u 22 1)) ∧
    (Arrives s p 0x09 → answered u p none = none → exec (.err p) s = .next (countUp u 22 1))) ∧
  (∀ s p u t got bs, u = taken s p → Arrives s p 0x02 → answered u p (some .read) = some t → got = t.got ++ p.payload → bs = got.take (64 * t.total) →
    (p.status ≠ 0 → exec (.rdData p) s = .next (endTx u t p.status [] 0)) ∧
    (p.status = 0 → got.length < 64 * t.total → exec (.rdData p) s = .next (setTx u t.id fun t => { t with got := got })) ∧
    (p.status = 0 → 64 * t.total ≤ got.length →
      (t.sealed = false ∨ isT7 u t.dst = true → exec (.rdData p) s = .next (endTx (countRetry u t) t 0 bs p.spec0)) ∧
      (t.sealed = true → isT7 u t.dst = false →
        (sealOf (shapeOf t.shape) bs = p.spec0 → exec (.rdData p) s = .next (endTx (countRetry u t) t 0 bs p.spec0)) ∧
        (sealOf (shapeOf t.shape) bs ≠ p.spec0 → t.resent = false → exec (.rdData p) s = .next (repeatTx u t true)) ∧
        (sealOf (shapeOf t.shape) bs ≠ p.spec0 → t.resent = true → exec (.rdData p) s = .next (endTx u t 0 bs p.spec0))))) ∧
  (∀ s p u t, u = taken s p →
    (Arrives s p 0x04 → answered u p (some .write) = some t →
      (p.status = 0 → exec (.wrAck p) s = .next (endTx (countRetry u t) t 0 [] t.crc)) ∧
      (p.status = 1 → t.resent = false → exec (.wrAck p) s = .next (repeatTx u t true)) ∧
      (p.status = 7 → exec (.wrAck p) s = .next (waitAgain u t .busy 2000)) ∧
      (p.status ≠ 0 → (p.status = 1 → t.resent = true) → p.status ≠ 7 → exec (.wrAck p) s = .next (endTx u t p.status [] t.crc))) ∧
    (Arrives s p 0x06 → answered u p (some .atomic) = some t → exec (.atResp p) s = .next (endTx u t p.status (p.payload.take 8) 0)) ∧
    (Arrives s p 0x08 → answered u p (some .message) = some t →
      exec (.msgAck p) s = .next (if p.status = 6 then waitAgain u t .full 10000 else endTx u t p.status [] 0)) ∧
    (Arrives s p 0x09 → answered u p none = some t →
      exec (.err p) s = .next (endTx u t (if p.status = 0 then 9 else p.status) [] 0))) ∧
  (∀ s t, countRetry s t = if t.resent = true ∧ t.sealed = true then stepCount (countUp s 16 1) 10 else s) ∧
  (∀ s t w gap, waitAgain s t w gap = setTx (retireTag s t) t.id fun t => { t with wait := w, retry := s.time + gap }) ∧
  (∀ s p u, (∀ e, s.fab.egress.find? (fun e => e.2.2 = p) = some e → u = advance s (e.2.1 + 20000) →
      exec (.packetHoldExpiry p) s =
        .next (roomBack (fabCount { u with fab := { u.fab with egress := u.fab.egress.erase e } } 2 1) p)) ∧
    (∀ e, s.fab.egress.find? (fun e => e.2.2 = p) = none → s.fab.ingress.find? (fun e => e.2 = p) = some e → exec (.packetHoldExpiry p) s =
      .next (roomBack (fabCount (takeIngress (advance s (e.1 + 20000)) p) 2 1) p)) ∧
    (s.fab.egress.find? (fun e => e.2.2 = p) = none → s.fab.ingress.find? (fun e => e.2 = p) = none →
      exec (.packetHoldExpiry p) s = .next s)) ∧
  (∀ s n t, findTx s n = some t →
    exec (.fabricTimeout (.tx n)) s = .next (endTx (advance s (t.since.getD t.born +
      (if t.far = true ∨ isFar s t.dst = true then 25000000 else 2000000))) t 0xFFFF [] 0) ∧
    (t.wait = .busy → exec (.busyResend n) s = .next (tryTx (setTx (advance s t.retry) n fun t => { t with wait := .tag, got := [] }) n)) ∧
    (t.wait = .full → exec (.msgRetry n) s = .next (tryTx (setTx (advance s t.retry) n fun t => { t with wait := .tag, got := [] }) n)) ∧
    (t.wait ≠ .busy → exec (.busyResend n) s = .next s) ∧ (t.wait ≠ .full → exec (.msgRetry n) s = .next s)) ∧
  (∀ s n, findTx s n = none → exec (.fabricTimeout (.tx n)) s = .next s ∧ exec (.busyResend n) s = .next s ∧ exec (.msgRetry n) s = .next s) ∧
  (∀ s h q, exec (.fabricTimeout (.tile h q)) s = .next (tileTimeout s h q) ∧ ∀ ring, exec (.fabricTimeout (.item ring)) s = .next (itemTimeout s ring)) ∧
  (∀ s src tag, (∀ e t, s.fab.entries.find? (fun e => e.src = src && e.tag = tag) = some e → t = advance s (e.last + 10000000) →
      exec (.writeEntryRelease src tag) s =
        .next (fabCount { t with fab := { t.fab with entries := t.fab.entries.filter fun x => x ≠ e } } 5 1)) ∧
    (s.fab.entries.find? (fun e => e.src = src && e.tag = tag) = none → exec (.writeEntryRelease src tag) s = .next s)) ∧
  (∀ s d g, d < 3 → g = ((domAt s d).gen + 1) % 16 →
    ((domAt s d).active = false → sweepOpen s d g = true → exec (.tagSweepStart d) s =
      .next (pumpTx (setDom s d fun x => { x with active := true, gen := g, next := 0, gens := x.gens.set g (0, 0) }))) ∧
    ((domAt s d).active = true ∨ sweepOpen s d g = false → exec (.tagSweepStart d) s = .next s)) ∧
  (∀ s d tag, d < 3 → (∀ q, (domAt s d).quar.find? (fun q => q.1 = tag) = some q → exec (.t7TagQuarantineEnd d tag) s =
      .next (pumpTx (setDom (advance s (q.2.1 + q.2.2 + 1)) d fun x => { x with quar := x.quar.filter fun y => y.1 ≠ tag }))) ∧
    ((domAt s d).quar.find? (fun q => q.1 = tag) = none → exec (.t7TagQuarantineEnd d tag) s = .next s))

/-- TIER_POOL of aligned ranges of free HBM, none overlapping, with no page in a frame or on its way, grants exactly them, and a
waiting promotion keeps no frame of the old pool. TIER_REGION of a new region of free LPDDR adds it with its pages, all at level
L; of a loaded region with the same range it changes the settings; of an invalid one it deletes the region when every page is at
level L, and completes at once where there is none. TIER_HINT of valid hints applies each in order, by the matrix of R286: a
PROMOTE at level H extends the pin, at level L without a move it starts one, in class D where it has a deadline; a DEMOTE of a
pinned page sets DEFER, of an unpinned page at level H it starts a demotion; an UNPIN ends the pin. TIER_FLUSH without demotion
writes back every dirty granule of the pages it names; with it, it demotes them and completes with the last. TIER_QUERY answers
the summary. (12_memory_tiers.md; R268; R269; R274; R282; R283; R286; R289) -/
def Obligations.TierCommandsComplete : Prop :=
  (∀ s mb tag c,
    (∀ rs t, rs = parsePairs c.payload → t = mapPages s (fun p => { p with move := p.move.map fun m => { m with frame := none } }) →
      Starts s mb tag 10 0x40 c → clean c 0 0 true = true → c.payload.length % 16 = 0 → rs.length ≤ 16 →
      (∀ r ∈ rs, r.1 % 0x200000 = 0 ∧ r.2 % 0x200000 = 0 ∧ r.1 < 2 ^ 40 ∧ localExists s r.1 r.2 = true ∧ touches fixedRanges r.1 r.2 = false ∧
        touches (stackRanges s) r.1 r.2 = false) → apart rs = true →
      (∀ p ∈ s.tier.pages, p.high = false ∧ p.move.any (·.started) = false) →
      exec (.tierPool mb tag) s = .next (finish { t with tier := { t.tier with pool := rs } } mb c 0)) ∧
    (∀ num flags r, num = field c.payload 0 1 → flags = field c.payload 1 1 →
      r = ⟨num, flags, field c.payload 2 1, field c.payload 8 8, field c.payload 16 8, field c.payload 24 4, []⟩ →
      Starts s mb tag 10 0x41 c → clean c 0 0 true = true → c.payload.length = 64 → num < 64 → flags < 32 → bits flags 4 3 ≠ 3 → r.retain < 4 →
      (c.payload.drop 3).take 5 = zeros 5 → c.payload.drop 0x1C = zeros 36 →
      (bit flags 0 = false → s.tier.regions.find? (fun x => x.num = num) = none →
        exec (.tierRegion mb tag) s = .next (finish s mb c 0)) ∧
      (∀ x, bit flags 0 = false → s.tier.regions.find? (fun x => x.num = num) = some x →
        exec (.tierRegion mb tag) s = .next (deleteRegion s mb c num)) ∧
      (bit flags 0 = true → (bit flags 1 = true → s.tier.pool ≠ []) → r.base % 0x200000 = 0 → r.len % 0x200000 = 0 → r.len ≠ 0 →
        r.pin ≤ 60000000 →
        (∀ x, s.tier.regions.find? (fun x => x.num = num) = some x → x.base = r.base → x.len = r.len → x.deleting = [] →
          exec (.tierRegion mb tag) s = .next (finish (mapRegions s fun y => if y.num = num then r else y) mb c 0)) ∧
        (s.tier.regions.find? (fun x => x.num = num) = none → 2 ^ 40 ≤ r.base → localExists s r.base r.len = true →
          touches fixedRanges r.base r.len = false → touches (s.stackSet.map fun k => (k.spillBase, k.spillLen)) r.base r.len = false →
          touches (s.tier.regions.map fun x => (x.base, x.len)) r.base r.len = false → exec (.tierRegion mb tag) s = .next (finish
            { s with tier := { s.tier with regions := s.tier.regions ++ [r], pages := s.tier.pages ++ newPages r } } mb c 0)))) ∧
    (∀ hs, hs = parseHints c.payload → Starts s mb tag 10 0x42 c → clean c 0 0 true = true → c.payload.length % 16 = 0 → c.payload ≠ [] →
      c.payload.length ≤ 65536 → hs.all hintOk = true → s.tier.pool ≠ [] → exec (.tierHint mb tag) s =
        .next ((hs.mapIdx fun i h => (i, h)).foldl (applyHint mb c) (markStarted s mb c.tag (hs.map fun _ => 256)))) ∧
    (Starts s mb tag 10 0x43 c → clean c 0x33F 0 false = true →
      (c.arg0.getLsbD 9 = false → exec (.tierFlush mb tag) s =
        .next (finish ((s.tier.pages.filter fun p => (c.arg0.getLsbD 8 || p.region = bits c.arg0.toNat 5 0) && p.high).foldl writeBack s) mb c 0)) ∧
      (∀ ps starts defers t, c.arg0.getLsbD 9 = true →
        ps = s.tier.pages.filter (fun p => (c.arg0.getLsbD 8 || p.region = bits c.arg0.toNat 5 0) && !atRest p) →
        starts = (fun p => p.high && p.move.isNone && !isPinned s p) → defers = (fun p => !starts p && !(p.high && p.move.isSome)) →
        t = markStarted s mb c.tag (ps.map (·.num) ++ ((ps.filter fun p => defers p && !p.defer).map (pageCount + ·.num) ++
          (ps.filter starts).map (2 * pageCount + ·.num))) →
        exec (.tierFlush mb tag) s = .next (tierSettle (ps.foldl (fun s p =>
          if starts p then wantDemote s p.num 3 [] none
          else if defers p then setPage s p.num (fun p => { p with defer := true }) else s) t)))) ∧
    (Starts s mb tag 10 0x45 c → clean c 0 0 false = true → exec (.tierQuery mb tag) s = .next (finish s mb c 0 (tierSummary s)))) ∧
  (∀ mb c s i h o, o = ⟨mb, c.tag, i, if h.deadline = 0 then none else some (c.acked + h.deadline * 1000), h.pinMs * 1000000, h.op = 1⟩ →
    (findPage s (pageNo h.addr) = none → applyHint mb c s (i, h) = outcome s mb c.tag i 5) ∧
    ∀ p, findPage s (pageNo h.addr) = some p →
      (h.op = 1 → p.high = true → p.move = none → applyHint mb c s (i, h) =
        outcome (extendPin s p o.pin).1 mb c.tag i (if (extendPin s p o.pin).2 then 1 else 7)) ∧
      (h.op = 1 → p.high = false → p.move = none → (regionOf s p).any (fun r => !r.deleting.isEmpty) = false →
        ((List.range (frameCount s)).any fun f => dieAllowed (regionOf s p) (frameDie s f)) = true →
        (o.deadline = none ∨ ∃ d, o.deadline = some d ∧ s.time ≤ d ∧ admitted s (pageName p) 0x200000 d = true) →
        applyHint mb c s (i, h) = setPage s p.num fun p => { p with
          move := some ⟨true, false, if o.deadline.isSome then 1 else 3, [o], none, [], 0, none, none⟩ }) ∧
      (h.op = 2 → p.high = false → p.move = none → applyHint mb c s (i, h) = outcome s mb c.tag i 1) ∧
      (h.op = 2 → p.high = true → p.move = none → isPinned s p = true → applyHint mb c s (i, h) =
        outcome (setPage s p.num fun p => { p with defer := true }) mb c.tag i 3) ∧
      (h.op = 2 → p.high = true → p.move = none → isPinned s p = false → applyHint mb c s (i, h) = wantDemote s p.num 3 [o] none) ∧
      (h.op = 3 → p.defer = false → applyHint mb c s (i, h) = outcome (setPage s p.num fun p => { p with pinEnd := 0 }) mb c.tag i 0))

/-- A waiting promotion with a token and a free frame starts with every granule to copy; without a frame it has the best victim
demoted. A granule that arrives under the page's generation is copied and is no longer left; one of another generation has no
effect; one that cannot be read ends a class D promotion LATE and is copied again in class G. The promotion lands once nothing
is left. A waiting demotion that gets a token starts with the dirty granules to copy, and may make a second pass; once nothing
is left, what is still dirty is copied, the page is at level L, and its frame goes to the page that waits for it. A deadline
that passes reports LATE, or NO_FRAME where the move waits for a frame, and cancels a promotion that nobody else wants; a step
of a move looks at the deadlines first. At PIN_END a deferred page is demoted. A step that has nothing to do changes nothing but
what its deadlines do. (12_memory_tiers.md; R271; R272; R274; R276; R278; R280; R283; R284; R285; R287) -/
def Obligations.PageMovesRun : Prop :=
  (∀ s n u p m, n < pageCount → u = overdue s n → findPage u n = some p → p.move = some m →
    (m.promote = true → m.started = false → tokens u < 1024 →
      (∀ f, m.frame.or (freeFrame u p) = some f → exec (.pagePromote n) s = .next (setPage u n fun p => { p with
        gen := p.gen + 1, frame := f, dirty := 0
        move := some { m with started := true, frame := some f, left := List.range 32 } })) ∧
      (m.frame = none → freeFrame u p = none →
        ((u.tier.pages.any fun v => v.move.any fun x => x.heir = some n) = true → exec (.pagePromote n) s = .next u) ∧
        ((u.tier.pages.any fun v => v.move.any fun x => x.heir = some n) = false →
          (∀ v, pickVictim u p = some v → exec (.pagePromote n) s = .next (wantDemote u v.num m.cls [] (some n))) ∧
          (pickVictim u p = none → exec (.pagePromote n) s = .next (if m.ops = [] ∧ m.pin ≠ none then
            tierSettle (tierCount (setPage u n fun p => { p with move := none }) 7 1) else u))))) ∧
    (m.promote = false ∨ m.started = true ∨ 1024 ≤ tokens u → exec (.pagePromote n) s = .next u) ∧
    (∀ g gen v, g < 32 → v = (fun s => setPage s n fun p => { p with move := some { m with left := m.left.filter fun x => x ≠ g } }) →
      (p.gen ≠ gen ∨ m.left.contains g = false → exec (.granuleCopyArrival n g gen) s = .next u) ∧
      (p.gen = gen → m.left.contains g = true →
        (m.promote = true → granuleFails u (pageName p) g = false → exec (.granuleCopyArrival n g gen) s =
          .next (v (copyGranule u (pageName p) (frameAddr u p.frame) g))) ∧
        (m.promote = true → granuleFails u (pageName p) g = true → ∀ w, w = uncorrectables u (pageName p + 65536 * g) 65536 →
          exec (.granuleCopyArrival n g gen) s = .next (if m.cls = 3 then w else failPromote w n m)) ∧
        (m.promote = false → exec (.granuleCopyArrival n g gen) s =
          .next (v (tierCount (copyGranule u (frameAddr u p.frame) (pageName p) g) 6 65536))))) ∧
    (∀ f, m.promote = true → m.started = true → m.left = [] → m.frame = some f →
      ((dirtyList p.dirty).find? (granuleFails u (pageName p)) = none → exec (.promoteFinalStage n) s = .next (landPromotion u p m f)) ∧
      (∀ g w, (dirtyList p.dirty).find? (granuleFails u (pageName p)) = some g → w = uncorrectables u (pageName p + 65536 * g) 65536 →
        exec (.promoteFinalStage n) s = .next (if m.cls = 3 then w else failPromote w n m))) ∧
    (m.promote = false ∨ m.started = false ∨ m.left ≠ [] → exec (.promoteFinalStage n) s = .next u)) ∧
  (∀ s n p m, n < pageCount → findPage s n = some p → p.move = some m →
    (m.promote = false → m.started = false → tokens s < 1024 → exec (.pageDemote n) s = .next (setPage s n fun p => { p with
      gen := p.gen + 1, dirty := 0
      move := some { m with started := true, left := dirtyList p.dirty, passes := m.passes + 1 } })) ∧
    (m.promote = false → m.started = true → m.left = [] → m.passes < 2 → exec (.pageDemote n) s = .next (setPage s n fun p => { p with
      dirty := 0, move := some { m with started := true, left := dirtyList p.dirty, passes := m.passes + 1 } })) ∧
    (m.promote = true ∨ (m.started = false ∧ 1024 ≤ tokens s) ∨ (m.started = true ∧ (m.left ≠ [] ∨ 2 ≤ m.passes)) →
      exec (.pageDemote n) s = .next s) ∧
    (∀ t v, m.promote = false → m.started = true → m.left = [] →
      t = (dirtyList p.dirty).foldl (fun s g => copyGranule s (frameAddr s p.frame) (pageName p) g) s →
      v = setPage (tierCount (tierCount (tierCount t 3 1) 5 (pageLookups s p)) 6 (65536 * (dirtyList p.dirty).length)) n (fun x => { x with
        high := false, dirty := 0, frame := 0, pinEnd := 0, defer := false, move := none }) →
      (m.heir = none → exec (.demoteFinalStage n) s = .next (tierSettle (outcomes v m.ops fun _ => 0))) ∧
      (∀ h, m.heir = some h → exec (.demoteFinalStage n) s = .next (tierSettle (outcomes (setPage v h fun x => { x with
        move := x.move.map fun y => if y.promote && !y.started then { y with frame := some p.frame } else y }) m.ops fun _ => 0)))) ∧
    (m.promote = true ∨ m.started = false ∨ m.left ≠ [] → exec (.demoteFinalStage n) s = .next s) ∧
    (∀ o d t code, m.promote = true → m.pin = none → m.ops = [o] → o.deadline = some d → t = advance s d →
      code = (if wantsFrame t p m = true then 4 else 2) → exec (.promoteDeadline n) s =
        .next (abandonPromote (outcomes (tierCount t 1 1) [o] fun _ => code) n m [])) ∧
    (∀ o d, m.promote = true → m.ops = [o] → o.deadline = some d → ∀ pin t code, m.pin = some pin → t = advance s d →
      code = (if wantsFrame t p m = true then 4 else 2) → exec (.promoteDeadline n) s =
        .next (setPage (outcomes (tierCount t 1 1) [o] fun _ => code) n fun p => { p with move := some { m with ops := [] } })) ∧
    ((∀ o ∈ m.ops, o.deadline = none) → exec (.promoteDeadline n) s = .next s)) ∧
  (∀ s n, n < pageCount → (findPage s n = none ∨ ∃ p, findPage s n = some p ∧ p.move = none) → exec (.pagePromote n) s = .next s ∧
    (∀ g gen, g < 32 → exec (.granuleCopyArrival n g gen) s = .next s) ∧ exec (.promoteFinalStage n) s = .next s ∧
    exec (.pageDemote n) s = .next s ∧ exec (.demoteFinalStage n) s = .next s ∧ exec (.promoteDeadline n) s = .next s) ∧
  (∀ s n p t, n < pageCount → findPage s n = some p → t = setPage (advance s p.pinEnd) n (fun p => { p with pinEnd := 0, defer := false }) →
    (p.high = true → p.move = none → p.defer = true → exec (.pinEnd n) s = .next (wantDemote t n 3 [] none)) ∧
    (p.high = true → p.move = none → p.defer = false → p.pinEnd ≠ 0 → exec (.pinEnd n) s = .next t) ∧
    (p.high = false ∨ p.move ≠ none ∨ (p.defer = false ∧ p.pinEnd = 0) → exec (.pinEnd n) s = .next s)) ∧
  (∀ s n, n < pageCount → findPage s n = none → exec (.pinEnd n) s = .next s)

/-- The scrub skips a held or failed channel, records a poisoned granule, corrects one symbol and counts its lane, and poisons a
granule that is uncorrectable twice; 64 corrections of a lane in 1 s or 16 in a row schedule its repair. The collection adds
twelve counts. A window that waits opens as its turn comes; its end, after its length, repairs the lane or degrades the
pseudo-channel, logs the recovery, records the recentred lane (and schedules the repair of one with a margin below a quarter),
or records the command bus or fails the channel. The fourth failed reissue asks for recovery. A shadow recentring takes the
spare up and 40 µs later is done. An LPDDR window opens when it is due, 200 µs after its channel's last, behind those before it
in its package, and leaves its drift and its times; the fourth failed reissue retrains at once. In self-refresh none runs.
(11_hbm.md; 12_memory_tiers.md; R248; R251; R252; R253; R255; R257; R258; R290; R291) -/
def Obligations.MemorySurveyRuns : Prop :=
  (∀ s g ch pc t first second, g = s.hbm.scrub → ch = (hbmDecode s g).1 → pc = (hbmDecode s g).2.1 →
    t = { s with hbm := { s.hbm with scrub := nextGranule s g } } →
    (s.hbm.selfRefresh = true ∨ localExists s g 64 = false → exec (.patrolScrub first second) s = .next s) ∧
    (s.hbm.selfRefresh = false → localExists s g 64 = true →
      (s.hbm.failed.contains ch = true ∨ (s.hbm.held.any fun h => h.ch = ch) = true → exec (.patrolScrub first second) s = .next t) ∧
      (s.hbm.failed.contains ch = false → (s.hbm.held.any fun h => h.ch = ch) = false →
        (s.poison.contains g = true → exec (.patrolScrub first second) s = .next (hbmAccess t 3 g 0x3F)) ∧
        (s.poison.contains g = false →
          (hbmDecoded t g first = .clean → exec (.patrolScrub first second) s = .next (endStreak t ch pc)) ∧
          (∀ l, hbmDecoded t g first = .corrected l → exec (.patrolScrub first second) s = .next (laneHit (hbmAccess t 9 g l) ch pc l)) ∧
          (∀ u, hbmDecoded t g first = .bad → u = endStreak t ch pc →
            (hbmDecoded u g second = .bad → exec (.patrolScrub first second) s =
              .next (hbmAccess { u with poison := g :: u.poison } 10 g 0x3F)) ∧
            (hbmDecoded u g second ≠ .bad → exec (.patrolScrub first second) s = .next (hbmAccess u 1 g 0x3F))))))) ∧
  (∀ s ch pc lane k hits run u, k = (ch, pc, lane) → hits = (k, s.time) :: s.hbm.hits.filter (fun x => s.time < x.2 + 1000000000) →
    run = streakOf s ch pc lane → u = { s with hbm := { s.hbm with
      hits := hits, streaks := ((ch, pc), lane, run) :: s.hbm.streaks.filter fun x => x.1 ≠ (ch, pc)
      laneCounts := (k, (s.hbm.laneCounts.find? fun x => x.1 = k).elim 1 (·.2 + 1)) :: s.hbm.laneCounts.filter fun x => x.1 ≠ k } } →
    (64 ≤ (hits.filter fun x => x.1 = k).length ∨ 16 ≤ run → laneHit s ch pc lane = scheduleRepair u ch pc lane) ∧
    ((hits.filter fun x => x.1 = k).length < 64 → run < 16 → laneHit s ch pc lane = u)) ∧
  (∀ s counts scrubbed t, t = advance s (s.hbm.collected + 100000000) → exec (.hbmEccCollect counts scrubbed) s =
    .next ((scrubbed.filter (· < 64)).foldl (fun s ch => lpddrEvent s 4 ch)
      { t with hbm := { t.hbm with collected := t.time, onDie := t.hbm.onDie.mapIdx fun i n => n + nth counts i } })) ∧
  (∀ s ch pc lane, ch < 384 → pc < 2 → lane < 37 →
    ((s.hbm.waiting.any fun w => w.ch = ch && w.kind = 0 && w.pc = pc && w.lane = lane) = true →
      exec (.laneRepair ch pc lane) s = .next (openNext s (ch / 32))) ∧
    ((s.hbm.waiting.any fun w => w.ch = ch && w.kind = 0 && w.pc = pc && w.lane = lane) = false → exec (.laneRepair ch pc lane) s = .next s) ∧
    (∀ margin, spareUsed s ch pc = false → s.hbm.selfRefresh = false → s.hbm.failed.contains ch = false → lane ≠ 36 →
      (∀ t, t = advance s (laneDue s ch pc lane) → s.hbm.shadows.find? (fun w => w.ch = ch && w.pc = pc) = none →
        exec (.hbmShadowRecentre ch pc lane margin) s =
          .next { t with hbm := { t.hbm with shadows := t.hbm.shadows ++ [⟨ch, 4, pc, lane, t.time⟩] } }) ∧
      (∀ w t, s.hbm.shadows.find? (fun w => w.ch = ch && w.pc = pc) = some w → t = advance s (w.since + surveyNs 4) →
        (w.lane = lane → exec (.hbmShadowRecentre ch pc lane margin) s =
          .next (recentred { t with hbm := { t.hbm with shadows := t.hbm.shadows.filter (· ≠ w) } } ch pc lane margin)) ∧
        (w.lane ≠ lane → exec (.hbmShadowRecentre ch pc lane margin) s = .next s))) ∧
    (∀ margin, spareUsed s ch pc = true ∨ s.hbm.selfRefresh = true ∨ s.hbm.failed.contains ch = true ∨ lane = 36 →
      exec (.hbmShadowRecentre ch pc lane margin) s = .next s) ∧
    (spareUsed s ch pc = true → s.hbm.selfRefresh = false →
      exec (.hbmWindowedRecentre ch pc lane) s = .next (askWindow (advance s (laneDue s ch pc lane)) ch 2 pc lane)) ∧
    (spareUsed s ch pc = false ∨ s.hbm.selfRefresh = true → exec (.hbmWindowedRecentre ch pc lane) s = .next s) ∧
    (∀ n t, s.hbm.failed.contains ch = false → s.hbm.selfRefresh = false →
      t = (List.range (min n 4)).foldl (fun s _ => laneEvent s 4 ch 0 0x3F) s →
      exec (.interfaceRecovery ch n) s = .next (if 4 ≤ n then askWindow t ch 1 0 0x3F else t)) ∧
    (∀ n, s.hbm.failed.contains ch = true ∨ s.hbm.selfRefresh = true → exec (.interfaceRecovery ch n) s = .next s) ∧
    exec (.hbmCaRecentre ch) s = .next (if s.hbm.selfRefresh then s else askWindow (advance s (caDue s ch)) ch 3 0 0x3F)) ∧
  (∀ s ch good margin w u t, ch < 384 → s.hbm.held.find? (fun h => h.ch = ch) = some w → u = advance s (w.since + surveyNs w.kind) →
    t = { u with hbm := { u.hbm with
      held := u.hbm.held.filter fun h => h.ch ≠ ch, closedAt := (ch, u.time) :: u.hbm.closedAt.filter fun c => c.1 ≠ ch } } →
    (w.kind = 0 → exec (.surveyWindowClose ch good margin) s =
      .next (openNext (if good then repairLane t ch w.pc w.lane else hbmDegrade t ch w.pc w.lane) (ch / 32))) ∧
    (w.kind = 1 → exec (.surveyWindowClose ch good margin) s = .next (openNext (laneEvent t 5 ch w.pc w.lane) (ch / 32))) ∧
    (w.kind = 2 → exec (.surveyWindowClose ch good margin) s = .next (openNext (recentred t ch w.pc w.lane margin) (ch / 32))) ∧
    (w.kind = 3 → exec (.surveyWindowClose ch good margin) s = .next (openNext
      (if good then { t with hbm := { t.hbm with ca := (ch, t.time) :: t.hbm.ca.filter fun c => c.1 ≠ ch } } else hbmFail t ch) (ch / 32)))) ∧
  (∀ s ch good margin, ch < 384 → s.hbm.held.find? (fun h => h.ch = ch) = none → exec (.surveyWindowClose ch good margin) s = .next s) ∧
  (∀ s st mine, mine = s.hbm.waiting.filter (fun w => w.ch / 32 = st && mayOpen s w.ch) →
    (mine = [] → openNext s st = s) ∧
    (∀ w, w ∈ mine → (∀ x ∈ mine, x ≠ w → surveyRank w < surveyRank x) → openNext s st = { s with hbm := { s.hbm with
      waiting := s.hbm.waiting.filter (· ≠ w), held := s.hbm.held ++ [{ w with since := s.time }] } })) ∧
  (∀ s ch, ch < 64 →
    (∀ drift, exec (.lpddrOscRead ch drift) s = .next (lpddrWindow s ch 2 (lpddrDue s ch 2) fun s => { s with lpddr := { s.lpddr with
      drift := s.lpddr.drift.set ch drift, oscRead := s.lpddr.oscRead.set ch s.time } })) ∧
    (∀ good, exec (.lpddrCaRecentre ch good) s = .next (lpddrWindow s ch 1 (lpddrDue s ch 1) fun s =>
      if good then { s with lpddr := { s.lpddr with ca := s.lpddr.ca.set ch s.time } } else lpddrFail s ch)) ∧
    (∀ n t, t = (if lpddrRuns s ch then (List.range (min n 4)).foldl (fun s _ => lpddrEvent s 3 ch) s else s) →
      (0 < n → n < 4 → exec (.lpddrRetrain ch n) s = .next t) ∧
      (n = 0 ∨ 4 ≤ n → exec (.lpddrRetrain ch n) s = .next (lpddrWindow t ch 0 (if n = 0 then lpddrDue t ch 0 else 0) fun s =>
        { lpddrEvent s 5 ch with lpddr := { (lpddrEvent s 5 ch).lpddr with
          drift := (lpddrEvent s 5 ch).lpddr.drift.set ch 0
          retrain := (lpddrEvent s 5 ch).lpddr.retrain.set ch (lpddrEvent s 5 ch).time } })))) ∧
  (∀ s p, p < 16 → exec (.zqLatch p) s = .next (lpddrWindow s (zqChannel s p) 3 (lpddrDue s (zqChannel s p) 3) fun s =>
    { s with lpddr := { s.lpddr with zq := s.lpddr.zq.set p s.time } })) ∧
  (∀ s ch kind due done t, t = max (max s.time due) (nth s.lpddr.closedAt ch + 200000) →
    (lpddrRuns s ch = false → lpddrWindow s ch kind due done = s) ∧
    (lpddrRuns s ch = true →
      (∀ x, lpddrFirst s (ch / 4) t = some x → x.1 < kind ∨ (x.1 = kind ∧ x.2 < ch) → lpddrWindow s ch kind due done = s) ∧
      ((∀ x, lpddrFirst s (ch / 4) t = some x → kind < x.1 ∨ (x.1 = kind ∧ ch ≤ x.2)) → ∀ u, u = done (advance s (t + lpddrNs kind)) →
        lpddrWindow s ch kind due done = { u with lpddr := { u.lpddr with closedAt := u.lpddr.closedAt.set ch u.time } })))

/-- With no failed channel, bytes written at a local offset in HBM read back as written; every address outside them reads as before;
a granule that the write covers whole is no longer poisoned, and every other granule keeps its state; a poisoned granule that it
covers in part is recorded as a poison read, and nothing else changes. With failed channels, each byte of a channel that works
reads as written and each byte of a failed one as before. (11_hbm.md; R244; R249; R255) -/
def Obligations.MemoryReadsWhatWasWritten : Prop :=
  ∀ s a bs, a + bs.length ≤ lpddrBase → bs ≠ [] → ∃ t, writeLocal s a bs = t ∧
    (s.hbm.failed = [] → s.lpddr.failed = [] → readRun t.dram a bs.length = bs) ∧
    (∀ i, i < bs.length → rd t.dram (a + i) = if deadAt s (a + i) = true then rd s.dram (a + i) else bs.getD i 0) ∧
    (∀ b, b < a ∨ a + bs.length ≤ b → rd t.dram b = rd s.dram b) ∧
    (∀ g ∈ s.poison, deadAt s g = false → (g ∈ t.poison ↔ ¬(a ≤ g ∧ g + 64 ≤ a + bs.length))) ∧
    t = { (partPoisoned s a bs.length).foldl uncorrectable s with dram := t.dram, poison := t.poison }

/-- A frame that is not the port's, of flow control or tagged has no effect; one that MACsec discards counts as lost; one whose
header is wrong is counted; any other is taken by its KIND. A DATA frame in sequence on a path whose EPOCH it carries is
delivered, its acknowledgement and credit are taken and it is counted toward the next ACK; one out of the future asks once per
100 µs for a resend; one of the past or of another EPOCH changes nothing. An ACK takes the clock sample, the demand, the
acknowledgement and the credit, goes back on NAK and makes new grants. A HELLO makes a path where there is none, resets it for a
new INCARNATION, meets it at the later EPOCH, opens it at the same, and is answered unless it is the reply. The timers send the
due ACK, repeat what is unacknowledged, reset the path after 8 ms, close it after 60 s and keep it alive. A frame send takes the
packets that are alive, fit the frame and the credit, and keeps them until they are acknowledged. That the ends meet at the
later EPOCH is the model's reading (log 47), and what a HELLO finds beyond 1,024 paths its choice. (15_far_ports.md; R356; R357;
R358; R359; R360; R361; R363; R365; R366; R368; R369) -/
def Obligations.FarPathsMoveOn : Prop :=
  (∀ s n b u x, n < 8 → u = endFarWindow s n → x = farAt u n →
    (farListens u x = false → exec (.data n b) s = .next u ∧ exec (.ack n b) s = .next u ∧ exec (.hello n b) s = .next u) ∧
    (farListens u x = true →
      (macReceive x.config x.assocs b = .ignored → exec (.data n b) s = .next u ∧ exec (.ack n b) s = .next u ∧ exec (.hello n b) s = .next u) ∧
      (macReceive x.config x.assocs b = .lost →
        exec (.data n b) s = .next (farIcv u n) ∧ exec (.ack n b) s = .next (farIcv u n) ∧ exec (.hello n b) s = .next (farIcv u n)) ∧
      (∀ an pn bs v, macReceive x.config x.assocs b = .plain an pn bs → v = farTook u n an pn →
        (ipBody x.config n (v.fab.device.getD 0) bs = none →
          exec (.data n b) s = .next v ∧ exec (.ack n b) s = .next v ∧ exec (.hello n b) s = .next v) ∧
        (∀ w, ipBody x.config n (v.fab.device.getD 0) bs = some w →
          (∀ y, y = setFar v n (fun x => { x with dropped := x.dropped + 1 }) → (parseMessage w).filter (farHeaderOk v n) = none →
            exec (.data n b) s = .next y ∧ exec (.ack n b) s = .next y ∧ exec (.hello n b) s = .next y) ∧
          (∀ f peer k, (parseMessage w).filter (farHeaderOk v n) = some f → peer = bits f.src.toNat 20 0 → k = f.kind.toNat % 16 →
            exec (.data n b) s = .next (if k = 1 then takeFarData n f v peer else u) ∧
            exec (.ack n b) s = .next (if k = 2 then takeAck n f v peer else u) ∧
            exec (.hello n b) s = .next (if k = 3 then takeHello n f v peer else u)))))) ∧
  (∀ s n f peer q, pathAt s n peer = some q →
    (f.epoch.toNat ≠ q.epoch → takeFarData n f s peer = s ∧ takeAck n f s peer = s) ∧
    (f.epoch.toNat = q.epoch →
      (∀ t, f.seq.toNat = q.expect → t = setPath s n peer (fun q => { q with expect := q.expect + 1, traffic := s.time }) →
        takeFarData n f s peer = farDue (farCredit (farAck (farDeliver t n peer f) n peer f) n peer f) n peer) ∧
      (q.expect < f.seq.toNat → q.lastNak.all (fun t => t + 100000 ≤ s.time) = true →
        takeFarData n f s peer = farControlFrame (setPath s n peer fun q => { q with lastNak := some s.time }) n peer 0x12) ∧
      (q.expect < f.seq.toNat → q.lastNak.all (fun t => t + 100000 ≤ s.time) = false → takeFarData n f s peer = s) ∧
      (f.seq.toNat < q.expect → takeFarData n f s peer = s) ∧
      (∀ t, t = farCredit (farAck (setPath (farSample s n peer f) n peer fun q => { q with demand := f.demand.toNat }) n peer f) n peer f →
        takeAck n f s peer = farGrant (if f.kind.getLsbD 4 then goBack t n peer else t) n))) ∧
  (∀ s n f peer, pathAt s n peer = none → takeFarData n f s peer = s ∧ takeAck n f s peer = s) ∧
  (∀ s n f peer v, v = (if (pathAt s n peer).isSome ∨ 1024 ≤ (farAt s n).paths.length then s else setFar s n fun x => { x with
      paths := x.paths ++ [newPath x.nextNum peer s.time], nextNum := x.nextNum + 1 }) →
    (pathAt v n peer = none → takeHello n f s peer = v) ∧
    (∀ q w ahead y z r, pathAt v n peer = some q →
      w = (if q.inc.any (· ≠ f.incarnation) then resetPath (setPath v n peer fun q => { q with samples := [], echo := none }) n peer else v) →
      ahead = (f.epoch.toNat + 65536 - (pathAt w n peer).elim 0 (·.epoch)) % 65536 →
      y = (if 0 < ahead ∧ ahead < 32768 then
        setPath (if q.state = 1 then resetPath w n peer else w) n peer fun q => { q with epoch := f.epoch.toNat } else w) →
      z = setPath (farSample y n peer f) n peer (fun q => { q with inc := some f.incarnation }) →
      r = (if (pathAt z n peer).any (fun q => q.epoch = f.epoch.toNat) then
        farCredit (farAck (setPath z n peer fun q => { q with state := 1 }) n peer f) n peer f else z) →
      takeHello n f s peer = if f.kind.getLsbD 5 then r else farControlFrame r n peer 0x23)) ∧
  (∀ s n peer q, n < 8 → pathAt s n peer = some q →
    exec (.ackTimer n peer) s = .next (if q.dueCount = 0 then s else farControlFrame (advance s (q.dueSince + 10000)) n peer 2) ∧
    exec (.retransmitTimeout n peer) s = .next (if q.unacked = [] then s else goBack (advance s (q.ackMoved + q.srtt + 200000)) n peer) ∧
    (q.unacked = [] → exec (.pathResetTimeout n peer) s = .next s) ∧
    (∀ f, q.unacked.head? = some f → exec (.pathResetTimeout n peer) s = .next (resetPath (advance s (f.first + 8000000)) n peer)) ∧
    exec (.pathIdleClose n peer) s = .next (setFar (farReturn (advance s (q.traffic + 60000000000)) n q) n fun x =>
      { x with paths := x.paths.filter fun y => y.peer ≠ peer }) ∧
    exec (.keepalive n peer) s = .next (farControlFrame (advance s (q.lastSent + 10000000)) n peer (if q.state = 1 then 2 else 3))) ∧
  (∀ s n peer, n < 8 → pathAt s n peer = none → exec (.ackTimer n peer) s = .next s ∧ exec (.retransmitTimeout n peer) s = .next s ∧
    exec (.pathResetTimeout n peer) s = .next s ∧ exec (.pathIdleClose n peer) s = .next s ∧ exec (.keepalive n peer) s = .next s) ∧
  (∀ s n, n < 8 → ((farAt s n).stopped = none → exec (.stopResetTimeout n) s = .next s) ∧ (∀ t, (farAt s n).stopped = some t →
    exec (.stopResetTimeout n) s = .next (resetPaths (setFar (advance s (t + 8000000)) n fun x => { x with stopped := none }) n))) ∧
  (∀ s t n peer x, n < 8 → t = endFarWindow (advance s (farAt s n).busy) n → x = farAt t n →
    (pathAt t n peer = none → exec (.farFrameSend n peer) s = .next t) ∧
    (∀ q live now later bytes u, pathAt t n peer = some q →
      live = farAlive t q q.queue → (now, later) = farPick peer (field x.config 6 2 - 80) (q.credit - q.used) false live →
      bytes = roundUp (32 + farBytes now) 64 + 64 → u = farData t n q q.nextSeq now →
      (x.state ≠ .up ∨ farMayData t x = false ∨ farReady t q = false → exec (.farFrameSend n peer) s = .next t) ∧
      (x.state = .up → farMayData t x = true → farReady t q = true →
        (∀ v, v = setPath t n peer (fun q => { q with queue := live }) → now = [] →
          exec (.farFrameSend n peer) s = .next (if live = [] then v else farControlFrame v n peer 2)) ∧
        (now ≠ [] → farBuffer < farUsed x + bytes → exec (.farFrameSend n peer) s = .next t) ∧
        (now ≠ [] → farUsed x + bytes ≤ farBuffer → exec (.farFrameSend n peer) s = .next (setPath u n peer fun q => { q with
          queue := later, nextSeq := q.nextSeq + 1, used := q.used + farPaid peer now, traffic := u.time
          ackMoved := if q.unacked.isEmpty then u.time else q.ackMoved
          unacked := q.unacked ++ [⟨q.nextSeq, now, u.time, u.time, bytes⟩] })))))

/-- What is put into a frame and what stays are together the packets that waited, each in their order; the bytes of what is taken
are within the frame's room, those of its packets that need credit are within the credit; and once a packet that needs credit
has had to wait, no later one that needs credit overtakes it. (15_far_ports.md; R356; R363) -/
def Obligations.FarPicksWhatFits : Prop :=
  ∀ peer room credit ps now later, farPick peer room credit false ps = (now, later) →
    (now ++ later).Perm ps ∧ now.Sublist ps ∧ later.Sublist ps ∧ farBytes now ≤ room ∧ farPaid peer now ≤ credit ∧
    (∀ a e b, ps = a ++ e :: b → needsCredit peer e.2 = true → e ∉ now → ps.Nodup → ∀ x ∈ b, needsCredit peer x.2 = true → x ∉ now)

/-- FAR_CONFIG stores valid records of ports that are DOWN or STOPPED; FAR_KEY installs an association, activates it for sending
from packet number 1, and removes one that is not active, and refuses what the active one forbids; FAR_CONTROL starts, stops and
takes down the ports of its mask; FAR_QUERY and FAR_PATHS answer their records. A trained port comes UP. A retune opens a
window, at once where the far end reports more than 1 in 10^5 symbols corrected, else 60 s after the last, 10 ms after the last
window, with no other far port HELD and a microsecond to drain; the retune that meets the port HELD ends it, 20 µs after it
opened (ending it by the same row is the model's choice, log 25). A port that does not lock again within 5 ms fails; an optic
within 16 W is powered, one beyond it is refused and counted, one that does not answer takes 2 s; a removed optic takes its port
DOWN. (15_far_ports.md; 21_module_hardware.md; R367; R370; R371; R372; R373; R487; R488) -/
def Obligations.FarPortsAndCommandsComplete : Prop :=
  (∀ s mb tag c,
    (∀ k rs, k = c.payload.length / 320 → rs = (List.range k).map (fun i => sub c.payload (320 * i) 320) → Starts s mb tag 10 0x50 c →
      clean c 0 0 true = true → c.payload.length % 320 = 0 → 1 ≤ k → k ≤ 8 → rs.all farRecordOk = true →
      (∀ r ∈ rs, (farAt s (field r 0 1)).state = .down ∨ (farAt s (field r 0 1)).state = .stopped) → exec (.farConfig mb tag) s =
        .next (finish (rs.foldl (fun s r => setFar s (field r 0 1) fun x => { x with config := r }) s) mb c 0)) ∧
    (∀ p n an tx x on same, p = c.payload → n = field p 0 1 → an = field p 1 1 → tx = decide (field p 2 1 = 0) → x = farAt s n →
      on = (tx && decide (x.txAn = some an)) → same = (fun (a : Assoc) => decide (a.an = an) && a.tx == tx) →
      Starts s mb tag 10 0x51 c → clean c 0 0 true = true → p.length = 64 → n ≤ 7 → an ≤ 3 → field p 2 1 ≤ 1 → sub p 0x14 12 = zeros 12 →
      (field p 3 1 = 0 → on = false →
        (((x.assocs.filter fun a => !same a).filter fun a => a.tx == tx).length < 2 → exec (.farKey mb tag) s =
          .next (finish (setFar s n fun y => { y with assocs := (x.assocs.filter fun a => !same a) ++
            [⟨an, tx, BitVec.ofNat 32 (field p 4 4), sub p 8 12, farSak s mb c, 1⟩] }) mb c 0)) ∧
        (2 ≤ ((x.assocs.filter fun a => !same a).filter fun a => a.tx == tx).length →
          exec (.farKey mb tag) s = .next (finish s mb c stResource))) ∧
      (field p 3 1 = 1 → tx = true →
        (on = true → exec (.farKey mb tag) s = .next (finish s mb c 0)) ∧
        (on = false → x.assocs.any same = true → exec (.farKey mb tag) s = .next (finish (setFar s n fun x => { x with
          txAn := some an, txPn := 1, assocs := x.assocs.filter fun a => !(a.tx && x.txAn = some a.an) }) mb c 0)) ∧
        (on = false → x.assocs.any same = false → exec (.farKey mb tag) s = .next (finish s mb c 0x0A51))) ∧
      (field p 3 1 = 2 → on = false → exec (.farKey mb tag) s =
        .next (finish (setFar s n fun x => { x with assocs := x.assocs.filter fun a => !same a }) mb c 0)) ∧
      (field p 3 1 = 0 ∨ field p 3 1 = 2 → on = true → exec (.farKey mb tag) s = .next (finish s mb c 0x0A51))) ∧
    (∀ ns, ns = (List.range 8).filter (fun n => c.arg0.getLsbD n) → Starts s mb tag 10 0x52 c → clean c 0xFF 3 false = true → c.arg1 ≠ 3 →
      (c.arg1 = 0 → ∀ n ∈ ns, (farAt s n).config ≠ [] ∧ (farAt s n).txAn.isSome = true) →
      exec (.farControl mb tag) s = .next (finish (ns.foldl (fun s n => farRequest s n c.arg1.toNat) s) mb c 0)) ∧
    (Starts s mb tag 10 0x53 c → clean c 0 0 false = true → exec (.farQuery mb tag) s = .next (finish s mb c 0 (s.far.ports.flatMap farStatus))) ∧
    (Starts s mb tag 10 0x54 c → clean c 7 0 false = true → exec (.farPaths mb tag) s =
      .next (finish s mb c 0 ((farAt s c.arg0.toNat).paths.flatMap (farPathRecord s c.arg0.toNat))))) ∧
  (∀ s n x, x = farAt s n →
    (x.state = .down → x.optic.any (·.2) = true → farRequest s n 0 = setFar s n fun x => { x with state := .train }) ∧
    (x.state = .stopped → farRequest s n 0 = farUp s n) ∧
    (x.state = .up → x.held = none → farRequest s n 1 = setFar s n fun x => { x with state := .stopped, stopped := some s.time }) ∧
    farRequest s n 2 = farDown s n .down) ∧
  (∀ s n x, n < 8 → x = farAt s n →
    (x.state = .train → exec (.farPortTrained n) s = .next (farUp s n)) ∧ (x.state ≠ .train → exec (.farPortTrained n) s = .next s) ∧
    (∀ k m, (x.state = .held → exec (.farRetune n k m) s = .next (closeFar s n)) ∧
      (∀ t v, x.state = .up → t = (List.range 8).foldl closeFar s →
        v = advance t (max (if m < 100000 * k then s.time else x.tuned + 60000000000) ((farAt t n).window + 10000000) + 1000) →
        exec (.farRetune n k m) s = .next (setFar v n fun x => { x with state := .held, held := some v.time })) ∧
      (x.state ≠ .held → x.state ≠ .up → exec (.farRetune n k m) s = .next s)) ∧
    (∀ t v, x.held = some t → v = advance s (t + 20000) → closeFar s n = setFar v n fun x => { x with
      state := if x.state = .held then .up else x.state, held := none, window := v.time, tuned := v.time }) ∧
    (x.held = none → closeFar s n = s) ∧
    exec (.farRetrain n true) s = .next s ∧
    (x.state = .up ∨ x.state = .held ∨ x.state = .stopped → exec (.farRetrain n false) s = .next (failFar (advance s (s.time + 5000000)) n)) ∧
    (x.state = .down ∨ x.state = .train ∨ x.state = .failed → exec (.farRetrain n false) s = .next s) ∧
    (∀ own, x.optic = none →
      (∀ w, w ≤ 16000 → exec (.opticInserted n (some w) own) s = .next (setFar s n fun x => { x with optic := some (some w, true), own := own })) ∧
      (∀ w, 16000 < w → exec (.opticInserted n (some w) own) s =
        .next (setFar s n fun x => { x with optic := some (some w, false), own := own, refused := x.refused + 1 })) ∧
      exec (.opticInserted n none own) s = .next (setFar (advance s (s.time + 2000000000)) n fun x =>
        { x with optic := some (none, false), own := own, refused := x.refused + 1 })) ∧
    (∀ w own, x.optic.isSome = true → exec (.opticInserted n w own) s = .next s) ∧
    (x.optic.isSome = true → exec (.opticRemoved n) s = .next (farDown (setFar s n fun x => { x with optic := none, own := none }) n .down)) ∧
    (x.optic = none → exec (.opticRemoved n) s = .next s))

/-- The engine takes the oldest entry of queue 63, with one from its semaphore, when it is a message of the row's kind; what is no
message is discarded and counted where the engine owns the queue. A first READY of a child is noted and may make the module
ready; a VETO of a child goes up or decides ROLLBACK; a decision of the parent is recorded, sent on and applied once; an ASK is
answered with the recorded decision, or held and asked on; from anyone else each only leaves the queue. After the stall limit a
module that is ready asks again and raises its event once. VAULT_HELLO of the partner in another feed, or where its topology
allows one feed, is answered with ACCEPT, any other with REFUSE; ACCEPT of the copy under way lets it go on with its writes,
among them the data of every set that changed, or of every set where the slot holds no image of two steps before; a side that
cannot be read fails the copy (log 128); REFUSE fails it; once no write waits for its acknowledgement the end of a copy writes
the header and records the step in its slot. (16_resilience.md; R379; R381; R382; R383; R384; R385; R387; R388; R389) -/
def Obligations.CommitTreeDecides : Prop :=
  (∀ s c, queueHead s 63 = none → c ∈ [Instr.ready, .veto, .commit, .rollback, .ask, .vaultHello, .vaultAccept, .vaultRefuse] →
    exec c s = .next s) ∧
  (∀ s b c t, queueHead s 63 = some b → t = semTake s 0 0 (2048 + 1023) 1 →
    c ∈ [Instr.ready, .veto, .commit, .rollback, .ask, .vaultHello, .vaultAccept, .vaultRefuse] → parseCommit b = none →
    exec c s = .next (if ownsQueue s then resOf t (fun r => { r with junk := r.junk + 1 }) else s)) ∧
  (∀ s b t k m c, queueHead s 63 = some b → t = semTake s 0 0 (2048 + 1023) 1 → parseCommit b = some (k, m) →
    (c, k) ∉ [(Instr.ready, 1), (.veto, 2), (.commit, 3), (.rollback, 4), (.ask, 5), (.vaultHello, 6), (.vaultAccept, 7), (.vaultRefuse, 8)] →
    c ∈ [Instr.ready, .veto, .commit, .rollback, .ask, .vaultHello, .vaultAccept, .vaultRefuse] → exec c s = .next s) ∧
  (∀ s b t m k d n a, queueHead s 63 = some b → t = semTake s 0 0 (2048 + 1023) 1 → parseCommit b = some (k, m) →
    d = m.sender → n = m.step → a = m.attempt →
    (k = 1 →
      (ownsQueue t = true → d ∈ confChildren t → t.res.readys.contains (d, n, a) = false → exec .ready s =
        .next (pumpReady (resOf t fun r => { r with readys := r.readys ++ [(d, n, a)] }))) ∧
      (ownsQueue t = false ∨ d ∉ confChildren t ∨ t.res.readys.contains (d, n, a) = true → exec .ready s = .next t)) ∧
    (k = 2 →
      (∀ p, ownsQueue t = true → d ∈ confChildren t → confParent t = some p → exec .veto s = .next (sendTree t p 2 n a)) ∧
      (ownsQueue t = true → d ∈ confChildren t → confParent t = none →
        exec .veto s = .next (if t.job.step = n ∧ attempt t = a then decide' t n a false else t)) ∧
      (ownsQueue t = false ∨ d ∉ confChildren t → exec .veto s = .next t)) ∧
    (∀ e, (e = Instr.commit ∧ k = 3) ∨ (e = Instr.rollback ∧ k = 4) →
      (ownsQueue t = true → confParent t = some d → decisionOf t n a = none → exec e s = .next (
        if k = 3 then applyCommit (spread (recordDecision t n a true) n a true) n a
        else applyRollback (spread (recordDecision t n a false) n a false) n a)) ∧
      (ownsQueue t = false ∨ confParent t ≠ some d ∨ decisionOf t n a ≠ none → exec e s = .next t)) ∧
    (k = 5 →
      (ownsQueue t = false → exec .ask s = .next t) ∧
      (∀ x, ownsQueue t = true → decisionOf t n a = some x → exec .ask s = .next (sendTree t d (if x = true then 3 else 4) n a)) ∧
      (∀ u, ownsQueue t = true → decisionOf t n a = none →
        u = resOf t (fun r => { r with asks := (d, n, a) :: r.asks.filter fun y => y ≠ (d, n, a) }) →
        (∀ p, confParent u = some p → exec .ask s = .next (sendTree u p 5 n a)) ∧
        (confParent u = none → exec .ask s = .next u))) ∧
    (k = 6 →
      (∀ f, t.fab.topo = some f → f.partner = some d → m.feed ≠ f.feed ∨ bit f.flags 1 = true → exec .vaultHello s =
        .next (sendRes t d 7 (commitBytes t 7 (attempt t) n f.feed (stepOrNone (heldFor t d 0)) (stepOrNone (heldFor t d 1))))) ∧
      ((∀ f, t.fab.topo = some f → f.partner = some d → m.feed = f.feed ∧ bit f.flags 1 = false) →
        exec .vaultHello s = .next (sendRes t d 8 (commitBytes t 8 (attempt t) n 0 0 0)))) ∧
    (k = 7 →
      (∀ c, t.res.copy = some c → partner t = some d → c.accepted = false → n = c.step → ∀ e u,
        e = ⟨c.step, true, slotField m.slot0, slotField m.slot1, c.start⟩ → u = resOf t (fun r => { r with
          copy := some e
          vault0 := if c.step % 2 = 0 then none else slotField m.slot0
          vault1 := if c.step % 2 = 1 then none else slotField m.slot1 }) →
        (readsFail u (copyReads u e) = false → exec .vaultAccept s = .next (copySettles u (copyWrites u d e))) ∧
        (readsFail u (copyReads u e) = true → exec .vaultAccept s =
          .next (pumpReady (copyFails (readRecords (vaultWrite u d e 0 0 (zeros 4096)) (copyReads u e)))))) ∧
      ((∀ c, t.res.copy = some c → partner t ≠ some d ∨ c.accepted = true ∨ n ≠ c.step) → exec .vaultAccept s = .next t)) ∧
    (k = 8 → exec .vaultRefuse s = .next (if t.res.copy ≠ none ∧ partner t = some d then pumpReady (copyFails t) else t))) ∧
  (∀ s n a c t u, s.res.ready = some (n, a) → s.res.conf = some c → t = advance s (s.res.asked + c.limitMs * 1000000) →
    u = resOf (if t.res.stalled then t else event t 2 0) (fun r => { r with stalled := true, asked := (if t.res.stalled then t else event t 2 0).time }) →
    exec .commitStallTimeout s = .next (c.parent.elim u fun p => sendTree u p 5 n a)) ∧
  (∀ s, s.res.ready = none ∨ s.res.conf = none → exec .commitStallTimeout s = .next s) ∧
  (∀ s, (s.res.copy = none → exec .vaultCopyEnd s = .next s) ∧ ∀ c, s.res.copy = some c →
    (c.accepted = false ∨ copyWaits s c.step = true → exec .vaultCopyEnd s = .next s) ∧
    (∀ u, u = vaultWrite s ((partner s).getD 0) c 2 0 (readRun (copyImage s c) 0 4096) → c.accepted = true → copyWaits s c.step = false →
      ((u.fab.txs.any fun x => x.owner = .vault c.step 2) = true →
        exec .vaultCopyEnd s = .next (pumpReady (noteProtection (protection u) (resOf u fun r => { r with
          copy := none, copyFailed := false
          vault0 := if c.step % 2 = 0 then some c.step else r.vault0
          vault1 := if c.step % 2 = 1 then some c.step else r.vault1 })))) ∧
      ((u.fab.txs.any fun x => x.owner = .vault c.step 2) = false →
        exec .vaultCopyEnd s = .next (pumpReady (resOf u fun r => { r with copy := none }))))) ∧
  (∀ s c conf, s.res.conf = some conf → ∀ p ∈ conf.sets.zip (placeSets conf.sets imgData 0),
    (setChanged s p.1 = true ∨ ∀ n, c.target = some n → n + 2 ≠ c.step) → (p.2.off, p.2.len) ∈ copyParts s c)

/-- After recordFlip of step n, n is the last committed step, the side of n's parity holds n and the other side keeps its step, the
attempts start from 0 and no ready report stands. A rollback, where no fence waits for it, raises the count of attempts by one,
drops the ready report, keeps the committed step and both sides, and, where no frame lies in a stack, all of memory; the job
begins the step again where AUTO_RETRY allows another attempt and no replay has failed, and a table that waits for the flip goes
on waiting; else it is HELD; one that was stopped stays so. (16_resilience.md; 10_pipeline_sequencer.md; R376; R377; R382; R383;
R384) -/
def Obligations.FlipCommitsTheStep : Prop :=
  (∀ s n, let t := recordFlip s n
    t.res.committed = some n ∧ t.res.rollbacks = 0 ∧ t.res.ready = none ∧
    (n % 2 = 0 → t.res.side0 = some n ∧ t.res.side1 = s.res.side1) ∧ (n % 2 = 1 → t.res.side1 = some n ∧ t.res.side0 = s.res.side0) ∧
    t = { s with res := t.res }) ∧
  (∀ s t, t = rollback s → (∀ n < 152, (coreAt s n).deferred = none) →
    t.res.committed = s.res.committed ∧ t.res.side0 = s.res.side0 ∧ t.res.side1 = s.res.side1 ∧ t.res.rollbacks = s.res.rollbacks + 1 ∧
    t.res.ready = none ∧ t.time = s.time ∧ ((∀ k ∈ s.stackSet, k.frames = []) → t.dram = s.dram) ∧
    (s.job.phase = .idle ∨ s.job.phase = .loaded ∨ s.job.phase = .stopped → t.job.phase = s.job.phase) ∧
    (s.job.phase = .running ∨ s.job.phase = .stopping ∨ s.job.phase = .held →
      ((∃ c, s.res.conf = some c ∧ c.retry = true ∧ s.res.rollbacks + 1 ≤ c.retryLimit) → s.res.replayFailed = false →
        t.job.phase = .running ∧ t.job.step = s.job.step ∧ t.job.swap = s.job.swap) ∧
      ((∀ c, s.res.conf = some c → c.retry = false ∨ c.retryLimit < s.res.rollbacks + 1) ∨ s.res.replayFailed = true →
        t.job.phase = .held)))

/-- RES_CONFIG that passes its checks is stored; RES_QUERY, SNAP_LIST answer their records; DATA_POS stores the position of an
uncommitted step, at most four; SNAP_TAKE waits for the committed step's snapshot; SNAPSHOT_START takes the oldest waiting
snapshot that is due into its slot, and SNAPSHOT_COMMIT makes that slot VALID, or abandons it where a side cannot be read (log
128); SNAP_DROP frees a VALID slot, SNAP_EXPORT writes its image to a window, the bytes of a chunk that NAND could not give
being free. RESTORE from a side that holds the step, with the recorded seed and position, leaves the job HELD after it; from
flash or the host it checks the image, writes both sides and does the same, or loses both, and marks the slot TORN where NAND
could not give a chunk; from the partner's vault it starts its reads. LANTERN_CONFIG stores weights and caps; an evaluation, 100
ms after the last, stores the score and changes the state as R407 says; TAKEOVER gives up the device number; PEER_SWAP puts the
spare in the failed module's place. (16_resilience.md; R391; R395; R396; R397; R399; R400; R403; R406; R409; R410; R413) -/
def Obligations.ResilienceCommandsComplete : Prop :=
  (∀ s mb tag c,
    (Starts s mb tag 7 1 c → clean c 0 0 true = true → jobIn s [.loaded, .stopped, .held] = true → firstBad (confChecks s c.payload) = none →
      exec (.resConfig mb tag) s = .next (finish (resOf s fun r => { r with conf := some (parseConf c.payload) }) mb c 0)) ∧
    (Starts s mb tag 7 2 c → clean c 0 0 false = true → exec (.resQuery mb tag) s = .next (finish s mb c 0 (resBytes s))) ∧
    (∀ n, n = c.arg0.toNat → Starts s mb tag 7 3 c → clean c step48 all64 false = true → (∀ k, s.res.committed = some k → k < n) →
      (s.res.dataPos.filter fun d => d.1 ≠ n).length < 4 → exec (.dataPos mb tag) s =
        .next (finish (resOf s fun r => { r with dataPos := (n, c.arg1) :: s.res.dataPos.filter fun d => d.1 ≠ n }) mb c 0)) ∧
    (∀ n, Starts s mb tag 7 4 c → clean c 0 0 false = true → s.res.committed = some n → hasSets s = true → exec (.snapTake mb tag) s =
      .next (resOf (markStarted s mb c.tag []) fun r => { r with waiting := r.waiting ++ [⟨3, n, 0, 0, some (mb, c.tag)⟩] })) ∧
    (Starts s mb tag 7 5 c → clean c 0 0 false = true →
      exec (.snapList mb tag) s = .next (finish s mb c 0 ((s.res.slots.mapIdx slotBytes).flatten))) ∧
    (∀ x, Starts s mb tag 7 6 c → clean c 0x3F 0 false = true → validSlot s c.arg0.toNat = some x → exec (.snapDrop mb tag) s =
      .next (finish (resOf s fun r => { r with slots := r.slots.set c.arg0.toNat ⟨0, 0, 0, 0, 0, []⟩ }) mb c 0)) ∧
    (∀ x w o a n nand img t, w = bits c.arg1.toNat 63 60 → o = bits c.arg1.toNat 47 0 → Starts s mb tag 7 7 c →
      clean c 0x3F 0xF000FFFFFFFFFFFF false = true → validSlot s c.arg0.toNat = some x → n = imageLen x.image → windowHolds s w o n = true →
      a = windowAddr s w o → (img, t) = flashImage (nandCount s nand) x.image nand.unreadable → exec (.snapExport mb tag nand) s =
        .next (finish { t with host := { t.host with mem := pasteCells t.host.mem a n (cutCells img 0 n a) } } mb c 0)) ∧
    (∀ nand b, b = c.payload → Starts s mb tag 7 8 c → (∀ r, s.res.reading = some r → r.mb ≠ mb ∨ r.tag ≠ tag) →
      (s.res.reading.isSome = true → exec (.restore mb tag nand) s = .next s) ∧
      (s.res.reading = none → clean c 0 0 true = true → b.length = 64 → firstBad (restoreChecks b) = none →
        jobIn s [.loaded, .stopped, .held] = true → s.res.conf.isSome = true →
        (field b 0 1 = 0 → ownStop s b = none →
          exec (.restore mb tag nand) s = .next (finish (restored s b (recordedAt s (field b 8 8))) mb c 0)) ∧
        (∀ x, field b 0 1 = 0 → ownStop s b = some x → exec (.restore mb tag nand) s = .next (restoreStops s mb c x)) ∧
        (field b 0 1 = 1 → partner s = none → exec (.restore mb tag nand) s = .next (restoreStops (restoreLost s) mb c (0x0709, 0, 0))) ∧
        (∀ p, field b 0 1 = 1 → partner s = some p → exec (.restore mb tag nand) s = .next (readNext (setReading (markStarted s mb c.tag [])
          (some ⟨mb, c.tag, p, field b 8 8 % 2, [], [(0, imgData)], 0⟩)))) ∧
        (2 ≤ field b 0 1 → restoreImage s b = none →
          exec (.restore mb tag nand) s = .next (restoreStops (restoreLost s) mb c (0x0709, 0, 0))) ∧
        (∀ img r t, 2 ≤ field b 0 1 → restoreImage s b = some img → r = flashRead s b nand → t = nandCount s r →
          (imageStop t b img r.unreadable = none → exec (.restore mb tag nand) s = .next (restoreEnds t mb c img)) ∧
          (∀ x, imageStop t b img r.unreadable = some x →
            exec (.restore mb tag nand) s = .next (restoreStops (restoreLost (tornAt t b r.unreadable x)) mb c x))))) ∧
    (∀ nand r, mb < 16 → s.res.reading = some r → r.mb = mb → r.tag = tag → findCmd s mb tag = some c →
      exec (.restore mb tag nand) s = .next (vaultReadGoes s c r)) ∧
    (Starts s mb tag 7 9 c → clean c 0 0 true = true → c.payload.length = 64 → firstBad (lanternChecks c.payload) = none →
      exec (.lanternConfig mb tag) s = .next (finish (resOf s fun r => { r with
        bias := field c.payload 0 2, weights := (List.range 15).map fun k => field c.payload (4 * k + 4) 2
        caps := (List.range 15).map fun k => field c.payload (4 * k + 6) 2 }) mb c 0)) ∧
    (Starts s mb tag 7 10 c → clean c 0x1FFFFF 0 false = true → jobIn s [.idle, .loaded] = true → sameCell s c.arg0.toNat = true →
      exec (.takeover mb tag) s = .next (finish (takeOver s c.arg0.toNat) mb c 0)) ∧
    (Starts s mb tag 7 11 c → clean c 0x1FFFFF 0x1FFFFF false = true → s.job.phase ≠ .idle →
      exec (.peerSwap mb tag) s = .next (finish (peerSwap s c.arg0.toNat c.arg1.toNat) mb c 0))) ∧
  (∀ s c img mb t, t = setReading (writeSets s img) none → restoreEnds s mb c img =
    finish (restored t c.payload (BitVec.ofNat 64 (rdNat img 0x18 8), BitVec.ofNat 64 (rdNat img 0x20 8), rdNat img 0x2C 2)) mb c 0) ∧
  (∀ s, (s.res.snap.isSome = true ∨ s.res.waiting.findIdx? (fun x => s.res.committed.any (x.step ≤ ·)) = none →
      exec .snapshotStart s = .next s) ∧
    ∀ i x t, s.res.snap = none → s.res.waiting.findIdx? (fun x => s.res.committed.any (x.step ≤ ·)) = some i → s.res.waiting[i]? = some x →
      t = resOf s (fun r => { r with waiting := r.waiting.eraseIdx i }) →
      (sideHolds t x.step = false → exec .snapshotStart s = .next (endTake (event t 8 0xFF) x 0x070B)) ∧
      (sideHolds t x.step = true → pickSlot t = none → exec .snapshotStart s = .next (endTake (event t 8 0xFF) x 0x0703)) ∧
      (∀ k, sideHolds t x.step = true → pickSlot t = some k → exec .snapshotStart s = .next (resOf t fun r => { r with
        snap := some { x with slot := k, start := t.time }, slots := r.slots.modify k fun _ => ⟨1, 0, 0, 0, 0, []⟩ }))) ∧
  (∀ s, (s.res.snap = none → exec .snapshotCommit s = .next s) ∧ ∀ x, s.res.snap = some x →
    (readsFail s (snapReads s x.step) = true → exec .snapshotCommit s = .next (abandonSnap (readRecords s (snapReads s x.step)))) ∧
    (∀ pos seed gen img, readsFail s (snapReads s x.step) = false → recordedAt s x.step = (pos, seed, gen) →
      img = buildImage s (s.res.conf.elim [] (·.sets)) ⟨x.step, pos, seed, gen, x.kind, x.start⟩ →
      exec .snapshotCommit s = .next (endTake (event (resOf s fun r => { r with
        snap := none, slots := r.slots.set x.slot ⟨2, x.kind, x.step, pos, s.time, img⟩ }) 7 x.slot) x 0))) ∧
  (∀ s t u st, t = advance s (s.res.evalAt + 100000000) → st = lanternOf (lanternScore t) → u = resOf t (fun r => { r with
      score := lanternScore t, evalAt := t.time, lossAt := (t.time, (farTotals t).1, (farTotals t).2) :: (r.lossAt.take 700)
      below := if lanternScore t < lanternLimit r.lantern then r.below + 1 else 0 }) →
    exec .lanternEvaluate s = .next (if u.res.lantern < st ∨ (10 ≤ u.res.below ∧ st < u.res.lantern) then enterLantern u st else u))

/-- VIS_OPEN of a record that passes its checks on a free context starts it; the first check that fails ends it VIS_MALFORMED with
the field's offset. VIS_DATA and VIS_PULL to a running or resynchronising context append what fits and else wait, in order; a
pull whose window is lost ends 0x0A42. VIS_BOXES of lists within the limits stores them; frames that were ready with an earlier static list keep
it. VIS_CLOSE frees the context at once, completes on one that has ended, or drains. VIS_QUERY answers every context. A stream that goes on settles nothing; one that has
ended, with nothing left, ends the context and completes the drain. A free engine takes the unit of the context that R416 picks
(a range of the ring that cannot be read is recorded); a busy one, or with nothing to take, does nothing. At the end of its
decoding the ring's pages were used, the picture buffer holds free bytes, the unit has left the ring, and the unit ends as R417
says: discarded while the context hunts for a random access point, dropped, the end of the context, or put out with the pictures
it releases (which pictures is the standard's, open: log 14). A frame whose picture, list and slot are there (a slot used before
takes one from its free semaphore) is written as token and record tiles with their seals, its ready semaphore is raised, and the
next frame is next; otherwise nothing happens. The die of a context's hub semaphores is open (log 50). (17_vision_front_end.md;
R416; R417; R419; R420; R421; R422; R423; R428; R429; R431; R285) -/
def Obligations.VisionRuns : Prop :=
  (∀ s mb tag c,
    (∀ d, d = c.payload → Starts s mb tag 8 1 c → clean c 0 0 true = true → d.length = 256 →
      (∀ x, (visChecks s d).find? (fun x => !x.2) = some x → exec (.visOpen mb tag) s = .next (finish s mb c 0x0801 [] (BitVec.ofNat 64 x.1))) ∧
      ((∀ x ∈ visChecks s d, x.2 = true) → (visAt s (field d 0 1)).phase = .free →
        (∀ a ∈ visAreas d, touches (reservedRanges s ++ (openVis s).flatMap visAreas) a.1 a.2 = false) → visSemBad s (vReadySem d) = false →
        visSemBad s (vFreeSem d) = false → exec (.visOpen mb tag) s =
          .next (finish (setVis s (field d 0 1) fun _ => { VisCtx.reset with desc := d, phase := .running }) mb c 0))) ∧
    (∀ n v, n = bits c.arg0.toNat 7 0 → v = visAt s n → Starts s mb tag 8 3 c → clean c 0x1FF 0 true = true →
      v.phase = .running ∨ v.phase = .resync → v.eos = false → c.payload.length ≤ vRingLen v.desc →
      (v.waits = [] → v.tail - v.head + c.payload.length ≤ vRingLen v.desc → exec (.visData mb tag) s =
        .next (settleVis (finish (appendRing s n c.payload (c.arg0.getLsbD 8)) mb c 0) n)) ∧
      ((∀ w ∈ v.waits, ∀ x, findCmd s w.1 w.2 = some x → (visBytes s x).2 = false) →
        v.waits ≠ [] ∨ vRingLen v.desc < v.tail - v.head + c.payload.length → exec (.visData mb tag) s =
          .next (setVis (markStarted s mb c.tag [n]) n fun v => { v with waits := v.waits ++ [(mb, c.tag)] }))) ∧
    (∀ n v w o k, n = field c.payload 0 1 → v = visAt s n → w = field c.payload 1 1 → o = field c.payload 8 8 → k = field c.payload 16 8 →
      Starts s mb tag 8 4 c → clean c 0 0 true = true → c.payload.length = 24 → field c.payload 2 1 ≤ 1 → sub c.payload 3 5 = zeros 5 →
      v.phase = .running ∨ v.phase = .resync → v.eos = false → k ≤ vRingLen v.desc →
      (v.waits = [] → v.tail - v.head + k ≤ vRingLen v.desc → windowHolds s w o k = true → exec (.visPull mb tag) s =
        .next (settleVis (finish (appendRing s n (readRun s.host.mem (windowAddr s w o) k) (bit (field c.payload 2 1) 0)) mb c 0) n)) ∧
      (v.waits = [] → v.tail - v.head + k ≤ vRingLen v.desc → windowHolds s w o k = false → exec (.visPull mb tag) s =
        .next (finish s mb c 0x0A42)) ∧
      ((∀ w ∈ v.waits, ∀ x, findCmd s w.1 w.2 = some x → (visBytes s x).2 = false) →
        v.waits ≠ [] ∨ vRingLen v.desc < v.tail - v.head + k → exec (.visPull mb tag) s =
          .next (setVis (markStarted s mb c.tag [n]) n fun v => { v with waits := v.waits ++ [(mb, c.tag)] }))) ∧
    (∀ n v bs, n = bits c.arg0.toNat 7 0 → v = visAt s n → bs = boxesOf c.payload → Starts s mb tag 8 5 c → clean c 0x1FF all64 true = true →
      c.payload.length % 24 = 0 → c.payload ≠ [] → v.phase = .running ∨ v.phase = .resync ∨ v.phase = .draining →
      (∀ b ∈ bs, boxBad b = none ∧ 1 ≤ gridW v.desc b ∧ 1 ≤ gridH v.desc b) →
      bs.length ≤ vMaxBoxes v.desc → listTokens v.desc bs ≤ vMaxTokens v.desc → bs.all (boxFits v.desc) = true →
      (∀ held, held = ((readyFrames s n v).filter fun k => v.lists.all fun x => x.1 ≠ k).filterMap (fun k => (listFor v k).map fun x => (k, x)) →
        c.arg0.getLsbD 8 = true → exec (.visBoxes mb tag) s =
          .next (finish (setVis s n fun v => { v with always := some c.payload, taken := held }) mb c 0)) ∧
      (c.arg0.getLsbD 8 = false → v.out ≤ c.arg1.toNat → (v.lists.filter fun l => l.1 ≠ c.arg1.toNat).length < 16 →
        exec (.visBoxes mb tag) s = .next (finish (setVis s n fun w => { w with
          lists := (v.lists.filter fun l => l.1 ≠ c.arg1.toNat) ++ [(c.arg1.toNat, c.payload)] }) mb c 0))) ∧
    (∀ n v, n = bits c.arg0.toNat 7 0 → v = visAt s n → Starts s mb tag 8 2 c → clean c 0xFF 1 false = true → v.phase ≠ .free →
      (c.arg1 = 0 → exec (.visClose mb tag) s = .next (finish (visStop s n stAborted) mb c 0)) ∧
      (c.arg1 = 1 → v.phase = .ended → exec (.visClose mb tag) s = .next (finish s mb c 0)) ∧
      (c.arg1 = 1 → v.phase = .running ∨ v.phase = .resync → exec (.visClose mb tag) s =
        .next (settleVis (setVis (markStarted s mb c.tag [n]) n fun v => { v with
          phase := .draining, hunt := v.phase = .resync, eos := true, drain := some (mb, c.tag) }) n))) ∧
    (Starts s mb tag 8 6 c → clean c 0 0 false = true →
      exec (.visQuery mb tag) s = .next (finish s mb c 0 ((s.vis.ctxs.mapIdx fun n v => visEntry s n v).flatten)))) ∧
  (∀ s n v, v = visAt s n →
    (v.eos = false → settleVis s n = s) ∧
    (v.phase = .running ∨ v.phase = .resync ∨ v.phase = .draining → v.eos = true → v.waits = [] → unitBytes s v = 0 →
      (s.vis.engines.any fun e => e.any fun x => x.1 = n) = false → ∀ w t, w = outputPictures v true →
      (w.waiting ≠ [] → settleVis s n = setVis s n fun _ => w) ∧
      (t = setVis s n (fun _ => { w with phase := .ended, drain := none }) → w.waiting = [] →
        settleVis s n = v.drain.elim t fun x => finishTag t x.1 x.2 0))) ∧
  (∀ s e, e < 8 →
    ((s.vis.engines.getD e none).isSome = true ∨ pickContext s e = none → exec (.decodeStart e) s = .next s) ∧
    (∀ n v k t, s.vis.engines.getD e none = none → pickContext s e = some n → v = visAt s n → k = unitBytes s v →
      t = ((ringPieces v.desc v.head k).findSome? fun p => badGranule s p.1 p.2).elim s (uncorrectable s) →
      exec (.decodeStart e) s = .next { t with vis := { t.vis with
        engines := t.vis.engines.set e (some (n, k, ((ringPieces v.desc v.head k).findSome? fun p => badGranule s p.1 p.2).isSome)),
        served := t.vis.served.set e n } }) ∧
    (∀ x, s.vis.engines.getD e none = none → exec (.decodeDone e x) s = .next s) ∧
    (∀ x n k bad v r t, s.vis.engines.getD e none = some (n, k, bad) → v = visAt s n → r = decodeReads (touchRing s v.desc v.head k) v k x →
      t = setVis (havocLocal { r.2 with vis := { r.2.vis with engines := r.2.vis.engines.set e none } } (vDpbBase v.desc) (vDpbLen v.desc)) n
        (fun v => { v with head := v.head + k }) →
      exec (.decodeDone e x) s = .next (pumpVis (unitDone t n (readRing s v.desc v.head k) (bad || r.1)) n))) ∧
  (∀ s n v u lost g hunts, v = visAt s n → g = setVis s n (fun v => { v with stream := v.stream ++ [(true, u)] }) →
    hunts = (decide (v.phase = .resync) || v.hunt) →
    (hunts = true → lost = true ∨ Config.randomAccess (vCodec v.desc) v.stream u = false → unitDone s n u lost = g) ∧
    (hunts = false ∨ lost = false ∧ Config.randomAccess (vCodec v.desc) v.stream u = true →
      (unitFault v u lost = some 0 → unitDone s n u lost = visDrop g n) ∧
      (∀ k, unitFault v u lost = some (k + 1) → unitDone s n u lost = visFail g n (k + 1)) ∧
      (unitFault v u lost = none → unitDone s n u lost = setVis s n fun v => outputPictures { v with
        stream := v.stream ++ [(false, u)], phase := if v.phase = .resync then .running else v.phase, hunt := false,
        resumed := if hunts then some v.stream.length else v.resumed } false))) ∧
  (∀ s n v, n < 256 → v = visAt s n →
    (v.waiting = [] ∨ listFor v v.out = none ∨ v.phase = .free ∨ v.phase = .error ∨ slotFree s n v = false →
      exec (.frameTokenize n) s = .next s) ∧
    (∀ x l d, v.waiting.head? = some x → listFor v v.out = some l → v.phase ≠ .free → v.phase ≠ .error → slotFree s n v = true → d = v.desc →
      ∃ base tokens bs total el q t, base = vSlotBase d + vSlotBytes d * (v.out % vSlots d) ∧ tokens = base + 4096 * vRt d ∧
        bs = placedBoxes d 0 (boxesOf l) ∧ total = listTokens d (boxesOf l) ∧ el = frameElem d (shotPicture v x) bs ∧
        q = (if v.out < vSlots d then s else semTake s 0 (Config.visDie n % 2) (vFreeSem d) 1) ∧
        t = writeRecordTiles (writeTokens q d tokens (tokens + vTokenBytes d + 512) total el) d base (tokens + vTokenBytes d)
          (frameRecord v n (shotPicture v x) (v.discont || x.disc) bs total (firstHit d total el) tokens (tokens + vTokenBytes d + 512)) ∧
        exec (.frameTokenize n) s = .next (settleVis (setVis (semAdd t 0 (Config.visDie n % 2) (vReadySem d) 1) n fun v => { v with
          waiting := v.waiting.drop 1, out := v.out + 1, lists := v.lists.filter fun l => l.1 ≠ v.out
          taken := v.taken.filter fun l => l.1 ≠ v.out, discont := false }) n)))

/-- With a job loaded, TEL_STEPS answers up to the asked number of closed step records from a sequence number on, and TEL_STREAM
starts or ends the stream into a window that holds it. TEL_EVENTS answers the oldest events and takes them off the queue;
TEL_ERRORS answers a log from an index on. FB_COUNTERS (after a free number of corrected symbols has been counted, log 106),
FB_HISTOGRAMS, FB_LOG and FB_IMAGE answer counters, a histogram, the event log from a sequence number on, and the sectors.
FB_COMMIT, a minute or more after the last commit, writes an image; so does the hourly commit at the whole hour, after the
hour's counts have entered their histograms. A sample at the whole second counts each reading, the hottest of its class, in the
bin of its histogram; a class without a reading takes a free bin (log 110). A register read of 4 aligned bytes, or 8 as two,
answers the registers of BAR2 and latches TIME_HI with TIME_LO; any other reads as zero and sets ACCESS_ERROR; offsets without a
register read as zero. (19_telemetry_field_book.md; 20_register_map.md; R456; R457; R458; R460; R462; R463; R464; R465; R466;
R467) -/
def Obligations.TelemetryIsRead : Prop :=
  (∀ s mb tag c,
    (∀ k, k = c.arg1.toNat → Starts s mb tag 9 1 c → clean c all64 0x7FF false = true → 1 ≤ k → k ≤ 1024 → s.job.phase ≠ .idle →
      exec (.telSteps mb tag) s = .next (finish s mb c 0 ((fromPoint s.tel.closed (·.seq) c.arg0.toNat k).1.flatMap stepBytes)
        (fromPoint s.tel.closed (·.seq) c.arg0.toNat k).2)) ∧
    (∀ w o n, w = field c.payload 0 1 → o = field c.payload 8 8 → n = field c.payload 16 8 → Starts s mb tag 9 2 c → clean c 0 0 true = true →
      c.payload.length = 24 → sub c.payload 2 6 = zeros 6 → n % 4096 = 0 → s.job.phase ≠ .idle →
      (field c.payload 1 1 = 0 → exec (.telStream mb tag) s = .next (finish { s with tel := { s.tel with stream := none } } mb c 0)) ∧
      (field c.payload 1 1 = 1 → n ≠ 0 → windowHolds s w o n = true →
        exec (.telStream mb tag) s = .next (finish { s with tel := { s.tel with stream := some ⟨w, o, n⟩ } } mb c 0))) ∧
    (∀ k, k = c.arg0.toNat → Starts s mb tag 9 3 c → clean c 0x7FF 0 false = true → 1 ≤ k → k ≤ 1024 → exec (.telEvents mb tag) s =
      .next (finish { s with tel := { s.tel with events := s.tel.events.drop k } } mb c 0 ((s.tel.events.take k).flatMap eventBytes))) ∧
    (∀ l r, l = s.tel.logs.getD c.arg0.toNat ⟨0, []⟩ → r = fromPoint l.entries (·.1) c.arg1.toNat l.entries.length → Starts s mb tag 9 4 c →
      clean c 3 all64 false = true → exec (.telErrors mb tag) s = .next (finish s mb c 0 (r.1.flatMap fun e => le 8 e.1 ++ e.2) r.2)) ∧
    (Starts s mb tag 9 5 c → clean c 0 0 false = true → exec (.fbCounters mb tag) s =
      .next (finish (countFec s) mb c 0 (counterBlock (countFec s)))) ∧
    (∀ k bins, k = c.arg0.toNat → bins = s.tel.hist.getD k [] → Starts s mb tag 9 6 c → clean c 0x1F 0 false = true → k ≤ 27 →
      exec (.fbHistograms mb tag) s =
        .next (finish s mb c 0 (le 2 k ++ le 2 bins.length ++ le 8 s.tel.committedAt ++ zeros 4 ++ bins.flatMap (le 4)))) ∧
    (∀ r, r = fromPoint s.tel.fbLog (·.seq) c.arg0.toNat c.arg1.toNat → Starts s mb tag 9 7 c → clean c 0xFFFFFFFF 0xFFFF false = true →
      exec (.fbLog mb tag) s = .next (finish s mb c 0 (r.1.flatMap fbBytes) r.2)) ∧
    (Starts s mb tag 9 8 c → clean c 0 0 false = true → within s s.tel.commitTime 60000000000 = false → exec (.fbCommit mb tag) s =
      .next (finish (commitImage s) mb c 0 [] (BitVec.ofNat 64 (commitImage s).tel.committedAt))) ∧
    (Starts s mb tag 9 9 c → clean c 0 0 false = true → exec (.fbImage mb tag) s = .next (finish s mb c 0 (fbSectors s)))) ∧
  (∀ s t u, t = countFec (advance s ((s.time / 3600000000000 + 1) * 3600000000000)) →
    u = (List.range 4).foldl (fun u i => hitBin u (24 + i) (countBin (nth (hourCounts t) i - nth u.tel.hour i))) t →
    exec .fieldBookHourlyCommit s = .next (commitImage { u with tel := { u.tel with hour := hourCounts t } })) ∧
  (∀ s mv t, t = advance s ((s.time / 1000000000 + 1) * 1000000000) → exec (.fieldBookSample mv) s =
    .next ((sampleBins t mv).zipIdx.foldl (fun u x => match x.1 with
      | some k => hitBin u x.2 k
      | none => bump (hitBin u x.2 ((freeWord u).toNat % histBins x.2)) 1) t)) ∧
  (∀ s off,
    (off % 4 = 0 → off ≠ 0x1010 → barReadAccess s off 4 = ((barRead s off).setWidth 64, s)) ∧
    barReadAccess s 0x1010 4 = (BitVec.ofNat 64 (s.time % 2 ^ 32), latchTime s) ∧
    (off % 8 = 0 → off ≠ 0x1010 → barReadAccess s off 8 = (barRead s (off + 4) ++ barRead s off, s)) ∧
    (∀ size, ¬ (size = 4 ∧ off % 4 = 0) → ¬ (size = 8 ∧ off % 8 = 0) → barReadAccess s off size = (0, setError s 4)) ∧
    barRead s 0 = 0x4B54424D ∧ barRead s 4 = 0x00000809 ∧
    (0x34 ≤ off → off < 0x1000 ∨ 0x101C ≤ off ∧ off < 0x2000 ∨ 0x2008 ≤ off ∧ off < 0x10000 ∨ 0x11000 ≤ off ∧ off < 0x20000 ∨
      0x20200 ≤ off ∧ off < 0x21000 ∨ 0x21004 ≤ off → barRead s off = 0) ∧
    (s.pwr.endpoint = true → exec .timeLoRead s = .next (latchTime s)))

/-- In the reset state HBM and LPDDR, the on-chip memories, the tile records, host memory and every snapshot slot's image list
strictly rising addresses and no zero (the sparse form is the model's, log 1). (18_power_clocks_reset.md) -/
def Obligations.ResetMemoriesWf : Prop :=
  State.reset.MemoriesWf

/-- From any state whose memories (HBM and LPDDR, the on-chip memories, the tile records, host memory, the images in the snapshot
slots) list strictly rising addresses and no zero, every step that answers a next state, whatever the command, leaves them so;
equal memories are therefore equal data in every state that can follow (the sparse form is the model's, log 1). (00_scope.md;
02_host_commands.md; 04_cores_tile_store_seals.md; 11_hbm.md; 12_memory_tiers.md) -/
def Obligations.StepKeepsMemoriesWf : Prop :=
  ∀ s t : State, s.MemoriesWf → step s = .next t → t.MemoriesWf
end

