-- ==== Sys2Proof/Laws/Memory.lean ====
section
/-! SUPPORT. Memory.lean: what the operations on sparse memories do: reads after writes, and that each keeps the canonical form. -/

namespace Sys2Proof.Machine

variable {w : Nat}

/-! ### The canonical form -/

theorem Wf.nil : Wf ([] : List (Nat × BitVec w)) := by simp [Wf]

theorem Wf.filter {m : List (Nat × BitVec w)} (h : Wf m) (p : Nat × BitVec w → Bool) : Wf (m.filter p) :=
  ⟨h.1.filter p, fun c hc => h.2 c (List.mem_filter.mp hc).1⟩

/-- Three canonical memories side by side, each below the next. -/
theorem Wf.append₃ {a b c : List (Nat × BitVec w)} {x y : Nat} (ha : Wf a) (hb : Wf b) (hc : Wf c) (h1 : ∀ e ∈ a, e.1 < x)
    (h2 : ∀ e ∈ b, x ≤ e.1 ∧ e.1 < y) (h3 : ∀ e ∈ c, y ≤ e.1) (hxy : x ≤ y) : Wf (a ++ b ++ c) := by
  refine ⟨?_, ?_⟩
  · rw [List.pairwise_append, List.pairwise_append]
    refine ⟨⟨ha.1, hb.1, ?_⟩, hc.1, ?_⟩
    · intro e he f hf
      have := h1 e he
      have := h2 f hf
      omega
    · intro e he f hf
      have hf := h3 f hf
      rcases List.mem_append.mp he with he | he
      · have := h1 e he
        omega
      · have := h2 e he
        omega
  · intro e he
    rcases List.mem_append.mp he with he | he
    · rcases List.mem_append.mp he with he | he
      · exact ha.2 e he
      · exact hb.2 e he
    · exact hc.2 e he

/-- The cells of a run lie in it. -/
theorem mem_runCells {bs : List (BitVec w)} {a : Nat} {e : Nat × BitVec w} (h : e ∈ runCells a bs) :
    a ≤ e.1 ∧ e.1 < a + bs.length ∧ e.2 ≠ 0 := by
  induction bs generalizing a with
  | nil => simp [runCells] at h
  | cons b bs ih =>
    simp only [runCells] at h
    split at h
    · have := ih h
      simp only [List.length_cons]
      exact ⟨by omega, by omega, this.2.2⟩
    · rcases List.mem_cons.mp h with rfl | h
      · simp_all
      · have := ih h
        simp only [List.length_cons]
        exact ⟨by omega, by omega, this.2.2⟩

theorem Wf.runCells (a : Nat) (bs : List (BitVec w)) : Wf (runCells a bs) := by
  refine ⟨?_, fun e he => (mem_runCells he).2.2⟩
  induction bs generalizing a with
  | nil => simp [Machine.runCells]
  | cons b bs ih =>
    simp only [Machine.runCells]
    split
    · exact ih (a + 1)
    · exact List.pairwise_cons.mpr ⟨fun e he => (mem_runCells he).1, ih (a + 1)⟩

theorem Wf.writeRun {m : List (Nat × BitVec w)} (h : Wf m) (a : Nat) (bs : List (BitVec w)) : Wf (writeRun m a bs) := by
  refine Wf.append₃ (x := a) (y := a + bs.length) (h.filter _) (Wf.runCells a bs) (h.filter _) ?_ ?_ ?_ (by omega)
  · intro e he
    simpa using (List.mem_filter.mp he).2
  · intro e he
    exact ⟨(mem_runCells he).1, (mem_runCells he).2.1⟩
  · intro e he
    simpa using (List.mem_filter.mp he).2

theorem Wf.wr {m : List (Nat × BitVec w)} (h : Wf m) (a : Nat) (v : BitVec w) : Wf (wr m a v) := h.writeRun a [v]

theorem Wf.eraseRun {m : List (Nat × BitVec w)} (h : Wf m) (a n : Nat) : Wf (eraseRun m a n) := h.filter _

theorem Wf.writeMasked {m : Mem} (h : Wf m) (a : Nat) (bs : List Byte) (keep : Nat → Bool) : Wf (writeMasked m a bs keep) :=
  h.writeRun a _

/-- The cells of a range moved elsewhere. -/
theorem Wf.cutCells {m : Mem} (h : Wf m) (a n o : Nat) : Wf (cutCells m a n o) := by
  refine ⟨?_, ?_⟩
  · simp only [Machine.cutCells]
    rw [List.pairwise_map]
    refine (h.1.filter _).imp_of_mem ?_
    intro x y hx hy hxy
    have hx := (List.mem_filter.mp hx).2
    have hy := (List.mem_filter.mp hy).2
    simp only [Bool.and_eq_true, decide_eq_true_eq] at hx hy
    simp only
    omega
  · intro e he
    simp only [Machine.cutCells, List.mem_map] at he
    obtain ⟨x, hx, rfl⟩ := he
    exact h.2 x (List.mem_filter.mp hx).1

theorem Wf.pasteCells {m cells : Mem} (h : Wf m) (hc : Wf cells) (a n : Nat) : Wf (pasteCells m a n cells) := by
  refine Wf.append₃ (x := a) (y := a + n) (h.filter _) (hc.filter _) (h.filter _) ?_ ?_ ?_ (by omega)
  · intro e he
    simpa using (List.mem_filter.mp he).2
  · intro e he
    simpa using (List.mem_filter.mp he).2
  · intro e he
    simpa using (List.mem_filter.mp he).2

/-! ### Reads -/

@[simp] theorem rd_nil (a : Nat) : rd ([] : List (Nat × BitVec w)) a = 0 := rfl

theorem rd_cons (e : Nat × BitVec w) (m : List (Nat × BitVec w)) (a : Nat) : rd (e :: m) a = if e.1 = a then e.2 else rd m a := by
  obtain ⟨k, v⟩ := e
  by_cases h : k = a
  · subst h; simp [rd, List.lookup]
  · have : (a == k) = false := by simpa using fun hh => h hh.symm
    simp [rd, List.lookup, h, this]

theorem rd_append (m k : List (Nat × BitVec w)) (a : Nat) : rd (m ++ k) a = if ∃ e ∈ m, e.1 = a then rd m a else rd k a := by
  induction m with
  | nil => simp
  | cons e m ih =>
    rw [List.cons_append, rd_cons, rd_cons, ih]
    by_cases h : e.1 = a
    · simp [h]
    · simp [h]

/-- An address that nothing lists reads as 0. -/
theorem rd_eq_zero {m : List (Nat × BitVec w)} {a : Nat} (h : ∀ e ∈ m, e.1 ≠ a) : rd m a = 0 := by
  induction m with
  | nil => rfl
  | cons e m ih =>
    rw [rd_cons, if_neg (h e (by simp))]
    exact ih fun f hf => h f (List.mem_cons_of_mem _ hf)

theorem rd_filter (m : List (Nat × BitVec w)) (p : Nat → Bool) (a : Nat) :
    rd (m.filter fun c => p c.1) a = if p a then rd m a else 0 := by
  induction m with
  | nil => simp
  | cons e m ih =>
    rw [rd_cons]
    by_cases hp : p e.1
    · rw [List.filter_cons_of_pos (by simpa using hp), rd_cons, ih]
      by_cases h : e.1 = a
      · subst h; simp [hp]
      · simp [h]
    · rw [List.filter_cons_of_neg (by simpa using hp), ih]
      by_cases h : e.1 = a
      · subst h; simp [hp]
      · simp [h]

theorem rd_runCells (a : Nat) (bs : List (BitVec w)) (b : Nat) :
    rd (runCells a bs) b = if a ≤ b ∧ b < a + bs.length then bs.getD (b - a) 0 else 0 := by
  induction bs generalizing a with
  | nil => simp [runCells]
  | cons x xs ih =>
    have step : rd (runCells a (x :: xs)) b = if a = b then x else rd (runCells (a + 1) xs) b := by
      simp only [runCells]
      split
      · next h =>
        by_cases hb : a = b
        · rw [if_pos hb, ih, if_neg (by omega), h]
        · rw [if_neg hb]
      · rw [rd_cons]
    rw [step, ih]
    simp only [List.length_cons]
    by_cases hb : a = b
    · subst hb; simp
    · by_cases h1 : a + 1 ≤ b ∧ b < a + 1 + xs.length
      · rw [if_neg hb, if_pos h1, if_pos (by omega)]
        have : b - a = (b - (a + 1)) + 1 := by omega
        rw [this, List.getD_cons_succ]
      · rw [if_neg hb, if_neg h1, if_neg (by omega)]

/-- What an address reads after a write: the value written, or what it read before. -/
theorem rd_writeRun (m : List (Nat × BitVec w)) (a : Nat) (bs : List (BitVec w)) (b : Nat) :
    rd (writeRun m a bs) b = if a ≤ b ∧ b < a + bs.length then bs.getD (b - a) 0 else rd m b := by
  have f1 := rd_filter m (fun x => decide (x < a)) b
  have f3 := rd_filter m (fun x => decide (a + bs.length ≤ x)) b
  have f2 := rd_runCells a bs b
  simp only [writeRun, List.append_assoc]
  rw [rd_append, rd_append]
  by_cases h1 : b < a
  · rw [if_neg (by omega : ¬(a ≤ b ∧ b < a + bs.length))]
    by_cases he : ∃ e ∈ m.filter (fun c => decide (c.1 < a)), e.1 = b
    · rw [if_pos he, f1]; simp [h1]
    · rw [if_neg he]
      have z : rd m b = 0 := by
        refine rd_eq_zero fun e hm hb => he ⟨e, ?_, hb⟩
        rw [List.mem_filter]
        exact ⟨hm, by simp; omega⟩
      rw [z]
      split
      · rw [f2, if_neg (by omega)]
      · rw [f3, if_neg (by simp; omega)]
  · have n1 : ¬∃ e ∈ m.filter (fun c => decide (c.1 < a)), e.1 = b := by
      rintro ⟨e, he, hb⟩
      have := (List.mem_filter.mp he).2
      simp at this
      omega
    rw [if_neg n1]
    by_cases h2 : b < a + bs.length
    · rw [if_pos (by omega : a ≤ b ∧ b < a + bs.length)]
      rw [if_pos (by omega : a ≤ b ∧ b < a + bs.length)] at f2
      split
      · exact f2
      · next hn =>
        rw [f3, if_neg (by simp; omega)]
        rw [← f2]
        exact (rd_eq_zero fun e he hb => hn ⟨e, he, hb⟩).symm
    · rw [if_neg (by omega : ¬(a ≤ b ∧ b < a + bs.length))]
      have n2 : ¬∃ e ∈ runCells a bs, e.1 = b := by
        rintro ⟨e, he, hb⟩
        have := mem_runCells he
        omega
      rw [if_neg n2, f3, if_pos (by simp; omega)]

@[simp] theorem rd_wr (m : List (Nat × BitVec w)) (a : Nat) (v : BitVec w) (b : Nat) : rd (wr m a v) b = if b = a then v else rd m b := by
  rw [wr, rd_writeRun]
  by_cases h : b = a
  · subst h; simp
  · rw [if_neg (by simp; omega), if_neg h]

theorem rd_eraseRun (m : List (Nat × BitVec w)) (a n b : Nat) : rd (eraseRun m a n) b = if b < a ∨ a + n ≤ b then rd m b else 0 := by
  have := rd_filter m (fun x => x < a || a + n ≤ x) b
  rw [eraseRun, this]
  simp

/-- Bytes read back as they were written. -/
theorem readRun_writeRun (m : List (Nat × BitVec w)) (a : Nat) (bs : List (BitVec w)) : readRun (writeRun m a bs) a bs.length = bs := by
  refine List.ext_getElem (by simp [readRun]) fun i h1 h2 => ?_
  simp only [readRun, List.getElem_map, List.getElem_range, rd_writeRun]
  rw [if_pos (by omega)]
  simp [List.getD, h2]

/-- A run that a write does not touch reads as before. -/
theorem readRun_writeRun_of_disjoint (m : List (Nat × BitVec w)) (a : Nat) (bs : List (BitVec w)) (b n : Nat)
    (h : b + n ≤ a ∨ a + bs.length ≤ b) : readRun (writeRun m a bs) b n = readRun m b n := by
  simp only [readRun]
  refine List.map_congr_left fun i hi => ?_
  rw [rd_writeRun, if_neg]
  have := List.mem_range.mp hi
  omega

end Sys2Proof.Machine
end

