-- ==== Sys2Proof/Laws/State.lean ====
section
/-! SUPPORT. Laws/State.lean: what each single update of the state writes, field by field. -/

namespace Sys2Proof.Machine

variable (s : State)

@[simp] theorem setMb_time (mb : Nat) (f : Mailbox → Mailbox) : (setMb s mb f).time = s.time := rfl
@[simp] theorem setMb_pwr (mb : Nat) (f : Mailbox → Mailbox) : (setMb s mb f).pwr = s.pwr := rfl
@[simp] theorem setMb_host (mb : Nat) (f : Mailbox → Mailbox) : (setMb s mb f).host = { s.host with mbs := s.host.mbs.modify mb f } := rfl
@[simp] theorem setMb_fw (mb : Nat) (f : Mailbox → Mailbox) : (setMb s mb f).fw = s.fw := rfl
@[simp] theorem setMb_tel (mb : Nat) (f : Mailbox → Mailbox) : (setMb s mb f).tel = s.tel := rfl
@[simp] theorem setMb_cores (mb : Nat) (f : Mailbox → Mailbox) : (setMb s mb f).cores = s.cores := rfl
@[simp] theorem setMb_ctl (mb : Nat) (f : Mailbox → Mailbox) : (setMb s mb f).ctl = s.ctl := rfl
@[simp] theorem setMb_recs (mb : Nat) (f : Mailbox → Mailbox) : (setMb s mb f).recs = s.recs := rfl
@[simp] theorem setMb_dram (mb : Nat) (f : Mailbox → Mailbox) : (setMb s mb f).dram = s.dram := rfl
@[simp] theorem setMb_poison (mb : Nat) (f : Mailbox → Mailbox) : (setMb s mb f).poison = s.poison := rfl
@[simp] theorem setMb_dieSems (mb : Nat) (f : Mailbox → Mailbox) : (setMb s mb f).dieSems = s.dieSems := rfl
@[simp] theorem setMb_hubSems (mb : Nat) (f : Mailbox → Mailbox) : (setMb s mb f).hubSems = s.hubSems := rfl
@[simp] theorem setMb_semOver (mb : Nat) (f : Mailbox → Mailbox) : (setMb s mb f).semOver = s.semOver := rfl
@[simp] theorem setMb_programs (mb : Nat) (f : Mailbox → Mailbox) : (setMb s mb f).programs = s.programs := rfl
@[simp] theorem setMb_loads (mb : Nat) (f : Mailbox → Mailbox) : (setMb s mb f).loads = s.loads := rfl
@[simp] theorem setMb_tables (mb : Nat) (f : Mailbox → Mailbox) : (setMb s mb f).tables = s.tables := rfl
@[simp] theorem setMb_job (mb : Nat) (f : Mailbox → Mailbox) : (setMb s mb f).job = s.job := rfl
@[simp] theorem setMb_stackSet (mb : Nat) (f : Mailbox → Mailbox) : (setMb s mb f).stackSet = s.stackSet := rfl
@[simp] theorem setMb_hbm (mb : Nat) (f : Mailbox → Mailbox) : (setMb s mb f).hbm = s.hbm := rfl
@[simp] theorem setMb_lpddr (mb : Nat) (f : Mailbox → Mailbox) : (setMb s mb f).lpddr = s.lpddr := rfl
@[simp] theorem setMb_tier (mb : Nat) (f : Mailbox → Mailbox) : (setMb s mb f).tier = s.tier := rfl
@[simp] theorem setMb_fab (mb : Nat) (f : Mailbox → Mailbox) : (setMb s mb f).fab = s.fab := rfl
@[simp] theorem setMb_far (mb : Nat) (f : Mailbox → Mailbox) : (setMb s mb f).far = s.far := rfl
@[simp] theorem setMb_coll (mb : Nat) (f : Mailbox → Mailbox) : (setMb s mb f).coll = s.coll := rfl
@[simp] theorem setMb_res (mb : Nat) (f : Mailbox → Mailbox) : (setMb s mb f).res = s.res := rfl
@[simp] theorem setMb_vis (mb : Nat) (f : Mailbox → Mailbox) : (setMb s mb f).vis = s.vis := rfl
@[simp] theorem setMb_freeCount (mb : Nat) (f : Mailbox → Mailbox) : (setMb s mb f).freeCount = s.freeCount := rfl
@[simp] theorem setMb_pending (mb : Nat) (f : Mailbox → Mailbox) : (setMb s mb f).pending = s.pending := rfl

@[simp] theorem mapMailboxes_time (f : Mailbox → Mailbox) : (mapMailboxes s f).time = s.time := rfl
@[simp] theorem mapMailboxes_pwr (f : Mailbox → Mailbox) : (mapMailboxes s f).pwr = s.pwr := rfl
@[simp] theorem mapMailboxes_host (f : Mailbox → Mailbox) : (mapMailboxes s f).host = { s.host with mbs := s.host.mbs.map f } := rfl
@[simp] theorem mapMailboxes_fw (f : Mailbox → Mailbox) : (mapMailboxes s f).fw = s.fw := rfl
@[simp] theorem mapMailboxes_tel (f : Mailbox → Mailbox) : (mapMailboxes s f).tel = s.tel := rfl
@[simp] theorem mapMailboxes_cores (f : Mailbox → Mailbox) : (mapMailboxes s f).cores = s.cores := rfl
@[simp] theorem mapMailboxes_ctl (f : Mailbox → Mailbox) : (mapMailboxes s f).ctl = s.ctl := rfl
@[simp] theorem mapMailboxes_recs (f : Mailbox → Mailbox) : (mapMailboxes s f).recs = s.recs := rfl
@[simp] theorem mapMailboxes_dram (f : Mailbox → Mailbox) : (mapMailboxes s f).dram = s.dram := rfl
@[simp] theorem mapMailboxes_poison (f : Mailbox → Mailbox) : (mapMailboxes s f).poison = s.poison := rfl
@[simp] theorem mapMailboxes_dieSems (f : Mailbox → Mailbox) : (mapMailboxes s f).dieSems = s.dieSems := rfl
@[simp] theorem mapMailboxes_hubSems (f : Mailbox → Mailbox) : (mapMailboxes s f).hubSems = s.hubSems := rfl
@[simp] theorem mapMailboxes_semOver (f : Mailbox → Mailbox) : (mapMailboxes s f).semOver = s.semOver := rfl
@[simp] theorem mapMailboxes_programs (f : Mailbox → Mailbox) : (mapMailboxes s f).programs = s.programs := rfl
@[simp] theorem mapMailboxes_loads (f : Mailbox → Mailbox) : (mapMailboxes s f).loads = s.loads := rfl
@[simp] theorem mapMailboxes_tables (f : Mailbox → Mailbox) : (mapMailboxes s f).tables = s.tables := rfl
@[simp] theorem mapMailboxes_job (f : Mailbox → Mailbox) : (mapMailboxes s f).job = s.job := rfl
@[simp] theorem mapMailboxes_stackSet (f : Mailbox → Mailbox) : (mapMailboxes s f).stackSet = s.stackSet := rfl
@[simp] theorem mapMailboxes_hbm (f : Mailbox → Mailbox) : (mapMailboxes s f).hbm = s.hbm := rfl
@[simp] theorem mapMailboxes_lpddr (f : Mailbox → Mailbox) : (mapMailboxes s f).lpddr = s.lpddr := rfl
@[simp] theorem mapMailboxes_tier (f : Mailbox → Mailbox) : (mapMailboxes s f).tier = s.tier := rfl
@[simp] theorem mapMailboxes_fab (f : Mailbox → Mailbox) : (mapMailboxes s f).fab = s.fab := rfl
@[simp] theorem mapMailboxes_far (f : Mailbox → Mailbox) : (mapMailboxes s f).far = s.far := rfl
@[simp] theorem mapMailboxes_coll (f : Mailbox → Mailbox) : (mapMailboxes s f).coll = s.coll := rfl
@[simp] theorem mapMailboxes_res (f : Mailbox → Mailbox) : (mapMailboxes s f).res = s.res := rfl
@[simp] theorem mapMailboxes_vis (f : Mailbox → Mailbox) : (mapMailboxes s f).vis = s.vis := rfl
@[simp] theorem mapMailboxes_freeCount (f : Mailbox → Mailbox) : (mapMailboxes s f).freeCount = s.freeCount := rfl
@[simp] theorem mapMailboxes_pending (f : Mailbox → Mailbox) : (mapMailboxes s f).pending = s.pending := rfl

@[simp] theorem hostWrite_time (a : Nat) (bs : List Byte) : (hostWrite s a bs).time = s.time := rfl
@[simp] theorem hostWrite_pwr (a : Nat) (bs : List Byte) : (hostWrite s a bs).pwr = s.pwr := rfl
@[simp] theorem hostWrite_host (a : Nat) (bs : List Byte) : (hostWrite s a bs).host = { s.host with mem := writeRun s.host.mem a bs } := rfl
@[simp] theorem hostWrite_fw (a : Nat) (bs : List Byte) : (hostWrite s a bs).fw = s.fw := rfl
@[simp] theorem hostWrite_tel (a : Nat) (bs : List Byte) : (hostWrite s a bs).tel = s.tel := rfl
@[simp] theorem hostWrite_cores (a : Nat) (bs : List Byte) : (hostWrite s a bs).cores = s.cores := rfl
@[simp] theorem hostWrite_ctl (a : Nat) (bs : List Byte) : (hostWrite s a bs).ctl = s.ctl := rfl
@[simp] theorem hostWrite_recs (a : Nat) (bs : List Byte) : (hostWrite s a bs).recs = s.recs := rfl
@[simp] theorem hostWrite_dram (a : Nat) (bs : List Byte) : (hostWrite s a bs).dram = s.dram := rfl
@[simp] theorem hostWrite_poison (a : Nat) (bs : List Byte) : (hostWrite s a bs).poison = s.poison := rfl
@[simp] theorem hostWrite_dieSems (a : Nat) (bs : List Byte) : (hostWrite s a bs).dieSems = s.dieSems := rfl
@[simp] theorem hostWrite_hubSems (a : Nat) (bs : List Byte) : (hostWrite s a bs).hubSems = s.hubSems := rfl
@[simp] theorem hostWrite_semOver (a : Nat) (bs : List Byte) : (hostWrite s a bs).semOver = s.semOver := rfl
@[simp] theorem hostWrite_programs (a : Nat) (bs : List Byte) : (hostWrite s a bs).programs = s.programs := rfl
@[simp] theorem hostWrite_loads (a : Nat) (bs : List Byte) : (hostWrite s a bs).loads = s.loads := rfl
@[simp] theorem hostWrite_tables (a : Nat) (bs : List Byte) : (hostWrite s a bs).tables = s.tables := rfl
@[simp] theorem hostWrite_job (a : Nat) (bs : List Byte) : (hostWrite s a bs).job = s.job := rfl
@[simp] theorem hostWrite_stackSet (a : Nat) (bs : List Byte) : (hostWrite s a bs).stackSet = s.stackSet := rfl
@[simp] theorem hostWrite_hbm (a : Nat) (bs : List Byte) : (hostWrite s a bs).hbm = s.hbm := rfl
@[simp] theorem hostWrite_lpddr (a : Nat) (bs : List Byte) : (hostWrite s a bs).lpddr = s.lpddr := rfl
@[simp] theorem hostWrite_tier (a : Nat) (bs : List Byte) : (hostWrite s a bs).tier = s.tier := rfl
@[simp] theorem hostWrite_fab (a : Nat) (bs : List Byte) : (hostWrite s a bs).fab = s.fab := rfl
@[simp] theorem hostWrite_far (a : Nat) (bs : List Byte) : (hostWrite s a bs).far = s.far := rfl
@[simp] theorem hostWrite_coll (a : Nat) (bs : List Byte) : (hostWrite s a bs).coll = s.coll := rfl
@[simp] theorem hostWrite_res (a : Nat) (bs : List Byte) : (hostWrite s a bs).res = s.res := rfl
@[simp] theorem hostWrite_vis (a : Nat) (bs : List Byte) : (hostWrite s a bs).vis = s.vis := rfl
@[simp] theorem hostWrite_freeCount (a : Nat) (bs : List Byte) : (hostWrite s a bs).freeCount = s.freeCount := rfl
@[simp] theorem hostWrite_pending (a : Nat) (bs : List Byte) : (hostWrite s a bs).pending = s.pending := rfl

@[simp] theorem resetMsix_time : (resetMsix s).time = s.time := rfl
@[simp] theorem resetMsix_pwr : (resetMsix s).pwr = s.pwr := rfl
@[simp] theorem resetMsix_fw : (resetMsix s).fw = s.fw := rfl
@[simp] theorem resetMsix_tel : (resetMsix s).tel = s.tel := rfl
@[simp] theorem resetMsix_cores : (resetMsix s).cores = s.cores := rfl
@[simp] theorem resetMsix_ctl : (resetMsix s).ctl = s.ctl := rfl
@[simp] theorem resetMsix_recs : (resetMsix s).recs = s.recs := rfl
@[simp] theorem resetMsix_dram : (resetMsix s).dram = s.dram := rfl
@[simp] theorem resetMsix_poison : (resetMsix s).poison = s.poison := rfl
@[simp] theorem resetMsix_dieSems : (resetMsix s).dieSems = s.dieSems := rfl
@[simp] theorem resetMsix_hubSems : (resetMsix s).hubSems = s.hubSems := rfl
@[simp] theorem resetMsix_semOver : (resetMsix s).semOver = s.semOver := rfl
@[simp] theorem resetMsix_programs : (resetMsix s).programs = s.programs := rfl
@[simp] theorem resetMsix_loads : (resetMsix s).loads = s.loads := rfl
@[simp] theorem resetMsix_tables : (resetMsix s).tables = s.tables := rfl
@[simp] theorem resetMsix_job : (resetMsix s).job = s.job := rfl
@[simp] theorem resetMsix_stackSet : (resetMsix s).stackSet = s.stackSet := rfl
@[simp] theorem resetMsix_hbm : (resetMsix s).hbm = s.hbm := rfl
@[simp] theorem resetMsix_lpddr : (resetMsix s).lpddr = s.lpddr := rfl
@[simp] theorem resetMsix_tier : (resetMsix s).tier = s.tier := rfl
@[simp] theorem resetMsix_fab : (resetMsix s).fab = s.fab := rfl
@[simp] theorem resetMsix_far : (resetMsix s).far = s.far := rfl
@[simp] theorem resetMsix_coll : (resetMsix s).coll = s.coll := rfl
@[simp] theorem resetMsix_res : (resetMsix s).res = s.res := rfl
@[simp] theorem resetMsix_vis : (resetMsix s).vis = s.vis := rfl
@[simp] theorem resetMsix_freeCount : (resetMsix s).freeCount = s.freeCount := rfl
@[simp] theorem resetMsix_pending : (resetMsix s).pending = s.pending := rfl

@[simp] theorem setCore_time (n : Nat) (f : Core → Core) : (setCore s n f).time = s.time := rfl
@[simp] theorem setCore_pwr (n : Nat) (f : Core → Core) : (setCore s n f).pwr = s.pwr := rfl
@[simp] theorem setCore_host (n : Nat) (f : Core → Core) : (setCore s n f).host = s.host := rfl
@[simp] theorem setCore_fw (n : Nat) (f : Core → Core) : (setCore s n f).fw = s.fw := rfl
@[simp] theorem setCore_tel (n : Nat) (f : Core → Core) : (setCore s n f).tel = s.tel := rfl
@[simp] theorem setCore_cores (n : Nat) (f : Core → Core) : (setCore s n f).cores = s.cores.modify n f := rfl
@[simp] theorem setCore_ctl (n : Nat) (f : Core → Core) : (setCore s n f).ctl = s.ctl := rfl
@[simp] theorem setCore_recs (n : Nat) (f : Core → Core) : (setCore s n f).recs = s.recs := rfl
@[simp] theorem setCore_dram (n : Nat) (f : Core → Core) : (setCore s n f).dram = s.dram := rfl
@[simp] theorem setCore_poison (n : Nat) (f : Core → Core) : (setCore s n f).poison = s.poison := rfl
@[simp] theorem setCore_dieSems (n : Nat) (f : Core → Core) : (setCore s n f).dieSems = s.dieSems := rfl
@[simp] theorem setCore_hubSems (n : Nat) (f : Core → Core) : (setCore s n f).hubSems = s.hubSems := rfl
@[simp] theorem setCore_semOver (n : Nat) (f : Core → Core) : (setCore s n f).semOver = s.semOver := rfl
@[simp] theorem setCore_programs (n : Nat) (f : Core → Core) : (setCore s n f).programs = s.programs := rfl
@[simp] theorem setCore_loads (n : Nat) (f : Core → Core) : (setCore s n f).loads = s.loads := rfl
@[simp] theorem setCore_tables (n : Nat) (f : Core → Core) : (setCore s n f).tables = s.tables := rfl
@[simp] theorem setCore_job (n : Nat) (f : Core → Core) : (setCore s n f).job = s.job := rfl
@[simp] theorem setCore_stackSet (n : Nat) (f : Core → Core) : (setCore s n f).stackSet = s.stackSet := rfl
@[simp] theorem setCore_hbm (n : Nat) (f : Core → Core) : (setCore s n f).hbm = s.hbm := rfl
@[simp] theorem setCore_lpddr (n : Nat) (f : Core → Core) : (setCore s n f).lpddr = s.lpddr := rfl
@[simp] theorem setCore_tier (n : Nat) (f : Core → Core) : (setCore s n f).tier = s.tier := rfl
@[simp] theorem setCore_fab (n : Nat) (f : Core → Core) : (setCore s n f).fab = s.fab := rfl
@[simp] theorem setCore_far (n : Nat) (f : Core → Core) : (setCore s n f).far = s.far := rfl
@[simp] theorem setCore_coll (n : Nat) (f : Core → Core) : (setCore s n f).coll = s.coll := rfl
@[simp] theorem setCore_res (n : Nat) (f : Core → Core) : (setCore s n f).res = s.res := rfl
@[simp] theorem setCore_vis (n : Nat) (f : Core → Core) : (setCore s n f).vis = s.vis := rfl
@[simp] theorem setCore_freeCount (n : Nat) (f : Core → Core) : (setCore s n f).freeCount = s.freeCount := rfl
@[simp] theorem setCore_pending (n : Nat) (f : Core → Core) : (setCore s n f).pending = s.pending := rfl

@[simp] theorem bump_time (n : Nat) : (bump s n).time = s.time := rfl
@[simp] theorem bump_pwr (n : Nat) : (bump s n).pwr = s.pwr := rfl
@[simp] theorem bump_host (n : Nat) : (bump s n).host = s.host := rfl
@[simp] theorem bump_fw (n : Nat) : (bump s n).fw = s.fw := rfl
@[simp] theorem bump_tel (n : Nat) : (bump s n).tel = s.tel := rfl
@[simp] theorem bump_cores (n : Nat) : (bump s n).cores = s.cores := rfl
@[simp] theorem bump_ctl (n : Nat) : (bump s n).ctl = s.ctl := rfl
@[simp] theorem bump_recs (n : Nat) : (bump s n).recs = s.recs := rfl
@[simp] theorem bump_dram (n : Nat) : (bump s n).dram = s.dram := rfl
@[simp] theorem bump_poison (n : Nat) : (bump s n).poison = s.poison := rfl
@[simp] theorem bump_dieSems (n : Nat) : (bump s n).dieSems = s.dieSems := rfl
@[simp] theorem bump_hubSems (n : Nat) : (bump s n).hubSems = s.hubSems := rfl
@[simp] theorem bump_semOver (n : Nat) : (bump s n).semOver = s.semOver := rfl
@[simp] theorem bump_programs (n : Nat) : (bump s n).programs = s.programs := rfl
@[simp] theorem bump_loads (n : Nat) : (bump s n).loads = s.loads := rfl
@[simp] theorem bump_tables (n : Nat) : (bump s n).tables = s.tables := rfl
@[simp] theorem bump_job (n : Nat) : (bump s n).job = s.job := rfl
@[simp] theorem bump_stackSet (n : Nat) : (bump s n).stackSet = s.stackSet := rfl
@[simp] theorem bump_hbm (n : Nat) : (bump s n).hbm = s.hbm := rfl
@[simp] theorem bump_lpddr (n : Nat) : (bump s n).lpddr = s.lpddr := rfl
@[simp] theorem bump_tier (n : Nat) : (bump s n).tier = s.tier := rfl
@[simp] theorem bump_fab (n : Nat) : (bump s n).fab = s.fab := rfl
@[simp] theorem bump_far (n : Nat) : (bump s n).far = s.far := rfl
@[simp] theorem bump_coll (n : Nat) : (bump s n).coll = s.coll := rfl
@[simp] theorem bump_res (n : Nat) : (bump s n).res = s.res := rfl
@[simp] theorem bump_vis (n : Nat) : (bump s n).vis = s.vis := rfl
@[simp] theorem bump_freeCount (n : Nat) : (bump s n).freeCount = s.freeCount + n := rfl
@[simp] theorem bump_pending (n : Nat) : (bump s n).pending = s.pending := rfl

@[simp] theorem havocDram_time (a n : Nat) : (havocDram s a n).time = s.time := rfl
@[simp] theorem havocDram_pwr (a n : Nat) : (havocDram s a n).pwr = s.pwr := rfl
@[simp] theorem havocDram_host (a n : Nat) : (havocDram s a n).host = s.host := rfl
@[simp] theorem havocDram_fw (a n : Nat) : (havocDram s a n).fw = s.fw := rfl
@[simp] theorem havocDram_tel (a n : Nat) : (havocDram s a n).tel = s.tel := rfl
@[simp] theorem havocDram_cores (a n : Nat) : (havocDram s a n).cores = s.cores := rfl
@[simp] theorem havocDram_ctl (a n : Nat) : (havocDram s a n).ctl = s.ctl := rfl
@[simp] theorem havocDram_recs (a n : Nat) : (havocDram s a n).recs = s.recs := rfl
@[simp] theorem havocDram_dram (a n : Nat) : (havocDram s a n).dram = writeRun s.dram a (freeBytes s n) := rfl
@[simp] theorem havocDram_poison (a n : Nat) : (havocDram s a n).poison = s.poison := rfl
@[simp] theorem havocDram_dieSems (a n : Nat) : (havocDram s a n).dieSems = s.dieSems := rfl
@[simp] theorem havocDram_hubSems (a n : Nat) : (havocDram s a n).hubSems = s.hubSems := rfl
@[simp] theorem havocDram_semOver (a n : Nat) : (havocDram s a n).semOver = s.semOver := rfl
@[simp] theorem havocDram_programs (a n : Nat) : (havocDram s a n).programs = s.programs := rfl
@[simp] theorem havocDram_loads (a n : Nat) : (havocDram s a n).loads = s.loads := rfl
@[simp] theorem havocDram_tables (a n : Nat) : (havocDram s a n).tables = s.tables := rfl
@[simp] theorem havocDram_job (a n : Nat) : (havocDram s a n).job = s.job := rfl
@[simp] theorem havocDram_stackSet (a n : Nat) : (havocDram s a n).stackSet = s.stackSet := rfl
@[simp] theorem havocDram_hbm (a n : Nat) : (havocDram s a n).hbm = s.hbm := rfl
@[simp] theorem havocDram_lpddr (a n : Nat) : (havocDram s a n).lpddr = s.lpddr := rfl
@[simp] theorem havocDram_tier (a n : Nat) : (havocDram s a n).tier = s.tier := rfl
@[simp] theorem havocDram_fab (a n : Nat) : (havocDram s a n).fab = s.fab := rfl
@[simp] theorem havocDram_far (a n : Nat) : (havocDram s a n).far = s.far := rfl
@[simp] theorem havocDram_coll (a n : Nat) : (havocDram s a n).coll = s.coll := rfl
@[simp] theorem havocDram_res (a n : Nat) : (havocDram s a n).res = s.res := rfl
@[simp] theorem havocDram_vis (a n : Nat) : (havocDram s a n).vis = s.vis := rfl
@[simp] theorem havocDram_freeCount (a n : Nat) : (havocDram s a n).freeCount = s.freeCount + n := rfl
@[simp] theorem havocDram_pending (a n : Nat) : (havocDram s a n).pending = s.pending := rfl

@[simp] theorem havocCtl_time (a n : Nat) : (havocCtl s a n).time = s.time := rfl
@[simp] theorem havocCtl_pwr (a n : Nat) : (havocCtl s a n).pwr = s.pwr := rfl
@[simp] theorem havocCtl_host (a n : Nat) : (havocCtl s a n).host = s.host := rfl
@[simp] theorem havocCtl_fw (a n : Nat) : (havocCtl s a n).fw = s.fw := rfl
@[simp] theorem havocCtl_tel (a n : Nat) : (havocCtl s a n).tel = s.tel := rfl
@[simp] theorem havocCtl_cores (a n : Nat) : (havocCtl s a n).cores = s.cores := rfl
@[simp] theorem havocCtl_ctl (a n : Nat) : (havocCtl s a n).ctl = writeRun s.ctl a (freeBytes s n) := rfl
@[simp] theorem havocCtl_recs (a n : Nat) : (havocCtl s a n).recs = s.recs := rfl
@[simp] theorem havocCtl_dram (a n : Nat) : (havocCtl s a n).dram = s.dram := rfl
@[simp] theorem havocCtl_poison (a n : Nat) : (havocCtl s a n).poison = s.poison := rfl
@[simp] theorem havocCtl_dieSems (a n : Nat) : (havocCtl s a n).dieSems = s.dieSems := rfl
@[simp] theorem havocCtl_hubSems (a n : Nat) : (havocCtl s a n).hubSems = s.hubSems := rfl
@[simp] theorem havocCtl_semOver (a n : Nat) : (havocCtl s a n).semOver = s.semOver := rfl
@[simp] theorem havocCtl_programs (a n : Nat) : (havocCtl s a n).programs = s.programs := rfl
@[simp] theorem havocCtl_loads (a n : Nat) : (havocCtl s a n).loads = s.loads := rfl
@[simp] theorem havocCtl_tables (a n : Nat) : (havocCtl s a n).tables = s.tables := rfl
@[simp] theorem havocCtl_job (a n : Nat) : (havocCtl s a n).job = s.job := rfl
@[simp] theorem havocCtl_stackSet (a n : Nat) : (havocCtl s a n).stackSet = s.stackSet := rfl
@[simp] theorem havocCtl_hbm (a n : Nat) : (havocCtl s a n).hbm = s.hbm := rfl
@[simp] theorem havocCtl_lpddr (a n : Nat) : (havocCtl s a n).lpddr = s.lpddr := rfl
@[simp] theorem havocCtl_tier (a n : Nat) : (havocCtl s a n).tier = s.tier := rfl
@[simp] theorem havocCtl_fab (a n : Nat) : (havocCtl s a n).fab = s.fab := rfl
@[simp] theorem havocCtl_far (a n : Nat) : (havocCtl s a n).far = s.far := rfl
@[simp] theorem havocCtl_coll (a n : Nat) : (havocCtl s a n).coll = s.coll := rfl
@[simp] theorem havocCtl_res (a n : Nat) : (havocCtl s a n).res = s.res := rfl
@[simp] theorem havocCtl_vis (a n : Nat) : (havocCtl s a n).vis = s.vis := rfl
@[simp] theorem havocCtl_freeCount (a n : Nat) : (havocCtl s a n).freeCount = s.freeCount + n := rfl
@[simp] theorem havocCtl_pending (a n : Nat) : (havocCtl s a n).pending = s.pending := rfl

@[simp] theorem countUp_time (i n : Nat) : (countUp s i n).time = s.time := rfl
@[simp] theorem countUp_pwr (i n : Nat) : (countUp s i n).pwr = s.pwr := rfl
@[simp] theorem countUp_host (i n : Nat) : (countUp s i n).host = s.host := rfl
@[simp] theorem countUp_fw (i n : Nat) : (countUp s i n).fw = s.fw := rfl
@[simp] theorem countUp_tel (i n : Nat) : (countUp s i n).tel = { s.tel with counters := s.tel.counters.modify i (· + n) } := rfl
@[simp] theorem countUp_cores (i n : Nat) : (countUp s i n).cores = s.cores := rfl
@[simp] theorem countUp_ctl (i n : Nat) : (countUp s i n).ctl = s.ctl := rfl
@[simp] theorem countUp_recs (i n : Nat) : (countUp s i n).recs = s.recs := rfl
@[simp] theorem countUp_dram (i n : Nat) : (countUp s i n).dram = s.dram := rfl
@[simp] theorem countUp_poison (i n : Nat) : (countUp s i n).poison = s.poison := rfl
@[simp] theorem countUp_dieSems (i n : Nat) : (countUp s i n).dieSems = s.dieSems := rfl
@[simp] theorem countUp_hubSems (i n : Nat) : (countUp s i n).hubSems = s.hubSems := rfl
@[simp] theorem countUp_semOver (i n : Nat) : (countUp s i n).semOver = s.semOver := rfl
@[simp] theorem countUp_programs (i n : Nat) : (countUp s i n).programs = s.programs := rfl
@[simp] theorem countUp_loads (i n : Nat) : (countUp s i n).loads = s.loads := rfl
@[simp] theorem countUp_tables (i n : Nat) : (countUp s i n).tables = s.tables := rfl
@[simp] theorem countUp_job (i n : Nat) : (countUp s i n).job = s.job := rfl
@[simp] theorem countUp_stackSet (i n : Nat) : (countUp s i n).stackSet = s.stackSet := rfl
@[simp] theorem countUp_hbm (i n : Nat) : (countUp s i n).hbm = s.hbm := rfl
@[simp] theorem countUp_lpddr (i n : Nat) : (countUp s i n).lpddr = s.lpddr := rfl
@[simp] theorem countUp_tier (i n : Nat) : (countUp s i n).tier = s.tier := rfl
@[simp] theorem countUp_fab (i n : Nat) : (countUp s i n).fab = s.fab := rfl
@[simp] theorem countUp_far (i n : Nat) : (countUp s i n).far = s.far := rfl
@[simp] theorem countUp_coll (i n : Nat) : (countUp s i n).coll = s.coll := rfl
@[simp] theorem countUp_res (i n : Nat) : (countUp s i n).res = s.res := rfl
@[simp] theorem countUp_vis (i n : Nat) : (countUp s i n).vis = s.vis := rfl
@[simp] theorem countUp_freeCount (i n : Nat) : (countUp s i n).freeCount = s.freeCount := rfl
@[simp] theorem countUp_pending (i n : Nat) : (countUp s i n).pending = s.pending := rfl

@[simp] theorem stepCountBy_time (i k : Nat) : (stepCountBy s i k).time = s.time := rfl
@[simp] theorem stepCountBy_pwr (i k : Nat) : (stepCountBy s i k).pwr = s.pwr := rfl
@[simp] theorem stepCountBy_host (i k : Nat) : (stepCountBy s i k).host = s.host := rfl
@[simp] theorem stepCountBy_fw (i k : Nat) : (stepCountBy s i k).fw = s.fw := rfl
@[simp] theorem stepCountBy_cores (i k : Nat) : (stepCountBy s i k).cores = s.cores := rfl
@[simp] theorem stepCountBy_ctl (i k : Nat) : (stepCountBy s i k).ctl = s.ctl := rfl
@[simp] theorem stepCountBy_recs (i k : Nat) : (stepCountBy s i k).recs = s.recs := rfl
@[simp] theorem stepCountBy_dram (i k : Nat) : (stepCountBy s i k).dram = s.dram := rfl
@[simp] theorem stepCountBy_poison (i k : Nat) : (stepCountBy s i k).poison = s.poison := rfl
@[simp] theorem stepCountBy_dieSems (i k : Nat) : (stepCountBy s i k).dieSems = s.dieSems := rfl
@[simp] theorem stepCountBy_hubSems (i k : Nat) : (stepCountBy s i k).hubSems = s.hubSems := rfl
@[simp] theorem stepCountBy_semOver (i k : Nat) : (stepCountBy s i k).semOver = s.semOver := rfl
@[simp] theorem stepCountBy_programs (i k : Nat) : (stepCountBy s i k).programs = s.programs := rfl
@[simp] theorem stepCountBy_loads (i k : Nat) : (stepCountBy s i k).loads = s.loads := rfl
@[simp] theorem stepCountBy_tables (i k : Nat) : (stepCountBy s i k).tables = s.tables := rfl
@[simp] theorem stepCountBy_job (i k : Nat) : (stepCountBy s i k).job = s.job := rfl
@[simp] theorem stepCountBy_stackSet (i k : Nat) : (stepCountBy s i k).stackSet = s.stackSet := rfl
@[simp] theorem stepCountBy_hbm (i k : Nat) : (stepCountBy s i k).hbm = s.hbm := rfl
@[simp] theorem stepCountBy_lpddr (i k : Nat) : (stepCountBy s i k).lpddr = s.lpddr := rfl
@[simp] theorem stepCountBy_tier (i k : Nat) : (stepCountBy s i k).tier = s.tier := rfl
@[simp] theorem stepCountBy_fab (i k : Nat) : (stepCountBy s i k).fab = s.fab := rfl
@[simp] theorem stepCountBy_far (i k : Nat) : (stepCountBy s i k).far = s.far := rfl
@[simp] theorem stepCountBy_coll (i k : Nat) : (stepCountBy s i k).coll = s.coll := rfl
@[simp] theorem stepCountBy_res (i k : Nat) : (stepCountBy s i k).res = s.res := rfl
@[simp] theorem stepCountBy_vis (i k : Nat) : (stepCountBy s i k).vis = s.vis := rfl
@[simp] theorem stepCountBy_freeCount (i k : Nat) : (stepCountBy s i k).freeCount = s.freeCount := rfl
@[simp] theorem stepCountBy_pending (i k : Nat) : (stepCountBy s i k).pending = s.pending := rfl

@[simp] theorem stepCount_time (i : Nat) : (stepCount s i).time = s.time := rfl
@[simp] theorem stepCount_pwr (i : Nat) : (stepCount s i).pwr = s.pwr := rfl
@[simp] theorem stepCount_host (i : Nat) : (stepCount s i).host = s.host := rfl
@[simp] theorem stepCount_fw (i : Nat) : (stepCount s i).fw = s.fw := rfl
@[simp] theorem stepCount_cores (i : Nat) : (stepCount s i).cores = s.cores := rfl
@[simp] theorem stepCount_ctl (i : Nat) : (stepCount s i).ctl = s.ctl := rfl
@[simp] theorem stepCount_recs (i : Nat) : (stepCount s i).recs = s.recs := rfl
@[simp] theorem stepCount_dram (i : Nat) : (stepCount s i).dram = s.dram := rfl
@[simp] theorem stepCount_poison (i : Nat) : (stepCount s i).poison = s.poison := rfl
@[simp] theorem stepCount_dieSems (i : Nat) : (stepCount s i).dieSems = s.dieSems := rfl
@[simp] theorem stepCount_hubSems (i : Nat) : (stepCount s i).hubSems = s.hubSems := rfl
@[simp] theorem stepCount_semOver (i : Nat) : (stepCount s i).semOver = s.semOver := rfl
@[simp] theorem stepCount_programs (i : Nat) : (stepCount s i).programs = s.programs := rfl
@[simp] theorem stepCount_loads (i : Nat) : (stepCount s i).loads = s.loads := rfl
@[simp] theorem stepCount_tables (i : Nat) : (stepCount s i).tables = s.tables := rfl
@[simp] theorem stepCount_job (i : Nat) : (stepCount s i).job = s.job := rfl
@[simp] theorem stepCount_stackSet (i : Nat) : (stepCount s i).stackSet = s.stackSet := rfl
@[simp] theorem stepCount_hbm (i : Nat) : (stepCount s i).hbm = s.hbm := rfl
@[simp] theorem stepCount_lpddr (i : Nat) : (stepCount s i).lpddr = s.lpddr := rfl
@[simp] theorem stepCount_tier (i : Nat) : (stepCount s i).tier = s.tier := rfl
@[simp] theorem stepCount_fab (i : Nat) : (stepCount s i).fab = s.fab := rfl
@[simp] theorem stepCount_far (i : Nat) : (stepCount s i).far = s.far := rfl
@[simp] theorem stepCount_coll (i : Nat) : (stepCount s i).coll = s.coll := rfl
@[simp] theorem stepCount_res (i : Nat) : (stepCount s i).res = s.res := rfl
@[simp] theorem stepCount_vis (i : Nat) : (stepCount s i).vis = s.vis := rfl
@[simp] theorem stepCount_freeCount (i : Nat) : (stepCount s i).freeCount = s.freeCount := rfl
@[simp] theorem stepCount_pending (i : Nat) : (stepCount s i).pending = s.pending := rfl

@[simp] theorem rateMark_time (k : Nat) : (rateMark s k).time = s.time := rfl
@[simp] theorem rateMark_pwr (k : Nat) : (rateMark s k).pwr = s.pwr := rfl
@[simp] theorem rateMark_host (k : Nat) : (rateMark s k).host = s.host := rfl
@[simp] theorem rateMark_fw (k : Nat) : (rateMark s k).fw = s.fw := rfl
@[simp] theorem rateMark_cores (k : Nat) : (rateMark s k).cores = s.cores := rfl
@[simp] theorem rateMark_ctl (k : Nat) : (rateMark s k).ctl = s.ctl := rfl
@[simp] theorem rateMark_recs (k : Nat) : (rateMark s k).recs = s.recs := rfl
@[simp] theorem rateMark_dram (k : Nat) : (rateMark s k).dram = s.dram := rfl
@[simp] theorem rateMark_poison (k : Nat) : (rateMark s k).poison = s.poison := rfl
@[simp] theorem rateMark_dieSems (k : Nat) : (rateMark s k).dieSems = s.dieSems := rfl
@[simp] theorem rateMark_hubSems (k : Nat) : (rateMark s k).hubSems = s.hubSems := rfl
@[simp] theorem rateMark_semOver (k : Nat) : (rateMark s k).semOver = s.semOver := rfl
@[simp] theorem rateMark_programs (k : Nat) : (rateMark s k).programs = s.programs := rfl
@[simp] theorem rateMark_loads (k : Nat) : (rateMark s k).loads = s.loads := rfl
@[simp] theorem rateMark_tables (k : Nat) : (rateMark s k).tables = s.tables := rfl
@[simp] theorem rateMark_job (k : Nat) : (rateMark s k).job = s.job := rfl
@[simp] theorem rateMark_stackSet (k : Nat) : (rateMark s k).stackSet = s.stackSet := rfl
@[simp] theorem rateMark_hbm (k : Nat) : (rateMark s k).hbm = s.hbm := rfl
@[simp] theorem rateMark_lpddr (k : Nat) : (rateMark s k).lpddr = s.lpddr := rfl
@[simp] theorem rateMark_tier (k : Nat) : (rateMark s k).tier = s.tier := rfl
@[simp] theorem rateMark_fab (k : Nat) : (rateMark s k).fab = s.fab := rfl
@[simp] theorem rateMark_far (k : Nat) : (rateMark s k).far = s.far := rfl
@[simp] theorem rateMark_coll (k : Nat) : (rateMark s k).coll = s.coll := rfl
@[simp] theorem rateMark_res (k : Nat) : (rateMark s k).res = s.res := rfl
@[simp] theorem rateMark_vis (k : Nat) : (rateMark s k).vis = s.vis := rfl
@[simp] theorem rateMark_freeCount (k : Nat) : (rateMark s k).freeCount = s.freeCount := rfl
@[simp] theorem rateMark_pending (k : Nat) : (rateMark s k).pending = s.pending := rfl

@[simp] theorem logError_time (i : Nat) (bs : List Byte) : (logError s i bs).time = s.time := rfl
@[simp] theorem logError_pwr (i : Nat) (bs : List Byte) : (logError s i bs).pwr = s.pwr := rfl
@[simp] theorem logError_host (i : Nat) (bs : List Byte) : (logError s i bs).host = s.host := rfl
@[simp] theorem logError_fw (i : Nat) (bs : List Byte) : (logError s i bs).fw = s.fw := rfl
@[simp] theorem logError_cores (i : Nat) (bs : List Byte) : (logError s i bs).cores = s.cores := rfl
@[simp] theorem logError_ctl (i : Nat) (bs : List Byte) : (logError s i bs).ctl = s.ctl := rfl
@[simp] theorem logError_recs (i : Nat) (bs : List Byte) : (logError s i bs).recs = s.recs := rfl
@[simp] theorem logError_dram (i : Nat) (bs : List Byte) : (logError s i bs).dram = s.dram := rfl
@[simp] theorem logError_poison (i : Nat) (bs : List Byte) : (logError s i bs).poison = s.poison := rfl
@[simp] theorem logError_dieSems (i : Nat) (bs : List Byte) : (logError s i bs).dieSems = s.dieSems := rfl
@[simp] theorem logError_hubSems (i : Nat) (bs : List Byte) : (logError s i bs).hubSems = s.hubSems := rfl
@[simp] theorem logError_semOver (i : Nat) (bs : List Byte) : (logError s i bs).semOver = s.semOver := rfl
@[simp] theorem logError_programs (i : Nat) (bs : List Byte) : (logError s i bs).programs = s.programs := rfl
@[simp] theorem logError_loads (i : Nat) (bs : List Byte) : (logError s i bs).loads = s.loads := rfl
@[simp] theorem logError_tables (i : Nat) (bs : List Byte) : (logError s i bs).tables = s.tables := rfl
@[simp] theorem logError_job (i : Nat) (bs : List Byte) : (logError s i bs).job = s.job := rfl
@[simp] theorem logError_stackSet (i : Nat) (bs : List Byte) : (logError s i bs).stackSet = s.stackSet := rfl
@[simp] theorem logError_hbm (i : Nat) (bs : List Byte) : (logError s i bs).hbm = s.hbm := rfl
@[simp] theorem logError_lpddr (i : Nat) (bs : List Byte) : (logError s i bs).lpddr = s.lpddr := rfl
@[simp] theorem logError_tier (i : Nat) (bs : List Byte) : (logError s i bs).tier = s.tier := rfl
@[simp] theorem logError_fab (i : Nat) (bs : List Byte) : (logError s i bs).fab = s.fab := rfl
@[simp] theorem logError_far (i : Nat) (bs : List Byte) : (logError s i bs).far = s.far := rfl
@[simp] theorem logError_coll (i : Nat) (bs : List Byte) : (logError s i bs).coll = s.coll := rfl
@[simp] theorem logError_res (i : Nat) (bs : List Byte) : (logError s i bs).res = s.res := rfl
@[simp] theorem logError_vis (i : Nat) (bs : List Byte) : (logError s i bs).vis = s.vis := rfl
@[simp] theorem logError_freeCount (i : Nat) (bs : List Byte) : (logError s i bs).freeCount = s.freeCount := rfl
@[simp] theorem logError_pending (i : Nat) (bs : List Byte) : (logError s i bs).pending = s.pending := rfl

@[simp] theorem markUnc_time : (markUnc s).time = s.time := rfl
@[simp] theorem markUnc_pwr : (markUnc s).pwr = s.pwr := rfl
@[simp] theorem markUnc_host : (markUnc s).host = s.host := rfl
@[simp] theorem markUnc_fw : (markUnc s).fw = s.fw := rfl
@[simp] theorem markUnc_cores : (markUnc s).cores = s.cores := rfl
@[simp] theorem markUnc_ctl : (markUnc s).ctl = s.ctl := rfl
@[simp] theorem markUnc_recs : (markUnc s).recs = s.recs := rfl
@[simp] theorem markUnc_dram : (markUnc s).dram = s.dram := rfl
@[simp] theorem markUnc_poison : (markUnc s).poison = s.poison := rfl
@[simp] theorem markUnc_dieSems : (markUnc s).dieSems = s.dieSems := rfl
@[simp] theorem markUnc_hubSems : (markUnc s).hubSems = s.hubSems := rfl
@[simp] theorem markUnc_semOver : (markUnc s).semOver = s.semOver := rfl
@[simp] theorem markUnc_programs : (markUnc s).programs = s.programs := rfl
@[simp] theorem markUnc_loads : (markUnc s).loads = s.loads := rfl
@[simp] theorem markUnc_tables : (markUnc s).tables = s.tables := rfl
@[simp] theorem markUnc_job : (markUnc s).job = s.job := rfl
@[simp] theorem markUnc_stackSet : (markUnc s).stackSet = s.stackSet := rfl
@[simp] theorem markUnc_hbm : (markUnc s).hbm = s.hbm := rfl
@[simp] theorem markUnc_lpddr : (markUnc s).lpddr = s.lpddr := rfl
@[simp] theorem markUnc_tier : (markUnc s).tier = s.tier := rfl
@[simp] theorem markUnc_fab : (markUnc s).fab = s.fab := rfl
@[simp] theorem markUnc_far : (markUnc s).far = s.far := rfl
@[simp] theorem markUnc_coll : (markUnc s).coll = s.coll := rfl
@[simp] theorem markUnc_res : (markUnc s).res = s.res := rfl
@[simp] theorem markUnc_vis : (markUnc s).vis = s.vis := rfl
@[simp] theorem markUnc_freeCount : (markUnc s).freeCount = s.freeCount := rfl
@[simp] theorem markUnc_pending : (markUnc s).pending = s.pending := rfl

@[simp] theorem histCount_time (i b : Nat) : (histCount s i b).time = s.time := rfl
@[simp] theorem histCount_pwr (i b : Nat) : (histCount s i b).pwr = s.pwr := rfl
@[simp] theorem histCount_host (i b : Nat) : (histCount s i b).host = s.host := rfl
@[simp] theorem histCount_fw (i b : Nat) : (histCount s i b).fw = s.fw := rfl
@[simp] theorem histCount_cores (i b : Nat) : (histCount s i b).cores = s.cores := rfl
@[simp] theorem histCount_ctl (i b : Nat) : (histCount s i b).ctl = s.ctl := rfl
@[simp] theorem histCount_recs (i b : Nat) : (histCount s i b).recs = s.recs := rfl
@[simp] theorem histCount_dram (i b : Nat) : (histCount s i b).dram = s.dram := rfl
@[simp] theorem histCount_poison (i b : Nat) : (histCount s i b).poison = s.poison := rfl
@[simp] theorem histCount_dieSems (i b : Nat) : (histCount s i b).dieSems = s.dieSems := rfl
@[simp] theorem histCount_hubSems (i b : Nat) : (histCount s i b).hubSems = s.hubSems := rfl
@[simp] theorem histCount_semOver (i b : Nat) : (histCount s i b).semOver = s.semOver := rfl
@[simp] theorem histCount_programs (i b : Nat) : (histCount s i b).programs = s.programs := rfl
@[simp] theorem histCount_loads (i b : Nat) : (histCount s i b).loads = s.loads := rfl
@[simp] theorem histCount_tables (i b : Nat) : (histCount s i b).tables = s.tables := rfl
@[simp] theorem histCount_job (i b : Nat) : (histCount s i b).job = s.job := rfl
@[simp] theorem histCount_stackSet (i b : Nat) : (histCount s i b).stackSet = s.stackSet := rfl
@[simp] theorem histCount_hbm (i b : Nat) : (histCount s i b).hbm = s.hbm := rfl
@[simp] theorem histCount_lpddr (i b : Nat) : (histCount s i b).lpddr = s.lpddr := rfl
@[simp] theorem histCount_tier (i b : Nat) : (histCount s i b).tier = s.tier := rfl
@[simp] theorem histCount_fab (i b : Nat) : (histCount s i b).fab = s.fab := rfl
@[simp] theorem histCount_far (i b : Nat) : (histCount s i b).far = s.far := rfl
@[simp] theorem histCount_coll (i b : Nat) : (histCount s i b).coll = s.coll := rfl
@[simp] theorem histCount_res (i b : Nat) : (histCount s i b).res = s.res := rfl
@[simp] theorem histCount_vis (i b : Nat) : (histCount s i b).vis = s.vis := rfl
@[simp] theorem histCount_freeCount (i b : Nat) : (histCount s i b).freeCount = s.freeCount := rfl
@[simp] theorem histCount_pending (i b : Nat) : (histCount s i b).pending = s.pending := rfl

@[simp] theorem hitBin_time (i b : Nat) : (hitBin s i b).time = s.time := rfl
@[simp] theorem hitBin_pwr (i b : Nat) : (hitBin s i b).pwr = s.pwr := rfl
@[simp] theorem hitBin_host (i b : Nat) : (hitBin s i b).host = s.host := rfl
@[simp] theorem hitBin_fw (i b : Nat) : (hitBin s i b).fw = s.fw := rfl
@[simp] theorem hitBin_cores (i b : Nat) : (hitBin s i b).cores = s.cores := rfl
@[simp] theorem hitBin_ctl (i b : Nat) : (hitBin s i b).ctl = s.ctl := rfl
@[simp] theorem hitBin_recs (i b : Nat) : (hitBin s i b).recs = s.recs := rfl
@[simp] theorem hitBin_dram (i b : Nat) : (hitBin s i b).dram = s.dram := rfl
@[simp] theorem hitBin_poison (i b : Nat) : (hitBin s i b).poison = s.poison := rfl
@[simp] theorem hitBin_dieSems (i b : Nat) : (hitBin s i b).dieSems = s.dieSems := rfl
@[simp] theorem hitBin_hubSems (i b : Nat) : (hitBin s i b).hubSems = s.hubSems := rfl
@[simp] theorem hitBin_semOver (i b : Nat) : (hitBin s i b).semOver = s.semOver := rfl
@[simp] theorem hitBin_programs (i b : Nat) : (hitBin s i b).programs = s.programs := rfl
@[simp] theorem hitBin_loads (i b : Nat) : (hitBin s i b).loads = s.loads := rfl
@[simp] theorem hitBin_tables (i b : Nat) : (hitBin s i b).tables = s.tables := rfl
@[simp] theorem hitBin_job (i b : Nat) : (hitBin s i b).job = s.job := rfl
@[simp] theorem hitBin_stackSet (i b : Nat) : (hitBin s i b).stackSet = s.stackSet := rfl
@[simp] theorem hitBin_hbm (i b : Nat) : (hitBin s i b).hbm = s.hbm := rfl
@[simp] theorem hitBin_lpddr (i b : Nat) : (hitBin s i b).lpddr = s.lpddr := rfl
@[simp] theorem hitBin_tier (i b : Nat) : (hitBin s i b).tier = s.tier := rfl
@[simp] theorem hitBin_fab (i b : Nat) : (hitBin s i b).fab = s.fab := rfl
@[simp] theorem hitBin_far (i b : Nat) : (hitBin s i b).far = s.far := rfl
@[simp] theorem hitBin_coll (i b : Nat) : (hitBin s i b).coll = s.coll := rfl
@[simp] theorem hitBin_res (i b : Nat) : (hitBin s i b).res = s.res := rfl
@[simp] theorem hitBin_vis (i b : Nat) : (hitBin s i b).vis = s.vis := rfl
@[simp] theorem hitBin_freeCount (i b : Nat) : (hitBin s i b).freeCount = s.freeCount := rfl
@[simp] theorem hitBin_pending (i b : Nat) : (hitBin s i b).pending = s.pending := rfl

@[simp] theorem resOf_time (f : Resil → Resil) : (resOf s f).time = s.time := rfl
@[simp] theorem resOf_pwr (f : Resil → Resil) : (resOf s f).pwr = s.pwr := rfl
@[simp] theorem resOf_host (f : Resil → Resil) : (resOf s f).host = s.host := rfl
@[simp] theorem resOf_fw (f : Resil → Resil) : (resOf s f).fw = s.fw := rfl
@[simp] theorem resOf_tel (f : Resil → Resil) : (resOf s f).tel = s.tel := rfl
@[simp] theorem resOf_cores (f : Resil → Resil) : (resOf s f).cores = s.cores := rfl
@[simp] theorem resOf_ctl (f : Resil → Resil) : (resOf s f).ctl = s.ctl := rfl
@[simp] theorem resOf_recs (f : Resil → Resil) : (resOf s f).recs = s.recs := rfl
@[simp] theorem resOf_dram (f : Resil → Resil) : (resOf s f).dram = s.dram := rfl
@[simp] theorem resOf_poison (f : Resil → Resil) : (resOf s f).poison = s.poison := rfl
@[simp] theorem resOf_dieSems (f : Resil → Resil) : (resOf s f).dieSems = s.dieSems := rfl
@[simp] theorem resOf_hubSems (f : Resil → Resil) : (resOf s f).hubSems = s.hubSems := rfl
@[simp] theorem resOf_semOver (f : Resil → Resil) : (resOf s f).semOver = s.semOver := rfl
@[simp] theorem resOf_programs (f : Resil → Resil) : (resOf s f).programs = s.programs := rfl
@[simp] theorem resOf_loads (f : Resil → Resil) : (resOf s f).loads = s.loads := rfl
@[simp] theorem resOf_tables (f : Resil → Resil) : (resOf s f).tables = s.tables := rfl
@[simp] theorem resOf_job (f : Resil → Resil) : (resOf s f).job = s.job := rfl
@[simp] theorem resOf_stackSet (f : Resil → Resil) : (resOf s f).stackSet = s.stackSet := rfl
@[simp] theorem resOf_hbm (f : Resil → Resil) : (resOf s f).hbm = s.hbm := rfl
@[simp] theorem resOf_lpddr (f : Resil → Resil) : (resOf s f).lpddr = s.lpddr := rfl
@[simp] theorem resOf_tier (f : Resil → Resil) : (resOf s f).tier = s.tier := rfl
@[simp] theorem resOf_fab (f : Resil → Resil) : (resOf s f).fab = s.fab := rfl
@[simp] theorem resOf_far (f : Resil → Resil) : (resOf s f).far = s.far := rfl
@[simp] theorem resOf_coll (f : Resil → Resil) : (resOf s f).coll = s.coll := rfl
@[simp] theorem resOf_res (f : Resil → Resil) : (resOf s f).res = f s.res := rfl
@[simp] theorem resOf_vis (f : Resil → Resil) : (resOf s f).vis = s.vis := rfl
@[simp] theorem resOf_freeCount (f : Resil → Resil) : (resOf s f).freeCount = s.freeCount := rfl
@[simp] theorem resOf_pending (f : Resil → Resil) : (resOf s f).pending = s.pending := rfl

@[simp] theorem jobOf_time (f : Job → Job) : (jobOf s f).time = s.time := rfl
@[simp] theorem jobOf_pwr (f : Job → Job) : (jobOf s f).pwr = s.pwr := rfl
@[simp] theorem jobOf_host (f : Job → Job) : (jobOf s f).host = s.host := rfl
@[simp] theorem jobOf_fw (f : Job → Job) : (jobOf s f).fw = s.fw := rfl
@[simp] theorem jobOf_tel (f : Job → Job) : (jobOf s f).tel = s.tel := rfl
@[simp] theorem jobOf_cores (f : Job → Job) : (jobOf s f).cores = s.cores := rfl
@[simp] theorem jobOf_ctl (f : Job → Job) : (jobOf s f).ctl = s.ctl := rfl
@[simp] theorem jobOf_recs (f : Job → Job) : (jobOf s f).recs = s.recs := rfl
@[simp] theorem jobOf_dram (f : Job → Job) : (jobOf s f).dram = s.dram := rfl
@[simp] theorem jobOf_poison (f : Job → Job) : (jobOf s f).poison = s.poison := rfl
@[simp] theorem jobOf_dieSems (f : Job → Job) : (jobOf s f).dieSems = s.dieSems := rfl
@[simp] theorem jobOf_hubSems (f : Job → Job) : (jobOf s f).hubSems = s.hubSems := rfl
@[simp] theorem jobOf_semOver (f : Job → Job) : (jobOf s f).semOver = s.semOver := rfl
@[simp] theorem jobOf_programs (f : Job → Job) : (jobOf s f).programs = s.programs := rfl
@[simp] theorem jobOf_loads (f : Job → Job) : (jobOf s f).loads = s.loads := rfl
@[simp] theorem jobOf_tables (f : Job → Job) : (jobOf s f).tables = s.tables := rfl
@[simp] theorem jobOf_job (f : Job → Job) : (jobOf s f).job = f s.job := rfl
@[simp] theorem jobOf_stackSet (f : Job → Job) : (jobOf s f).stackSet = s.stackSet := rfl
@[simp] theorem jobOf_hbm (f : Job → Job) : (jobOf s f).hbm = s.hbm := rfl
@[simp] theorem jobOf_lpddr (f : Job → Job) : (jobOf s f).lpddr = s.lpddr := rfl
@[simp] theorem jobOf_tier (f : Job → Job) : (jobOf s f).tier = s.tier := rfl
@[simp] theorem jobOf_fab (f : Job → Job) : (jobOf s f).fab = s.fab := rfl
@[simp] theorem jobOf_far (f : Job → Job) : (jobOf s f).far = s.far := rfl
@[simp] theorem jobOf_coll (f : Job → Job) : (jobOf s f).coll = s.coll := rfl
@[simp] theorem jobOf_res (f : Job → Job) : (jobOf s f).res = s.res := rfl
@[simp] theorem jobOf_vis (f : Job → Job) : (jobOf s f).vis = s.vis := rfl
@[simp] theorem jobOf_freeCount (f : Job → Job) : (jobOf s f).freeCount = s.freeCount := rfl
@[simp] theorem jobOf_pending (f : Job → Job) : (jobOf s f).pending = s.pending := rfl

@[simp] theorem setVis_time (n : Nat) (f : VisCtx → VisCtx) : (setVis s n f).time = s.time := rfl
@[simp] theorem setVis_pwr (n : Nat) (f : VisCtx → VisCtx) : (setVis s n f).pwr = s.pwr := rfl
@[simp] theorem setVis_host (n : Nat) (f : VisCtx → VisCtx) : (setVis s n f).host = s.host := rfl
@[simp] theorem setVis_fw (n : Nat) (f : VisCtx → VisCtx) : (setVis s n f).fw = s.fw := rfl
@[simp] theorem setVis_tel (n : Nat) (f : VisCtx → VisCtx) : (setVis s n f).tel = s.tel := rfl
@[simp] theorem setVis_cores (n : Nat) (f : VisCtx → VisCtx) : (setVis s n f).cores = s.cores := rfl
@[simp] theorem setVis_ctl (n : Nat) (f : VisCtx → VisCtx) : (setVis s n f).ctl = s.ctl := rfl
@[simp] theorem setVis_recs (n : Nat) (f : VisCtx → VisCtx) : (setVis s n f).recs = s.recs := rfl
@[simp] theorem setVis_dram (n : Nat) (f : VisCtx → VisCtx) : (setVis s n f).dram = s.dram := rfl
@[simp] theorem setVis_poison (n : Nat) (f : VisCtx → VisCtx) : (setVis s n f).poison = s.poison := rfl
@[simp] theorem setVis_dieSems (n : Nat) (f : VisCtx → VisCtx) : (setVis s n f).dieSems = s.dieSems := rfl
@[simp] theorem setVis_hubSems (n : Nat) (f : VisCtx → VisCtx) : (setVis s n f).hubSems = s.hubSems := rfl
@[simp] theorem setVis_semOver (n : Nat) (f : VisCtx → VisCtx) : (setVis s n f).semOver = s.semOver := rfl
@[simp] theorem setVis_programs (n : Nat) (f : VisCtx → VisCtx) : (setVis s n f).programs = s.programs := rfl
@[simp] theorem setVis_loads (n : Nat) (f : VisCtx → VisCtx) : (setVis s n f).loads = s.loads := rfl
@[simp] theorem setVis_tables (n : Nat) (f : VisCtx → VisCtx) : (setVis s n f).tables = s.tables := rfl
@[simp] theorem setVis_job (n : Nat) (f : VisCtx → VisCtx) : (setVis s n f).job = s.job := rfl
@[simp] theorem setVis_stackSet (n : Nat) (f : VisCtx → VisCtx) : (setVis s n f).stackSet = s.stackSet := rfl
@[simp] theorem setVis_hbm (n : Nat) (f : VisCtx → VisCtx) : (setVis s n f).hbm = s.hbm := rfl
@[simp] theorem setVis_lpddr (n : Nat) (f : VisCtx → VisCtx) : (setVis s n f).lpddr = s.lpddr := rfl
@[simp] theorem setVis_tier (n : Nat) (f : VisCtx → VisCtx) : (setVis s n f).tier = s.tier := rfl
@[simp] theorem setVis_fab (n : Nat) (f : VisCtx → VisCtx) : (setVis s n f).fab = s.fab := rfl
@[simp] theorem setVis_far (n : Nat) (f : VisCtx → VisCtx) : (setVis s n f).far = s.far := rfl
@[simp] theorem setVis_coll (n : Nat) (f : VisCtx → VisCtx) : (setVis s n f).coll = s.coll := rfl
@[simp] theorem setVis_res (n : Nat) (f : VisCtx → VisCtx) : (setVis s n f).res = s.res := rfl
@[simp] theorem setVis_vis (n : Nat) (f : VisCtx → VisCtx) : (setVis s n f).vis = { s.vis with ctxs := s.vis.ctxs.modify n f } := rfl
@[simp] theorem setVis_freeCount (n : Nat) (f : VisCtx → VisCtx) : (setVis s n f).freeCount = s.freeCount := rfl
@[simp] theorem setVis_pending (n : Nat) (f : VisCtx → VisCtx) : (setVis s n f).pending = s.pending := rfl

@[simp] theorem setFar_time (n : Nat) (f : FarPort → FarPort) : (setFar s n f).time = s.time := rfl
@[simp] theorem setFar_pwr (n : Nat) (f : FarPort → FarPort) : (setFar s n f).pwr = s.pwr := rfl
@[simp] theorem setFar_host (n : Nat) (f : FarPort → FarPort) : (setFar s n f).host = s.host := rfl
@[simp] theorem setFar_fw (n : Nat) (f : FarPort → FarPort) : (setFar s n f).fw = s.fw := rfl
@[simp] theorem setFar_tel (n : Nat) (f : FarPort → FarPort) : (setFar s n f).tel = s.tel := rfl
@[simp] theorem setFar_cores (n : Nat) (f : FarPort → FarPort) : (setFar s n f).cores = s.cores := rfl
@[simp] theorem setFar_ctl (n : Nat) (f : FarPort → FarPort) : (setFar s n f).ctl = s.ctl := rfl
@[simp] theorem setFar_recs (n : Nat) (f : FarPort → FarPort) : (setFar s n f).recs = s.recs := rfl
@[simp] theorem setFar_dram (n : Nat) (f : FarPort → FarPort) : (setFar s n f).dram = s.dram := rfl
@[simp] theorem setFar_poison (n : Nat) (f : FarPort → FarPort) : (setFar s n f).poison = s.poison := rfl
@[simp] theorem setFar_dieSems (n : Nat) (f : FarPort → FarPort) : (setFar s n f).dieSems = s.dieSems := rfl
@[simp] theorem setFar_hubSems (n : Nat) (f : FarPort → FarPort) : (setFar s n f).hubSems = s.hubSems := rfl
@[simp] theorem setFar_semOver (n : Nat) (f : FarPort → FarPort) : (setFar s n f).semOver = s.semOver := rfl
@[simp] theorem setFar_programs (n : Nat) (f : FarPort → FarPort) : (setFar s n f).programs = s.programs := rfl
@[simp] theorem setFar_loads (n : Nat) (f : FarPort → FarPort) : (setFar s n f).loads = s.loads := rfl
@[simp] theorem setFar_tables (n : Nat) (f : FarPort → FarPort) : (setFar s n f).tables = s.tables := rfl
@[simp] theorem setFar_job (n : Nat) (f : FarPort → FarPort) : (setFar s n f).job = s.job := rfl
@[simp] theorem setFar_stackSet (n : Nat) (f : FarPort → FarPort) : (setFar s n f).stackSet = s.stackSet := rfl
@[simp] theorem setFar_hbm (n : Nat) (f : FarPort → FarPort) : (setFar s n f).hbm = s.hbm := rfl
@[simp] theorem setFar_lpddr (n : Nat) (f : FarPort → FarPort) : (setFar s n f).lpddr = s.lpddr := rfl
@[simp] theorem setFar_tier (n : Nat) (f : FarPort → FarPort) : (setFar s n f).tier = s.tier := rfl
@[simp] theorem setFar_fab (n : Nat) (f : FarPort → FarPort) : (setFar s n f).fab = s.fab := rfl
@[simp] theorem setFar_far (n : Nat) (f : FarPort → FarPort) : (setFar s n f).far = { s.far with ports := s.far.ports.modify n f } := rfl
@[simp] theorem setFar_coll (n : Nat) (f : FarPort → FarPort) : (setFar s n f).coll = s.coll := rfl
@[simp] theorem setFar_res (n : Nat) (f : FarPort → FarPort) : (setFar s n f).res = s.res := rfl
@[simp] theorem setFar_vis (n : Nat) (f : FarPort → FarPort) : (setFar s n f).vis = s.vis := rfl
@[simp] theorem setFar_freeCount (n : Nat) (f : FarPort → FarPort) : (setFar s n f).freeCount = s.freeCount := rfl
@[simp] theorem setFar_pending (n : Nat) (f : FarPort → FarPort) : (setFar s n f).pending = s.pending := rfl

@[simp] theorem setNear_time (n : Nat) (f : Near → Near) : (setNear s n f).time = s.time := rfl
@[simp] theorem setNear_pwr (n : Nat) (f : Near → Near) : (setNear s n f).pwr = s.pwr := rfl
@[simp] theorem setNear_host (n : Nat) (f : Near → Near) : (setNear s n f).host = s.host := rfl
@[simp] theorem setNear_fw (n : Nat) (f : Near → Near) : (setNear s n f).fw = s.fw := rfl
@[simp] theorem setNear_tel (n : Nat) (f : Near → Near) : (setNear s n f).tel = s.tel := rfl
@[simp] theorem setNear_cores (n : Nat) (f : Near → Near) : (setNear s n f).cores = s.cores := rfl
@[simp] theorem setNear_ctl (n : Nat) (f : Near → Near) : (setNear s n f).ctl = s.ctl := rfl
@[simp] theorem setNear_recs (n : Nat) (f : Near → Near) : (setNear s n f).recs = s.recs := rfl
@[simp] theorem setNear_dram (n : Nat) (f : Near → Near) : (setNear s n f).dram = s.dram := rfl
@[simp] theorem setNear_poison (n : Nat) (f : Near → Near) : (setNear s n f).poison = s.poison := rfl
@[simp] theorem setNear_dieSems (n : Nat) (f : Near → Near) : (setNear s n f).dieSems = s.dieSems := rfl
@[simp] theorem setNear_hubSems (n : Nat) (f : Near → Near) : (setNear s n f).hubSems = s.hubSems := rfl
@[simp] theorem setNear_semOver (n : Nat) (f : Near → Near) : (setNear s n f).semOver = s.semOver := rfl
@[simp] theorem setNear_programs (n : Nat) (f : Near → Near) : (setNear s n f).programs = s.programs := rfl
@[simp] theorem setNear_loads (n : Nat) (f : Near → Near) : (setNear s n f).loads = s.loads := rfl
@[simp] theorem setNear_tables (n : Nat) (f : Near → Near) : (setNear s n f).tables = s.tables := rfl
@[simp] theorem setNear_job (n : Nat) (f : Near → Near) : (setNear s n f).job = s.job := rfl
@[simp] theorem setNear_stackSet (n : Nat) (f : Near → Near) : (setNear s n f).stackSet = s.stackSet := rfl
@[simp] theorem setNear_hbm (n : Nat) (f : Near → Near) : (setNear s n f).hbm = s.hbm := rfl
@[simp] theorem setNear_lpddr (n : Nat) (f : Near → Near) : (setNear s n f).lpddr = s.lpddr := rfl
@[simp] theorem setNear_tier (n : Nat) (f : Near → Near) : (setNear s n f).tier = s.tier := rfl
@[simp] theorem setNear_fab (n : Nat) (f : Near → Near) : (setNear s n f).fab = { s.fab with near := s.fab.near.modify n f } := rfl
@[simp] theorem setNear_far (n : Nat) (f : Near → Near) : (setNear s n f).far = s.far := rfl
@[simp] theorem setNear_coll (n : Nat) (f : Near → Near) : (setNear s n f).coll = s.coll := rfl
@[simp] theorem setNear_res (n : Nat) (f : Near → Near) : (setNear s n f).res = s.res := rfl
@[simp] theorem setNear_vis (n : Nat) (f : Near → Near) : (setNear s n f).vis = s.vis := rfl
@[simp] theorem setNear_freeCount (n : Nat) (f : Near → Near) : (setNear s n f).freeCount = s.freeCount := rfl
@[simp] theorem setNear_pending (n : Nat) (f : Near → Near) : (setNear s n f).pending = s.pending := rfl

@[simp] theorem fabCount_time (i n : Nat) : (fabCount s i n).time = s.time := rfl
@[simp] theorem fabCount_pwr (i n : Nat) : (fabCount s i n).pwr = s.pwr := rfl
@[simp] theorem fabCount_host (i n : Nat) : (fabCount s i n).host = s.host := rfl
@[simp] theorem fabCount_fw (i n : Nat) : (fabCount s i n).fw = s.fw := rfl
@[simp] theorem fabCount_tel (i n : Nat) : (fabCount s i n).tel = s.tel := rfl
@[simp] theorem fabCount_cores (i n : Nat) : (fabCount s i n).cores = s.cores := rfl
@[simp] theorem fabCount_ctl (i n : Nat) : (fabCount s i n).ctl = s.ctl := rfl
@[simp] theorem fabCount_recs (i n : Nat) : (fabCount s i n).recs = s.recs := rfl
@[simp] theorem fabCount_dram (i n : Nat) : (fabCount s i n).dram = s.dram := rfl
@[simp] theorem fabCount_poison (i n : Nat) : (fabCount s i n).poison = s.poison := rfl
@[simp] theorem fabCount_dieSems (i n : Nat) : (fabCount s i n).dieSems = s.dieSems := rfl
@[simp] theorem fabCount_hubSems (i n : Nat) : (fabCount s i n).hubSems = s.hubSems := rfl
@[simp] theorem fabCount_semOver (i n : Nat) : (fabCount s i n).semOver = s.semOver := rfl
@[simp] theorem fabCount_programs (i n : Nat) : (fabCount s i n).programs = s.programs := rfl
@[simp] theorem fabCount_loads (i n : Nat) : (fabCount s i n).loads = s.loads := rfl
@[simp] theorem fabCount_tables (i n : Nat) : (fabCount s i n).tables = s.tables := rfl
@[simp] theorem fabCount_job (i n : Nat) : (fabCount s i n).job = s.job := rfl
@[simp] theorem fabCount_stackSet (i n : Nat) : (fabCount s i n).stackSet = s.stackSet := rfl
@[simp] theorem fabCount_hbm (i n : Nat) : (fabCount s i n).hbm = s.hbm := rfl
@[simp] theorem fabCount_lpddr (i n : Nat) : (fabCount s i n).lpddr = s.lpddr := rfl
@[simp] theorem fabCount_tier (i n : Nat) : (fabCount s i n).tier = s.tier := rfl
@[simp] theorem fabCount_fab (i n : Nat) : (fabCount s i n).fab = { s.fab with counts := s.fab.counts.modify i (· + n) } := rfl
@[simp] theorem fabCount_far (i n : Nat) : (fabCount s i n).far = s.far := rfl
@[simp] theorem fabCount_coll (i n : Nat) : (fabCount s i n).coll = s.coll := rfl
@[simp] theorem fabCount_res (i n : Nat) : (fabCount s i n).res = s.res := rfl
@[simp] theorem fabCount_vis (i n : Nat) : (fabCount s i n).vis = s.vis := rfl
@[simp] theorem fabCount_freeCount (i n : Nat) : (fabCount s i n).freeCount = s.freeCount := rfl
@[simp] theorem fabCount_pending (i n : Nat) : (fabCount s i n).pending = s.pending := rfl

@[simp] theorem setDom_time (d : Nat) (f : TagDom → TagDom) : (setDom s d f).time = s.time := rfl
@[simp] theorem setDom_pwr (d : Nat) (f : TagDom → TagDom) : (setDom s d f).pwr = s.pwr := rfl
@[simp] theorem setDom_host (d : Nat) (f : TagDom → TagDom) : (setDom s d f).host = s.host := rfl
@[simp] theorem setDom_fw (d : Nat) (f : TagDom → TagDom) : (setDom s d f).fw = s.fw := rfl
@[simp] theorem setDom_tel (d : Nat) (f : TagDom → TagDom) : (setDom s d f).tel = s.tel := rfl
@[simp] theorem setDom_cores (d : Nat) (f : TagDom → TagDom) : (setDom s d f).cores = s.cores := rfl
@[simp] theorem setDom_ctl (d : Nat) (f : TagDom → TagDom) : (setDom s d f).ctl = s.ctl := rfl
@[simp] theorem setDom_recs (d : Nat) (f : TagDom → TagDom) : (setDom s d f).recs = s.recs := rfl
@[simp] theorem setDom_dram (d : Nat) (f : TagDom → TagDom) : (setDom s d f).dram = s.dram := rfl
@[simp] theorem setDom_poison (d : Nat) (f : TagDom → TagDom) : (setDom s d f).poison = s.poison := rfl
@[simp] theorem setDom_dieSems (d : Nat) (f : TagDom → TagDom) : (setDom s d f).dieSems = s.dieSems := rfl
@[simp] theorem setDom_hubSems (d : Nat) (f : TagDom → TagDom) : (setDom s d f).hubSems = s.hubSems := rfl
@[simp] theorem setDom_semOver (d : Nat) (f : TagDom → TagDom) : (setDom s d f).semOver = s.semOver := rfl
@[simp] theorem setDom_programs (d : Nat) (f : TagDom → TagDom) : (setDom s d f).programs = s.programs := rfl
@[simp] theorem setDom_loads (d : Nat) (f : TagDom → TagDom) : (setDom s d f).loads = s.loads := rfl
@[simp] theorem setDom_tables (d : Nat) (f : TagDom → TagDom) : (setDom s d f).tables = s.tables := rfl
@[simp] theorem setDom_job (d : Nat) (f : TagDom → TagDom) : (setDom s d f).job = s.job := rfl
@[simp] theorem setDom_stackSet (d : Nat) (f : TagDom → TagDom) : (setDom s d f).stackSet = s.stackSet := rfl
@[simp] theorem setDom_hbm (d : Nat) (f : TagDom → TagDom) : (setDom s d f).hbm = s.hbm := rfl
@[simp] theorem setDom_lpddr (d : Nat) (f : TagDom → TagDom) : (setDom s d f).lpddr = s.lpddr := rfl
@[simp] theorem setDom_tier (d : Nat) (f : TagDom → TagDom) : (setDom s d f).tier = s.tier := rfl
@[simp] theorem setDom_fab (d : Nat) (f : TagDom → TagDom) : (setDom s d f).fab = { s.fab with doms := s.fab.doms.modify d f } := rfl
@[simp] theorem setDom_far (d : Nat) (f : TagDom → TagDom) : (setDom s d f).far = s.far := rfl
@[simp] theorem setDom_coll (d : Nat) (f : TagDom → TagDom) : (setDom s d f).coll = s.coll := rfl
@[simp] theorem setDom_res (d : Nat) (f : TagDom → TagDom) : (setDom s d f).res = s.res := rfl
@[simp] theorem setDom_vis (d : Nat) (f : TagDom → TagDom) : (setDom s d f).vis = s.vis := rfl
@[simp] theorem setDom_freeCount (d : Nat) (f : TagDom → TagDom) : (setDom s d f).freeCount = s.freeCount := rfl
@[simp] theorem setDom_pending (d : Nat) (f : TagDom → TagDom) : (setDom s d f).pending = s.pending := rfl

@[simp] theorem dropTx_time (i : Nat) : (dropTx s i).time = s.time := rfl
@[simp] theorem dropTx_pwr (i : Nat) : (dropTx s i).pwr = s.pwr := rfl
@[simp] theorem dropTx_host (i : Nat) : (dropTx s i).host = s.host := rfl
@[simp] theorem dropTx_fw (i : Nat) : (dropTx s i).fw = s.fw := rfl
@[simp] theorem dropTx_tel (i : Nat) : (dropTx s i).tel = s.tel := rfl
@[simp] theorem dropTx_cores (i : Nat) : (dropTx s i).cores = s.cores := rfl
@[simp] theorem dropTx_ctl (i : Nat) : (dropTx s i).ctl = s.ctl := rfl
@[simp] theorem dropTx_recs (i : Nat) : (dropTx s i).recs = s.recs := rfl
@[simp] theorem dropTx_dram (i : Nat) : (dropTx s i).dram = s.dram := rfl
@[simp] theorem dropTx_poison (i : Nat) : (dropTx s i).poison = s.poison := rfl
@[simp] theorem dropTx_dieSems (i : Nat) : (dropTx s i).dieSems = s.dieSems := rfl
@[simp] theorem dropTx_hubSems (i : Nat) : (dropTx s i).hubSems = s.hubSems := rfl
@[simp] theorem dropTx_semOver (i : Nat) : (dropTx s i).semOver = s.semOver := rfl
@[simp] theorem dropTx_programs (i : Nat) : (dropTx s i).programs = s.programs := rfl
@[simp] theorem dropTx_loads (i : Nat) : (dropTx s i).loads = s.loads := rfl
@[simp] theorem dropTx_tables (i : Nat) : (dropTx s i).tables = s.tables := rfl
@[simp] theorem dropTx_job (i : Nat) : (dropTx s i).job = s.job := rfl
@[simp] theorem dropTx_stackSet (i : Nat) : (dropTx s i).stackSet = s.stackSet := rfl
@[simp] theorem dropTx_hbm (i : Nat) : (dropTx s i).hbm = s.hbm := rfl
@[simp] theorem dropTx_lpddr (i : Nat) : (dropTx s i).lpddr = s.lpddr := rfl
@[simp] theorem dropTx_tier (i : Nat) : (dropTx s i).tier = s.tier := rfl
@[simp] theorem dropTx_fab (i : Nat) : (dropTx s i).fab = { s.fab with txs := s.fab.txs.filter fun t => t.id ≠ i } := rfl
@[simp] theorem dropTx_far (i : Nat) : (dropTx s i).far = s.far := rfl
@[simp] theorem dropTx_coll (i : Nat) : (dropTx s i).coll = s.coll := rfl
@[simp] theorem dropTx_res (i : Nat) : (dropTx s i).res = s.res := rfl
@[simp] theorem dropTx_vis (i : Nat) : (dropTx s i).vis = s.vis := rfl
@[simp] theorem dropTx_freeCount (i : Nat) : (dropTx s i).freeCount = s.freeCount := rfl
@[simp] theorem dropTx_pending (i : Nat) : (dropTx s i).pending = s.pending := rfl

@[simp] theorem setPresent_time (k : Nat) (b : Bool) : (setPresent s k b).time = s.time := rfl
@[simp] theorem setPresent_pwr (k : Nat) (b : Bool) : (setPresent s k b).pwr = s.pwr := rfl
@[simp] theorem setPresent_host (k : Nat) (b : Bool) : (setPresent s k b).host = s.host := rfl
@[simp] theorem setPresent_fw (k : Nat) (b : Bool) : (setPresent s k b).fw = s.fw := rfl
@[simp] theorem setPresent_tel (k : Nat) (b : Bool) : (setPresent s k b).tel = s.tel := rfl
@[simp] theorem setPresent_cores (k : Nat) (b : Bool) : (setPresent s k b).cores = s.cores := rfl
@[simp] theorem setPresent_ctl (k : Nat) (b : Bool) : (setPresent s k b).ctl = s.ctl := rfl
@[simp] theorem setPresent_recs (k : Nat) (b : Bool) : (setPresent s k b).recs = s.recs := rfl
@[simp] theorem setPresent_dram (k : Nat) (b : Bool) : (setPresent s k b).dram = s.dram := rfl
@[simp] theorem setPresent_poison (k : Nat) (b : Bool) : (setPresent s k b).poison = s.poison := rfl
@[simp] theorem setPresent_dieSems (k : Nat) (b : Bool) : (setPresent s k b).dieSems = s.dieSems := rfl
@[simp] theorem setPresent_hubSems (k : Nat) (b : Bool) : (setPresent s k b).hubSems = s.hubSems := rfl
@[simp] theorem setPresent_semOver (k : Nat) (b : Bool) : (setPresent s k b).semOver = s.semOver := rfl
@[simp] theorem setPresent_programs (k : Nat) (b : Bool) : (setPresent s k b).programs = s.programs := rfl
@[simp] theorem setPresent_loads (k : Nat) (b : Bool) : (setPresent s k b).loads = s.loads := rfl
@[simp] theorem setPresent_tables (k : Nat) (b : Bool) : (setPresent s k b).tables = s.tables := rfl
@[simp] theorem setPresent_job (k : Nat) (b : Bool) : (setPresent s k b).job = s.job := rfl
@[simp] theorem setPresent_stackSet (k : Nat) (b : Bool) : (setPresent s k b).stackSet = s.stackSet := rfl
@[simp] theorem setPresent_hbm (k : Nat) (b : Bool) : (setPresent s k b).hbm = s.hbm := rfl
@[simp] theorem setPresent_lpddr (k : Nat) (b : Bool) : (setPresent s k b).lpddr = s.lpddr := rfl
@[simp] theorem setPresent_tier (k : Nat) (b : Bool) : (setPresent s k b).tier = s.tier := rfl
@[simp] theorem setPresent_fab (k : Nat) (b : Bool) : (setPresent s k b).fab = { s.fab with present := s.fab.present.set k b } := rfl
@[simp] theorem setPresent_far (k : Nat) (b : Bool) : (setPresent s k b).far = s.far := rfl
@[simp] theorem setPresent_coll (k : Nat) (b : Bool) : (setPresent s k b).coll = s.coll := rfl
@[simp] theorem setPresent_res (k : Nat) (b : Bool) : (setPresent s k b).res = s.res := rfl
@[simp] theorem setPresent_vis (k : Nat) (b : Bool) : (setPresent s k b).vis = s.vis := rfl
@[simp] theorem setPresent_freeCount (k : Nat) (b : Bool) : (setPresent s k b).freeCount = s.freeCount := rfl
@[simp] theorem setPresent_pending (k : Nat) (b : Bool) : (setPresent s k b).pending = s.pending := rfl

@[simp] theorem setStack_time (k : Nat) (f : Stack → Stack) : (setStack s k f).time = s.time := rfl
@[simp] theorem setStack_pwr (k : Nat) (f : Stack → Stack) : (setStack s k f).pwr = s.pwr := rfl
@[simp] theorem setStack_host (k : Nat) (f : Stack → Stack) : (setStack s k f).host = s.host := rfl
@[simp] theorem setStack_fw (k : Nat) (f : Stack → Stack) : (setStack s k f).fw = s.fw := rfl
@[simp] theorem setStack_tel (k : Nat) (f : Stack → Stack) : (setStack s k f).tel = s.tel := rfl
@[simp] theorem setStack_cores (k : Nat) (f : Stack → Stack) : (setStack s k f).cores = s.cores := rfl
@[simp] theorem setStack_ctl (k : Nat) (f : Stack → Stack) : (setStack s k f).ctl = s.ctl := rfl
@[simp] theorem setStack_recs (k : Nat) (f : Stack → Stack) : (setStack s k f).recs = s.recs := rfl
@[simp] theorem setStack_dram (k : Nat) (f : Stack → Stack) : (setStack s k f).dram = s.dram := rfl
@[simp] theorem setStack_poison (k : Nat) (f : Stack → Stack) : (setStack s k f).poison = s.poison := rfl
@[simp] theorem setStack_dieSems (k : Nat) (f : Stack → Stack) : (setStack s k f).dieSems = s.dieSems := rfl
@[simp] theorem setStack_hubSems (k : Nat) (f : Stack → Stack) : (setStack s k f).hubSems = s.hubSems := rfl
@[simp] theorem setStack_semOver (k : Nat) (f : Stack → Stack) : (setStack s k f).semOver = s.semOver := rfl
@[simp] theorem setStack_programs (k : Nat) (f : Stack → Stack) : (setStack s k f).programs = s.programs := rfl
@[simp] theorem setStack_loads (k : Nat) (f : Stack → Stack) : (setStack s k f).loads = s.loads := rfl
@[simp] theorem setStack_tables (k : Nat) (f : Stack → Stack) : (setStack s k f).tables = s.tables := rfl
@[simp] theorem setStack_job (k : Nat) (f : Stack → Stack) : (setStack s k f).job = s.job := rfl
@[simp] theorem setStack_stackSet (k : Nat) (f : Stack → Stack) : (setStack s k f).stackSet = s.stackSet.modify k f := rfl
@[simp] theorem setStack_hbm (k : Nat) (f : Stack → Stack) : (setStack s k f).hbm = s.hbm := rfl
@[simp] theorem setStack_lpddr (k : Nat) (f : Stack → Stack) : (setStack s k f).lpddr = s.lpddr := rfl
@[simp] theorem setStack_tier (k : Nat) (f : Stack → Stack) : (setStack s k f).tier = s.tier := rfl
@[simp] theorem setStack_fab (k : Nat) (f : Stack → Stack) : (setStack s k f).fab = s.fab := rfl
@[simp] theorem setStack_far (k : Nat) (f : Stack → Stack) : (setStack s k f).far = s.far := rfl
@[simp] theorem setStack_coll (k : Nat) (f : Stack → Stack) : (setStack s k f).coll = s.coll := rfl
@[simp] theorem setStack_res (k : Nat) (f : Stack → Stack) : (setStack s k f).res = s.res := rfl
@[simp] theorem setStack_vis (k : Nat) (f : Stack → Stack) : (setStack s k f).vis = s.vis := rfl
@[simp] theorem setStack_freeCount (k : Nat) (f : Stack → Stack) : (setStack s k f).freeCount = s.freeCount := rfl
@[simp] theorem setStack_pending (k : Nat) (f : Stack → Stack) : (setStack s k f).pending = s.pending := rfl

@[simp] theorem setPage_time (n : Nat) (f : Page → Page) : (setPage s n f).time = s.time := rfl
@[simp] theorem setPage_pwr (n : Nat) (f : Page → Page) : (setPage s n f).pwr = s.pwr := rfl
@[simp] theorem setPage_host (n : Nat) (f : Page → Page) : (setPage s n f).host = s.host := rfl
@[simp] theorem setPage_fw (n : Nat) (f : Page → Page) : (setPage s n f).fw = s.fw := rfl
@[simp] theorem setPage_tel (n : Nat) (f : Page → Page) : (setPage s n f).tel = s.tel := rfl
@[simp] theorem setPage_cores (n : Nat) (f : Page → Page) : (setPage s n f).cores = s.cores := rfl
@[simp] theorem setPage_ctl (n : Nat) (f : Page → Page) : (setPage s n f).ctl = s.ctl := rfl
@[simp] theorem setPage_recs (n : Nat) (f : Page → Page) : (setPage s n f).recs = s.recs := rfl
@[simp] theorem setPage_dram (n : Nat) (f : Page → Page) : (setPage s n f).dram = s.dram := rfl
@[simp] theorem setPage_poison (n : Nat) (f : Page → Page) : (setPage s n f).poison = s.poison := rfl
@[simp] theorem setPage_dieSems (n : Nat) (f : Page → Page) : (setPage s n f).dieSems = s.dieSems := rfl
@[simp] theorem setPage_hubSems (n : Nat) (f : Page → Page) : (setPage s n f).hubSems = s.hubSems := rfl
@[simp] theorem setPage_semOver (n : Nat) (f : Page → Page) : (setPage s n f).semOver = s.semOver := rfl
@[simp] theorem setPage_programs (n : Nat) (f : Page → Page) : (setPage s n f).programs = s.programs := rfl
@[simp] theorem setPage_loads (n : Nat) (f : Page → Page) : (setPage s n f).loads = s.loads := rfl
@[simp] theorem setPage_tables (n : Nat) (f : Page → Page) : (setPage s n f).tables = s.tables := rfl
@[simp] theorem setPage_job (n : Nat) (f : Page → Page) : (setPage s n f).job = s.job := rfl
@[simp] theorem setPage_stackSet (n : Nat) (f : Page → Page) : (setPage s n f).stackSet = s.stackSet := rfl
@[simp] theorem setPage_hbm (n : Nat) (f : Page → Page) : (setPage s n f).hbm = s.hbm := rfl
@[simp] theorem setPage_lpddr (n : Nat) (f : Page → Page) : (setPage s n f).lpddr = s.lpddr := rfl
@[simp] theorem setPage_tier (n : Nat) (f : Page → Page) : (setPage s n f).tier = { s.tier with pages := s.tier.pages.map fun x => if x.num = n then f x else x } := rfl
@[simp] theorem setPage_fab (n : Nat) (f : Page → Page) : (setPage s n f).fab = s.fab := rfl
@[simp] theorem setPage_far (n : Nat) (f : Page → Page) : (setPage s n f).far = s.far := rfl
@[simp] theorem setPage_coll (n : Nat) (f : Page → Page) : (setPage s n f).coll = s.coll := rfl
@[simp] theorem setPage_res (n : Nat) (f : Page → Page) : (setPage s n f).res = s.res := rfl
@[simp] theorem setPage_vis (n : Nat) (f : Page → Page) : (setPage s n f).vis = s.vis := rfl
@[simp] theorem setPage_freeCount (n : Nat) (f : Page → Page) : (setPage s n f).freeCount = s.freeCount := rfl
@[simp] theorem setPage_pending (n : Nat) (f : Page → Page) : (setPage s n f).pending = s.pending := rfl

@[simp] theorem mapPages_time (f : Page → Page) : (mapPages s f).time = s.time := rfl
@[simp] theorem mapPages_pwr (f : Page → Page) : (mapPages s f).pwr = s.pwr := rfl
@[simp] theorem mapPages_host (f : Page → Page) : (mapPages s f).host = s.host := rfl
@[simp] theorem mapPages_fw (f : Page → Page) : (mapPages s f).fw = s.fw := rfl
@[simp] theorem mapPages_tel (f : Page → Page) : (mapPages s f).tel = s.tel := rfl
@[simp] theorem mapPages_cores (f : Page → Page) : (mapPages s f).cores = s.cores := rfl
@[simp] theorem mapPages_ctl (f : Page → Page) : (mapPages s f).ctl = s.ctl := rfl
@[simp] theorem mapPages_recs (f : Page → Page) : (mapPages s f).recs = s.recs := rfl
@[simp] theorem mapPages_dram (f : Page → Page) : (mapPages s f).dram = s.dram := rfl
@[simp] theorem mapPages_poison (f : Page → Page) : (mapPages s f).poison = s.poison := rfl
@[simp] theorem mapPages_dieSems (f : Page → Page) : (mapPages s f).dieSems = s.dieSems := rfl
@[simp] theorem mapPages_hubSems (f : Page → Page) : (mapPages s f).hubSems = s.hubSems := rfl
@[simp] theorem mapPages_semOver (f : Page → Page) : (mapPages s f).semOver = s.semOver := rfl
@[simp] theorem mapPages_programs (f : Page → Page) : (mapPages s f).programs = s.programs := rfl
@[simp] theorem mapPages_loads (f : Page → Page) : (mapPages s f).loads = s.loads := rfl
@[simp] theorem mapPages_tables (f : Page → Page) : (mapPages s f).tables = s.tables := rfl
@[simp] theorem mapPages_job (f : Page → Page) : (mapPages s f).job = s.job := rfl
@[simp] theorem mapPages_stackSet (f : Page → Page) : (mapPages s f).stackSet = s.stackSet := rfl
@[simp] theorem mapPages_hbm (f : Page → Page) : (mapPages s f).hbm = s.hbm := rfl
@[simp] theorem mapPages_lpddr (f : Page → Page) : (mapPages s f).lpddr = s.lpddr := rfl
@[simp] theorem mapPages_tier (f : Page → Page) : (mapPages s f).tier = { s.tier with pages := s.tier.pages.map f } := rfl
@[simp] theorem mapPages_fab (f : Page → Page) : (mapPages s f).fab = s.fab := rfl
@[simp] theorem mapPages_far (f : Page → Page) : (mapPages s f).far = s.far := rfl
@[simp] theorem mapPages_coll (f : Page → Page) : (mapPages s f).coll = s.coll := rfl
@[simp] theorem mapPages_res (f : Page → Page) : (mapPages s f).res = s.res := rfl
@[simp] theorem mapPages_vis (f : Page → Page) : (mapPages s f).vis = s.vis := rfl
@[simp] theorem mapPages_freeCount (f : Page → Page) : (mapPages s f).freeCount = s.freeCount := rfl
@[simp] theorem mapPages_pending (f : Page → Page) : (mapPages s f).pending = s.pending := rfl

@[simp] theorem mapRegions_time (f : Region → Region) : (mapRegions s f).time = s.time := rfl
@[simp] theorem mapRegions_pwr (f : Region → Region) : (mapRegions s f).pwr = s.pwr := rfl
@[simp] theorem mapRegions_host (f : Region → Region) : (mapRegions s f).host = s.host := rfl
@[simp] theorem mapRegions_fw (f : Region → Region) : (mapRegions s f).fw = s.fw := rfl
@[simp] theorem mapRegions_tel (f : Region → Region) : (mapRegions s f).tel = s.tel := rfl
@[simp] theorem mapRegions_cores (f : Region → Region) : (mapRegions s f).cores = s.cores := rfl
@[simp] theorem mapRegions_ctl (f : Region → Region) : (mapRegions s f).ctl = s.ctl := rfl
@[simp] theorem mapRegions_recs (f : Region → Region) : (mapRegions s f).recs = s.recs := rfl
@[simp] theorem mapRegions_dram (f : Region → Region) : (mapRegions s f).dram = s.dram := rfl
@[simp] theorem mapRegions_poison (f : Region → Region) : (mapRegions s f).poison = s.poison := rfl
@[simp] theorem mapRegions_dieSems (f : Region → Region) : (mapRegions s f).dieSems = s.dieSems := rfl
@[simp] theorem mapRegions_hubSems (f : Region → Region) : (mapRegions s f).hubSems = s.hubSems := rfl
@[simp] theorem mapRegions_semOver (f : Region → Region) : (mapRegions s f).semOver = s.semOver := rfl
@[simp] theorem mapRegions_programs (f : Region → Region) : (mapRegions s f).programs = s.programs := rfl
@[simp] theorem mapRegions_loads (f : Region → Region) : (mapRegions s f).loads = s.loads := rfl
@[simp] theorem mapRegions_tables (f : Region → Region) : (mapRegions s f).tables = s.tables := rfl
@[simp] theorem mapRegions_job (f : Region → Region) : (mapRegions s f).job = s.job := rfl
@[simp] theorem mapRegions_stackSet (f : Region → Region) : (mapRegions s f).stackSet = s.stackSet := rfl
@[simp] theorem mapRegions_hbm (f : Region → Region) : (mapRegions s f).hbm = s.hbm := rfl
@[simp] theorem mapRegions_lpddr (f : Region → Region) : (mapRegions s f).lpddr = s.lpddr := rfl
@[simp] theorem mapRegions_tier (f : Region → Region) : (mapRegions s f).tier = { s.tier with regions := s.tier.regions.map f } := rfl
@[simp] theorem mapRegions_fab (f : Region → Region) : (mapRegions s f).fab = s.fab := rfl
@[simp] theorem mapRegions_far (f : Region → Region) : (mapRegions s f).far = s.far := rfl
@[simp] theorem mapRegions_coll (f : Region → Region) : (mapRegions s f).coll = s.coll := rfl
@[simp] theorem mapRegions_res (f : Region → Region) : (mapRegions s f).res = s.res := rfl
@[simp] theorem mapRegions_vis (f : Region → Region) : (mapRegions s f).vis = s.vis := rfl
@[simp] theorem mapRegions_freeCount (f : Region → Region) : (mapRegions s f).freeCount = s.freeCount := rfl
@[simp] theorem mapRegions_pending (f : Region → Region) : (mapRegions s f).pending = s.pending := rfl

@[simp] theorem setStage_time (st : Stage) : (setStage s st).time = s.time := rfl
@[simp] theorem setStage_pwr (st : Stage) : (setStage s st).pwr = { s.pwr with stage := st } := rfl
@[simp] theorem setStage_host (st : Stage) : (setStage s st).host = s.host := rfl
@[simp] theorem setStage_fw (st : Stage) : (setStage s st).fw = s.fw := rfl
@[simp] theorem setStage_tel (st : Stage) : (setStage s st).tel = s.tel := rfl
@[simp] theorem setStage_cores (st : Stage) : (setStage s st).cores = s.cores := rfl
@[simp] theorem setStage_ctl (st : Stage) : (setStage s st).ctl = s.ctl := rfl
@[simp] theorem setStage_recs (st : Stage) : (setStage s st).recs = s.recs := rfl
@[simp] theorem setStage_dram (st : Stage) : (setStage s st).dram = s.dram := rfl
@[simp] theorem setStage_poison (st : Stage) : (setStage s st).poison = s.poison := rfl
@[simp] theorem setStage_dieSems (st : Stage) : (setStage s st).dieSems = s.dieSems := rfl
@[simp] theorem setStage_hubSems (st : Stage) : (setStage s st).hubSems = s.hubSems := rfl
@[simp] theorem setStage_semOver (st : Stage) : (setStage s st).semOver = s.semOver := rfl
@[simp] theorem setStage_programs (st : Stage) : (setStage s st).programs = s.programs := rfl
@[simp] theorem setStage_loads (st : Stage) : (setStage s st).loads = s.loads := rfl
@[simp] theorem setStage_tables (st : Stage) : (setStage s st).tables = s.tables := rfl
@[simp] theorem setStage_job (st : Stage) : (setStage s st).job = s.job := rfl
@[simp] theorem setStage_stackSet (st : Stage) : (setStage s st).stackSet = s.stackSet := rfl
@[simp] theorem setStage_hbm (st : Stage) : (setStage s st).hbm = s.hbm := rfl
@[simp] theorem setStage_lpddr (st : Stage) : (setStage s st).lpddr = s.lpddr := rfl
@[simp] theorem setStage_tier (st : Stage) : (setStage s st).tier = s.tier := rfl
@[simp] theorem setStage_fab (st : Stage) : (setStage s st).fab = s.fab := rfl
@[simp] theorem setStage_far (st : Stage) : (setStage s st).far = s.far := rfl
@[simp] theorem setStage_coll (st : Stage) : (setStage s st).coll = s.coll := rfl
@[simp] theorem setStage_res (st : Stage) : (setStage s st).res = s.res := rfl
@[simp] theorem setStage_vis (st : Stage) : (setStage s st).vis = s.vis := rfl
@[simp] theorem setStage_freeCount (st : Stage) : (setStage s st).freeCount = s.freeCount := rfl
@[simp] theorem setStage_pending (st : Stage) : (setStage s st).pending = s.pending := rfl

@[simp] theorem raiseTrip_time : (raiseTrip s).time = s.time := rfl
@[simp] theorem raiseTrip_pwr : (raiseTrip s).pwr = Pwr.interrupt { s.pwr with trip := true, thermN := true } 1 s.time (!s.pwr.trip) := rfl
@[simp] theorem raiseTrip_host : (raiseTrip s).host = s.host := rfl
@[simp] theorem raiseTrip_fw : (raiseTrip s).fw = s.fw := rfl
@[simp] theorem raiseTrip_tel : (raiseTrip s).tel = s.tel := rfl
@[simp] theorem raiseTrip_cores : (raiseTrip s).cores = s.cores := rfl
@[simp] theorem raiseTrip_ctl : (raiseTrip s).ctl = s.ctl := rfl
@[simp] theorem raiseTrip_recs : (raiseTrip s).recs = s.recs := rfl
@[simp] theorem raiseTrip_dram : (raiseTrip s).dram = s.dram := rfl
@[simp] theorem raiseTrip_poison : (raiseTrip s).poison = s.poison := rfl
@[simp] theorem raiseTrip_dieSems : (raiseTrip s).dieSems = s.dieSems := rfl
@[simp] theorem raiseTrip_hubSems : (raiseTrip s).hubSems = s.hubSems := rfl
@[simp] theorem raiseTrip_semOver : (raiseTrip s).semOver = s.semOver := rfl
@[simp] theorem raiseTrip_programs : (raiseTrip s).programs = s.programs := rfl
@[simp] theorem raiseTrip_loads : (raiseTrip s).loads = s.loads := rfl
@[simp] theorem raiseTrip_tables : (raiseTrip s).tables = s.tables := rfl
@[simp] theorem raiseTrip_job : (raiseTrip s).job = s.job := rfl
@[simp] theorem raiseTrip_stackSet : (raiseTrip s).stackSet = s.stackSet := rfl
@[simp] theorem raiseTrip_hbm : (raiseTrip s).hbm = s.hbm := rfl
@[simp] theorem raiseTrip_lpddr : (raiseTrip s).lpddr = s.lpddr := rfl
@[simp] theorem raiseTrip_tier : (raiseTrip s).tier = s.tier := rfl
@[simp] theorem raiseTrip_fab : (raiseTrip s).fab = s.fab := rfl
@[simp] theorem raiseTrip_far : (raiseTrip s).far = s.far := rfl
@[simp] theorem raiseTrip_coll : (raiseTrip s).coll = s.coll := rfl
@[simp] theorem raiseTrip_res : (raiseTrip s).res = s.res := rfl
@[simp] theorem raiseTrip_vis : (raiseTrip s).vis = s.vis := rfl
@[simp] theorem raiseTrip_freeCount : (raiseTrip s).freeCount = s.freeCount := rfl
@[simp] theorem raiseTrip_pending : (raiseTrip s).pending = s.pending := rfl

@[simp] theorem setSlot_time (k : Nat) (x : FwSlot) : (setSlot s k x).time = s.time := rfl
@[simp] theorem setSlot_pwr (k : Nat) (x : FwSlot) : (setSlot s k x).pwr = s.pwr := rfl
@[simp] theorem setSlot_host (k : Nat) (x : FwSlot) : (setSlot s k x).host = s.host := rfl
@[simp] theorem setSlot_fw (k : Nat) (x : FwSlot) : (setSlot s k x).fw = { s.fw with slots := s.fw.slots.set k x } := rfl
@[simp] theorem setSlot_tel (k : Nat) (x : FwSlot) : (setSlot s k x).tel = s.tel := rfl
@[simp] theorem setSlot_cores (k : Nat) (x : FwSlot) : (setSlot s k x).cores = s.cores := rfl
@[simp] theorem setSlot_ctl (k : Nat) (x : FwSlot) : (setSlot s k x).ctl = s.ctl := rfl
@[simp] theorem setSlot_recs (k : Nat) (x : FwSlot) : (setSlot s k x).recs = s.recs := rfl
@[simp] theorem setSlot_dram (k : Nat) (x : FwSlot) : (setSlot s k x).dram = s.dram := rfl
@[simp] theorem setSlot_poison (k : Nat) (x : FwSlot) : (setSlot s k x).poison = s.poison := rfl
@[simp] theorem setSlot_dieSems (k : Nat) (x : FwSlot) : (setSlot s k x).dieSems = s.dieSems := rfl
@[simp] theorem setSlot_hubSems (k : Nat) (x : FwSlot) : (setSlot s k x).hubSems = s.hubSems := rfl
@[simp] theorem setSlot_semOver (k : Nat) (x : FwSlot) : (setSlot s k x).semOver = s.semOver := rfl
@[simp] theorem setSlot_programs (k : Nat) (x : FwSlot) : (setSlot s k x).programs = s.programs := rfl
@[simp] theorem setSlot_loads (k : Nat) (x : FwSlot) : (setSlot s k x).loads = s.loads := rfl
@[simp] theorem setSlot_tables (k : Nat) (x : FwSlot) : (setSlot s k x).tables = s.tables := rfl
@[simp] theorem setSlot_job (k : Nat) (x : FwSlot) : (setSlot s k x).job = s.job := rfl
@[simp] theorem setSlot_stackSet (k : Nat) (x : FwSlot) : (setSlot s k x).stackSet = s.stackSet := rfl
@[simp] theorem setSlot_hbm (k : Nat) (x : FwSlot) : (setSlot s k x).hbm = s.hbm := rfl
@[simp] theorem setSlot_lpddr (k : Nat) (x : FwSlot) : (setSlot s k x).lpddr = s.lpddr := rfl
@[simp] theorem setSlot_tier (k : Nat) (x : FwSlot) : (setSlot s k x).tier = s.tier := rfl
@[simp] theorem setSlot_fab (k : Nat) (x : FwSlot) : (setSlot s k x).fab = s.fab := rfl
@[simp] theorem setSlot_far (k : Nat) (x : FwSlot) : (setSlot s k x).far = s.far := rfl
@[simp] theorem setSlot_coll (k : Nat) (x : FwSlot) : (setSlot s k x).coll = s.coll := rfl
@[simp] theorem setSlot_res (k : Nat) (x : FwSlot) : (setSlot s k x).res = s.res := rfl
@[simp] theorem setSlot_vis (k : Nat) (x : FwSlot) : (setSlot s k x).vis = s.vis := rfl
@[simp] theorem setSlot_freeCount (k : Nat) (x : FwSlot) : (setSlot s k x).freeCount = s.freeCount := rfl
@[simp] theorem setSlot_pending (k : Nat) (x : FwSlot) : (setSlot s k x).pending = s.pending := rfl

@[simp] theorem unsealSlots_time (k n : Nat) : (unsealSlots s k n).time = s.time := rfl
@[simp] theorem unsealSlots_pwr (k n : Nat) : (unsealSlots s k n).pwr = s.pwr := rfl
@[simp] theorem unsealSlots_host (k n : Nat) : (unsealSlots s k n).host = s.host := rfl
@[simp] theorem unsealSlots_fw (k n : Nat) : (unsealSlots s k n).fw = s.fw := rfl
@[simp] theorem unsealSlots_tel (k n : Nat) : (unsealSlots s k n).tel = s.tel := rfl
@[simp] theorem unsealSlots_cores (k n : Nat) : (unsealSlots s k n).cores = s.cores := rfl
@[simp] theorem unsealSlots_ctl (k n : Nat) : (unsealSlots s k n).ctl = s.ctl := rfl
@[simp] theorem unsealSlots_recs (k n : Nat) : (unsealSlots s k n).recs = unsealTouch s.recs k n := rfl
@[simp] theorem unsealSlots_dram (k n : Nat) : (unsealSlots s k n).dram = s.dram := rfl
@[simp] theorem unsealSlots_poison (k n : Nat) : (unsealSlots s k n).poison = s.poison := rfl
@[simp] theorem unsealSlots_dieSems (k n : Nat) : (unsealSlots s k n).dieSems = s.dieSems := rfl
@[simp] theorem unsealSlots_hubSems (k n : Nat) : (unsealSlots s k n).hubSems = s.hubSems := rfl
@[simp] theorem unsealSlots_semOver (k n : Nat) : (unsealSlots s k n).semOver = s.semOver := rfl
@[simp] theorem unsealSlots_programs (k n : Nat) : (unsealSlots s k n).programs = s.programs := rfl
@[simp] theorem unsealSlots_loads (k n : Nat) : (unsealSlots s k n).loads = s.loads := rfl
@[simp] theorem unsealSlots_tables (k n : Nat) : (unsealSlots s k n).tables = s.tables := rfl
@[simp] theorem unsealSlots_job (k n : Nat) : (unsealSlots s k n).job = s.job := rfl
@[simp] theorem unsealSlots_stackSet (k n : Nat) : (unsealSlots s k n).stackSet = s.stackSet := rfl
@[simp] theorem unsealSlots_hbm (k n : Nat) : (unsealSlots s k n).hbm = s.hbm := rfl
@[simp] theorem unsealSlots_lpddr (k n : Nat) : (unsealSlots s k n).lpddr = s.lpddr := rfl
@[simp] theorem unsealSlots_tier (k n : Nat) : (unsealSlots s k n).tier = s.tier := rfl
@[simp] theorem unsealSlots_fab (k n : Nat) : (unsealSlots s k n).fab = s.fab := rfl
@[simp] theorem unsealSlots_far (k n : Nat) : (unsealSlots s k n).far = s.far := rfl
@[simp] theorem unsealSlots_coll (k n : Nat) : (unsealSlots s k n).coll = s.coll := rfl
@[simp] theorem unsealSlots_res (k n : Nat) : (unsealSlots s k n).res = s.res := rfl
@[simp] theorem unsealSlots_vis (k n : Nat) : (unsealSlots s k n).vis = s.vis := rfl
@[simp] theorem unsealSlots_freeCount (k n : Nat) : (unsealSlots s k n).freeCount = s.freeCount := rfl
@[simp] theorem unsealSlots_pending (k n : Nat) : (unsealSlots s k n).pending = s.pending := rfl

@[simp] theorem selfRefresh_time : (selfRefresh s).time = s.time := rfl
@[simp] theorem selfRefresh_pwr : (selfRefresh s).pwr = s.pwr := rfl
@[simp] theorem selfRefresh_host : (selfRefresh s).host = s.host := rfl
@[simp] theorem selfRefresh_fw : (selfRefresh s).fw = s.fw := rfl
@[simp] theorem selfRefresh_tel : (selfRefresh s).tel = s.tel := rfl
@[simp] theorem selfRefresh_cores : (selfRefresh s).cores = s.cores := rfl
@[simp] theorem selfRefresh_ctl : (selfRefresh s).ctl = s.ctl := rfl
@[simp] theorem selfRefresh_recs : (selfRefresh s).recs = s.recs := rfl
@[simp] theorem selfRefresh_dram : (selfRefresh s).dram = s.dram := rfl
@[simp] theorem selfRefresh_poison : (selfRefresh s).poison = s.poison := rfl
@[simp] theorem selfRefresh_dieSems : (selfRefresh s).dieSems = s.dieSems := rfl
@[simp] theorem selfRefresh_hubSems : (selfRefresh s).hubSems = s.hubSems := rfl
@[simp] theorem selfRefresh_semOver : (selfRefresh s).semOver = s.semOver := rfl
@[simp] theorem selfRefresh_programs : (selfRefresh s).programs = s.programs := rfl
@[simp] theorem selfRefresh_loads : (selfRefresh s).loads = s.loads := rfl
@[simp] theorem selfRefresh_tables : (selfRefresh s).tables = s.tables := rfl
@[simp] theorem selfRefresh_job : (selfRefresh s).job = s.job := rfl
@[simp] theorem selfRefresh_stackSet : (selfRefresh s).stackSet = s.stackSet := rfl
@[simp] theorem selfRefresh_hbm : (selfRefresh s).hbm = { s.hbm with held := [], waiting := s.hbm.held ++ s.hbm.waiting, shadows := [], selfRefresh := true } := rfl
@[simp] theorem selfRefresh_lpddr : (selfRefresh s).lpddr = s.lpddr := rfl
@[simp] theorem selfRefresh_tier : (selfRefresh s).tier = s.tier := rfl
@[simp] theorem selfRefresh_fab : (selfRefresh s).fab = s.fab := rfl
@[simp] theorem selfRefresh_far : (selfRefresh s).far = s.far := rfl
@[simp] theorem selfRefresh_coll : (selfRefresh s).coll = s.coll := rfl
@[simp] theorem selfRefresh_res : (selfRefresh s).res = s.res := rfl
@[simp] theorem selfRefresh_vis : (selfRefresh s).vis = s.vis := rfl
@[simp] theorem selfRefresh_freeCount : (selfRefresh s).freeCount = s.freeCount := rfl
@[simp] theorem selfRefresh_pending : (selfRefresh s).pending = s.pending := rfl

end Sys2Proof.Machine
end

