-- ==== Sys2Proof/Laws/Ops.lean ====
section
/-! SUPPORT. Laws/Ops.lean: what the shared operations can do: mailboxes and cores, interrupts, errors, events, records, module time,
and that each of them keeps the memories in their canonical form. -/

namespace Sys2Proof.Machine

variable {s : State}

/-! ### One mailbox, one core -/

theorem mbAt_setMb {mb : Nat} (h : mb < s.host.mbs.length) (f : Mailbox → Mailbox) : mbAt (setMb s mb f) mb = f (mbAt s mb) := by
  simp [mbAt, setMb, List.getD, List.getElem?_modify, h]

theorem mbAt_setMb_of_ne {mb k : Nat} (h : k ≠ mb) (f : Mailbox → Mailbox) : mbAt (setMb s mb f) k = mbAt s k := by
  simp [mbAt, setMb, List.getD, List.getElem?_modify, h.symm]

@[simp] theorem setMb_length (mb : Nat) (f : Mailbox → Mailbox) : (setMb s mb f).host.mbs.length = s.host.mbs.length := by simp [setMb]

theorem coreAt_setCore {n : Nat} (h : n < s.cores.length) (f : Core → Core) : coreAt (setCore s n f) n = f (coreAt s n) := by
  simp [coreAt, setCore, List.getD, List.getElem?_modify, h]

theorem coreAt_setCore_of_ne {n k : Nat} (h : k ≠ n) (f : Core → Core) : coreAt (setCore s n f) k = coreAt s k := by
  simp [coreAt, setCore, List.getD, List.getElem?_modify, h.symm]

@[simp] theorem setCore_length (n : Nat) (f : Core → Core) : (setCore s n f).cores.length = s.cores.length := by simp [setCore]

/-! ### Operations that touch the host link alone -/

/-- `t` is `s` but for the host link. -/
def HostOnly (s t : State) : Prop := t = { s with host := t.host }

theorem HostOnly.refl (s : State) : HostOnly s s := rfl

theorem HostOnly.trans {s t u : State} (h : HostOnly s t) (k : HostOnly t u) : HostOnly s u := by
  unfold HostOnly at *; rw [k, h]

theorem HostOnly.of_host (s : State) (h : HostLink) : HostOnly s { s with host := h } := rfl

theorem sendMsi_host (v : Nat) : HostOnly s (sendMsi s v) := rfl

theorem raiseVector_host (v : Nat) : HostOnly s (raiseVector s v) := by unfold raiseVector; split <;> rfl

theorem raiseError_host : HostOnly s (raiseError s) := by
  unfold raiseError; split
  · rfl
  · exact (HostOnly.of_host s _).trans (raiseVector_host 17)

theorem raiseEvent_host : HostOnly s (raiseEvent s) := by
  unfold raiseEvent; split
  · rfl
  · exact (HostOnly.of_host s _).trans (raiseVector_host 16)

theorem setError_host (k : Nat) : HostOnly s (setError s k) := by
  simp only [setError]; split
  · rfl
  · split
    · exact (HostOnly.of_host s _).trans raiseError_host
    · rfl

theorem setMbStatus_host (mb k : Nat) : HostOnly s (setMbStatus s mb k) := by
  simp only [setMbStatus]; split
  · rfl
  · split
    · exact (HostOnly.of_host s _).trans raiseError_host
    · rfl

theorem raiseCompletion_host (mb : Nat) : HostOnly s (raiseCompletion s mb) := by
  simp only [raiseCompletion]; split
  · rfl
  · exact (HostOnly.of_host s _).trans (raiseVector_host mb)

theorem writeRecord_host (mb : Nat) (r : CplRec) : HostOnly s (writeRecord s mb r) := by
  simp only [writeRecord]; split
  · exact (HostOnly.of_host s _).trans (raiseCompletion_host mb)
  · rfl

theorem postRecord_host (mb : Nat) (r : CplRec) : HostOnly s (postRecord s mb r) := by
  simp only [postRecord]; split
  · exact writeRecord_host mb r
  · rfl

theorem foldl_host {α : Type} (f : State → α → State) (hf : ∀ s x, HostOnly s (f s x)) (xs : List α) (s : State) :
    HostOnly s (xs.foldl f s) := by
  induction xs generalizing s with
  | nil => rfl
  | cons x xs ih => exact (hf s x).trans (ih _)

theorem respond_host (mb : Nat) (c : Cmd) (st : Nat) (pay : List Byte) (r0 r1 : DWord) : HostOnly s (respond s mb c st pay r0 r1) :=
  foldl_host _ (fun s _ => (HostOnly.of_host s _).trans (postRecord_host mb _)) _ s

/-- Completing a command touches the host link alone. -/
theorem finish_host (mb : Nat) (c : Cmd) (st : Nat) (pay : List Byte) (r0 r1 : DWord) : HostOnly s (finish s mb c st pay r0 r1) :=
  (HostOnly.of_host s _).trans (respond_host mb c st pay r0 r1)

theorem finishTag_host (mb : Nat) (tag : DWord) (st : Nat) (pay : List Byte) (r0 r1 : DWord) :
    HostOnly s (finishTag s mb tag st pay r0 r1) := by
  unfold finishTag; split
  · exact finish_host mb _ st pay r0 r1
  · rfl

theorem flushHeld_host (mb : Nat) : HostOnly s (flushHeld s mb) :=
  (HostOnly.of_host s _).trans (foldl_host _ (fun _ r => postRecord_host mb r) _ _)

theorem sendPending_host : HostOnly s (sendPending s) :=
  foldl_host _ (fun s v => by
    dsimp only; split
    · exact (HostOnly.of_host s _).trans (sendMsi_host v)
    · rfl) _ s

/-! ### Events, the field book, module time -/

/-- An event touches the host link and the telemetry alone. -/
theorem event_frame (cls data : Nat) : event s cls data = { s with host := (event s cls data).host, tel := (event s cls data).tel } := by
  simp only [event]; split
  · split
    · rw [raiseEvent_host (s := _)]
    · have h := setError_host (s := { s with tel := { s.tel with nextEvent := s.tel.nextEvent + 1, dropped := s.tel.dropped + 1 } }) 3
      rw [(h.trans raiseEvent_host)]
  · rfl

theorem fbEntry_frame (kind : Nat) (data : DWord) : fbEntry s kind data = { s with tel := (fbEntry s kind data).tel } := by
  simp only [fbEntry]; split <;> rfl

theorem fbState_frame : fbState s = { s with tel := (fbState s).tel, freeCount := s.freeCount + 1048576 } := rfl

theorem book_frame (dt : Nat) : book s dt = { s with tel := (book s dt).tel } := by
  simp only [book]; split <;> rfl

/-- `t` is `s` but for the telemetry. -/
def TelOnly (s t : State) : Prop := t = { s with tel := t.tel }

theorem TelOnly.trans {s t u : State} (h : TelOnly s t) (k : TelOnly t u) : TelOnly s u := by
  unfold TelOnly at *; rw [k, h]

theorem hbmAccess_tel (kind g lane : Nat) : TelOnly s (hbmAccess s kind g lane) := by
  simp only [hbmAccess]; split <;> split <;> (try split) <;> rfl

theorem lpddrAccess_tel (kind g lane : Nat) : TelOnly s (lpddrAccess s kind g lane) := by
  simp only [lpddrAccess]; split <;> split <;> (try split) <;> rfl

/-- The record of an uncorrectable read touches the telemetry alone. -/
theorem uncorrectable_tel (g : Nat) : TelOnly s (uncorrectable s g) := by
  unfold uncorrectable; split
  · exact hbmAccess_tel _ _ _
  · exact lpddrAccess_tel _ _ _

theorem uncorrectables_tel (gs : List Nat) : ∀ s : State, TelOnly s (gs.foldl uncorrectable s) := by
  induction gs with
  | nil => exact fun _ => rfl
  | cons g gs ih => exact fun s => (uncorrectable_tel g).trans (ih _)

/-- Moving module time on touches time, the open step record and the count of throttled time alone. -/
theorem advance_frame (t : Nat) :
    advance s t = { s with time := (advance s t).time, tel := (advance s t).tel, pwr := (advance s t).pwr } := by
  unfold advance; split
  · rfl
  · rw [book_frame]

/-- Module time never goes back, and reaches the instant. -/
theorem advance_time (t : Nat) : (advance s t).time = max s.time t := by
  unfold advance; split
  · rename_i h; simp [Nat.max_eq_left h]
  · rename_i h; simp; omega

/-! ### Mailbox commands -/

/-- A command that starts, and that standby admits, does what its body says. -/
theorem mbCommand_starts {mb : Nat} {tag : DWord} {cls code : Nat} {c : Cmd} {body : Cmd → State → State} (hmb : mb < 16)
    (h : starting s mb tag cls code = some c) (hs : s.pwr.standby = true → standbyAllows c = true) :
    mbCommand mb tag cls code body s = .next (body c s) := by
  simp only [mbCommand, onUnit, hmb, h, if_true]
  rw [if_neg]
  rintro k
  simp only [Bool.and_eq_true, Bool.not_eq_true'] at k
  simp [hs k.1] at k

/-- Where no such command may start, nothing happens. -/
theorem mbCommand_waits {mb : Nat} {tag : DWord} {cls code : Nat} {body : Cmd → State → State} (hmb : mb < 16)
    (h : starting s mb tag cls code = none) : mbCommand mb tag cls code body s = .next s := by
  simp only [mbCommand, onUnit, hmb, h, if_true]

/-- A mailbox command answers a next state on every mailbox there is. -/
theorem mbCommand_completes {mb : Nat} {tag : DWord} {cls code : Nat} {body : Cmd → State → State} (hmb : mb < 16) :
    ∃ t, mbCommand mb tag cls code body s = .next t := by
  simp only [mbCommand, onUnit, hmb, if_true]
  split
  · exact ⟨_, rfl⟩
  · exact ⟨_, rfl⟩

/-! ### The canonical form of the memories -/

/-- A state with the same five memories. -/
theorem State.MemoriesWf.of_eq {t : State} (h : s.MemoriesWf) (h1 : t.dram = s.dram) (h2 : t.ctl = s.ctl) (h3 : t.recs = s.recs)
    (h4 : t.host.mem = s.host.mem) (h5 : t.res.slots = s.res.slots) : t.MemoriesWf := by
  unfold State.MemoriesWf at *; rw [h1, h2, h3, h4, h5]; exact h

/-- A state that differs in the host link alone, whose host memory is in form. -/
theorem State.MemoriesWf.of_host {t : State} (h : s.MemoriesWf) (h1 : HostOnly s t) (h2 : Wf t.host.mem) : t.MemoriesWf := by
  unfold HostOnly at h1; rw [h1]; exact ⟨h.1, h.2.1, h.2.2.1, h2, h.2.2.2.2⟩

theorem hostWrite_wf (h : s.MemoriesWf) (a : Nat) (bs : List Byte) : (hostWrite s a bs).MemoriesWf :=
  h.of_host rfl (h.2.2.2.1.writeRun a bs)

theorem setMb_wf (h : s.MemoriesWf) (mb : Nat) (f : Mailbox → Mailbox) : (setMb s mb f).MemoriesWf := h.of_eq rfl rfl rfl rfl rfl

theorem setCore_wf (h : s.MemoriesWf) (n : Nat) (f : Core → Core) : (setCore s n f).MemoriesWf := h.of_eq rfl rfl rfl rfl rfl

theorem bump_wf (h : s.MemoriesWf) (n : Nat) : (bump s n).MemoriesWf := h.of_eq rfl rfl rfl rfl rfl

theorem havocDram_wf (h : s.MemoriesWf) (a n : Nat) : (havocDram s a n).MemoriesWf :=
  ⟨h.1.writeRun _ _, h.2.1, h.2.2.1, h.2.2.2.1, h.2.2.2.2⟩

theorem havocCtl_wf (h : s.MemoriesWf) (a n : Nat) : (havocCtl s a n).MemoriesWf :=
  ⟨h.1, h.2.1.writeRun _ _, h.2.2.1, h.2.2.2.1, h.2.2.2.2⟩

theorem sendMsi_wf (h : s.MemoriesWf) (v : Nat) : (sendMsi s v).MemoriesWf := (hostWrite_wf h _ _).of_eq rfl rfl rfl rfl rfl

theorem raiseVector_wf (h : s.MemoriesWf) (v : Nat) : (raiseVector s v).MemoriesWf := by
  unfold raiseVector; split
  · exact h.of_eq rfl rfl rfl rfl rfl
  · exact sendMsi_wf h v

theorem raiseError_wf (h : s.MemoriesWf) : (raiseError s).MemoriesWf := by
  unfold raiseError; split
  · exact h.of_eq rfl rfl rfl rfl rfl
  · refine raiseVector_wf ?_ 17; exact h.of_eq rfl rfl rfl rfl rfl

theorem raiseEvent_wf (h : s.MemoriesWf) : (raiseEvent s).MemoriesWf := by
  unfold raiseEvent; split
  · exact h.of_eq rfl rfl rfl rfl rfl
  · refine raiseVector_wf ?_ 16; exact h.of_eq rfl rfl rfl rfl rfl

theorem setError_wf (h : s.MemoriesWf) (k : Nat) : (setError s k).MemoriesWf := by
  simp only [setError]; split
  · exact h
  · split
    · refine raiseError_wf ?_; exact h.of_eq rfl rfl rfl rfl rfl
    · exact h.of_eq rfl rfl rfl rfl rfl

theorem setMbStatus_wf (h : s.MemoriesWf) (mb k : Nat) : (setMbStatus s mb k).MemoriesWf := by
  simp only [setMbStatus]; split
  · exact h
  · split
    · refine raiseError_wf ?_; exact h.of_eq rfl rfl rfl rfl rfl
    · exact h.of_eq rfl rfl rfl rfl rfl

theorem raiseCompletion_wf (h : s.MemoriesWf) (mb : Nat) : (raiseCompletion s mb).MemoriesWf := by
  simp only [raiseCompletion]; split
  · exact h.of_eq rfl rfl rfl rfl rfl
  · exact raiseVector_wf (setMb_wf h _ _) mb

theorem writeRecord_wf (h : s.MemoriesWf) (mb : Nat) (r : CplRec) : (writeRecord s mb r).MemoriesWf := by
  simp only [writeRecord]; split
  · exact raiseCompletion_wf (setMb_wf (hostWrite_wf (hostWrite_wf h _ _) _ _) _ _) mb
  · exact setMb_wf (hostWrite_wf (hostWrite_wf h _ _) _ _) _ _

theorem postRecord_wf (h : s.MemoriesWf) (mb : Nat) (r : CplRec) : (postRecord s mb r).MemoriesWf := by
  simp only [postRecord]; split
  · exact writeRecord_wf h mb r
  · exact setMb_wf h _ _

/-- A fold of steps that each keep the form keeps it. -/
theorem foldl_wf {α : Type} (f : State → α → State) (hf : ∀ s x, s.MemoriesWf → (f s x).MemoriesWf) (xs : List α) :
    ∀ s : State, s.MemoriesWf → (xs.foldl f s).MemoriesWf := by
  induction xs with
  | nil => exact fun _ h => h
  | cons x xs ih => exact fun s h => ih _ (hf s x h)

theorem respond_wf (h : s.MemoriesWf) (mb : Nat) (c : Cmd) (st : Nat) (pay : List Byte) (r0 r1 : DWord) :
    (respond s mb c st pay r0 r1).MemoriesWf := by
  refine foldl_wf _ (fun _ _ hs => ?_) _ s h
  refine postRecord_wf ?_ mb _
  exact hs.of_eq rfl rfl rfl rfl rfl

theorem finish_wf (h : s.MemoriesWf) (mb : Nat) (c : Cmd) (st : Nat) (pay : List Byte) (r0 r1 : DWord) :
    (finish s mb c st pay r0 r1).MemoriesWf := respond_wf (setMb_wf h _ _) mb c st pay r0 r1

theorem finishTag_wf (h : s.MemoriesWf) (mb : Nat) (tag : DWord) (st : Nat) (pay : List Byte) (r0 r1 : DWord) :
    (finishTag s mb tag st pay r0 r1).MemoriesWf := by
  unfold finishTag; split
  · exact finish_wf h mb _ st pay r0 r1
  · exact h

theorem flushHeld_wf (h : s.MemoriesWf) (mb : Nat) : (flushHeld s mb).MemoriesWf :=
  foldl_wf _ (fun _ r hs => postRecord_wf hs mb r) _ _ (setMb_wf h _ _)

theorem event_wf (h : s.MemoriesWf) (cls data : Nat) : (event s cls data).MemoriesWf := by
  simp only [event]; split
  · split
    · refine raiseEvent_wf ?_; exact h.of_eq rfl rfl rfl rfl rfl
    · refine raiseEvent_wf (setError_wf ?_ 3); exact h.of_eq rfl rfl rfl rfl rfl
  · exact h

theorem fbEntry_wf (h : s.MemoriesWf) (kind : Nat) (data : DWord) : (fbEntry s kind data).MemoriesWf := by
  rw [fbEntry_frame]; exact h.of_eq rfl rfl rfl rfl rfl

theorem fbState_wf (h : s.MemoriesWf) : (fbState s).MemoriesWf := h.of_eq rfl rfl rfl rfl rfl

theorem logError_wf (h : s.MemoriesWf) (k : Nat) (bs : List Byte) : (logError s k bs).MemoriesWf := h.of_eq rfl rfl rfl rfl rfl

theorem countUp_wf (h : s.MemoriesWf) (i n : Nat) : (countUp s i n).MemoriesWf := h.of_eq rfl rfl rfl rfl rfl

theorem advance_wf (h : s.MemoriesWf) (t : Nat) : (advance s t).MemoriesWf := by
  rw [advance_frame]; exact h.of_eq rfl rfl rfl rfl rfl

theorem clearPoison_wf (h : s.MemoriesWf) (a n : Nat) : (clearPoison s a n).MemoriesWf := by
  unfold clearPoison; split
  · exact h
  · exact h.of_eq rfl rfl rfl rfl rfl

theorem writePhys_wf (h : s.MemoriesWf) (a : Nat) (bs : List Byte) : (writePhys s a bs).MemoriesWf := by
  simp only [writePhys]
  apply clearPoison_wf
  rw [uncorrectables_tel (partPoisoned s a bs.length) s]
  refine ⟨?_, h.2.1, h.2.2.1, h.2.2.2.1, h.2.2.2.2⟩
  dsimp only
  split
  · exact h.1.writeRun _ _
  · exact Wf.writeMasked h.1 _ _ _

theorem markDirty_wf (h : s.MemoriesWf) (a n : Nat) : (markDirty s a n).MemoriesWf := by
  unfold markDirty; split
  · exact h
  · exact h.of_eq rfl rfl rfl rfl rfl

theorem writePieces_wf (ps : List (Nat × Nat)) : ∀ x : State × List Byte, x.1.MemoriesWf →
    ((ps.foldl (fun (t : State × List Byte) p => (writePhys t.1 p.1 (t.2.take p.2), t.2.drop p.2)) x).1).MemoriesWf := by
  induction ps with
  | nil => exact fun _ h => h
  | cons p ps ih => exact fun x h => ih _ (writePhys_wf h _ _)

/-- A write through the directory keeps every memory in form. -/
theorem writeLocal_wf (h : s.MemoriesWf) (a : Nat) (bs : List Byte) : (writeLocal s a bs).MemoriesWf :=
  writePieces_wf _ _ (markDirty_wf h _ _)

theorem havocLocal_wf (h : s.MemoriesWf) (a n : Nat) : (havocLocal s a n).MemoriesWf := bump_wf (writeLocal_wf h _ _) _

/-! ### Slot memories -/

theorem unsealTile_wf {r : Recs} (h : Wf r) (k : Nat) : Wf (unsealTile r k) := by
  simp only [unsealTile]; split
  · exact h.writeRun _ _
  · exact h

theorem unsealTiles_wf (hs : List Nat) : ∀ r : Recs, Wf r → Wf (hs.foldl unsealTile r) := by
  induction hs with
  | nil => exact fun _ h => h
  | cons k hs ih => exact fun r h => ih _ (unsealTile_wf h k)

theorem unsealTouch_wf {r : Recs} (h : Wf r) (first n : Nat) : Wf (unsealTouch r first n) :=
  (unsealTiles_wf _ r h).writeRun _ _

theorem unsealSlots_wf (h : s.MemoriesWf) (k n : Nat) : (unsealSlots s k n).MemoriesWf :=
  ⟨h.1, h.2.1, unsealTouch_wf h.2.2.1 _ _, h.2.2.2.1, h.2.2.2.2⟩

theorem putTile_wf (h : s.MemoriesWf) (k : Nat) (sh : Shape) (bs : List Byte) (crc : Word) : (putTile s k sh bs crc).MemoriesWf :=
  ⟨h.1, h.2.1.writeRun _ _, (unsealTouch_wf h.2.2.1 _ _).writeRun _ _, h.2.2.2.1, h.2.2.2.2⟩

theorem putBytes_wf (h : s.MemoriesWf) (off : Nat) (bs : List Byte) : (putBytes s off bs).MemoriesWf := by
  refine ⟨h.1, h.2.1.writeRun _ _, ?_, h.2.2.2.1, h.2.2.2.2⟩
  simp only [putBytes]; split
  · exact h.2.2.1
  · exact unsealTouch_wf h.2.2.1 _ _

theorem darkenStore_wf (h : s.MemoriesWf) (n : Nat) : (darkenStore s n).MemoriesWf :=
  ⟨h.1, h.2.1.eraseRun _ _, h.2.2.1.eraseRun _ _, h.2.2.2.1, h.2.2.2.2⟩

/-! ### HBM (R244, R249, R255) -/

/-- A range in HBM is one piece. -/
theorem pieces_hbm {a n : Nat} (hn : n ≠ 0) (h : a + n ≤ lpddrBase) : pieces s a n = [(a, n)] := by
  simp only [pieces, hn, if_false]; rw [if_pos]; simp; right; omega

theorem markDirty_hbm {a n : Nat} (h : a < lpddrBase) : markDirty s a n = s := by simp [markDirty, h]

/-- A write in HBM is a write of physical bytes. -/
theorem writeLocal_hbm {a : Nat} {bs : List Byte} (hn : bs ≠ []) (h : a + bs.length ≤ lpddrBase) : writeLocal s a bs = writePhys s a bs := by
  have h0 : bs.length ≠ 0 := by simpa using hn
  have h1 : 0 < bs.length := Nat.pos_of_ne_zero h0
  simp only [writeLocal, pieces_hbm h0 h, markDirty_hbm (show a < lpddrBase by omega)]; simp

theorem writePhys_frame (a : Nat) (bs : List Byte) :
    writePhys s a bs = { s with dram := (writePhys s a bs).dram, poison := (writePhys s a bs).poison, tel := (writePhys s a bs).tel } := by
  simp only [writePhys, clearPoison]
  rw [uncorrectables_tel (partPoisoned s a bs.length) s]
  split <;> rfl

end Sys2Proof.Machine
end

