-- ==== Sys2Proof/Laws/Tile.lean ====
section
/-! SUPPORT. Laws/Tile.lean: what issuing a tile instruction does, and when each operand check lets it go on. -/

namespace Sys2Proof.Machine

theorem tileInstr_issues {op : Nat} {i : Ctx} {body : Ctx → Res} (h : Issues op i) :
    tileInstr op body i.n i.s = .next (settle i (body i)) := by
  obtain ⟨hn, hl, hc, hp, ho, ha, hq⟩ := h
  obtain ⟨n, c, l, w, s⟩ := i
  simp only [ctxOf, Ctx.mk.injEq, true_and, and_true] at hc
  obtain ⟨rfl, rfl⟩ := hc
  simp only at *
  simp only [tileInstr, onUnit, hn, if_true, hl]
  simp only [Nat.not_le.mpr hp, if_false, ho, ha, hq]
  simp

theorem tileInstr_done {op : Nat} {i : Ctx} {body : Ctx → Res} {t : State} (h : Issues op i) (hb : body i = .done t) :
    tileInstr op body i.n i.s = i.ends t := by rw [tileInstr_issues h, hb]; rfl

theorem tileInstr_fault {op : Nat} {i : Ctx} {body : Ctx → Res} {a b} (h : Issues op i) (hb : body i = .fault a b none) :
    tileInstr op body i.n i.s = i.faults a b := by rw [tileInstr_issues h, hb]; rfl

theorem operand_free {i : Ctx} {p n : Nat} {k : Res} (h : i.Free p n) : i.operand p n k = k := by
  obtain ⟨a, b⟩ := h; simp [Ctx.operand, Nat.not_lt.mpr a, b]
theorem check_holds {i : Ctx} {p : Nat} {sh : Shape} {k : Res} (h : i.Holds p sh) : i.check p sh false k = k := by
  simp only [Ctx.Holds] at h; simp [Ctx.check, h]
theorem check_exactly {i : Ctx} {p : Nat} {sh : Shape} {k : Res} (h : i.HoldsExactly p sh) : i.check p sh true k = k := by
  simp only [Ctx.HoldsExactly] at h; simp [Ctx.check, h]
theorem withShape_ok {i : Ctx} {r : Nat} {k : Shape → Res} (h : shapeOk (i.shape r) = true) : i.withShape r k = k (i.shape r) := by
  simp [Ctx.withShape, h]
theorem recShape_cols {r : DWord} {sh : Shape} (h : recCheck r sh true = none) : recShape r = sh := by
  simp only [recCheck] at h
  split at h
  · simp at h
  · split at h
    · rename_i h1; obtain ⟨a, b, c, d, e⟩ := h1; have := e trivial; cases sh; cases hr : recShape r; simp_all
    · simp at h
theorem checkStored_ok {i : Ctx} {p : Nat} {sh : Shape} {k : Res} (h : i.HoldsExactly p sh) : i.checkStored p sh k = k := by
  have := recShape_cols h
  simp only [Ctx.checkStored, this]
  rw [check_exactly h]; simp [attnForm]
theorem foldr_id {α β : Type} (l : List α) (f : α → β → β) (k : β) (h : ∀ a ∈ l, ∀ k, f a k = k) : l.foldr f k = k := by
  induction l with
  | nil => rfl
  | cons a l ih => simp only [List.foldr]; rw [ih (fun b hb => h b (by simp [hb]))]; exact h a (by simp) k
theorem run_ok {i : Ctx} {p cols : Nat} {sh : Shape} {st : Bool} {k : Res} (h : i.RunHolds p sh cols) : i.run p sh cols st k = k := by
  obtain ⟨a, b⟩ := h
  simp only [Ctx.run, operand_free a]
  apply foldr_id
  intro t ht k
  have := b t (by simpa using ht)
  split
  · exact check_exactly this
  · exact checkStored_ok this
theorem grid_ok {i : Ctx} {p rows cols : Nat} {sh : Shape} {k : Res} (h : i.GridHolds p sh rows cols) : i.grid p sh rows cols k = k := by
  obtain ⟨a, b⟩ := h
  simp only [Ctx.grid, operand_free a]
  apply foldr_id
  intro t ht k
  have := b t (by simpa using ht)
  have h2 := recShape_cols this
  simp only [h2]
  rw [check_exactly this]; simp [attnForm]
theorem regTile_ok {i : Ctx} {p : Nat} {k : Res} (h1 : i.Free p 8) (h2 : i.HoldsExactly p regShape) : i.regTile p k = k := by
  simp only [Ctx.regTile, operand_free h1, check_exactly h2]
theorem merged_eq (i : Ctx) (men mask d : Nat) (g : Nat → Word) :
    ((List.range 1024).map fun e => if i.active men mask e then g e else (i.t d).toArray.getD e 0) = i.merged men mask d g := by
  simp [Ctx.merged, el]
theorem src_eq (i : Ctx) : i.src = fun e => el (i.t (i.f 52 48)) e := by funext e; simp [Ctx.src, el]

end Sys2Proof.Machine
end

