-- ==== Sys2Proof/Laws/Core.lean ====
section
/-! SUPPORT. Laws/Core.lean: the operations on one core and its tile store, and on semaphores: what each writes, and what it leaves. -/

namespace Sys2Proof.Machine

variable {s : State}

/-! ### Scalar and vector registers, the instruction index -/

/-- X0 discards what is written to it (R179). -/
@[simp] theorem putX_zero (n : Nat) (v : DWord) : putX s n 0 v = s := by simp [putX]

theorem putX_frame (n r : Nat) (v : DWord) : putX s n r v = { s with cores := (putX s n r v).cores } := by
  unfold putX; split <;> rfl

theorem putX_reads {n r : Nat} (v : DWord) (hr : r ≠ 0) (hn : n < s.cores.length) (hx : r < (coreAt s n).x.length) :
    (coreAt (putX s n r v) n).x.getD r 0 = v := by
  simp only [putX, hr, if_false, coreAt_setCore hn]
  simp [List.getD, hx]

theorem putX_keeps {n r k : Nat} (v : DWord) (h : k ≠ n) : coreAt (putX s n r v) k = coreAt s k := by
  unfold putX; split
  · rfl
  · exact coreAt_setCore_of_ne h _

theorem putT_frame (n r : Nat) (t : Elems) : putT s n r t = { s with cores := (putT s n r t).cores } := rfl

theorem goto_frame (n pc : Nat) : goto s n pc = { s with cores := (goto s n pc).cores } := rfl

theorem goto_keeps {n k : Nat} (pc : Nat) (h : k ≠ n) : coreAt (goto s n pc) k = coreAt s k := coreAt_setCore_of_ne h _

/-- A stop of a core touches that core alone. -/
theorem stopCore_keeps {n k : Nat} (kind code index : Nat) (w : DWord) (d : Nat) (r : Option (List Byte)) (h : k ≠ n) :
    coreAt (stopCore s n kind code index w d r) k = coreAt s k := coreAt_setCore_of_ne h _

theorem stopCore_frame (n kind code index : Nat) (w : DWord) (d : Nat) (r : Option (List Byte)) :
    stopCore s n kind code index w d r = { s with cores := (stopCore s n kind code index w d r).cores } := rfl

theorem goto_wf (h : s.MemoriesWf) (n pc : Nat) : (goto s n pc).MemoriesWf := h.of_eq rfl rfl rfl rfl rfl

theorem stopCore_wf (h : s.MemoriesWf) (n kind code index : Nat) (w : DWord) (d : Nat) (r : Option (List Byte)) :
    (stopCore s n kind code index w d r).MemoriesWf := h.of_eq rfl rfl rfl rfl rfl

theorem putX_wf (h : s.MemoriesWf) (n r : Nat) (v : DWord) : (putX s n r v).MemoriesWf := by
  rw [putX_frame]; exact h.of_eq rfl rfl rfl rfl rfl

theorem putT_wf (h : s.MemoriesWf) (n r : Nat) (t : Elems) : (putT s n r t).MemoriesWf := h.of_eq rfl rfl rfl rfl rfl

theorem ownSlots_wf (h : s.MemoriesWf) (n k c : Nat) : (ownSlots s n k c).MemoriesWf := h.of_eq rfl rfl rfl rfl rfl

theorem storeTile_wf (h : s.MemoriesWf) (n k : Nat) (sh : Shape) (bs : List Byte) : (storeTile s n k sh bs).MemoriesWf :=
  ownSlots_wf (putTile_wf h _ _ _ _) _ _ _

/-- A tile instruction keeps the memories in form when its body does. -/
theorem tileInstr_wf {op n : Nat} {body : Ctx → Res} {t : State} (h : s.MemoriesWf)
    (hb : ∀ i : Ctx, i.s = s → (settle i (body i)).MemoriesWf) (he : tileInstr op body n s = .next t) : t.MemoriesWf := by
  simp only [tileInstr, onUnit] at he
  split at he
  · split at he
    · cases he; exact h
    · split at he
      · cases he; exact stopCore_wf h _ _ _ _ _ _ _
      · split at he
        · cases he; exact hb _ rfl
        · cases he; exact h
  · cases he

/-! ### Semaphores (R198) -/

theorem semPut_frame (core die n v : Nat) : semPut s core die n v =
    { s with cores := (semPut s core die n v).cores, dieSems := (semPut s core die n v).dieSems, hubSems := (semPut s core die n v).hubSems } := by
  simp only [semPut]; split <;> rfl

theorem semAdd_frame (core die n k : Nat) : semAdd s core die n k =
    { s with
      cores := (semAdd s core die n k).cores, dieSems := (semAdd s core die n k).dieSems, hubSems := (semAdd s core die n k).hubSems
      semOver := (semAdd s core die n k).semOver } := by
  simp only [semAdd]; split
  · rfl
  · split
    · rw [semPut_frame]
    · rw [semPut_frame]

/-- The number that names no semaphore adds nothing. -/
theorem semAdd_none (core die k : Nat) : semAdd s core die 0xFFF k = s := by simp [semAdd, noSem]

theorem semAdd_wf (h : s.MemoriesWf) (core die n k : Nat) : (semAdd s core die n k).MemoriesWf := by
  rw [semAdd_frame]; exact h.of_eq rfl rfl rfl rfl rfl

theorem semTake_wf (h : s.MemoriesWf) (core die n k : Nat) : (semTake s core die n k).MemoriesWf := by
  unfold semTake; rw [semPut_frame]; exact h.of_eq rfl rfl rfl rfl rfl

/-- A hub semaphore holds the sum, saturated at 0xFFFF_FFFF. -/
theorem semGet_semAdd_hub {core die n k : Nat} (hs : semScope n = 2) (hn : noSem n = false) (hi : semIndex n < s.hubSems.length) :
    semGet (semAdd s core die n k) core die n = min (semGet s core die n + k) 0xFFFFFFFF := by
  have hv : semGet s core die n = (s.hubSems.getD (semIndex n) 0).toNat := by simp [semGet, hs]
  simp only [semAdd, hn, Bool.false_eq_true, if_false, hv]
  split
  · simp only [semPut, semGet, hs, List.getD, List.getElem?_set_self hi]; simp only [Option.getD_some]
    rename_i h; simp only [List.getD] at h; rw [Nat.min_eq_right (by omega)]; rfl
  · rename_i h
    simp only [semPut, semGet, hs, List.getD, List.getElem?_set_self hi]; simp only [Option.getD_some]
    simp only [List.getD] at h
    rw [BitVec.toNat_ofNat, Nat.min_eq_left (by omega), Nat.mod_eq_of_lt (by omega)]

end Sys2Proof.Machine
end

