-- ==== Sys2Proof/Laws/Packets.lean ====
section
/-! SUPPORT. Laws/Packets.lean: a packet that arrives in order for this module is served (13_ewete_fabric.md, R304 to R313); what waits for a
survey window, and what the commit tree takes from queue 63 (R253, R381). -/

namespace Sys2Proof.Machine

@[simp] theorem takeIngress_device (s : State) (p : Packet) : (takeIngress s p).fab.device = s.fab.device := by
  simp only [takeIngress]; split <;> rfl

@[simp] theorem takeIngress_near (s : State) (p : Packet) (n : Nat) : nearAt (takeIngress s p) n = nearAt s n := by
  simp only [takeIngress]; split <;> rfl

@[simp] theorem takeIngress_topo (s : State) (p : Packet) : (takeIngress s p).fab.topo = s.fab.topo := by
  simp only [takeIngress]; split <;> rfl

@[simp] theorem takeIngress_coll (s : State) (p : Packet) : (takeIngress s p).coll = s.coll := by
  simp only [takeIngress]; split <;> rfl

@[simp] theorem takeIngress_dram (s : State) (p : Packet) : (takeIngress s p).dram = s.dram := by
  simp only [takeIngress]; split <;> rfl

@[simp] theorem takeIngress_cores (s : State) (p : Packet) : (takeIngress s p).cores = s.cores := by
  simp only [takeIngress]; split <;> rfl

/-- Taking a packet off a port touches the fabric and the far ports alone. -/
theorem takeIngress_frame (s : State) (p : Packet) :
    takeIngress s p = { s with fab := (takeIngress s p).fab, far := (takeIngress s p).far } := by
  simp only [takeIngress]; split <;> rfl

/-- A packet that arrives in order is served on the state without it. -/
theorem arrive_serves {s : State} {p : Packet} {t : Byte} {f : State → State} (h : Arrives s p t) :
    arrive t p f s = .next (f (taken s p)) := by
  obtain ⟨h1, h2, h3, h4, h5⟩ := h
  have hv : onV1 (takeIngress (atPort s p) p) p = onV1 (atPort s p) p := by simp [onV1]
  have hv1 : v1Ok (takeIngress (atPort s p) p) p = v1Ok (atPort s p) p := by simp [v1Ok, mayBeParallel, listKind]
  have hc : (onV1 (atPort s p) p && !v1Ok (atPort s p) p) = false := by
    cases h : onV1 (atPort s p) p <;> simp [h4, h]
  have hu : (if p.port < 36 then endWindow s p.port else s) = atPort s p := rfl
  simp only [arrive, hu]
  rw [if_neg]
  · simp only [route, h3, hv, hv1, hc, takeIngress_device, h5]; simp [taken]
  · simp only [h1]; simp; intro a b; exact (h2 a).resolve_left b

/-- Whatever packet comes, the step answers a next state. -/
theorem arrive_completes (s : State) (p : Packet) (t : Byte) (f : State → State) : ∃ u, arrive t p f s = .next u := ⟨_, rfl⟩

/-- A port without a window that is over stays as it is. -/
theorem endWindow_open {s : State} {n : Nat} (h : ∀ w, (nearAt s n).window = some w → s.time < w.start + nearNs w.kind) : endWindow s n = s := by
  unfold endWindow
  rw [if_neg]
  cases hw : (nearAt s n).window with
  | none => simp
  | some w => simpa using h w hw

/-- A window whose time is over closes. -/
theorem endWindow_over {s : State} {n : Nat} {w : NearWindow} (hw : (nearAt s n).window = some w) (h : w.start + nearNs w.kind ≤ s.time) :
    endWindow s n = closeNear s n := by
  unfold endWindow
  rw [if_pos (by simp [hw, h])]

/-- A packet of a far port, or of the module itself, takes no room of a near port. -/
theorem roomBack_far {s : State} {p : Packet} (h : 36 ≤ p.port) : roomBack s p = s := if_neg (by omega)

/-- A request to channels that no survey window holds is served at once. -/
theorem whenServed_free {s : State} {rs : List (Nat × Nat)} {k : State → State} (h : ∀ r ∈ rs, heldRange s r.1 r.2 = false) :
    whenServed rs k s = k s := by
  unfold whenServed
  rw [if_neg]
  simpa using h

/-- A request to a channel that a survey window holds waits. -/
theorem whenServed_held {s : State} {rs : List (Nat × Nat)} {k : State → State} {r : Nat × Nat} (hr : r ∈ rs) (h : heldRange s r.1 r.2 = true) :
    whenServed rs k s = s := if_pos (List.any_eq_true.2 ⟨r, hr, h⟩)

/-- What the engine does with the head of queue 63: takes a message of its kind, discards what is no message where it owns the queue, and leaves
any other message to its own row. -/
theorem takeCommit_cases (s : State) (kind : Nat) (k : CommitMsg → State → State) :
    takeCommit s kind k = s ∨
    (∃ b m, queueHead s 63 = some b ∧ parseCommit b = some (kind, m) ∧ takeCommit s kind k = k m (dropHead s)) ∨
    (∃ b, queueHead s 63 = some b ∧ parseCommit b = none ∧ ownsQueue s = true ∧
      takeCommit s kind k = resOf (dropHead s) fun r => { r with junk := r.junk + 1 }) := by
  unfold takeCommit
  split
  · exact .inl rfl
  · next b hb =>
    split
    · next x m hm =>
      split
      · next hx => exact .inr (.inl ⟨b, m, hb, hx ▸ hm, rfl⟩)
      · exact .inl rfl
    · next hm =>
      split
      · next ho => exact .inr (.inr ⟨b, hb, hm, ho, rfl⟩)
      · exact .inl rfl

end Sys2Proof.Machine
end

