-- ==== Sys2Proof/Laws/PerInstr.lean ====
section
/-! SUPPORT. Laws/PerInstr.lean: the family F, one lemma per command: a command is well-formed exactly when each of its operands that
numbers a unit of the module is below the number of such units. -/

namespace Sys2Proof.Laws.F

/-- The operands of a command that number units, each with how many such units the module has (mailboxes, cores, pages, channels,
pseudo-channels, lanes, packages, ports, pairs, engines, contexts, stacks, rings, causes and other codes). -/
def units : Instr → List (Nat × Nat)
  | .doorbell mb _ _ | .packetAcknowledge mb | .pad mb | .openSession mb _ | .prove mb _ | .closeSession mb _
  | .provision mb _ | .rotate mb _ | .challengeExpiry mb | .lockoutExpiry mb | .identify mb _ | .status mb _
  | .eventMask mb _ | .resetCmd mb _ | .echo mb _ | .query mb _ | .stage mb _ | .verify mb _ | .activate mb _ | .write mb _
  | .read mb _ | .fill mb _ | .writeTensor mb _ | .readTensor mb _ | .windowGrant mb _ | .windowRevoke mb _
  | .hostReadTimeout mb _ | .abort mb _ | .abortComplete mb _ | .pwrQuery mb _ | .pwrLimit mb _ | .coreState mb _
  | .coreFence mb _ | .coreRetest mb _ _ | .nearPort mb _ | .hbmMapout mb _ | .idleTimers mb _ | .standby mb _
  | .progLoad mb _ | .progDrop mb _ | .progList mb _ | .launch mb _ | .halt mb _ | .schedLoad mb _ | .schedDrop mb _
  | .jobLoad mb _ | .jobStart mb _ | .jobStop mb _ | .jobLengths mb _ | .jobStatus mb _ | .jobUnload mb _ | .jobSwap mb _
  | .topoRoute mb _ | .topoQuery mb _ | .collDefine mb _ | .collDrop mb _ | .reshard mb _ | .collStatus mb _ | .tierPool mb _
  | .tierRegion mb _ | .tierHint mb _ | .tierFlush mb _ | .tierCopy mb _ | .tierQuery mb _ | .farConfig mb _ | .farKey mb _
  | .farControl mb _ | .farQuery mb _ | .farPaths mb _ | .resConfig mb _ | .resQuery mb _ | .dataPos mb _ | .snapTake mb _
  | .snapList mb _ | .snapDrop mb _ | .snapExport mb _ _ | .restore mb _ _ | .lanternConfig mb _ | .takeover mb _
  | .peerSwap mb _ | .visOpen mb _ | .visClose mb _ | .visData mb _ | .visPull mb _ | .visBoxes mb _ | .visQuery mb _
  | .telSteps mb _ | .telStream mb _ | .telEvents mb _ | .telErrors mb _ | .fbCounters mb _ | .fbHistograms mb _
  | .fbLog mb _ | .fbCommit mb _ | .fbImage mb _ | .cplConsumerWrite mb _ | .irqHoldoffWrite mb _ | .irqHoldoffExpiry mb
  | .mailboxStatusClear mb _ => [(mb, 16)]
  | .functionReset source | .warmReset source => [(source, 4)]
  | .coldReset source => [(source, 3)]
  | .powerArrival | .powerLoss _ | .modResetNAssert | .modResetNRelease | .sysenWatchdogExpiry | .bootPower | .bootRom
  | .bootFirmware | .bootFabric | .bootFlash | .bootReady | .thermalHoldRelease _ | .inputExcursion _ | .powerSample _ _ _ _
  | .clockRaise | .currentLimit | .thermalThrottle _ | .thermalTrip _ | .entryStart _ | .returnRequest _ | .wLatestStart _
  | .instanceDispatch _ | .genInstall | .collLimitExpiry _ | .colData _ | .colCredit _ | .colResend _ | .colCounts _
  | .colAbort _ | .ringBlock _ | .ringCredit _ | .ringGrad _ | .ringResend _ | .patrolScrub _ _ | .hbmEccCollect _ _
  | .rdReq _ | .rdData _ | .wr _ | .wrAck _ | .atReq _ | .atResp _ | .msgPacket _ | .msgAck _ | .err _ | .packetHoldExpiry _
  | .fabricTimeout _ | .busyResend _ | .msgRetry _ | .writeEntryRelease _ _ | .ready | .veto | .commit | .rollback | .ask
  | .commitStallTimeout | .vaultHello | .vaultAccept | .vaultRefuse | .vaultCopyEnd | .snapshotStart | .snapshotCommit
  | .lanternEvaluate | .fieldBookHourlyCommit | .fieldBookSample _ | .errorStatusClear _ | .timeLoRead | .registerWrite _ _ _
  | .sidebandColdReset | .sidebandWarmReset | .sidebandTripClear | .sidebandLimitWrite _ | .functionMaskWrite => []
  | .bootMemory failedHbm failedLpddr failedLanes
    => failedHbm.map (·, 384) ++ failedLpddr.map (·, 64) ++ failedLanes.flatMap fun x => [(x.1, 384), (x.2.1, 2), (x.2.2, 37)]
  | .bootCores failed => failed.map (·, 152)
  | .powerFault rail _ => [(rail, 10)]
  | .coreLight core | .coreDim core | .coreDark core | .coreClockStop core | .noRetireTimeout core
  | .correctedErrorLimit core | .reissue core | .nop core | .endProg core | .trap core | .trapStop core | .setsh core
  | .dld core | .li core | .xalu core | .br core | .loop core | .brf core | .rdst core | .wrst core | .drain core
  | .mmul core | .mload core | .mstore core | .xpose core | .acfg core | .aexp core | .afold core | .ablk core | .aclose core
  | .adprep core | .abblk core | .vadd core | .vsub core | .vmul core | .vmin core | .vmax core | .vabs core | .vneg core
  | .vfma core | .vdiv core | .vsqrt core | .vrsqrt core | .vexp2 core | .vlog2 core | .vcmp core | .vsel core | .viadd core
  | .visub core | .vimul core | .vimin core | .vimax core | .vand core | .vor core | .vxor core | .vnot core | .vshl core
  | .vshr core | .vsra core | .vbcast core | .viota core | .vxpose core | .vperm core | .vrand core | .rclr core | .rrow core
  | .rcol core | .radd core | .rtopk core | .rhist core | .rread core | .scan core | .vcvt core | .fetch core | .store core
  | .movem core | .gfetch core | .atom core | .msg core | .moveEnd core _ _ | .fetchDeadline core _ | .vldr core | .vstr core
  | .vldp core | .vstp core | .vgath core | .vscat core | .vscadd core | .vrscat core | .sealTile core | .schk core
  | .srec core | .sclr core | .push core | .pop core | .sdrop core | .signal core | .wait core | .waitSatisfy core
  | .syncTimeout core | .fence core | .instanceEnd core => [(core, 152)]
  | .immediateFence core cause => [(core, 152), (cause, 5)]
  | .stackDrain stack | .stackSpill stack | .frameReturn stack _ _ | .returnDeadline stack _ => [(stack, 128)]
  | .gradientHandoff ring => [(ring, 8)]
  | .pagePromote page | .promoteFinalStage page | .pageDemote page | .demoteFinalStage page | .promoteDeadline page
  | .pinEnd page => [(page, 524288)]
  | .granuleCopyArrival page granule _ => [(page, 524288), (granule, 32)]
  | .hbmShadowRecentre channel pc lane _ | .hbmWindowedRecentre channel pc lane | .laneRepair channel pc lane
    => [(channel, 384), (pc, 2), (lane, 37)]
  | .hbmCaRecentre channel | .interfaceRecovery channel _ | .surveyWindowClose channel _ _ => [(channel, 384)]
  | .lpddrOscRead channel _ | .lpddrRetrain channel _ | .lpddrCaRecentre channel _ => [(channel, 64)]
  | .zqLatch package => [(package, 16)]
  | .portTrained port | .capabilityBlock port _ | .capabilityResend port | .txRetune port _ | .lossOfLock port _
  | .flit port _ => [(port, 36)]
  | .laneSwap port _ lane _ => [(port, 36), (lane, 4)]
  | .cableRemoved pair | .cableInserted pair => [(pair, 18)]
  | .tagSweepStart domain | .t7TagQuarantineEnd domain _ => [(domain, 3)]
  | .farFrameSend port _ | .data port _ | .ack port _ | .hello port _ | .ackTimer port _ | .retransmitTimeout port _
  | .pathResetTimeout port _ | .stopResetTimeout port | .pathIdleClose port _ | .keepalive port _ | .farRetune port _ _
  | .farRetrain port _ | .opticInserted port _ _ | .opticRemoved port | .farPortTrained port => [(port, 8)]
  | .decodeStart engine | .decodeDone engine _ => [(engine, 8)]
  | .frameTokenize ctx => [(ctx, 256)]
  | .cplRingConfig mb reg _ => [(mb, 16), (reg, 3)]
  | .vectorSpacingExpiry vector => [(vector, 18), (15, vector)]

/-- A command is well-formed exactly when every unit that it numbers exists. -/
def Statement (i : Instr) : Prop := i.wf = true ↔ ∀ u ∈ units i, u.1 < u.2

theorem noUnit : (true = true) ↔ ∀ u ∈ ([] : List (Nat × Nat)), u.1 < u.2 := by simp

theorem oneUnit (a k : Nat) : decide (a < k) = true ↔ ∀ u ∈ [(a, k)], u.1 < u.2 := by simp

theorem twoUnits (a k b l : Nat) : (decide (a < k) && decide (b < l)) = true ↔ ∀ u ∈ [(a, k), (b, l)], u.1 < u.2 := by simp

theorem threeUnits (a k b l c m : Nat) :
    (decide (a < k) && decide (b < l) && decide (c < m)) = true ↔ ∀ u ∈ [(a, k), (b, l), (c, m)], u.1 < u.2 := by simp [and_assoc]

theorem doorbell : ∀ mb ptr bytes, Statement (.doorbell mb ptr bytes) := fun mb _ _ => oneUnit mb 16
theorem packetAcknowledge : ∀ mb, Statement (.packetAcknowledge mb) := fun mb => oneUnit mb 16
theorem pad : ∀ mb, Statement (.pad mb) := fun mb => oneUnit mb 16
theorem openSession : ∀ mb tag, Statement (.openSession mb tag) := fun mb _ => oneUnit mb 16
theorem prove : ∀ mb tag, Statement (.prove mb tag) := fun mb _ => oneUnit mb 16
theorem closeSession : ∀ mb tag, Statement (.closeSession mb tag) := fun mb _ => oneUnit mb 16
theorem provision : ∀ mb tag, Statement (.provision mb tag) := fun mb _ => oneUnit mb 16
theorem rotate : ∀ mb tag, Statement (.rotate mb tag) := fun mb _ => oneUnit mb 16
theorem challengeExpiry : ∀ mb, Statement (.challengeExpiry mb) := fun mb => oneUnit mb 16
theorem lockoutExpiry : ∀ mb, Statement (.lockoutExpiry mb) := fun mb => oneUnit mb 16
theorem identify : ∀ mb tag, Statement (.identify mb tag) := fun mb _ => oneUnit mb 16
theorem status : ∀ mb tag, Statement (.status mb tag) := fun mb _ => oneUnit mb 16
theorem eventMask : ∀ mb tag, Statement (.eventMask mb tag) := fun mb _ => oneUnit mb 16
theorem resetCmd : ∀ mb tag, Statement (.resetCmd mb tag) := fun mb _ => oneUnit mb 16
theorem echo : ∀ mb tag, Statement (.echo mb tag) := fun mb _ => oneUnit mb 16
theorem query : ∀ mb tag, Statement (.query mb tag) := fun mb _ => oneUnit mb 16
theorem stage : ∀ mb tag, Statement (.stage mb tag) := fun mb _ => oneUnit mb 16
theorem verify : ∀ mb tag, Statement (.verify mb tag) := fun mb _ => oneUnit mb 16
theorem activate : ∀ mb tag, Statement (.activate mb tag) := fun mb _ => oneUnit mb 16
theorem write : ∀ mb tag, Statement (.write mb tag) := fun mb _ => oneUnit mb 16
theorem read : ∀ mb tag, Statement (.read mb tag) := fun mb _ => oneUnit mb 16
theorem fill : ∀ mb tag, Statement (.fill mb tag) := fun mb _ => oneUnit mb 16
theorem writeTensor : ∀ mb tag, Statement (.writeTensor mb tag) := fun mb _ => oneUnit mb 16
theorem readTensor : ∀ mb tag, Statement (.readTensor mb tag) := fun mb _ => oneUnit mb 16
theorem windowGrant : ∀ mb tag, Statement (.windowGrant mb tag) := fun mb _ => oneUnit mb 16
theorem windowRevoke : ∀ mb tag, Statement (.windowRevoke mb tag) := fun mb _ => oneUnit mb 16
theorem hostReadTimeout : ∀ mb tag, Statement (.hostReadTimeout mb tag) := fun mb _ => oneUnit mb 16
theorem abort : ∀ mb tag, Statement (.abort mb tag) := fun mb _ => oneUnit mb 16
theorem abortComplete : ∀ mb tag, Statement (.abortComplete mb tag) := fun mb _ => oneUnit mb 16
theorem functionReset : ∀ source, Statement (.functionReset source) := fun source => oneUnit source 4
theorem warmReset : ∀ source, Statement (.warmReset source) := fun source => oneUnit source 4
theorem coldReset : ∀ source, Statement (.coldReset source) := fun source => oneUnit source 3
theorem powerArrival : Statement .powerArrival := noUnit
theorem powerLoss : ∀ mv, Statement (.powerLoss mv) := fun _ => noUnit
theorem modResetNAssert : Statement .modResetNAssert := noUnit
theorem modResetNRelease : Statement .modResetNRelease := noUnit
theorem sysenWatchdogExpiry : Statement .sysenWatchdogExpiry := noUnit
theorem bootPower : Statement .bootPower := noUnit
theorem bootRom : Statement .bootRom := noUnit
theorem bootFirmware : Statement .bootFirmware := noUnit
theorem bootMemory : ∀ failedHbm failedLpddr failedLanes, Statement (.bootMemory failedHbm failedLpddr failedLanes) := by
  intro a b c
  simp only [Statement, Instr.wf, units, Bool.and_eq_true, List.all_eq_true, decide_eq_true_eq, List.mem_append, List.mem_map,
    List.mem_flatMap]
  constructor
  · rintro ⟨⟨h1, h2⟩, h3⟩ u ((⟨x, hx, rfl⟩ | ⟨x, hx, rfl⟩) | ⟨x, hx, hu⟩)
    · exact h1 x hx
    · exact h2 x hx
    · have := h3 x hx
      simp only [List.mem_cons, List.not_mem_nil, or_false] at hu
      rcases hu with rfl | rfl | rfl
      · exact this.1.1
      · exact this.1.2
      · exact this.2
  · intro h
    refine ⟨⟨fun x hx => h (x, 384) (.inl (.inl ⟨x, hx, rfl⟩)), fun x hx => h (x, 64) (.inl (.inr ⟨x, hx, rfl⟩))⟩, fun x hx => ?_⟩
    exact ⟨⟨h (x.1, 384) (.inr ⟨x, hx, by simp⟩), h (x.2.1, 2) (.inr ⟨x, hx, by simp⟩)⟩, h (x.2.2, 37) (.inr ⟨x, hx, by simp⟩)⟩
theorem bootCores : ∀ failed, Statement (.bootCores failed) := by intros; simp [Statement, Instr.wf, units]
theorem bootFabric : Statement .bootFabric := noUnit
theorem bootFlash : Statement .bootFlash := noUnit
theorem bootReady : Statement .bootReady := noUnit
theorem thermalHoldRelease : ∀ temps, Statement (.thermalHoldRelease temps) := fun _ => noUnit
theorem powerFault : ∀ rail mv, Statement (.powerFault rail mv) := fun rail _ => oneUnit rail 10
theorem inputExcursion : ∀ mv, Statement (.inputExcursion mv) := fun _ => noUnit
theorem powerSample : ∀ mv avg1s avg10ms temps, Statement (.powerSample mv avg1s avg10ms temps) := fun _ _ _ _ => noUnit
theorem clockRaise : Statement .clockRaise := noUnit
theorem currentLimit : Statement .currentLimit := noUnit
theorem thermalThrottle : ∀ temps, Statement (.thermalThrottle temps) := fun _ => noUnit
theorem thermalTrip : ∀ temps, Statement (.thermalTrip temps) := fun _ => noUnit
theorem coreLight : ∀ core, Statement (.coreLight core) := fun core => oneUnit core 152
theorem coreDim : ∀ core, Statement (.coreDim core) := fun core => oneUnit core 152
theorem coreDark : ∀ core, Statement (.coreDark core) := fun core => oneUnit core 152
theorem coreClockStop : ∀ core, Statement (.coreClockStop core) := fun core => oneUnit core 152
theorem pwrQuery : ∀ mb tag, Statement (.pwrQuery mb tag) := fun mb _ => oneUnit mb 16
theorem pwrLimit : ∀ mb tag, Statement (.pwrLimit mb tag) := fun mb _ => oneUnit mb 16
theorem coreState : ∀ mb tag, Statement (.coreState mb tag) := fun mb _ => oneUnit mb 16
theorem coreFence : ∀ mb tag, Statement (.coreFence mb tag) := fun mb _ => oneUnit mb 16
theorem coreRetest : ∀ mb tag pass, Statement (.coreRetest mb tag pass) := fun mb _ _ => oneUnit mb 16
theorem nearPort : ∀ mb tag, Statement (.nearPort mb tag) := fun mb _ => oneUnit mb 16
theorem hbmMapout : ∀ mb tag, Statement (.hbmMapout mb tag) := fun mb _ => oneUnit mb 16
theorem idleTimers : ∀ mb tag, Statement (.idleTimers mb tag) := fun mb _ => oneUnit mb 16
theorem standby : ∀ mb tag, Statement (.standby mb tag) := fun mb _ => oneUnit mb 16
theorem noRetireTimeout : ∀ core, Statement (.noRetireTimeout core) := fun core => oneUnit core 152
theorem correctedErrorLimit : ∀ core, Statement (.correctedErrorLimit core) := fun core => oneUnit core 152
theorem immediateFence : ∀ core cause, Statement (.immediateFence core cause) := fun core cause => twoUnits core 152 cause 5
theorem reissue : ∀ core, Statement (.reissue core) := fun core => oneUnit core 152
theorem progLoad : ∀ mb tag, Statement (.progLoad mb tag) := fun mb _ => oneUnit mb 16
theorem progDrop : ∀ mb tag, Statement (.progDrop mb tag) := fun mb _ => oneUnit mb 16
theorem progList : ∀ mb tag, Statement (.progList mb tag) := fun mb _ => oneUnit mb 16
theorem launch : ∀ mb tag, Statement (.launch mb tag) := fun mb _ => oneUnit mb 16
theorem halt : ∀ mb tag, Statement (.halt mb tag) := fun mb _ => oneUnit mb 16
theorem schedLoad : ∀ mb tag, Statement (.schedLoad mb tag) := fun mb _ => oneUnit mb 16
theorem schedDrop : ∀ mb tag, Statement (.schedDrop mb tag) := fun mb _ => oneUnit mb 16
theorem nop : ∀ core, Statement (.nop core) := fun core => oneUnit core 152
theorem endProg : ∀ core, Statement (.endProg core) := fun core => oneUnit core 152
theorem trap : ∀ core, Statement (.trap core) := fun core => oneUnit core 152
theorem trapStop : ∀ core, Statement (.trapStop core) := fun core => oneUnit core 152
theorem setsh : ∀ core, Statement (.setsh core) := fun core => oneUnit core 152
theorem dld : ∀ core, Statement (.dld core) := fun core => oneUnit core 152
theorem li : ∀ core, Statement (.li core) := fun core => oneUnit core 152
theorem xalu : ∀ core, Statement (.xalu core) := fun core => oneUnit core 152
theorem br : ∀ core, Statement (.br core) := fun core => oneUnit core 152
theorem loop : ∀ core, Statement (.loop core) := fun core => oneUnit core 152
theorem brf : ∀ core, Statement (.brf core) := fun core => oneUnit core 152
theorem rdst : ∀ core, Statement (.rdst core) := fun core => oneUnit core 152
theorem wrst : ∀ core, Statement (.wrst core) := fun core => oneUnit core 152
theorem drain : ∀ core, Statement (.drain core) := fun core => oneUnit core 152
theorem mmul : ∀ core, Statement (.mmul core) := fun core => oneUnit core 152
theorem mload : ∀ core, Statement (.mload core) := fun core => oneUnit core 152
theorem mstore : ∀ core, Statement (.mstore core) := fun core => oneUnit core 152
theorem xpose : ∀ core, Statement (.xpose core) := fun core => oneUnit core 152
theorem acfg : ∀ core, Statement (.acfg core) := fun core => oneUnit core 152
theorem aexp : ∀ core, Statement (.aexp core) := fun core => oneUnit core 152
theorem afold : ∀ core, Statement (.afold core) := fun core => oneUnit core 152
theorem ablk : ∀ core, Statement (.ablk core) := fun core => oneUnit core 152
theorem aclose : ∀ core, Statement (.aclose core) := fun core => oneUnit core 152
theorem adprep : ∀ core, Statement (.adprep core) := fun core => oneUnit core 152
theorem abblk : ∀ core, Statement (.abblk core) := fun core => oneUnit core 152
theorem vadd : ∀ core, Statement (.vadd core) := fun core => oneUnit core 152
theorem vsub : ∀ core, Statement (.vsub core) := fun core => oneUnit core 152
theorem vmul : ∀ core, Statement (.vmul core) := fun core => oneUnit core 152
theorem vmin : ∀ core, Statement (.vmin core) := fun core => oneUnit core 152
theorem vmax : ∀ core, Statement (.vmax core) := fun core => oneUnit core 152
theorem vabs : ∀ core, Statement (.vabs core) := fun core => oneUnit core 152
theorem vneg : ∀ core, Statement (.vneg core) := fun core => oneUnit core 152
theorem vfma : ∀ core, Statement (.vfma core) := fun core => oneUnit core 152
theorem vdiv : ∀ core, Statement (.vdiv core) := fun core => oneUnit core 152
theorem vsqrt : ∀ core, Statement (.vsqrt core) := fun core => oneUnit core 152
theorem vrsqrt : ∀ core, Statement (.vrsqrt core) := fun core => oneUnit core 152
theorem vexp2 : ∀ core, Statement (.vexp2 core) := fun core => oneUnit core 152
theorem vlog2 : ∀ core, Statement (.vlog2 core) := fun core => oneUnit core 152
theorem vcmp : ∀ core, Statement (.vcmp core) := fun core => oneUnit core 152
theorem vsel : ∀ core, Statement (.vsel core) := fun core => oneUnit core 152
theorem viadd : ∀ core, Statement (.viadd core) := fun core => oneUnit core 152
theorem visub : ∀ core, Statement (.visub core) := fun core => oneUnit core 152
theorem vimul : ∀ core, Statement (.vimul core) := fun core => oneUnit core 152
theorem vimin : ∀ core, Statement (.vimin core) := fun core => oneUnit core 152
theorem vimax : ∀ core, Statement (.vimax core) := fun core => oneUnit core 152
theorem vand : ∀ core, Statement (.vand core) := fun core => oneUnit core 152
theorem vor : ∀ core, Statement (.vor core) := fun core => oneUnit core 152
theorem vxor : ∀ core, Statement (.vxor core) := fun core => oneUnit core 152
theorem vnot : ∀ core, Statement (.vnot core) := fun core => oneUnit core 152
theorem vshl : ∀ core, Statement (.vshl core) := fun core => oneUnit core 152
theorem vshr : ∀ core, Statement (.vshr core) := fun core => oneUnit core 152
theorem vsra : ∀ core, Statement (.vsra core) := fun core => oneUnit core 152
theorem vbcast : ∀ core, Statement (.vbcast core) := fun core => oneUnit core 152
theorem viota : ∀ core, Statement (.viota core) := fun core => oneUnit core 152
theorem vxpose : ∀ core, Statement (.vxpose core) := fun core => oneUnit core 152
theorem vperm : ∀ core, Statement (.vperm core) := fun core => oneUnit core 152
theorem vrand : ∀ core, Statement (.vrand core) := fun core => oneUnit core 152
theorem rclr : ∀ core, Statement (.rclr core) := fun core => oneUnit core 152
theorem rrow : ∀ core, Statement (.rrow core) := fun core => oneUnit core 152
theorem rcol : ∀ core, Statement (.rcol core) := fun core => oneUnit core 152
theorem radd : ∀ core, Statement (.radd core) := fun core => oneUnit core 152
theorem rtopk : ∀ core, Statement (.rtopk core) := fun core => oneUnit core 152
theorem rhist : ∀ core, Statement (.rhist core) := fun core => oneUnit core 152
theorem rread : ∀ core, Statement (.rread core) := fun core => oneUnit core 152
theorem scan : ∀ core, Statement (.scan core) := fun core => oneUnit core 152
theorem vcvt : ∀ core, Statement (.vcvt core) := fun core => oneUnit core 152
theorem fetch : ∀ core, Statement (.fetch core) := fun core => oneUnit core 152
theorem store : ∀ core, Statement (.store core) := fun core => oneUnit core 152
theorem movem : ∀ core, Statement (.movem core) := fun core => oneUnit core 152
theorem gfetch : ∀ core, Statement (.gfetch core) := fun core => oneUnit core 152
theorem atom : ∀ core, Statement (.atom core) := fun core => oneUnit core 152
theorem msg : ∀ core, Statement (.msg core) := fun core => oneUnit core 152
theorem moveEnd : ∀ core id outcome, Statement (.moveEnd core id outcome) := fun core _ _ => oneUnit core 152
theorem fetchDeadline : ∀ core id, Statement (.fetchDeadline core id) := fun core _ => oneUnit core 152
theorem vldr : ∀ core, Statement (.vldr core) := fun core => oneUnit core 152
theorem vstr : ∀ core, Statement (.vstr core) := fun core => oneUnit core 152
theorem vldp : ∀ core, Statement (.vldp core) := fun core => oneUnit core 152
theorem vstp : ∀ core, Statement (.vstp core) := fun core => oneUnit core 152
theorem vgath : ∀ core, Statement (.vgath core) := fun core => oneUnit core 152
theorem vscat : ∀ core, Statement (.vscat core) := fun core => oneUnit core 152
theorem vscadd : ∀ core, Statement (.vscadd core) := fun core => oneUnit core 152
theorem vrscat : ∀ core, Statement (.vrscat core) := fun core => oneUnit core 152
theorem sealTile : ∀ core, Statement (.sealTile core) := fun core => oneUnit core 152
theorem schk : ∀ core, Statement (.schk core) := fun core => oneUnit core 152
theorem srec : ∀ core, Statement (.srec core) := fun core => oneUnit core 152
theorem sclr : ∀ core, Statement (.sclr core) := fun core => oneUnit core 152
theorem push : ∀ core, Statement (.push core) := fun core => oneUnit core 152
theorem pop : ∀ core, Statement (.pop core) := fun core => oneUnit core 152
theorem sdrop : ∀ core, Statement (.sdrop core) := fun core => oneUnit core 152
theorem signal : ∀ core, Statement (.signal core) := fun core => oneUnit core 152
theorem wait : ∀ core, Statement (.wait core) := fun core => oneUnit core 152
theorem waitSatisfy : ∀ core, Statement (.waitSatisfy core) := fun core => oneUnit core 152
theorem syncTimeout : ∀ core, Statement (.syncTimeout core) := fun core => oneUnit core 152
theorem fence : ∀ core, Statement (.fence core) := fun core => oneUnit core 152
theorem stackDrain : ∀ stack, Statement (.stackDrain stack) := fun stack => oneUnit stack 128
theorem stackSpill : ∀ stack, Statement (.stackSpill stack) := fun stack => oneUnit stack 128
theorem frameReturn : ∀ stack req ok, Statement (.frameReturn stack req ok) := fun stack _ _ => oneUnit stack 128
theorem returnDeadline : ∀ stack req, Statement (.returnDeadline stack req) := fun stack _ => oneUnit stack 128
theorem jobLoad : ∀ mb tag, Statement (.jobLoad mb tag) := fun mb _ => oneUnit mb 16
theorem jobStart : ∀ mb tag, Statement (.jobStart mb tag) := fun mb _ => oneUnit mb 16
theorem jobStop : ∀ mb tag, Statement (.jobStop mb tag) := fun mb _ => oneUnit mb 16
theorem jobLengths : ∀ mb tag, Statement (.jobLengths mb tag) := fun mb _ => oneUnit mb 16
theorem jobStatus : ∀ mb tag, Statement (.jobStatus mb tag) := fun mb _ => oneUnit mb 16
theorem jobUnload : ∀ mb tag, Statement (.jobUnload mb tag) := fun mb _ => oneUnit mb 16
theorem jobSwap : ∀ mb tag, Statement (.jobSwap mb tag) := fun mb _ => oneUnit mb 16
theorem entryStart : ∀ entry, Statement (.entryStart entry) := fun _ => noUnit
theorem returnRequest : ∀ entry, Statement (.returnRequest entry) := fun _ => noUnit
theorem wLatestStart : ∀ entry, Statement (.wLatestStart entry) := fun _ => noUnit
theorem instanceDispatch : ∀ entry, Statement (.instanceDispatch entry) := fun _ => noUnit
theorem instanceEnd : ∀ core, Statement (.instanceEnd core) := fun core => oneUnit core 152
theorem topoRoute : ∀ mb tag, Statement (.topoRoute mb tag) := fun mb _ => oneUnit mb 16
theorem topoQuery : ∀ mb tag, Statement (.topoQuery mb tag) := fun mb _ => oneUnit mb 16
theorem collDefine : ∀ mb tag, Statement (.collDefine mb tag) := fun mb _ => oneUnit mb 16
theorem collDrop : ∀ mb tag, Statement (.collDrop mb tag) := fun mb _ => oneUnit mb 16
theorem reshard : ∀ mb tag, Statement (.reshard mb tag) := fun mb _ => oneUnit mb 16
theorem genInstall : Statement .genInstall := noUnit
theorem collStatus : ∀ mb tag, Statement (.collStatus mb tag) := fun mb _ => oneUnit mb 16
theorem collLimitExpiry : ∀ handle, Statement (.collLimitExpiry handle) := fun _ => noUnit
theorem colData : ∀ p, Statement (.colData p) := fun _ => noUnit
theorem colCredit : ∀ p, Statement (.colCredit p) := fun _ => noUnit
theorem colResend : ∀ p, Statement (.colResend p) := fun _ => noUnit
theorem colCounts : ∀ p, Statement (.colCounts p) := fun _ => noUnit
theorem colAbort : ∀ p, Statement (.colAbort p) := fun _ => noUnit
theorem ringBlock : ∀ p, Statement (.ringBlock p) := fun _ => noUnit
theorem ringCredit : ∀ p, Statement (.ringCredit p) := fun _ => noUnit
theorem ringGrad : ∀ p, Statement (.ringGrad p) := fun _ => noUnit
theorem ringResend : ∀ p, Statement (.ringResend p) := fun _ => noUnit
theorem gradientHandoff : ∀ ring, Statement (.gradientHandoff ring) := fun ring => oneUnit ring 8
theorem tierPool : ∀ mb tag, Statement (.tierPool mb tag) := fun mb _ => oneUnit mb 16
theorem tierRegion : ∀ mb tag, Statement (.tierRegion mb tag) := fun mb _ => oneUnit mb 16
theorem tierHint : ∀ mb tag, Statement (.tierHint mb tag) := fun mb _ => oneUnit mb 16
theorem tierFlush : ∀ mb tag, Statement (.tierFlush mb tag) := fun mb _ => oneUnit mb 16
theorem tierCopy : ∀ mb tag, Statement (.tierCopy mb tag) := fun mb _ => oneUnit mb 16
theorem tierQuery : ∀ mb tag, Statement (.tierQuery mb tag) := fun mb _ => oneUnit mb 16
theorem pagePromote : ∀ page, Statement (.pagePromote page) := fun page => oneUnit page 524288
theorem promoteFinalStage : ∀ page, Statement (.promoteFinalStage page) := fun page => oneUnit page 524288
theorem pageDemote : ∀ page, Statement (.pageDemote page) := fun page => oneUnit page 524288
theorem demoteFinalStage : ∀ page, Statement (.demoteFinalStage page) := fun page => oneUnit page 524288
theorem granuleCopyArrival : ∀ page granule gen, Statement (.granuleCopyArrival page granule gen) := fun page granule _ => twoUnits page 524288 granule 32
theorem promoteDeadline : ∀ page, Statement (.promoteDeadline page) := fun page => oneUnit page 524288
theorem pinEnd : ∀ page, Statement (.pinEnd page) := fun page => oneUnit page 524288
theorem patrolScrub : ∀ first second, Statement (.patrolScrub first second) := fun _ _ => noUnit
theorem hbmEccCollect : ∀ counts scrubbed, Statement (.hbmEccCollect counts scrubbed) := fun _ _ => noUnit
theorem hbmShadowRecentre : ∀ channel pc lane margin, Statement (.hbmShadowRecentre channel pc lane margin) := fun channel pc lane _ => threeUnits channel 384 pc 2 lane 37
theorem hbmWindowedRecentre : ∀ channel pc lane, Statement (.hbmWindowedRecentre channel pc lane) := fun channel pc lane => threeUnits channel 384 pc 2 lane 37
theorem hbmCaRecentre : ∀ channel, Statement (.hbmCaRecentre channel) := fun channel => oneUnit channel 384
theorem laneRepair : ∀ channel pc lane, Statement (.laneRepair channel pc lane) := fun channel pc lane => threeUnits channel 384 pc 2 lane 37
theorem interfaceRecovery : ∀ channel failed, Statement (.interfaceRecovery channel failed) := fun channel _ => oneUnit channel 384
theorem surveyWindowClose : ∀ channel good margin, Statement (.surveyWindowClose channel good margin) := fun channel _ _ => oneUnit channel 384
theorem lpddrOscRead : ∀ channel drift, Statement (.lpddrOscRead channel drift) := fun channel _ => oneUnit channel 64
theorem lpddrRetrain : ∀ channel failed, Statement (.lpddrRetrain channel failed) := fun channel _ => oneUnit channel 64
theorem lpddrCaRecentre : ∀ channel good, Statement (.lpddrCaRecentre channel good) := fun channel _ => oneUnit channel 64
theorem zqLatch : ∀ package, Statement (.zqLatch package) := fun package => oneUnit package 16
theorem portTrained : ∀ port, Statement (.portTrained port) := fun port => oneUnit port 36
theorem capabilityBlock : ∀ port block, Statement (.capabilityBlock port block) := fun port _ => oneUnit port 36
theorem capabilityResend : ∀ port, Statement (.capabilityResend port) := fun port => oneUnit port 36
theorem laneSwap : ∀ port outbound lane fault, Statement (.laneSwap port outbound lane fault) := fun port _ lane _ => twoUnits port 36 lane 4
theorem txRetune : ∀ port margin, Statement (.txRetune port margin) := fun port _ => oneUnit port 36
theorem lossOfLock : ∀ port relocked, Statement (.lossOfLock port relocked) := fun port _ => oneUnit port 36
theorem cableRemoved : ∀ pair, Statement (.cableRemoved pair) := fun pair => oneUnit pair 18
theorem cableInserted : ∀ pair, Statement (.cableInserted pair) := fun pair => oneUnit pair 18
theorem flit : ∀ port bytes, Statement (.flit port bytes) := fun port _ => oneUnit port 36
theorem rdReq : ∀ p, Statement (.rdReq p) := fun _ => noUnit
theorem rdData : ∀ p, Statement (.rdData p) := fun _ => noUnit
theorem wr : ∀ p, Statement (.wr p) := fun _ => noUnit
theorem wrAck : ∀ p, Statement (.wrAck p) := fun _ => noUnit
theorem atReq : ∀ p, Statement (.atReq p) := fun _ => noUnit
theorem atResp : ∀ p, Statement (.atResp p) := fun _ => noUnit
theorem msgPacket : ∀ p, Statement (.msgPacket p) := fun _ => noUnit
theorem msgAck : ∀ p, Statement (.msgAck p) := fun _ => noUnit
theorem err : ∀ p, Statement (.err p) := fun _ => noUnit
theorem packetHoldExpiry : ∀ p, Statement (.packetHoldExpiry p) := fun _ => noUnit
theorem fabricTimeout : ∀ what, Statement (.fabricTimeout what) := fun _ => noUnit
theorem busyResend : ∀ tx, Statement (.busyResend tx) := fun _ => noUnit
theorem msgRetry : ∀ tx, Statement (.msgRetry tx) := fun _ => noUnit
theorem writeEntryRelease : ∀ src tag, Statement (.writeEntryRelease src tag) := fun _ _ => noUnit
theorem tagSweepStart : ∀ domain, Statement (.tagSweepStart domain) := fun domain => oneUnit domain 3
theorem farConfig : ∀ mb tag, Statement (.farConfig mb tag) := fun mb _ => oneUnit mb 16
theorem farKey : ∀ mb tag, Statement (.farKey mb tag) := fun mb _ => oneUnit mb 16
theorem farControl : ∀ mb tag, Statement (.farControl mb tag) := fun mb _ => oneUnit mb 16
theorem farQuery : ∀ mb tag, Statement (.farQuery mb tag) := fun mb _ => oneUnit mb 16
theorem farPaths : ∀ mb tag, Statement (.farPaths mb tag) := fun mb _ => oneUnit mb 16
theorem farFrameSend : ∀ port peer, Statement (.farFrameSend port peer) := fun port _ => oneUnit port 8
theorem data : ∀ port frame, Statement (.data port frame) := fun port _ => oneUnit port 8
theorem ack : ∀ port frame, Statement (.ack port frame) := fun port _ => oneUnit port 8
theorem hello : ∀ port frame, Statement (.hello port frame) := fun port _ => oneUnit port 8
theorem ackTimer : ∀ port peer, Statement (.ackTimer port peer) := fun port _ => oneUnit port 8
theorem retransmitTimeout : ∀ port peer, Statement (.retransmitTimeout port peer) := fun port _ => oneUnit port 8
theorem pathResetTimeout : ∀ port peer, Statement (.pathResetTimeout port peer) := fun port _ => oneUnit port 8
theorem stopResetTimeout : ∀ port, Statement (.stopResetTimeout port) := fun port => oneUnit port 8
theorem pathIdleClose : ∀ port peer, Statement (.pathIdleClose port peer) := fun port _ => oneUnit port 8
theorem keepalive : ∀ port peer, Statement (.keepalive port peer) := fun port _ => oneUnit port 8
theorem farRetune : ∀ port corrected symbols, Statement (.farRetune port corrected symbols) := fun port _ _ => oneUnit port 8
theorem farRetrain : ∀ port relocked, Statement (.farRetrain port relocked) := fun port _ => oneUnit port 8
theorem opticInserted : ∀ port power own, Statement (.opticInserted port power own) := fun port _ _ => oneUnit port 8
theorem opticRemoved : ∀ port, Statement (.opticRemoved port) := fun port => oneUnit port 8
theorem ready : Statement .ready := noUnit
theorem veto : Statement .veto := noUnit
theorem commit : Statement .commit := noUnit
theorem rollback : Statement .rollback := noUnit
theorem ask : Statement .ask := noUnit
theorem commitStallTimeout : Statement .commitStallTimeout := noUnit
theorem vaultHello : Statement .vaultHello := noUnit
theorem vaultAccept : Statement .vaultAccept := noUnit
theorem vaultRefuse : Statement .vaultRefuse := noUnit
theorem vaultCopyEnd : Statement .vaultCopyEnd := noUnit
theorem snapshotStart : Statement .snapshotStart := noUnit
theorem snapshotCommit : Statement .snapshotCommit := noUnit
theorem resConfig : ∀ mb tag, Statement (.resConfig mb tag) := fun mb _ => oneUnit mb 16
theorem resQuery : ∀ mb tag, Statement (.resQuery mb tag) := fun mb _ => oneUnit mb 16
theorem dataPos : ∀ mb tag, Statement (.dataPos mb tag) := fun mb _ => oneUnit mb 16
theorem snapTake : ∀ mb tag, Statement (.snapTake mb tag) := fun mb _ => oneUnit mb 16
theorem snapList : ∀ mb tag, Statement (.snapList mb tag) := fun mb _ => oneUnit mb 16
theorem snapDrop : ∀ mb tag, Statement (.snapDrop mb tag) := fun mb _ => oneUnit mb 16
theorem snapExport : ∀ mb tag nand, Statement (.snapExport mb tag nand) := fun mb _ _ => oneUnit mb 16
theorem restore : ∀ mb tag nand, Statement (.restore mb tag nand) := fun mb _ _ => oneUnit mb 16
theorem lanternConfig : ∀ mb tag, Statement (.lanternConfig mb tag) := fun mb _ => oneUnit mb 16
theorem takeover : ∀ mb tag, Statement (.takeover mb tag) := fun mb _ => oneUnit mb 16
theorem peerSwap : ∀ mb tag, Statement (.peerSwap mb tag) := fun mb _ => oneUnit mb 16
theorem lanternEvaluate : Statement .lanternEvaluate := noUnit
theorem visOpen : ∀ mb tag, Statement (.visOpen mb tag) := fun mb _ => oneUnit mb 16
theorem visClose : ∀ mb tag, Statement (.visClose mb tag) := fun mb _ => oneUnit mb 16
theorem visData : ∀ mb tag, Statement (.visData mb tag) := fun mb _ => oneUnit mb 16
theorem visPull : ∀ mb tag, Statement (.visPull mb tag) := fun mb _ => oneUnit mb 16
theorem visBoxes : ∀ mb tag, Statement (.visBoxes mb tag) := fun mb _ => oneUnit mb 16
theorem visQuery : ∀ mb tag, Statement (.visQuery mb tag) := fun mb _ => oneUnit mb 16
theorem decodeStart : ∀ engine, Statement (.decodeStart engine) := fun engine => oneUnit engine 8
theorem decodeDone : ∀ engine error, Statement (.decodeDone engine error) := fun engine _ => oneUnit engine 8
theorem frameTokenize : ∀ ctx, Statement (.frameTokenize ctx) := fun ctx => oneUnit ctx 256
theorem telSteps : ∀ mb tag, Statement (.telSteps mb tag) := fun mb _ => oneUnit mb 16
theorem telStream : ∀ mb tag, Statement (.telStream mb tag) := fun mb _ => oneUnit mb 16
theorem telEvents : ∀ mb tag, Statement (.telEvents mb tag) := fun mb _ => oneUnit mb 16
theorem telErrors : ∀ mb tag, Statement (.telErrors mb tag) := fun mb _ => oneUnit mb 16
theorem fbCounters : ∀ mb tag, Statement (.fbCounters mb tag) := fun mb _ => oneUnit mb 16
theorem fbHistograms : ∀ mb tag, Statement (.fbHistograms mb tag) := fun mb _ => oneUnit mb 16
theorem fbLog : ∀ mb tag, Statement (.fbLog mb tag) := fun mb _ => oneUnit mb 16
theorem fbCommit : ∀ mb tag, Statement (.fbCommit mb tag) := fun mb _ => oneUnit mb 16
theorem fbImage : ∀ mb tag, Statement (.fbImage mb tag) := fun mb _ => oneUnit mb 16
theorem fieldBookHourlyCommit : Statement .fieldBookHourlyCommit := noUnit
theorem fieldBookSample : ∀ mv, Statement (.fieldBookSample mv) := fun _ => noUnit
theorem cplConsumerWrite : ∀ mb value, Statement (.cplConsumerWrite mb value) := fun mb _ => oneUnit mb 16
theorem cplRingConfig : ∀ mb reg value, Statement (.cplRingConfig mb reg value) := fun mb reg _ => twoUnits mb 16 reg 3
theorem irqHoldoffWrite : ∀ mb value, Statement (.irqHoldoffWrite mb value) := fun mb _ => oneUnit mb 16
theorem irqHoldoffExpiry : ∀ mb, Statement (.irqHoldoffExpiry mb) := fun mb => oneUnit mb 16
theorem mailboxStatusClear : ∀ mb value, Statement (.mailboxStatusClear mb value) := fun mb _ => oneUnit mb 16
theorem errorStatusClear : ∀ value, Statement (.errorStatusClear value) := fun _ => noUnit
theorem timeLoRead : Statement .timeLoRead := noUnit
theorem registerWrite : ∀ offset size value, Statement (.registerWrite offset size value) := fun _ _ _ => noUnit
theorem sidebandColdReset : Statement .sidebandColdReset := noUnit
theorem sidebandWarmReset : Statement .sidebandWarmReset := noUnit
theorem sidebandTripClear : Statement .sidebandTripClear := noUnit
theorem sidebandLimitWrite : ∀ value, Statement (.sidebandLimitWrite value) := fun _ => noUnit
theorem t7TagQuarantineEnd : ∀ domain tag, Statement (.t7TagQuarantineEnd domain tag) := fun domain _ => oneUnit domain 3
theorem farPortTrained : ∀ port, Statement (.farPortTrained port) := fun port => oneUnit port 8
theorem functionMaskWrite : Statement .functionMaskWrite := noUnit
theorem vectorSpacingExpiry : ∀ vector, Statement (.vectorSpacingExpiry vector) := by intros; simp [Statement, Instr.wf, units]; omega

end Sys2Proof.Laws.F
end

