-- ==== Sys2Proof/Tests/Slice0.lean ====
section
/-! SUPPORT. Tests/Slice0.lean: the checks of well-formedness refuse an ill-formed command each; published check values; for every
statement with hypotheses one witness that they can be met, clause by clause, at boundary values where a clause has a range. -/

namespace Sys2Proof.Tests

set_option Elab.async false

open Sys2Proof Sys2Proof.Machine

/-! ### Well-formedness -/

theorem test_wf_mailbox : (Instr.doorbell 15 0 []).wf = true ∧ (Instr.doorbell 16 0 []).wf = false := by decide
theorem test_wf_source : (Instr.warmReset 3).wf = true ∧ (Instr.warmReset 4).wf = false := by decide
theorem test_wf_cold_source : (Instr.coldReset 2).wf = true ∧ (Instr.coldReset 3).wf = false := by decide
theorem test_wf_rail : (Instr.powerFault 9 0).wf = true ∧ (Instr.powerFault 10 0).wf = false := by decide
theorem test_wf_core : (Instr.nop 151).wf = true ∧ (Instr.nop 152).wf = false := by decide
theorem test_wf_cause : (Instr.immediateFence 0 4).wf = true ∧ (Instr.immediateFence 0 5).wf = false ∧
    (Instr.immediateFence 152 0).wf = false := by decide
theorem test_wf_page : (Instr.pagePromote 524287).wf = true ∧ (Instr.pagePromote 524288).wf = false := by decide
theorem test_wf_granule : (Instr.granuleCopyArrival 0 31 0).wf = true ∧ (Instr.granuleCopyArrival 0 32 0).wf = false := by decide
theorem test_wf_lane : (Instr.laneRepair 383 1 36).wf = true ∧ (Instr.laneRepair 384 1 36).wf = false ∧
    (Instr.laneRepair 383 2 36).wf = false ∧ (Instr.laneRepair 383 1 37).wf = false := by decide
theorem test_wf_hbm_channel : (Instr.surveyWindowClose 383 true 0).wf = true ∧ (Instr.surveyWindowClose 384 true 0).wf = false := by decide
theorem test_wf_lpddr_channel : (Instr.lpddrRetrain 63 0).wf = true ∧ (Instr.lpddrRetrain 64 0).wf = false := by decide
theorem test_wf_package : (Instr.zqLatch 15).wf = true ∧ (Instr.zqLatch 16).wf = false := by decide
theorem test_wf_near_port : (Instr.portTrained 35).wf = true ∧ (Instr.portTrained 36).wf = false := by decide
theorem test_wf_near_lane : (Instr.laneSwap 35 true 3 .untrained).wf = true ∧ (Instr.laneSwap 35 true 4 .untrained).wf = false ∧
    (Instr.laneSwap 36 true 3 .untrained).wf = false := by decide
theorem test_wf_pair : (Instr.cableRemoved 17).wf = true ∧ (Instr.cableRemoved 18).wf = false := by decide
theorem test_wf_domain : (Instr.tagSweepStart 2).wf = true ∧ (Instr.tagSweepStart 3).wf = false := by decide
theorem test_wf_far_port : (Instr.farPortTrained 7).wf = true ∧ (Instr.farPortTrained 8).wf = false := by decide
theorem test_wf_engine : (Instr.decodeStart 7).wf = true ∧ (Instr.decodeStart 8).wf = false := by decide
theorem test_wf_context : (Instr.frameTokenize 255).wf = true ∧ (Instr.frameTokenize 256).wf = false := by decide
theorem test_wf_register : (Instr.cplRingConfig 0 2 0).wf = true ∧ (Instr.cplRingConfig 0 3 0).wf = false := by decide
theorem test_wf_vector : (Instr.vectorSpacingExpiry 16).wf = true ∧ (Instr.vectorSpacingExpiry 17).wf = true ∧
    (Instr.vectorSpacingExpiry 18).wf = false ∧ (Instr.vectorSpacingExpiry 15).wf = false := by decide
theorem test_wf_stack : (Instr.stackDrain 127).wf = true ∧ (Instr.stackDrain 128).wf = false := by decide
theorem test_wf_ring : (Instr.gradientHandoff 7).wf = true ∧ (Instr.gradientHandoff 8).wf = false := by decide
theorem test_wf_trained : (Instr.bootMemory [383] [63] [(383, 1, 36)]).wf = true ∧ (Instr.bootMemory [384] [] []).wf = false ∧
    (Instr.bootMemory [] [64] []).wf = false ∧ (Instr.bootMemory [] [] [(0, 2, 0)]).wf = false := by decide
theorem test_wf_tested : (Instr.bootCores [151]).wf = true ∧ (Instr.bootCores [152]).wf = false := by decide

/-- A command on a unit the module does not have is refused by that name. -/
theorem test_refused : exec (.challengeExpiry 16) State.reset = .refused .noSuchUnit := by rfl

/-! ### Check values from outside the model -/

/-- The published check value of CRC-32C over the digits 1 to 9. -/
theorem test_crc32c : crc32c (ascii "123456789") = 0xE3069283 := by decide +kernel

/-- FIPS 180-4: the first four bytes of SHA-384 of "abc". -/
theorem test_sha384 : (sha384 (ascii "abc")).take 4 = [0xCB, 0x00, 0x75, 0x3F] := by decide +kernel

/-- 11_hbm.md, the example of R245: local offset 0x04A_0001_2345 lies in module channel 257, pseudo-channel 1, bank 0, row 170, column 1,861. -/
theorem test_hbm_decode : hbmDecode (mapLists State.reset) 0x4A00012345 = (257, 1, 0, 170) ∧ hbmCol (mapLists State.reset) 0x4A00012345 = 1861 := by
  decide +kernel

/-- 12_memory_tiers.md, the example of R262: offset 0x180_0040_1800 lies in package 11, channel 0; bank 4, row 4. -/
theorem test_lpddr_decode : lpddrDecode 0x18000401800 = (44, 4, 4) := by decide +kernel

/-- R247: a granule reads back as it was written; one symbol in error, of a data or a check lane, is corrected; two and three are detected. -/
theorem test_symbols_clean : readSymbols (zeros 63 ++ [7]) [] = (.clean, zeros 63 ++ [7]) := by decide +kernel
theorem test_symbols_data : readSymbols (zeros 63 ++ [7]) [(31, 0xFFFF)] = (.corrected 31, zeros 63 ++ [7]) := by decide +kernel
theorem test_symbols_check : readSymbols (zeros 63 ++ [7]) [(35, 1)] = (.corrected 35, zeros 63 ++ [7]) := by decide +kernel
theorem test_symbols_two : (readSymbols (zeros 63 ++ [7]) [(0, 1), (35, 1)]).1 = .bad := by decide +kernel
theorem test_symbols_three : (readSymbols (zeros 63 ++ [7]) [(0, 1), (1, 2), (2, 3)]).1 = .bad := by decide +kernel

/-- 03_number_formats.md: 2²⁴ + 1 is a tie that rounds to the even value. -/
theorem test_round_even : addF32 0x4B800000 0x3F800000 = 0x4B800000 := by decide +kernel

/-- The canonical form drops zeros: writing 0 removes the entry. -/
theorem test_write_zero : writeRun (writeRun ([] : Mem) 5 [1, 2]) 5 [0] = [(6, 2)] := by decide

/-! ### Builders -/

/-- A module in stage READY, with all of its memory in service. -/
def ready : State := { mapLists State.reset with pwr := { State.reset.pwr with stage := .ready, endpoint := true, rails := 9, clock0 := 800, clock1 := 800 } }

/-- A whole command that has not started, with tag 5. -/
def cmd (cls code : Nat) (pay : List Byte := []) (a0 : DWord := 0) (a1 : DWord := 0) : Cmd :=
  { cls, code, flags := 0, tag := 5, seq := 1, arg0 := a0, arg1 := a1, payload := pay, total := pay.length, acked := 0, whole := true,
    started := false, aux := [] }

/-- The state with that one command outstanding on MB0. -/
def ask (s : State) (c : Cmd) : State := setMb s 0 fun m => { m with cmds := [c] }

/-- MB0 of a state changed. -/
def mb0 (s : State) (f : Mailbox → Mailbox) : State := setMb s 0 f

/-- A command that `ask` has put there starts. -/
theorem starts (s : State) (c : Cmd)
    (h : (s.host.mbs.length == 16 && !s.pwr.standby && c.whole && !c.started && !abortDue (ask s c)) = true := by rfl) :
    Starts (ask s c) 0 c.tag c.cls c.code c := by
  simp only [Bool.and_eq_true, beq_iff_eq, Bool.not_eq_true'] at h
  obtain ⟨⟨⟨⟨h1, h2⟩, h3⟩, h4⟩, h5⟩ := h
  refine ⟨by decide, ?_, ?_⟩
  · rw [starting, h5, ask, mbAt_setMb (by omega)]
    simp [startable, h3, h4]
  · intro k
    have : (ask s c).pwr.standby = s.pwr.standby := rfl
    rw [this, h2] at k
    cases k


/-- The command starts, and the state and the command meet `p`. -/
abbrev Asks (s : State) (c : Cmd) (p : State → Cmd → Prop) : Prop := Starts (ask s c) 0 c.tag c.cls c.code c ∧ p (ask s c) c

/-! ### Builders for tile instructions -/

/-- An instruction word: an opcode and (low bit, value) fields. -/
def word (op : Nat) (fs : List (Nat × Nat)) : Nat := fs.foldl (fun w f => w + f.2 * 2 ^ f.1) (op * 2 ^ 56)

/-- A launch of program 0. -/
def launchOf (number : Nat) : Launch :=
  ⟨number, 0xFFFFFFFF, 0, 0, 0, 0, 0, 0, 0, 0, 0, 0, 0, [], false, none, none, false, false, false, [], [], []⟩

/-- Core 0 at the first index of a program of one word, changed by `f`, with slot records `recs`. -/
def lit (w : Nat) (f : Core → Core) (recs : Recs) (base : State) : State :=
  { setCore base 0 fun c => f { c with power := .lit, clockOn := true, insns := [BitVec.ofNat 64 w], launch := some (launchOf 1) } with recs }

/-- What core 0 issues there. -/
def at0 (w : Nat) (f : Core → Core := id) (recs : Recs := []) (base : State := ready) : Ctx :=
  let s := lit w f recs base
  ctxOf s 0 ((coreAt s 0).launch.getD (launchOf 0))

/-- `Issues` as a test. -/
def issuesB (op : Nat) (i : Ctx) : Bool :=
  i.n < 152 && issuing i.s i.n == some i.l && decide (i.l.pc < i.c.insns.length) && bits i.w 63 56 == op && !awaitsAtom i.c (scalarRegs i.w) && !queueFull i.c op

theorem issues_iff (op w : Nat) (f : Core → Core) (recs : Recs) (base : State) :
    Issues op (at0 w f recs base) ↔ issuesB op (at0 w f recs base) = true := by
  have : at0 w f recs base = ctxOf (at0 w f recs base).s (at0 w f recs base).n (at0 w f recs base).l := rfl
  simp only [Issues, issuesB, Bool.and_eq_true, decide_eq_true_eq, beq_iff_eq, Bool.not_eq_true', and_assoc, true_and, ← this]

/-! ### Witnesses: the host link (02_host_commands.md, 20_register_map.md) -/

/-- MB15 in stage READY with a completion ring. -/
def ready15 : State := setMb ready 15 fun m => { m with cplSize := 20 }

theorem witness_DoorbellAndTake_pointer : ready15.pwr.stage = .ready ∧ ready15.pwr.endpoint = true ∧ (mbAt ready15 15).cplSize ≠ 0 ∧
    badDoorbell (mbAt ready15 15).cmdCons 0x4000000 = false ∧ badDoorbell (mbAt ready15 15).cmdCons 0x4000040 = true ∧
    badDoorbell (mbAt ready15 15).cmdCons 0x3F = true := by decide +kernel

/-- The bytes of an IDENTIFY packet. -/
def identifyPacket : List Byte :=
  let h := [0x02, 0x01] ++ zeros 6 ++ le 8 7 ++ zeros 40
  h ++ le 4 (crc32c h).toNat ++ zeros 4

/-- The bytes of a pad. -/
def padPacket : List Byte := zeros 56 ++ le 4 (crc32c (zeros 56)).toNat ++ zeros 4

/-- MB15 with 64 bytes in its ring and the producer pointer past them. -/
def ringWith (bs : List Byte) : State := setMb (ringWrite ready15 15 0 bs) 15 fun m => { m with cmdProd := 64 }

/-- MB15 with a pad of 64 bytes at the end of its ring. -/
def padded : State :=
  setMb (ringWrite ready15 15 0xFFFC0 padPacket) 15 fun m => { m with cmdProd := 0x4000000, cmdCons := 0xFFFC0 }

set_option maxRecDepth 100000 in
theorem witness_DoorbellAndTake_packet : let s := ringWith identifyPacket; let hdr := ringRead s 15 0 64; let h := parseHeader hdr
    let s1 := setMb s 15 fun m => { m with cmdCons := ptrAdd (2 ^ 20) m.cmdCons 64 }
    (mbAt s 15).cmdProd ≠ (mbAt s 15).cmdCons ∧ 64 ≤ ptrDist (2 ^ 20) (mbAt s 15).cmdProd (mbAt s 15).cmdCons ∧
    findPacket hdr 0 = (.packet, 64) ∧ checkHeader s1 15 h = none ∧ checkChain (mbAt s1 15) h (ringRead s 15 64 h.plen) = none := by
  decide +kernel

set_option maxRecDepth 100000 in
theorem witness_DoorbellAndTake_pad : let s := padded; let o := ptrOff (mbAt s 15).cmdCons
    (mbAt s 15).cmdProd ≠ (mbAt s 15).cmdCons ∧ 64 ≤ ptrDist (2 ^ 20) (mbAt s 15).cmdProd (mbAt s 15).cmdCons ∧
    findPacket (ringRead s 15 o 64) o = (.pad, 64) := by decide +kernel

/-- A challenge of zeros. -/
def zeroChallenge : Challenge := ⟨zeros 32, zeros 32, 0, 0, 0⟩

/-- A module with an owner key of zeros, and on MB0 that challenge. -/
def keyed : State := mb0 { ready with fw := { ready.fw with ownerKey := some (zeros 48) } } fun m => { m with challenge := some zeroChallenge }

/-- MB0 in session, with no fields. -/
def inside : State := mb0 keyed fun m => { m with session := some ⟨7, 1, []⟩, challenge := none }

/-- The payload of a ROTATE to the key that stands when zeros are sent. -/
def rotatePay : List Byte := zeros 48 ++ hmac (List.zipWith (· ^^^ ·) (zeros 48) (hmac (zeros 48) (ascii "TK9-ROTATE"))) (ascii "TK9-CONFIRM" ++ le 4 7)

theorem witness_SessionsOpenAndClose :
    Asks keyed (cmd 1 1 (zeros 32)) (fun s c => clean c 0 0 true = true ∧ c.payload.length = 32 ∧ (mbAt s 0).session = none) ∧
    Asks ready (cmd 1 4 (zeros 48)) (fun s c => clean c 0 0 true = true ∧ c.payload.length = 48 ∧ s.fw.ownerKey = none) ∧
    Asks inside (cmd 1 5 rotatePay) (fun s c => clean c 0 0 true = true ∧ c.payload.length = 96 ∧ (mbAt s 0).session = some ⟨7, 1, []⟩ ∧
      s.fw.ownerKey = some (zeros 48) ∧ c.payload.drop 48 = hmac (List.zipWith (· ^^^ ·) (c.payload.take 48)
        (hmac (zeros 48) (ascii "TK9-ROTATE" ++ []))) (ascii "TK9-CONFIRM" ++ le 4 (7 : Word).toNat)) ∧
    (mbAt keyed 0).challenge = some zeroChallenge ∧ (mbAt (mb0 ready fun m => { m with lockEnd := some 5 }) 0).lockEnd = some 5 := by
  unfold Asks Starts; decide +kernel

theorem length_shaRounds (l : List (DWord × DWord)) (v : List DWord) (h : v.length = 8) : (l.foldl shaRound v).length = 8 := by
  induction l generalizing v with
  | nil => exact h
  | cons x l ih => exact ih _ rfl

theorem length_shaBlocks (n : Nat) (h : List DWord) (m : List Byte) (k : h.length = 8) : (shaBlocks n h m).length = 8 := by
  induction n generalizing h m with
  | zero => exact k
  | succ n ih =>
    apply ih
    simp only [shaBlock, List.length_zipWith]
    rw [length_shaRounds _ _ k, k]
    rfl

theorem length_sha384 (m : List Byte) : (sha384 m).length = 48 := by
  have h := length_shaBlocks ((shaPad m).length / 128) shaInit (shaPad m) rfl
  have k : ∀ l : List DWord, (l.flatMap fun x => be 8 x.toNat).length = 8 * l.length := by
    intro l
    induction l with
    | nil => rfl
    | cons x l ih => simp only [List.flatMap_cons, List.length_append, ih, List.length_cons]; simp [be, le]; omega
  simp only [sha384, k, List.length_take, h]
  rfl

/-- A proof over that challenge, whatever the serial number. -/
@[irreducible] def provePay : List Byte := hmac (zeros 48) (ascii "TK9-OPEN" ++ sessionFields 0 zeroChallenge 0 0)

theorem provePay_holds (s : State) (h : ((mbAt s 0).challenge = some zeroChallenge ∧ (mbAt s 0).cplBase = 0 ∧ (mbAt s 0).cplSize = 0) ∧
    s.time = 0 ∧ s.fw.ownerKey = some (zeros 48)) : proofHolds s 0 provePay = true := by
  obtain ⟨⟨h1, h2, h3⟩, h5, h6⟩ := h
  unfold provePay
  generalize hm : hmac (zeros 48) (ascii "TK9-OPEN" ++ sessionFields 0 zeroChallenge 0 0) = m
  simp only [proofHolds, h1, h2, h3, h5, h6, hm, decide_true, Bool.and_true]
  decide

theorem length_hmac (k m : List Byte) : (hmac k m).length = 48 := by simp only [hmac, length_sha384]
theorem length_provePay : provePay.length = 48 := by unfold provePay; simp only [length_hmac]

theorem witness_SessionsOpenAndClose_prove :
    Asks keyed (cmd 1 2 provePay) fun s c => clean c 0 0 true = true ∧ c.payload.length = 48 ∧ (mbAt s 0).session = none ∧
      (mbAt s 0).challenge = some zeroChallenge ∧ s.fw.ownerKey = some (zeros 48) ∧ proofHolds s 0 c.payload = true := by
  refine ⟨starts _ _ (by decide +kernel), ?_, length_provePay, ?_, ?_, ?_, provePay_holds _ ?_⟩ <;> decide +kernel

/-- MB0 after two failed proofs. -/
def twice : State := mb0 keyed fun m => { m with challenge := none, fails := 2 }

theorem witness_ChallengeIsConsumed :
    Asks twice (cmd 1 2 (zeros 48)) fun s c => s.host.mbs.length = 16 ∧ clean c 0 0 true = true ∧ c.payload.length = 48 ∧
      (mbAt s 0).session = none ∧ proofHolds s 0 c.payload = false ∧ 2 ≤ (mbAt s 0).fails := by
  unfold Asks Starts; decide +kernel

/-- An image of both slots verified. -/
def staged : State := setSlot ready 1 ⟨.verified, []⟩

theorem witness_DeviceAndFirmwareCommands :
    Asks ready (cmd 2 1) (fun _ c => clean c 0 0 false = true) ∧ Asks ready (cmd 2 2) (fun _ c => clean c 0 0 false = true) ∧
    Asks ready (cmd 2 3 [] all64) (fun _ c => clean c all64 0 false = true) ∧
    Asks ready (cmd 2 5 [1]) (fun _ c => clean c 0 0 true = true ∧ c.payload.length ≤ 2 ^ 20) ∧
    Asks ready (cmd 3 1) (fun _ c => clean c 0 0 false = true) ∧
    Asks ready (cmd 3 2 [1] 1) (fun s c => clean c 1 0 true = true ∧ c.payload.length ≤ fwSlotBytes ∧ slotRuns s c.arg0.toNat = false) ∧
    Asks ready (cmd 3 3 [] 1) (fun _ c => clean c 1 0 false = true) ∧
    Asks staged (cmd 3 4 [] 1) (fun s c => clean c 1 1 false = true ∧ slotRuns s c.arg0.toNat = false ∧
      (fwSlotAt s c.arg0.toNat).state = .verified ∧ c.arg1 = 0) := by
  unfold Asks Starts; decide +kernel

/-- A module with a window of MB0. -/
def windowed : State := { ready with host := { ready.host with windows := [⟨15, 0, 0x1000, 0x1000⟩] } }

/-- The memory descriptor of a 1 × 1 column vector in HBM, and that value with its seal in memory. -/
def smallDesc : List Byte := le 4 0x01000040 ++ le 4 1 ++ le 4 1 ++ zeros 6 ++ le 6 0x200000000 ++ le 8 0x900000
def sealedTile : State := writeLocal ready 0x200000000 (le 4 (sealOf ⟨0, 0, 0, 1, 1, 1⟩ (zeros 4096)).toNat)

theorem witness_MemoryCommands :
    Asks ready (cmd 4 1 [1] 0x900000) (fun s c => clean c all64 0 true = true ∧ c.payload ≠ [] ∧
      freeRange s c.arg0.toNat c.payload.length = true ∧ s.hbm.failed = [] ∧ s.lpddr.failed = [] ∧ s.hbm.held = []) ∧
    Asks ready (cmd 4 2 [] 0 0x100) (fun s c => clean c all64 all64 false = true ∧ c.arg1.toNat ≠ 0 ∧ c.arg1.toNat ≤ 2 ^ 32 ∧
      readable s c.arg0.toNat c.arg1.toNat = true ∧ s.poison = []) ∧
    Asks ready (cmd 4 3 (zeros 8) 0x47FFFFFFFF 1) (fun s c => clean c all64 all64 true = true ∧ c.payload.length = 8 ∧ c.arg1.toNat ≠ 0 ∧
      freeRange s c.arg0.toNat c.arg1.toNat = true) ∧
    Asks ready (cmd 4 6 [] 0x1000 0xF000000000001000) (fun s c => clean c all64 0xF000FFFFFFFFFFFF false = true ∧ c.arg0.toNat % 4096 = 0 ∧
      bits c.arg1.toNat 47 0 % 4096 = 0 ∧ ∀ x ∈ s.host.windows, x.num ≠ bits c.arg1.toNat 63 60) ∧
    Asks windowed (cmd 4 7 [] 0 0xF000000000000000) (fun s c => clean c 0 0xF000000000000000 false = true ∧
      ∀ x ∈ s.host.windows, x.num = bits c.arg1.toNat 63 60 → x.mb = 0) := by
  unfold Asks Starts; decide +kernel

theorem readTiles_one {s : State} {d : Desc} {u i j : Nat} (h : (badGranule s (d.addr i j) d.own).or (badGranule s (d.sealAddr i j) 4) = none)
    (k : sealOf (d.shape i j) (readLocal s (d.addr i j) d.own) = BitVec.ofNat 32 (unle (readLocal s (d.sealAddr i j) 4))) :
    readTiles s d u [(i, j)] [] = (readLocal s (d.addr i j) d.own, none) := by
  rw [Option.or_eq_none_iff] at h
  simp [readTiles, h.1, h.2, k]

theorem readRun_nil (a n : Nat) : readRun ([] : Mem) a n = zeros n := by
  have : ∀ b, rd ([] : Mem) b = 0 := fun _ => rfl
  simp [readRun, this, zeros]

/-- The seal of an all-zero tile of `n` bytes stands in memory, and the tile's bytes read as zeros. -/
theorem readLocal_sealed (s : State) (n : Nat) (w : Word) (h : s.dram = writeRun [] 0x200000000 (le 4 w.toNat)) (h0 : s.tier.pages = [])
    (hn : n ≠ 0 ∧ n ≤ 0x1000) :
    BitVec.ofNat 32 (unle (readLocal s 0x200000000 4)) = w ∧ readLocal s 0x900000 n = zeros n := by
  have p : ∀ a n, n ≠ 0 → readLocal s a n = readRun s.dram a n := by
    intro a n k
    simp [readLocal, pieces, h0, k]
  rw [p _ _ hn.1, p _ _ (by decide), h]
  constructor
  · have := readRun_writeRun ([] : Mem) 0x200000000 (le 4 w.toNat)
    rw [show (le 4 w.toNat).length = 4 from rfl] at this
    rw [this]
    simp only [le, unle, BitVec.toNat_ofNat]
    apply BitVec.eq_of_toNat_eq
    rw [BitVec.toNat_ofNat]
    have := w.isLt
    omega
  · rw [readRun_writeRun_of_disjoint, readRun_nil]
    left; omega

theorem length_tensorPay (n : Nat) : (smallDesc ++ zeros n).length = 32 + n := by
  simp [smallDesc, zeros, le]; omega

theorem witness_MemoryCommands_writeTensor : let d := parseDesc smallDesc
    Asks ready (cmd 4 4 (smallDesc ++ zeros 4096)) fun s c => clean c 0 0 true = true ∧ parseDesc (c.payload.take 32) = d ∧
      tensorCheck s d = none ∧ c.payload.length = 32 + (tileGrid d).length * d.own := by
  have h : (tileGrid (parseDesc smallDesc)).length * (parseDesc smallDesc).own = 4096 := by decide +kernel
  refine ⟨starts _ _ (by decide +kernel), ?_, ?_, ?_, (length_tensorPay _).trans (congrArg (32 + ·) h.symm)⟩ <;> decide +kernel

theorem witness_MemoryCommands_readTensor : let d := parseDesc smallDesc
    Asks sealedTile (cmd 4 5 smallDesc) fun s c => clean c 0 0 true = true ∧ c.payload.length = 32 ∧ tensorCheck s d = none ∧
      readTiles s d (unitId 8 2 0) (tileGrid d) [] = (zeros 4096, none) := by
  have h : tileGrid (parseDesc smallDesc) = [(0, 0)] ∧ (parseDesc smallDesc).addr 0 0 = 0x900000 ∧ (parseDesc smallDesc).own = 4096 ∧
      (parseDesc smallDesc).sealAddr 0 0 = 0x200000000 ∧ (parseDesc smallDesc).shape 0 0 = ⟨0, 0, 0, 1, 1, 1⟩ := by decide +kernel
  obtain ⟨q, z⟩ := readLocal_sealed (ask sealedTile (cmd 4 5 smallDesc)) 4096 (sealOf ⟨0, 0, 0, 1, 1, 1⟩ (zeros 4096)) rfl rfl (by decide)
  refine ⟨starts _ _ (by decide +kernel), by decide +kernel, by decide +kernel, by decide +kernel, ?_⟩
  rw [h.1, readTiles_one rfl (by rw [h.2.1, h.2.2.1, h.2.2.2.1, h.2.2.2.2, q, z]), h.2.1, h.2.2.1, z]

/-- An ABORT on MB0 of tag `t`, in front of `others`. -/
def aborting (t : DWord) (others : List Cmd) : State := mb0 ready fun m => { m with cmds := cmd 11 1 [] t :: others }

/-- Another command, not started. -/
def other : Cmd := { cmd 4 1 [1] with tag := 6 }

/-- A waiting ABORT of one target, tag 6 of MB0. -/
def waitingAbort : Cmd := { cmd 11 1 with started := true, aux := [0, 1, 0, 6] }

/-- An ABORT of all of MB0's commands. -/
def abortAll : Cmd := cmd 11 1 [] 0 0x100

/-- A LAUNCH that cannot end at once. -/
def launched6 : Cmd := { cmd 5 4 [] with tag := 6, started := true }
def launching (c : Cmd) : State := mb0 (setCore ready 0 fun x => { x with launch := some { launchOf 1 with host := some (0, 6) } })
  fun m => { m with cmds := [c, launched6] }

/-- A VIS_PULL that waits for ring space of context 0. -/
def waitingPull : Cmd := { cmd 8 4 with started := true, aux := [0] }
def waitsForRing : State := { ask ready waitingPull with vis := { ready.vis with ctxs := ready.vis.ctxs.modify 0 fun v => { v with waits := [(0, 5)] } } }

/-- The payload of a TIER_COPY of 4096 bytes from window 15 to the first free page of LPDDR. -/
def copyPay : List Byte := [0, 0, 15] ++ zeros 5 ++ le 8 0 ++ le 8 0x10021000000 ++ le 8 4096

/-- The payload of a VIS_PULL of the whole of window 15. -/
def pullPay : List Byte := [0, 15] ++ zeros 6 ++ le 8 0 ++ le 8 4096

theorem witness_AbortsAndTimeouts :
    (let s := aborting 6 [other];
      s.pwr.standby = false ∧ findCmd s 0 5 = some (cmd 11 1 [] 6) ∧ clean (cmd 11 1 [] 6) all64 0x10F false = true ∧
      (cmd 11 1 [] 6).arg1 = BitVec.ofNat 64 0 ∧ (cmd 11 1).cls = 11 ∧
      findCmd s 0 6 = some other ∧ isAbortOrClose other = false ∧ other.started = false ∧ ending other = false) ∧
    (let s := aborting 7 [];
      findCmd s 0 5 = some (cmd 11 1 [] 7) ∧ clean (cmd 11 1 [] 7) all64 0x10F false = true ∧ findCmd s 0 7 = none) ∧
    (let s := mb0 ready fun m => { m with cmds := [abortAll, other] };
      findCmd s 0 5 = some abortAll ∧ clean abortAll all64 0x10F false = true ∧ bits abortAll.arg1.toNat 3 0 = 0 ∧
      abortAll.arg1.getLsbD 8 = true ∧ abortAll.arg0 = 0 ∧ abortTargets s 0 abortAll = [other] ∧
      ((abortTargets s 0 abortAll).filter fun x => !decided s 0 x).length = 1 ∧
      ((abortTargets s 0 abortAll).map (·.tag)).filter (fun x =>
        (findCmd ((abortTargets s 0 abortAll).foldl (fun s x => endTarget s 0 x) s) 0 x).isSome) = []) ∧
    (let s := launching abortAll;
      abortTargets s 0 abortAll = [launched6] ∧ isAbortOrClose launched6 = false ∧
      ((abortTargets s 0 abortAll).map (·.tag)).filter (fun x =>
        (findCmd ((abortTargets s 0 abortAll).foldl (fun s x => endTarget s 0 x) s) 0 x).isSome) ≠ []) ∧
    (let s := ask ready waitingAbort; let t := endStopped (advance s (copyLimits s 0 [6])) 0 6;
      findCmd s 0 5 = some waitingAbort ∧ waitingAbort.aux = [0, 1, 0] ++ [6] ∧ findCmd t 0 6 = none) ∧
    (let s := launching waitingAbort;
      findCmd s 0 5 = some waitingAbort ∧ (findCmd (endStopped (advance s (copyLimits s 0 [6])) 0 6) 0 6).isSome = true) ∧
    findCmd waitsForRing 0 5 = some waitingPull ∧ (visAt waitsForRing (nth waitingPull.aux 0)).waits.contains (0, 5) = true ∧
    Asks ready (cmd 1 3) (fun s c => clean c 0 0 false = true ∧ (mbAt s 0).cmds = [c]) ∧
    Asks windowed (cmd 8 4 pullPay) (fun s c => c.payload.length = 24 ∧
      windowHolds s (field c.payload 1 1) (field c.payload 8 8) (field c.payload 16 8) = true) ∧
    Asks windowed (cmd 10 0x44 copyPay) (fun s c => clean c 0 0 true = true ∧ copyFormOk c.payload = true ∧ copyNearOk s c.payload = true ∧
      cpHost c.payload = true ∧ cpOut c.payload = false ∧ (s.host.windows.any fun w => w.num = cpWindow c.payload) = true ∧
      windowHolds s (cpWindow c.payload) (cpFar c.payload) (cpLen c.payload) = true ∧ copyRefused s c.payload = none ∧
      s.hbm.failed = [] ∧ s.lpddr.failed = [] ∧ s.hbm.held = []) := by
  unfold Asks Starts; and_intros <;> decide +kernel

/-- MB15 with a ring of 1 MiB, 64 bytes of it passed and not released. -/
def passed : State := setMb ready15 15 fun m => { m with cplProd := 0x40 }

/-- What R475 refuses, clause by clause. -/
def releaseBad (s : State) (v : Word) : List Bool :=
  [bits v.toNat 31 27 ≠ 0, bits v.toNat 5 0 ≠ 0, 2 ^ 20 ≤ ptrOff v,
    ptrDist (2 ^ 20) (mbAt s 15).cplProd (mbAt s 15).cplCons < ptrDist (2 ^ 20) (mbAt s 15).cplProd v]

theorem witness_CompletionReleaseIsChecked : passed.pwr.endpoint = true ∧ serving passed 15 = true ∧ (mbAt passed 15).cplSize = 20 ∧
    (releaseBad passed 0x8000000).head? = some true ∧ (releaseBad passed 0x41)[1]? = some true ∧
    (releaseBad passed 0x100000)[2]? = some true ∧ releaseBad passed 0x80 = [false, false, false, true] ∧
    releaseBad passed 0x40 = [false, false, false, false] ∧ passed.host.mbs.length = 16 := by decide +kernel

/-- MB15 in session; MB15 within a hold-off; an event and an error within the spacing. -/
def session15 : State := setMb ready 15 fun m => { m with session := some ⟨7, 1, []⟩ }
def holding15 : State := setMb ready 15 fun m => { m with irqWait := true }
def spaced : State := { ready with host := { ready.host with evWait := true, errWait := true } }

theorem witness_RegisterWritesComplete : ready.pwr.endpoint = true ∧ serving ready 15 = true ∧
    ((mbAt ready 15).session = none ∧ (mbAt ready 15).cmds = [] ∧ (mbAt ready 15).held = []) ∧
    (bits (0 : Word).toNat 7 0 = 0 ∧ bits (20 : Word).toNat 7 0 = 20 ∧ bits (26 : Word).toNat 7 0 = 26) ∧
    (serving session15 15 = true ∧ (mbAt session15 15).session ≠ none ∧ (mbAt session15 15).cmds = [] ∧ (mbAt session15 15).held = []) ∧
    bits (10000 : Word).toNat 15 0 ≤ 10000 ∧ 10000 < bits (10001 : Word).toNat 15 0 ∧ (mbAt holding15 15).irqWait = true ∧
    (¬ (8 = 4 ∧ 4 % 4 = 0) ∧ ¬ (8 = 8 ∧ 4 % 8 = 0)) ∧ spaced.host.evWait = true ∧ spaced.host.errWait = true := by decide +kernel

/-- The record of that command with no payload. -/
def sampleRec : CplRec := ⟨4, 1, 0, 6, 1, 0, 0, 0, 0, false, false, []⟩

theorem witness_RecordsReachTheRing : ready15.host.mbs.length = 16 ∧ other.flags.getLsbD 0 = false ∧ (mbAt ready15 15).held = [] ∧
    hasRoom (mbAt ready15 15) sampleRec = true ∧ hasRoom (mbAt ready 15) sampleRec = false := by decide +kernel

theorem witness_ResetsComplete : (ready.pwr.powered = true ∧ ready.pwr.pinHeld = false ∧ ready.pwr.endpoint = true ∧ ready.pwr.fault = false ∧
      ready.pwr.stage ≠ .power ∧ ready.pwr.stage ≠ .hold) ∧
    Asks ready (cmd 2 4 [] 1) (fun _ c => clean c all64 0 false = true ∧ c.arg0 = 1) ∧
    Asks ready (cmd 2 4 [] 2) (fun _ c => clean c all64 0 false = true ∧ c.arg0 = 2) ∧
    (powerLoss ready).pwr.powered = false ∧ ((pinLow ready).pwr.powered = true ∧ (pinLow ready).pwr.pinHeld = true) := by
  unfold Asks Starts; decide +kernel

theorem witness_ResetLevelsLoseAndKeep : (∀ m ∈ ready.host.mbs, m.cmds = []) ∧ (∀ c ∈ ready.cores, c.moves = []) ∧
    (∀ e ∈ ready.vis.engines, e = none) ∧ ready.pwr.stage ≠ .hold := by decide +kernel

/-- A module at a boot stage. -/
def booting (st : Stage) : State := { ready with pwr := { ready.pwr with stage := st, mounted := true } }

theorem witness_BootStagesAdvance : ∀ st : Stage, (booting st).pwr.powered = true ∧ (booting st).pwr.pinHeld = false ∧
    (booting st).pwr.fault = false ∧ (booting st).pwr.stage = st ∧ (booting st).pwr.mounted = true := fun _ => ⟨rfl, rfl, rfl, rfl, rfl⟩

/-- Every sensor at 25.0 °C but those of C0, and a module with an optic whose own throttle limit is 60 °C. -/
def tempsC0 (v : Int) : Temps := ⟨[v], [250], [250], List.replicate 24 250, [250], [250], List.replicate 8 610, [250], [250]⟩
def ownOptic : State := { ready with far := { ready.far with ports := ready.far.ports.modify 7 fun p => { p with
  optic := some (some 25, true), own := some ⟨550, 600, 650⟩ } } }

theorem witness_PowerEventsComplete : ready.pwr.powered = true ∧ sustained ready = 3200 ∧ ready.pwr.rails = 9 ∧ ready.pwr.pinHeld = false ∧
    ready.pwr.fault = false ∧ ready.pwr.stage ≠ .power ∧ ready.pwr.trip = false ∧ (farAt ownOptic 7).own = some ⟨550, 600, 650⟩ := by
  and_intros <;> decide +kernel

/-- R442, R496: 105 °C does not throttle C0, more does, until 103 °C; an optic's own limit throttles both dies; 115 °C trips. -/
theorem test_throttle_limits : (readSensors ready (tempsC0 1050)).pwr.therm0 = false ∧ (readSensors ready (tempsC0 1051)).pwr.therm0 = true ∧
    (readSensors (readSensors ready (tempsC0 1051)) (tempsC0 1031)).pwr.therm0 = true ∧
    (readSensors (readSensors ready (tempsC0 1051)) (tempsC0 1030)).pwr.therm0 = false ∧
    (readSensors ready (tempsC0 1051)).pwr.therm1 = false ∧ (readSensors ownOptic (tempsC0 250)).pwr.therm1 = true := by
  and_intros <;> decide +kernel

/-- A fenced core 151, a running job, and standby. -/
def fenced151 : State := setCore ready 151 fun c => { c with enabled := false, cause := some 2 }
def running : State := { ready with job := { ready.job with phase := .running } }
def sleeping : State := { ready with pwr := { ready.pwr with standby := true } }

/-- R453: an in-band interrupt when THROTTLE or TRIP rises, and none while it stays. -/
theorem test_inband_interrupts :
    (thermalThrottle ready (tempsC0 1051)).pwr.ibis = [(0, ready.time + 1000000)] ∧
    (thermalThrottle (thermalThrottle ready (tempsC0 1051)) (tempsC0 1060)).pwr.ibis = [(0, ready.time + 1000000)] ∧
    (raiseTrip (raiseTrip ready)).pwr.ibis = [(1, ready.time)] := by
  and_intros <;> decide +kernel

theorem witness_PowerCommandsComplete :
    Asks ready (cmd 10 1) (fun _ c => clean c 0 0 false = true) ∧
    Asks ready (cmd 10 2 [] 1600 1850) (fun _ c => clean c 0xFFFF 0xFFFF false = true ∧ 1600 ≤ c.arg0.toNat ∧ c.arg0.toNat ≤ 3200 ∧
      800 ≤ c.arg1.toNat ∧ c.arg1.toNat ≤ 1850 ∧ c.arg1.toNat % 25 = 0) ∧
    Asks ready (cmd 10 2 [] 0 0) (fun _ c => clean c 0xFFFF 0xFFFF false = true ∧ c.arg0.toNat = 0 ∧ c.arg1.toNat = 0) ∧
    Asks ready (cmd 10 3 (le 20 (2 ^ 151) ++ [2, 0, 0, 0])) (fun s c => clean c 0 0 true = true ∧ c.payload.length = 24 ∧
      field c.payload 0 20 < 2 ^ 152 ∧ field c.payload 20 1 ≤ 2 ∧ sub c.payload 21 3 = zeros 3 ∧
      ∀ n ∈ (List.range 152).filter (fun n => bit (field c.payload 0 20) n), coreStateRefused s (field c.payload 20 1) n = false) ∧
    Asks ready (cmd 10 4 [] 151 1) (fun s c => clean c 0xFF 1 false = true ∧ c.arg0.toNat < 152 ∧ (coreAt s c.arg0.toNat).cause = none ∧
      emptiesGroup s c.arg0.toNat = false ∧ c.arg1.getLsbD 0 = true) ∧
    Asks ready (cmd 10 4 [] 151) (fun s c => clean c 0xFF 1 false = true ∧ emptiesGroup s c.arg0.toNat = false ∧ stepRuns s = false) ∧
    Asks running (cmd 10 4 [] 151) (fun s c => clean c 0xFF 1 false = true ∧ emptiesGroup s c.arg0.toNat = false ∧
      c.arg1.getLsbD 0 = false ∧ stepRuns s = true ∧ (coreAt s c.arg0.toNat).cause = none) ∧
    Asks fenced151 (cmd 10 5 [] 151) (fun s c => clean c 0xFF 0 false = true ∧ c.arg0.toNat < 152 ∧ (coreAt s c.arg0.toNat).cause = some 2) ∧
    Asks ready (cmd 10 5 [] 152) (fun _ c => clean c 0xFF 0 false = true ∧ 152 ≤ c.arg0.toNat) ∧
    Asks ready (cmd 10 5 [] 151) (fun s c => clean c 0xFF 0 false = true ∧ c.arg0.toNat < 152 ∧ (coreAt s c.arg0.toNat).cause = none) ∧
    Asks ready (cmd 10 7) (fun _ c => clean c 0 0 true = true ∧ c.payload = []) ∧
    Asks ready (cmd 10 7 (zeros 48)) (fun _ c => clean c 0 0 true = true ∧ c.payload.length = 48 ∧ moInRange c.payload = true ∧
      moClean c.payload = true) ∧
    Asks ready (cmd 10 8 [] 10 3600000) (fun _ c => clean c 0xFFFFFFFF 0xFFFFFFFF false = true ∧ 10 ≤ c.arg0.toNat ∧
      c.arg0.toNat ≤ 1000000 ∧ 1 ≤ c.arg1.toNat ∧ c.arg1.toNat ≤ 3600000) ∧
    Asks ready (cmd 10 9 [] 1) (fun s c => clean c 1 0 false = true ∧ c.arg0 = 1 ∧ s.pwr.standby = false ∧ standbyOk s = true) := by
  unfold Asks Starts; and_intros <;> decide +kernel

/-- STANDBY 0 is what standby lets start. -/
theorem witness_PowerCommandsComplete_leave : let c := cmd 10 9 [] 0; let s := ask sleeping c
    Starts s 0 5 10 9 c ∧ clean c 1 0 false = true ∧ c.arg0 = 0 ∧ s.pwr.standby = true := by unfold Starts; decide +kernel

/-- Core 151 changed. -/
def core151 (f : Core → Core) : State := setCore ready 151 f

/-- Core 151 fenced with a launch of program 0 that has consumed nothing. -/
def orphan : State := { core151 fun c => { c with enabled := false, cause := some 1, launch := some (launchOf 1) } with
  programs := [⟨0, 0, [], []⟩] }

theorem witness_CoresChangeStateAndAreFenced :
    (ready.pwr.stage = .ready ∧ ready.pwr.standby = false ∧ (coreAt ready 151).enabled = true ∧ (coreAt ready 151).power ≠ .lit) ∧
    (let c := coreAt (core151 fun c => { c with power := .lit, clockOn := true }) 151;
      c.power = .lit ∧ c.clockOn = true ∧ c.launch = none ∧ c.moves = [] ∧ c.hold = false ∧ c.enabled = true) ∧
    (let s := core151 fun c => { c with power := .dimmed };
      (coreAt s 151).power = .dimmed ∧ inJob s 151 = false) ∧
    stuck (coreAt (core151 fun c => { c with launch := some (launchOf 1) }) 151) = true ∧
    ((coreAt ready 151).cause = none ∧ stepRuns ready = false ∧ stepRuns running = true ∧ (coreAt running 151).cause = none) ∧
    (let c := coreAt orphan 151;
      c.launch = some (launchOf 1) ∧ c.cause.isSome = true ∧ c.stop = none ∧ c.ending = none ∧
      ((enabledCores orphan).filter fun k => dieOf k = dieOf 151).find? (fun k => (coreAt orphan k).launch.isNone) = some 76 ∧
      (findProg orphan 0).isSome = true) ∧
    (let s := { orphan with cores := orphan.cores.map fun c => { c with launch := some (launchOf 1) } };
      ((enabledCores s).filter fun k => dieOf k = dieOf 151).find? (fun k => (coreAt s k).launch.isNone) = none) ∧ ready.cores.length = 152 := by decide +kernel

/-! ### Witnesses: tile instructions (03 to 09) -/

/-- A move in flight. -/
def someMove (k : MoveKind) : Move :=
  { id := 0, kind := k, order := 0, index := 0, word := 0, rclass := 0, sem := 0x3FF, seq := 0, deadline := none, shape := none, src := 0, srcSeal := 0,
    dst := 0, dstSeal := 0, slots := [], carried := 0, bytes := [], list := [], reg := 0, stack := 0, ftag := 0, remote := false, status := none,
    since := 0, writing := false }

/-- DLD from the last place a register tile can have. -/
def dldCtx : Ctx := at0 (word 0x05 [(39, 6136)]) id [(tileSlot 0 6136, headRec regShape 0)]

theorem witness_ScalarAndBranchInstructionsComplete :
    Issues 0x01 (at0 (word 0x01 [])) ∧ Issues 0x04 (at0 (word 0x04 [(52, 15), (0, 0xFFFFFF)])) ∧
    (∀ h < 2, Issues 0x06 (at0 (word 0x06 [(52, 15), (51, h), (0, 0xFFFFFFFF)])) ∧ (at0 (word 0x06 [(52, 15), (51, h), (0, 0xFFFFFFFF)])).f 51 51 = h) ∧
    (∀ sub < 13, ∀ imm < 2, Issues 0x07 (at0 (word 0x07 [(52, 15), (40, sub), (39, imm)])) ∧
      (at0 (word 0x07 [(52, 15), (40, sub), (39, imm)])).f 43 40 = sub) ∧
    (Issues 0x05 dldCtx ∧ dldCtx.slot (dldCtx.f 51 39) (dldCtx.f 38 35) = 6136 ∧ dldCtx.Free 6136 8 ∧ dldCtx.Holds 6136 regShape) ∧
    (∀ c < 7, Issues 0x08 (at0 (word 0x08 [(45, c)])) ∧ (at0 (word 0x08 [(45, c)])).f 47 45 = c) ∧
    Issues 0x09 (at0 (word 0x09 [(52, 1)])) ∧ (Issues 0x0A (at0 (word 0x0A [(48, 7)])) ∧ fswBusy (at0 (word 0x0A [(48, 7)])).c = false) := by
  simp only [dldCtx, issues_iff, Ctx.Free, Ctx.Holds]; decide +kernel

theorem witness_StatusWordsReadAndWritten :
    (∀ sel < 11, Issues 0x0B (at0 (word 0x0B [(52, 1), (48, sel)])) ∧ (at0 (word 0x0B [(52, 1), (48, sel)])).f 51 48 = sel ∧
      fswBusy (at0 (word 0x0B [(52, 1), (48, sel)])).c = false) ∧
    (∀ sel ∈ [0, 2, 9], Issues 0x0C (at0 (word 0x0C [(52, 1), (48, sel)])) ∧ (at0 (word 0x0C [(52, 1), (48, sel)])).f 51 48 = sel) := by
  simp only [issues_iff]; decide +kernel

/-- END of a launch that the LAUNCH with tag 5 on MB0 started. -/
def endCtx : Ctx := at0 (word 0x02 [(48, 127)]) (fun c => { c with launch := some { launchOf 1 with host := some (0, 5) } }) [] (ask ready (cmd 5 4))

/-- A stop of kind 0. -/
def someStop : Stop := ⟨0, fRange, 0, 0, 0, none, 0⟩

/-- A halt. -/
def haltStop : Stop := ⟨3, 0, 0, 0, 0, none, 0⟩

theorem witness_LaunchEndsAndTraps :
    (Issues 0x02 endCtx ∧ endCtx.c.moves = [] ∧ endCtx.l.host = some (0, 5) ∧ findCmd endCtx.s 0 5 = some (cmd 5 4) ∧
      endCtx.c.nf0.getLsbD 63 = false ∧ endCtx.f 55 48 < 128) ∧
    (Issues 0x02 (at0 (word 0x02 [])) ∧ (at0 (word 0x02 [])).c.moves = [] ∧ (at0 (word 0x02 [])).l.host = none ∧
      (at0 (word 0x02 [])).c.nf0.getLsbD 63 = false ∧ (at0 (word 0x02 [])).f 55 48 < 128) ∧
    (∀ op ∈ [0x02, 0x03, 0x0D], Issues op (at0 (word op [])) ∧ (at0 (word op [])).c.moves = []) ∧
    (∀ op ∈ [0x02, 0x03, 0x0D], Issues op (at0 (word op []) fun c => { c with moves := [someMove .fetch] }) ∧
      (at0 (word op []) fun c => { c with moves := [someMove .fetch] }).c.moves ≠ []) ∧
    (let c := coreAt (setCore ready 151 fun c => { c with stop := some someStop, launch := some (launchOf 1) }) 151;
      c.stop = some someStop ∧ c.launch = some (launchOf 1) ∧ someStop.kind ≠ 3 ∧ c.moves = []) ∧
    (let c := coreAt (setCore ready 151 fun c => { c with stop := some haltStop, launch := some (launchOf 1), moves := [someMove .fetch] }) 151;
      c.stop = some haltStop ∧ c.launch = some (launchOf 1) ∧ haltStop.kind = 3 ∧ c.moves ≠ []) ∧
    (someStop.report = none ∧ (coreAt (ask ready (cmd 5 4)) 0).nf0.getLsbD 63 = false ∧ ending (cmd 5 4) = false) := by
  simp only [endCtx, issues_iff]; decide +kernel

/-- A packed result of no format. -/
def noFormat (op : Nat) : Nat := word op [(51, 31), (27, 4), (23, 12)]

/-- The types that a result may name, FP32 and packed among them. -/
def resultWord (op ty : Nat) : Nat := word op [(51, 31), (46, 1), (41, 2), (36, 3), (27, ty), (23, 11)]

theorem witness_FloatVectorResults :
    (∀ op ∈ [0x30, 0x31, 0x32, 0x33, 0x34, 0x35, 0x36, 0x37, 0x38, 0x39, 0x3A, 0x3B, 0x3C], ∀ ty ∈ [0, 1, 4],
      Issues op (at0 (resultWord op ty)) ∧ ((at0 (resultWord op ty)).f 29 27 = 4 → fmtOk ((at0 (resultWord op ty)).f 26 23) = true)) ∧
    (∀ c < 7, Issues 0x3D (at0 (word 0x3D [(16, c)])) ∧ (at0 (word 0x3D [(16, c)])).f 29 27 = 0 ∧ (at0 (word 0x3D [(16, c)])).f 22 16 = c) ∧
    (∀ op ∈ [0x30, 0x31, 0x32, 0x33, 0x34, 0x35, 0x36, 0x37, 0x38, 0x39, 0x3A, 0x3B, 0x3C],
      Issues op (at0 (noFormat op)) ∧ (at0 (noFormat op)).f 29 27 = 4 ∧ fmtOk ((at0 (noFormat op)).f 26 23) = false) := by
  simp only [issues_iff]; decide +kernel

theorem witness_IntegerVectorResults :
    (∀ op ∈ [0x3E, 0x40, 0x41, 0x42, 0x43, 0x44, 0x45, 0x46, 0x47, 0x48, 0x49, 0x4A, 0x4B], ∀ ty ∈ [0, 1, 4],
      Issues op (at0 (resultWord op ty)) ∧ ((at0 (resultWord op ty)).f 29 27 = 4 → fmtOk ((at0 (resultWord op ty)).f 26 23) = true)) ∧
    (∀ c < 7, Issues 0x3D (at0 (word 0x3D [(27, 1), (16, c)])) ∧ (at0 (word 0x3D [(27, 1), (16, c)])).f 29 27 ≠ 0 ∧
      (at0 (word 0x3D [(27, 1), (16, c)])).f 22 16 = c) ∧
    (∀ op ∈ [0x3E, 0x40, 0x41, 0x42, 0x43, 0x44, 0x45, 0x46, 0x47, 0x48, 0x49, 0x4A, 0x4B],
      Issues op (at0 (noFormat op)) ∧ (at0 (noFormat op)).f 29 27 = 4 ∧ fmtOk ((at0 (noFormat op)).f 26 23) = false) := by
  simp only [issues_iff]; decide +kernel

theorem witness_LayoutVectorResults :
    (∀ m < 3, Issues 0x50 (at0 (word 0x50 [(16, m), (0, 1023)])) ∧ (at0 (word 0x50 [(16, m), (0, 1023)])).f 17 16 = m) ∧
    (∀ op ∈ [0x51, 0x52, 0x53, 0x54], Issues op (at0 (resultWord op 0))) ∧
    (Issues 0x6C (at0 (word 0x6C [])) ∧ (at0 (word 0x6C [])).f 45 42 = 0 ∧ (at0 (word 0x6C [])).f 41 38 = 0) ∧
    (∀ op ∈ [0x50, 0x51, 0x52, 0x53, 0x54],
      Issues op (at0 (noFormat op)) ∧ (at0 (noFormat op)).f 29 27 = 4 ∧ fmtOk ((at0 (noFormat op)).f 26 23) = false) ∧
    (Issues 0x6C (at0 (word 0x6C [(42, 11), (38, 11)])) ∧ fmtOk ((at0 (word 0x6C [(42, 11), (38, 11)])).f 45 42) = true ∧
      fmtOk ((at0 (word 0x6C [(42, 11), (38, 11)])).f 41 38) = true ∧ (at0 (word 0x6C [(42, 11), (38, 11)])).f 41 38 ≠ 0) ∧
    (Issues 0x6C (at0 (word 0x6C [(42, 12)])) ∧ fmtOk ((at0 (word 0x6C [(42, 12)])).f 45 42) = false) ∧
    (Issues 0x6C (at0 (word 0x6C [(38, 12)])) ∧ fmtOk ((at0 (word 0x6C [(38, 12)])).f 41 38) = false) := by
  simp only [issues_iff]; decide +kernel

/-- Reduction tile 7 open in mode `m`. -/
def openRed (m : RedMode) (c : Core) : Core := { c with u := c.u.set 7 (some ⟨m, []⟩) }

theorem witness_ReductionResults :
    (∀ m < 4, Issues 0x60 (at0 (word 0x60 [(53, 7), (39, m)])) ∧ (redMode ((at0 (word 0x60 [(53, 7), (39, m)])).f 41 39) 0).isSome = true) ∧
    (∀ k ∈ [1, 16], Issues 0x60 (at0 (word 0x60 [(39, 4), (34, k)])) ∧
      redMode ((at0 (word 0x60 [(39, 4), (34, k)])).f 41 39) ((at0 (word 0x60 [(39, 4), (34, k)])).f 38 34) = some (.topk k)) ∧
    (∀ k ∈ [0, 17], Issues 0x60 (at0 (word 0x60 [(39, 4), (34, k)])) ∧
      redMode ((at0 (word 0x60 [(39, 4), (34, k)])).f 41 39) ((at0 (word 0x60 [(39, 4), (34, k)])).f 38 34) = none) ∧
    (∀ op ∈ [0x61, 0x62, 0x63], ∀ m ∈ [RedMode.sumF, .sumI, .maxF, .minF], Issues op (at0 (word op [(53, 7)]) (openRed m)) ∧
      (at0 (word op [(53, 7)]) (openRed m)).u = some ⟨m, []⟩ ∧ (redMerge m).isSome = true) ∧
    (Issues 0x64 (at0 (word 0x64 [(53, 7)]) (openRed (.topk 16))) ∧ (at0 (word 0x64 [(53, 7)]) (openRed (.topk 16))).u = some ⟨.topk 16, []⟩) ∧
    (Issues 0x65 (at0 (word 0x65 [(53, 7)]) (openRed .hist)) ∧ (at0 (word 0x65 [(53, 7)]) (openRed .hist)).u = some ⟨.hist, []⟩) ∧
    (∀ m ∈ [RedMode.sumF, .sumI, .topk 1, .hist], Issues 0x66 (at0 (word 0x66 [(53, 7)]) (openRed m)) ∧
      (at0 (word 0x66 [(53, 7)]) (openRed m)).u = some ⟨m, []⟩) ∧
    Issues 0x68 (at0 (word 0x68 [(51, 31)])) ∧
    (∀ op ∈ [0x61, 0x62, 0x63, 0x64, 0x65, 0x66], Issues op (at0 (word op [(53, 7)])) ∧ (at0 (word op [(53, 7)])).u = none) := by
  simp only [issues_iff]; decide +kernel

/-- A 1 × 1 FP32 matrix tile; shape register 0 holding that shape; an open accumulator 3. -/
def one : Shape := f32Shape 1 1
def shaped (c : Core) : Core := { c with sh := c.sh.set 0 (BitVec.ofNat 24 (shapeBits one)) }
def accumulating (c : Core) : Core := { shaped c with acc := [none, none, none, some ⟨1, 1, []⟩] }

/-- The slot records of such a tile at slot 0 and at slot 6016, the last place for one. -/
def twoTiles : Recs := [(tileSlot 0 0, headRec one 0), (tileSlot 0 6016, headRec one 0)]

/-- MMUL of the two tiles: over zero, and over the open accumulator. -/
def mmulZero : Ctx := at0 (word 0x10 [(54, 1), (52, 3), (18, 6016)]) shaped twoTiles
def mmulAdd : Ctx := at0 (word 0x10 [(52, 3), (18, 6016)]) accumulating twoTiles
def mloadCtx : Ctx := at0 (word 0x11 [(52, 3), (31, 6016)]) shaped twoTiles
def mstoreCtx : Ctx := at0 (word 0x12 [(52, 3), (31, 6016)]) accumulating
def mstoreNone : Ctx := at0 (word 0x12 [(52, 3), (31, 6016)]) shaped
def xposeCtx : Ctx := at0 (word 0x13 [(18, 6016)]) shaped twoTiles

theorem witness_MatrixResults :
    (shapeOk one = true ∧ matrixForm false one = true ∧ matrixForm true one = true) ∧
    (Issues 0x10 mmulZero ∧ mmulZero.shape 0 = one ∧ mmulZero.f 54 54 = 1 ∧ mmulZero.Free 0 128 ∧ mmulZero.Free 6016 128 ∧
      mmulZero.HoldsExactly 0 one ∧ mmulZero.HoldsExactly 6016 one ∧ mmulZero.slot (mmulZero.f 30 18) (mmulZero.f 13 10) = 6016) ∧
    (Issues 0x10 mmulAdd ∧ mmulAdd.shape 0 = one ∧ mmulAdd.f 54 54 = 0 ∧ mmulAdd.Free 0 128 ∧ mmulAdd.Free 6016 128 ∧
      mmulAdd.HoldsExactly 0 one ∧ mmulAdd.HoldsExactly 6016 one ∧ mmulAdd.acc (mmulAdd.f 53 52) = some ⟨1, 1, []⟩) ∧
    (Issues 0x11 mloadCtx ∧ mloadCtx.shape 0 = one ∧ mloadCtx.slot (mloadCtx.f 43 31) (mloadCtx.f 17 14) = 6016 ∧ mloadCtx.Free 6016 128 ∧
      mloadCtx.HoldsExactly 6016 one) ∧
    (Issues 0x12 mstoreCtx ∧ mstoreCtx.slot (mstoreCtx.f 43 31) (mstoreCtx.f 17 14) = 6016 ∧ mstoreCtx.Free 6016 128 ∧
      mstoreCtx.acc (mstoreCtx.f 53 52) = some ⟨1, 1, []⟩) ∧
    (Issues 0x13 xposeCtx ∧ xposeCtx.shape 0 = one ∧ overlap 0 128 6016 128 = false ∧ xposeCtx.Free 0 128 ∧ xposeCtx.Free 6016 128 ∧
      xposeCtx.HoldsExactly 0 one) ∧
    (Issues 0x12 mstoreNone ∧ mstoreNone.Free 6016 128 ∧ mstoreNone.acc (mstoreNone.f 53 52) = none) := by
  simp only [mmulZero, mmulAdd, mloadCtx, mstoreCtx, mstoreNone, xposeCtx, issues_iff, Ctx.Free, Ctx.HoldsExactly]; decide +kernel

/-- A block of dim, rank 1 without side columns; flags 8 is the absorbed mode. -/
def blockOf (flags : Nat) : AttnBlock := ⟨1, flags, 0, 8, 8, 0x3F800000, 0x3F800000, 1, 1, 0⟩

/-- The tiles of the attention witnesses: A and its statistics, two register tiles, an O run with statistics, two matrix tiles, the
statistics of ABBLK and the runs behind them. -/
def ground : Recs :=
  [(tileSlot 0 0, headRec one 0), (tileSlot 0 128, headRec regShape 0), (tileSlot 0 1000, headRec regShape 0),
    (tileSlot 0 2000, headRec regShape 0), (tileSlot 0 3000, headRec one 0), (tileSlot 0 3128, headRec regShape 0),
    (tileSlot 0 4000, headRec one 0), (tileSlot 0 5000, headRec one 0), (tileSlot 0 5200, headRec regShape 0),
    (tileSlot 0 5208, headRec one 0), (tileSlot 0 5336, headRec one 0), (tileSlot 0 5464, headRec one 0), (tileSlot 0 5592, headRec one 0)]

/-- X1 to X7 name those tiles; a block, the expansion buffer and both fold buffers are in force. -/
def attending (flags : Nat) (c : Core) : Core :=
  { shaped c with
    x := [0, 0, 1000, 2000, 3000, 4000, 5000, 5200, 0, 0, 0, 0, 0, 0, 0, 0],
    attn := { block := some (blockOf flags), acfgs := 1, expand := some ([[.fin false 0 0]], [[.fin false 0 0]]),
              foldQ := some (1, [[.fin false 0 0]]), foldG := some (1, [[.fin false 0 0]]) } }

/-- An attention instruction with its four registers XA, XB, XC, XD. -/
def attn (op flags : Nat) (a b c d : Nat) (more : List (Nat × Nat) := []) : Ctx :=
  at0 (word op ([(52, a), (48, b), (44, c), (40, d)] ++ more)) (attending flags) ground

/-- A module with a control block of dim 1 in the tile at slot 2000 of core 0's tile store. -/
def controlBytes : List Byte :=
  le 4 0 ++ le 4 0 ++ le 4 8 ++ le 4 8 ++ le 4 0x3F800000 ++ le 4 0x3F800000 ++ le 2 1 ++ le 2 1 ++ le 2 0
def controlled : State := { ready with ctl := writeRun [] (512 * tileSlot 0 2000) controlBytes }
def acfgCtx : Ctx := at0 (word 0x20 [(52, 3)]) (attending 0) ground controlled

set_option maxRecDepth 100000 in
theorem witness_AttentionBufferResults_acfg : Issues 0x20 acfgCtx ∧ (acfgCtx.x (acfgCtx.f 55 52)).toNat % 8192 = 2000 ∧ acfgCtx.Free 2000 8 ∧
    acfgCtx.Holds 2000 regShape ∧ (parseBlock (acfgCtx.c.attn.acfgs + 1) (getSlots acfgCtx.s (tileSlot 0 2000) 8)).isSome = true := by
  simp only [acfgCtx, issues_iff, Ctx.Free, Ctx.Holds]; decide +kernel

theorem witness_AttentionBufferResults :
    (∀ i ∈ [attn 0x24 0 1 4 0 0, attn 0x25 0 1 5 2 4], i.shape (i.f 39 36) = one ∧ i.shape (i.f 35 32) = one ∧ shapeOk one = true ∧
      i.c.attn.block = some (blockOf 0) ∧ storedForm one true false = true) ∧
    (let i := attn 0x24 0 1 4 0 0; Issues 0x24 i ∧ i.RunHolds i.xa (f32Shape 1 0) 1 ∧ i.Free 128 8 ∧ i.HoldsExactly 128 regShape ∧
      i.Free i.xb (128 * tilesOf 1 + 8)) ∧
    (let i := attn 0x25 0 1 5 2 4; Issues 0x25 i ∧ i.RunHolds i.xa one 1 ∧ i.RunHolds i.xb one 1 ∧ i.Free i.xc 8 ∧ i.HoldsExactly i.xc regShape ∧
      i.Free i.xd 8) ∧
    (let i := attn 0x21 0 1 5 6 0; Issues 0x21 i ∧ (blockOf 0).absorbed = false ∧ i.RunHolds i.xa one 1 ∧ i.GridHolds i.xb one 1 1 ∧
      i.GridHolds i.xc one 1 1) ∧
    (∀ g < 2, let i := attn 0x22 8 1 5 0 0 [(24, g)]; Issues 0x22 i ∧ i.f 24 24 = g ∧ (blockOf 8).absorbed = true ∧ i.RunHolds i.xa one 1 ∧
      i.GridHolds i.xb one 1 1) := by
  simp only [attn, issues_iff, Ctx.GridHolds, Ctx.RunHolds, Ctx.Free, Ctx.HoldsExactly]; refine ⟨?_, ?_, ?_, ?_, ?_⟩ <;> decide +kernel

/-- The operands of a block pair are in order in both modes. -/
theorem witness_AttentionBlockResults_pair : ∀ i ∈ [attn 0x23 0 1 2 3 4 [(27, 1)], attn 0x23 0 1 2 3 4, attn 0x26 0 1 2 3 7],
    ∃ pr, i.PairReady (blockOf 0) one one pr := by
  intro i hi
  have h : ∀ i ∈ [attn 0x23 0 1 2 3 4 [(27, 1)], attn 0x23 0 1 2 3 4, attn 0x26 0 1 2 3 7],
      i.c.attn.expand = some ([[.fin false 0 0]], [[.fin false 0 0]]) ∧ i.RunHolds i.xa one (blockOf 0).score := by
    simp only [Ctx.RunHolds, Ctx.Free, Ctx.HoldsExactly]; decide +kernel
  exact ⟨_, .inr ⟨rfl, _, _, (h i hi).1, rfl, rfl, by decide, rfl, by decide, (h i hi).2, rfl⟩⟩

theorem witness_AttentionBlockResults_absorbed : ∀ i ∈ [attn 0x23 8 1 2 3 4 [(27, 1)], attn 0x23 8 1 2 3 4, attn 0x26 8 1 2 3 7],
    ∃ pr, i.PairReady (blockOf 8) one one pr := by
  intro i hi
  have h : ∀ i ∈ [attn 0x23 8 1 2 3 4 [(27, 1)], attn 0x23 8 1 2 3 4, attn 0x26 8 1 2 3 7],
      i.c.attn.foldQ = some ((blockOf 8).serial, [[.fin false 0 0]]) ∧ i.RunHolds i.xa one (blockOf 8).rank := by
    simp only [Ctx.RunHolds, Ctx.Free, Ctx.HoldsExactly]; decide +kernel
  exact ⟨_, .inl ⟨rfl, _, (h i hi).1, rfl, rfl, rfl, rfl, rfl, (h i hi).2, fun h => absurd rfl h, rfl⟩⟩

theorem witness_AttentionBlockResults :
    (∀ fl ∈ [0, 8], ∀ first < 2, let i := attn 0x23 fl 1 2 3 4 [(27, first)]; Issues 0x23 i ∧ i.shape (i.f 39 36) = one ∧ i.shape (i.f 35 32) = one ∧
      i.f 27 27 = first ∧ i.c.attn.block = some (blockOf fl) ∧ i.Free i.xb 8 ∧ i.HoldsExactly i.xb regShape ∧ i.Free i.xc 8 ∧
      i.HoldsExactly i.xc regShape ∧ i.Free i.xd (128 * tilesOf 1 + 8) ∧ i.RunHolds i.xd (f32Shape 1 0) 1 ∧ i.Free (i.xd + 128) 8 ∧
      i.HoldsExactly (i.xd + 128) regShape) ∧
    (∀ fl ∈ [0, 8], let i := attn 0x26 fl 1 2 3 7; Issues 0x26 i ∧ i.shape (i.f 31 28) = one ∧ i.c.attn.block = some (blockOf fl) ∧
      i.Free i.xd 8 ∧ i.HoldsExactly i.xd regShape ∧ i.RunHolds 5208 one 1 ∧ i.RunHolds 5336 one 1 ∧ i.RunHolds 5464 one 1 ∧
      i.RunHolds 5592 one 1) := by
  simp only [attn, issues_iff, Ctx.RunHolds, Ctx.Free, Ctx.HoldsExactly]; constructor <;> decide +kernel

theorem witness_AttentionBlockResults_gradient :
    (let i := attn 0x26 0 1 2 3 7; ∃ dout dq gr, i.GradientReady (blockOf 0) 1 dout dq gr ∧ dq = 5336) ∧
    (let i := attn 0x26 8 1 2 3 7; ∃ dout dq gr, i.GradientReady (blockOf 8) 1 dout dq gr ∧ dq = 5208) := by
  have h : (attn 0x26 0 1 2 3 7).shape ((attn 0x26 0 1 2 3 7).f 31 28) = one ∧
      (attn 0x26 0 1 2 3 7).RunHolds ((attn 0x26 0 1 2 3 7).xd + 8) one (blockOf 0).dim ∧
      (attn 0x26 0 1 2 3 7).xd + 8 + tileSlots one.fmt 0 * tilesOf (blockOf 0).dim = 5336 := by
    simp only [Ctx.RunHolds, Ctx.Free, Ctx.HoldsExactly]; decide +kernel
  have k : (attn 0x26 8 1 2 3 7).c.attn.foldG = some ((blockOf 8).serial, [[.fin false 0 0]]) ∧ (attn 0x26 8 1 2 3 7).xd + 8 = 5208 := by
    decide +kernel
  exact ⟨⟨_, _, _, .inr ⟨rfl, one, h.1.symm, by decide, by decide, rfl, h.2.1, rfl, rfl, rfl⟩, h.2.2⟩,
    ⟨_, _, _, .inl ⟨rfl, _, k.1, rfl, rfl, rfl, rfl⟩, k.2⟩⟩

/-- Register 2 masks all elements but the first, whose offset is the last word of the tile store (elements past a list's end are 0). -/
def firstOnly (c : Core) : Core := { c with t := (c.t.set 1 [0x2FFFFC]).set 2 [1] }

/-- A register access to the last place of a register tile; a gather or scatter of the first element. -/
def access (op : Nat) : Ctx := at0 (word op [(10, 6136)]) id [(tileSlot 0 6136, headRec regShape 0)]
def packed (op : Nat) : Ctx := at0 (word op [(10, 6016)]) shaped [(tileSlot 0 6016, headRec one 0)]
def gather (op fl : Nat) : Ctx := at0 (word op [(51, 3), (46, 1), (41, 4), (35, 1), (36, 2), (3, fl)]) firstOnly
def tileOp (op : Nat) : Ctx := at0 (word op [(39, 6016)]) shaped [(tileSlot 0 6016, headRec one 0)]

/-- The offset of the first element is not of a word. -/
def oddOffset (c : Core) : Core := { c with t := (c.t.set 1 [0x2FFFFD]).set 2 [1] }
def gatherOdd (op : Nat) : Ctx := at0 (word op [(51, 3), (46, 1), (41, 4), (35, 1), (36, 2)]) oddOffset

/-- VLDP and VSTP of a vector tile; SCHK of a tile whose record has seal `w`. -/
def notPacked (op : Nat) : Ctx := at0 (word op [(10, 6016)]) fun c => { c with sh := c.sh.set 0 (BitVec.ofNat 24 (shapeBits regShape)) }
def schkCtx (w : Word) : Ctx := at0 (word 0x81 [(39, 6016)]) shaped [(tileSlot 0 6016, headRec one w)]

set_option maxRecDepth 100000 in
theorem witness_TileAccessResults_faults :
    (∀ op ∈ [0x7A, 0x7B], Issues op (notPacked op) ∧ shapeOk ((notPacked op).shape ((notPacked op).f 34 31)) = true ∧
      packedForm ((notPacked op).shape ((notPacked op).f 34 31)) = false) ∧
    (∀ op ∈ [0x7C, 0x7D, 0x7E], Issues op (gatherOdd op) ∧
      ((gatherOdd op).actives.map (gatherOdd op).index).find? (fun o => o % 4 ≠ 0 || o > 0x2FFFFC) = some 0x2FFFFD) := by
  simp only [notPacked, gatherOdd, issues_iff]; and_intros <;> decide +kernel

/-- A head record carries its shape and its seal. -/
theorem headRec_holds {sh : Shape} {w : Word} (hb : shapeBits sh < 2 ^ 24) (hs : shapeOf (shapeBits sh) = sh) :
    recSeal (headRec sh w) = w ∧ recCheck (headRec sh w) sh true = none := by
  have hw := w.isLt
  have h : (headRec sh w).toNat = 2 ^ 62 + 2 ^ 32 * shapeBits sh + w.toNat := by
    rw [headRec, BitVec.toNat_ofNat, Nat.mod_eq_of_lt]; omega
  have a : recState (headRec sh w) = 1 := by simp only [recState, bits, h]; omega
  have k : bits (headRec sh w).toNat 55 32 = shapeBits sh := by simp only [bits, h]; omega
  refine ⟨?_, by simp [recCheck, a, recShape, k, hs]⟩
  apply BitVec.eq_of_toNat_eq
  simp only [recSeal, BitVec.toNat_setWidth, h]
  omega

theorem witness_TileAccessResults_schk : ∀ w ∈ [0, sealOf one (getSlots ready (tileSlot 0 6016) 128),
      ~~~ sealOf one (getSlots ready (tileSlot 0 6016) 128)],
    let i := schkCtx w; i.HoldsExactly 6016 one ∧ recSeal (rd i.s.recs (tileSlot 0 6016)) = w ∧
      sealOf one (getSlots i.s (tileSlot 0 6016) 128) = sealOf one (getSlots ready (tileSlot 0 6016) 128) := by
  intro w _
  have r : rd (schkCtx w).s.recs (tileSlot 0 6016) = headRec one w := by
    show rd [(tileSlot 0 6016, headRec one w)] (tileSlot 0 6016) = _
    simp [rd]
  exact ⟨by show recCheck (rd (schkCtx w).s.recs (tileSlot 0 6016)) one true = none; rw [r]; exact (headRec_holds (by decide) (by decide)).2,
    by show recSeal (rd (schkCtx w).s.recs (tileSlot 0 6016)) = w; rw [r]; exact (headRec_holds (by decide) (by decide)).1, rfl⟩

theorem witness_TileAccessResults_schk_issues : Issues 0x81 (schkCtx 0) ∧ (schkCtx 0).Free 6016 128 := by
  simp only [schkCtx, issues_iff, Ctx.Free]; decide +kernel

theorem witness_TileAccessResults :
    (∀ op ∈ [0x78, 0x79], Issues op (access op) ∧ (access op).slot ((access op).f 22 10) ((access op).f 26 23) = 6136 ∧
      (access op).Free 6136 8 ∧ (access op).Holds 6136 regShape) ∧
    (∀ op ∈ [0x7A, 0x7B], Issues op (packed op) ∧ (packed op).shape ((packed op).f 34 31) = one ∧ packedForm one = true ∧
      (packed op).Free 6016 128 ∧ (packed op).Holds 6016 one) ∧
    (∀ op ∈ [0x7C, 0x7D, 0x7E], ∀ fl < 2, Issues op (gather op fl) ∧ (gather op fl).f 3 3 = fl ∧ (gather op fl).actives = [0] ∧
      (gather op fl).index 0 = 0x2FFFFC ∧ slotsHeld (gather op fl).c (0x2FFFFC / 512) 1 = false) ∧
    (∀ op ∈ [0x80, 0x82, 0x83], Issues op (tileOp op) ∧ (tileOp op).slot ((tileOp op).f 51 39) ((tileOp op).f 38 35) = 6016 ∧
      (tileOp op).shape ((tileOp op).f 55 52) = one ∧ (tileOp op).Free 6016 128 ∧ (tileOp op).Free 6016 1 ∧
      (tileOp op).Free 6016 ((tileOp op).f 34 27 + 1)) := by
  simp only [access, packed, gather, tileOp, issues_iff, Ctx.Free, Ctx.Holds]; decide +kernel

/-- VRSCAT of one element whose bin starts at offset 0. -/
def radixCtx : Ctx := at0 (word 0x7F [(51, 3), (46, 5), (41, 4), (35, 1), (36, 2)]) firstOnly

theorem witness_TileAccessResults_radix : Issues 0x7F radixCtx ∧
    ∀ o ∈ (radix (el (radixCtx.t (radixCtx.f 50 46))) (el (radixCtx.t (radixCtx.f 55 51))) (radixCtx.f 9 5) (radixCtx.x (radixCtx.f 26 23)).toNat
      (radixCtx.f 4 4 = 1) radixCtx.actives (fun b => (el (radixCtx.t (radixCtx.f 45 41)) b).toNat)).1,
      o.1 % 4 = 0 ∧ o.1 ≤ 0x2FFFFC ∧ slotsHeld radixCtx.c (o.1 / 512) 1 = false := by
  simp only [radixCtx, issues_iff]; decide +kernel

/-- Descriptors of the 1 × 1 column vector at an HBM base, its seal at the same distance behind. -/
def descAt (base : Nat) : List Byte := le 4 0x01000040 ++ le 4 1 ++ le 4 1 ++ zeros 6 ++ le 6 (bits base 40 0 + 0x10000) ++ le 8 base

/-- The shape of that tile. -/
def oneCol : Shape := ⟨0, 0, 0, 1, 1, 1⟩

/-- Global addresses in HBM of this module, and of module 9 while this one is module 7. -/
def hereAddr : Nat := 0x900000
def awayAddr : Nat := 2 ^ 62 + 9 * 2 ^ 41 + 0x900000

/-- D0 and D1 hold descriptors, X1 an address, X2 a frame tag; shape register 0 is the column vector. -/
def moving (a : Nat) (c : Core) : Core :=
  { c with d := [descAt a, descAt (a + 0x100000)], x := [0, BitVec.ofNat 64 a, 5], sh := c.sh.set 0 (BitVec.ofNat 24 (shapeBits oneCol)),
           t := (c.t.set 1 [3]).set 2 [1] }

/-- Module 7 of a topology. -/
def seven : State := { ready with fab := { ready.fab with device := some 7 } }

/-- A move instruction of D0, D1 with the tile slot at 6136. -/
def moveCtx (op a : Nat) (fs : List (Nat × Nat)) : Ctx := at0 (word op fs) (moving a) [(tileSlot 0 6136, headRec oneCol 0)] seven

theorem witness_MovesIssue :
    (let d := parseDesc (descAt hereAddr);
      descOk d = true ∧ d.outOfRange seven = none ∧ d.shape 0 0 = oneCol ∧ 0 < d.tr ∧ 0 < d.tc ∧ Shape.slots oneCol = 8) ∧
    (∀ op ∈ [0x70, 0x71], let i := moveCtx op hereAddr [(35, 6136), (19, 0x3FF)]; let d := parseDesc (i.c.d.getD (i.f 55 52) []);
      Issues op i ∧ d = parseDesc (descAt hereAddr) ∧ descPlaced d (tileExists i.s) = true ∧ i.x (i.f 51 48) = 0 ∧
      i.slot (i.f 47 35) (i.f 34 31) = 6136 ∧ i.Free 6136 8 ∧ mayWrite i.s (d.addr 0 0) (Shape.bytes oneCol) = true ∧
      i.HoldsExactly 6136 oneCol ∧ isAway i.s (d.addr 0 0) = false) ∧
    (let i := moveCtx 0x72 hereAddr [(31, 1), (19, 0x3FF)]; let e := parseDesc (i.c.d.getD (i.f 34 31) []);
      Issues 0x72 i ∧ descOk e = true ∧ e.outOfRange i.s = none ∧ descPlaced e (tileExists i.s) = true ∧ e.legend = (parseDesc (descAt hereAddr)).legend ∧
      e.shape 0 0 = oneCol ∧ mayWrite i.s (e.addr 0 0) (Shape.bytes oneCol) = true) ∧
    (let i := moveCtx 0x73 hereAddr [(47, 1), (42, 2), (41, 1), (28, 6016), (12, 0x3FF)]; Issues 0x73 i ∧ i.Free 6016 128 ∧
      i.gathers hereAddr = [(0, hereAddr + 192)] ∧ gatherable i.s hereAddr (hereAddr + 192) = true ∧ localExists i.s hereAddr 64 = true ∧
      i.f 11 10 = 0 ∧ i.slot (i.f 40 28) (i.f 27 24) = 6016) ∧
    (let i := moveCtx 0x74 hereAddr [(52, 1), (19, 0x3FF)]; Issues 0x74 i ∧ (i.x (i.f 55 52)).toNat = hereAddr ∧ atomOk i.s hereAddr = true ∧
      isAway i.s hereAddr = false) ∧
    (let i := moveCtx 0x75 hereAddr [(42, 0), (19, 0x3FF)]; Issues 0x75 i ∧ space (i.x (i.f 45 42)).toNat = 0 ∧ device (i.x (i.f 45 42)).toNat = 0) ∧
    (let m := someMove .fetch; let u := readOwn (launchMove seven 0 m) 0 m; isLate u m = false ∧ isAway seven m.src = false ∧ m.deadline = none) ∧
    (let s := { seven with time := 5 }; let m := { someMove .fetch with deadline := some 4 };
      isLate (readOwn (launchMove s 0 m) 0 m) m = true) ∧
    (let m := { someMove .fetch with src := awayAddr, remote := true }; isLate (readOwn (launchMove seven 0 m) 0 m) m = false ∧
      isAway seven m.src = true) ∧
    (∀ a ∈ [(0, true), (0x10021000000, false)], let m := { someMove .fetch with src := a.1, deadline := some 0, shape := some oneCol };
      let u := readOwn (launchMove seven 0 m) 0 m; isLate u m = false ∧ space m.src ≠ 2 ∧ admitted u (offset m.src) 0 0 = a.2) := by
  simp only [moveCtx, issues_iff, Ctx.Free, Ctx.HoldsExactly]; and_intros <;> decide +kernel

/-- A stack of group 3, and a running job whose table names that group. -/
def someEntry : Entry := ⟨1, 0, 0, 0, 0, 1, 3, 0, 0xFFFF, 1, 1, 0, 0, 0, 0, 0xFFFF, 0xFFFF, 0xFFF, 0, 0xFFF, 0, 0, 0⟩
def aStack (fs : List Frame) (rs : List Req) (spilling : Bool) : Stack :=
  ⟨0, 3, 0, hubBase, 0x10000, 0x20000000, 0x10000, 0x10100000000, 0x10000, 0x30000000, 16, 80, 10, fs, [], false, spilling, rs, 0⟩
def stacked (st : Stack) : State := { seven with
  job := { ready.job with phase := .running, table := [someEntry], groups := [(0, []), (0, []), (0, []), (0, [0])] }, stackSet := [st] }

/-- A frame of tag 5 where `loc` says. -/
def frameAt (loc : Loc) (addr dest : Nat) : Frame := ⟨5, loc, 0, 0, 8, 0, shapeBits oneCol, 0, addr, dest, 0⟩

/-- A stack instruction on it. -/
def stackCtx (op : Nat) (fs : List Frame) : Ctx :=
  at0 (word op [(36, 6136), (28, 2), (16, 0x3FF)]) (fun c => { moving hereAddr c with launch := some { launchOf 1 with sched := some 0 } })
    [(tileSlot 0 6136, headRec oneCol 0)] (stacked (aStack fs [] false))

theorem witness_AwayMovesIssue :
    (let i := moveCtx 0x71 awayAddr [(35, 6136), (19, 0x3FF)]; let d := parseDesc (i.c.d.getD (i.f 55 52) []);
      Issues 0x71 i ∧ descOk d = true ∧ d.outOfRange i.s = none ∧ descPlaced d (tileExists i.s) = true ∧ d.shape 0 0 = oneCol ∧
      i.Free 6136 8 ∧ mayWrite i.s (d.addr 0 0) (Shape.bytes oneCol) = true ∧ i.HoldsExactly 6136 oneCol ∧ isAway i.s (d.addr 0 0) = true) ∧
    (let i := moveCtx 0x74 awayAddr [(52, 1), (19, 0x3FF)]; Issues 0x74 i ∧ (i.x (i.f 55 52)).toNat = awayAddr ∧ atomOk i.s awayAddr = true ∧
      isAway i.s awayAddr = true) ∧
    (let i := moveCtx 0x75 awayAddr [(42, 1), (19, 0x3FF)]; Issues 0x75 i ∧ isAway i.s (i.x (i.f 45 42)).toNat = true) ∧
    (let i := stackCtx 0x90 []; Issues 0x90 i ∧ i.shape (i.f 52 49) = oneCol ∧ shapeOk oneCol = true ∧ i.x (i.f 31 28) = 5 ∧
      i.slot (i.f 48 36) (i.f 35 32) = 6136 ∧ i.stack = some 0 ∧ tagUse 5 ≠ 3 ∧ bits (5 : DWord).toNat 58 56 = 0 ∧ i.Free 6136 8 ∧
      i.HoldsExactly 6136 oneCol) := by
  simp only [moveCtx, stackCtx, issues_iff, Ctx.Free, Ctx.HoldsExactly]; and_intros <;> decide +kernel

/-- A fetch of that tile into slot 6136 of core 0, in flight. -/
def fetching : Move := { someMove .fetch with shape := some oneCol, src := hereAddr, srcSeal := 0x200000000, slots := [(6136, 8)] }
def inFlight (m : Move) (w : Word) : State :=
  { setCore seven 0 fun c => { c with moves := [m] } with dram := writeRun [] 0x200000000 (le 4 w.toNat) }

/-- That fetch, but of a tile that module 9 has sent, or has refused; of slot 0 of core 0, which is unsealed. -/
def fetched : Move := { fetching with src := awayAddr, remote := true, status := some rOk, carried := sealOf oneCol [] }
def refused : Move := { fetched with status := some rMemory }
def fetchingSlot : Move := { fetching with src := 2 ^ 63 }

/-- A granule fetch of one granule into slots 6016 to 6143. -/
def gathering : Move := { someMove .gfetch with src := hereAddr, slots := [(6016, 128)], list := [(0, hereAddr)] }

/-- Core 0 with a stop, and with a module time past the deadline of 3. -/
def stoppedWith (m : Move) : State := setCore (inFlight m 1) 0 fun c => { c with stop := some someStop }
def lateFlight (m : Move) : State := { inFlight { m with deadline := some 3 } 1 with time := 5 }

/-- What a source brings, without its state. -/
def gotTile (g : Got × State) : Bool := match g.1 with | .tile _ _ => true | _ => false
def gotBad (g : Got × State) : Option Nat := match g.1 with | .bad r => some (field r 24 1) | _ => none
def gotLost (g : Got × State) : Bool := match g.1 with | .lost _ => true | _ => false

theorem witness_FetchEnds :
    (∀ m ∈ [fetching, fetched, refused, fetchingSlot, gathering], let s := inFlight m 1;
      (coreAt s 0).moves.find? (fun x => x.id = 0) = some m ∧ moveWaits s 0 m = false ∧ isLate s m = false ∧ m.rclass = 0 ∧
      (coreAt s 0).stop = none) ∧
    (let m := { fetched with status := none }; moveWaits (inFlight m 1) 0 m = true) ∧
    (∀ m ∈ [fetching, gathering], let s := lateFlight m; moveWaits s 0 { m with deadline := some 3 } = false ∧
      isLate s { m with deadline := some 3 } = true) ∧
    gotTile (readSource (inFlight fetched 1) fetched 0 true .arrived) = true ∧
    gotBad (readSource (inFlight fetchingSlot 1) fetchingSlot 0 true .arrived) = some 2 ∧
    gotLost (readSource (inFlight refused 1) refused 0 true .arrived) = true ∧
    (coreAt (stoppedWith fetchingSlot) 0).stop = some someStop ∧
    (readGranules (inFlight gathering 1) gathering.list .arrived).1 = none ∧
    (readGranules { inFlight gathering 1 with poison := [hereAddr] } gathering.list .arrived).1 = some hereAddr := by
  and_intros <;> decide +kernel

theorem witness_FetchEnds_source : let s := inFlight fetching 1
    isAway s fetching.src = false ∧ space fetching.src ≠ 2 ∧ Shape.slots oneCol = 8 ∧ Shape.bytes oneCol = 4096 ∧
    badGranule s (offset fetching.src) (Shape.bytes oneCol) = none ∧ s.tier.pages = [] ∧ badGranule s (offset fetching.srcSeal) 4 = none ∧
    isT7 (inFlight fetched 1) (device fetched.src) = false ∧ sealOf oneCol fetched.bytes = fetched.carried ∧
    (isAway s fetchingSlot.src = false ∧ space fetchingSlot.src = 2 ∧ ctlExists s (offset fetchingSlot.src) (Shape.bytes oneCol) = true) := by
  decide +kernel

/-- The bytes of the source are zeros, and the entry of the seal table is what was stored there: the seal of zeros, or another. -/
theorem witness_FetchEnds_seal (w : Word) : readLocal (inFlight fetching w) (offset hereAddr) 4096 = zeros 4096 ∧
    BitVec.ofNat 32 (unle (readLocal (inFlight fetching w) (offset 0x200000000) 4)) = w :=
  (readLocal_sealed (inFlight fetching w) 4096 w rfl rfl (by decide)).symm

/-- A sealed slot, whose record carries the seal of what stands there. -/
theorem witness_FetchEnds_slot (w : Word) : recCheck (rd [(slotAt 0, headRec oneCol w)] (slotAt 0)) oneCol true = none ∧
    recSeal (rd [(slotAt 0, headRec oneCol w)] (slotAt 0)) = w := by
  have r : rd [(slotAt 0, headRec oneCol w)] (slotAt 0) = headRec oneCol w := by simp [rd]
  rw [r]
  exact (headRec_holds (by decide) (by decide)).symm

theorem witness_FetchEnds_deadline : ∀ m ∈ [{ fetching with deadline := some 7 }, { someMove .movem with deadline := some 7, dst := awayAddr }],
    (coreAt (inFlight m 1) 0).moves.find? (fun m => m.id = 0) = some m ∧ m.deadline = some 7 ∧
      (m.kind = .movem ↔ isAway (inFlight m 1) m.dst = true) := by decide +kernel

/-- A tile stored here or at module 9, a tile moved here or there, an atomic and a message, here or there. -/
def stored (dst : Nat) (st : Option Nat) : Move :=
  { someMove .store with shape := some oneCol, dst := dst, carried := sealOf oneCol [], remote := st.isSome, status := st, dstSeal := 0x200000000 }
def moved (dst : Nat) (src : Move) : Move := { src with kind := .movem, dst := dst, dstSeal := 0x200000000, slots := [] }
def swapping (st : Option Nat) : Move := { someMove .atom with dst := if st.isSome then awayAddr else hereAddr, remote := st.isSome, status := st }
def telling (st : Option Nat) : Move := { someMove .msg with remote := st.isSome, status := st }

/-- Queue 0 with 64 messages. -/
def fullQueue : State := { inFlight (telling none) 1 with hubSems := ready.hubSems.set 960 64 }

theorem witness_FetchEnds_others :
    (∀ m ∈ [stored awayAddr (some rOk), stored awayAddr (some rAccess), stored hereAddr none, moved hereAddr fetched, moved awayAddr fetched,
        moved hereAddr refused, { moved awayAddr fetched with writing := true }, swapping none, swapping (some rOk), swapping (some rAccess),
        telling none, telling (some rOk), telling (some rAccess)], let s := inFlight m 1;
      (coreAt s 0).moves.find? (fun x => x.id = 0) = some m ∧ moveWaits s 0 m = false ∧ isLate s m = false) ∧
    (isAway seven (stored awayAddr (some rOk)).dst = true ∧ isAway seven (stored hereAddr none).dst = false) ∧
    (let m := { stored awayAddr (some rOk) with deadline := some 3, since := 5 }; m.deadline.any (· < m.since) = true) ∧
    (let m := stored hereAddr none; sealOf oneCol m.bytes = m.carried ∧ space m.dst ≠ 2 ∧ deadRange (inFlight m 1) m.dst 4096 = false) ∧
    (let m := moved hereAddr fetched; moveWaits (lateFlight m) 0 { m with deadline := some 3 } = false ∧
      isLate (lateFlight m) { m with deadline := some 3 } = true ∧ gotTile (readSource (inFlight m 1) m 0 true .arrived) = true ∧
      sealOf oneCol m.bytes = m.carried ∧ deadRange (inFlight m 1) m.dst 4096 = false) ∧
    (let m := moved awayAddr fetched; gotTile (readSource (inFlight m 1) m 0 false .arrived) = true ∧ m.writing = false) ∧
    gotLost (readSource (inFlight (moved hereAddr refused) 1) (moved hereAddr refused) 0 true .arrived) = true ∧
    badGranule (inFlight (swapping none) 1) (offset hereAddr) 8 = none ∧
    (deliver (inFlight (telling none) 1) 0 []).isSome = true ∧ (deliver fullQueue 0 []).isSome = false ∧
    moveWaits fullQueue 0 (telling none) = false := by
  and_intros <;> decide +kernel

/-- Semaphore 0 of core 0 at 3. -/
def counting (c : Core) : Core := { c with sems := c.sems.set 0 3 }
def syncCtx (op : Nat) (fs : List (Nat × Nat)) (ms : List Move) : Ctx := at0 (word op fs) fun c => { counting c with moves := ms }

/-- Core 151 waiting for `k` on its semaphore 0. -/
def waiting (k : Nat) : State := setCore ready 151 fun c =>
  { counting c with wait := some (0, k, 0), launch := some { launchOf 1 with waitLimit := 1 } }

theorem witness_SynchronisationResults :
    Issues 0xA0 (syncCtx 0xA0 [(28, 1)] []) ∧
    (∀ k ∈ [3, 4], let i := syncCtx 0xA1 [(28, k)] []; Issues 0xA1 i ∧ i.f 55 44 = 0 ∧ i.f 43 28 = k ∧ (0, nextSeq i.l 0) ∉ i.l.counted) ∧
    (3 ≤ semGet (syncCtx 0xA1 [(28, 3)] []).s 0 0 0 ∧ semGet (syncCtx 0xA1 [(28, 4)] []).s 0 0 0 < 4) ∧
    (∀ k < 4, let i := syncCtx 0xA2 [(52, k)] [someMove .signal]; Issues 0xA2 i ∧ i.f 55 52 = k ∧ (∀ m ∈ i.c.moves, m.kind = .signal) ∧
      ∀ m ∈ i.c.moves, holdsFence i.s i.n m = false) ∧
    (∀ k < 4, let i := syncCtx 0xA2 [(52, k)] [someMove .store]; Issues 0xA2 i ∧ i.f 55 52 = k ∧ (∃ m ∈ i.c.moves, m.kind ≠ .signal) ∧
      ∃ m ∈ i.c.moves, holdsFence i.s i.n m = true) ∧
    (let i := at0 (word 0xA1 [(28, 4)]) fun c => { c with launch := some { launchOf 1 with counted := [(0, 0)] } };
      Issues 0xA1 i ∧ i.f 55 44 = 0 ∧ (0, nextSeq i.l 0) ∈ i.l.counted) ∧
    (∀ k ∈ [3, 4], let s := waiting k; (coreAt s 151).wait = some (0, k, 0) ∧ ((coreAt s 151).launch.map (·.counted)) = some [] ∧
      ((coreAt s 151).launch.map (·.waitLimit)) = some 1) ∧
    (3 ≤ semGet (waiting 3) 151 1 0 ∧ semGet (waiting 4) 151 1 0 < 4) := by
  simp only [syncCtx, issues_iff]; and_intros <;> decide +kernel

theorem witness_StackUnitMovesFrames_pop :
    (∀ op ∈ [0x91, 0x92], let i := stackCtx op [frameAt .body 0x20000000 0]; Issues op i ∧ i.shape (i.f 52 49) = oneCol ∧ i.x (i.f 31 28) = 5 ∧
      i.slot (i.f 48 36) (i.f 35 32) = 6136 ∧ i.stack = some 0 ∧ stackAt i.s 0 = some (aStack [frameAt .body 0x20000000 0] [] false) ∧
      findFrame (aStack [frameAt .body 0x20000000 0] [] false) 5 (stepLow i.l) = some (frameAt .body 0x20000000 0) ∧ shapeOk oneCol = true ∧
      (entryOf i.s i.l) = some someEntry ∧ useForbidden someEntry.kind (effUse i.s 5) = false ∧ i.Free 6136 8) ∧
    (let i := stackCtx 0x92 [frameAt .spilling 0x20000000 0x10100000000]; Issues 0x92 i ∧ i.stack = some 0) ∧
    (let i := stackCtx 0x92 []; Issues 0x92 i ∧ i.stack = some 0 ∧ findFrame (aStack [] [] false) 5 (stepLow i.l) = none) := by
  simp only [stackCtx, issues_iff, Ctx.Free]; and_intros <;> decide +kernel

/-- A frame with the seal of the bytes that stand there. -/
def whole (f : Frame) : Frame := { f with crc := sealOf (shapeOf f.shape) (frameData seven f) }

/-- A request for the frames of micro-batch 0, layer 0. -/
def someReq (d : Option Nat) : Req := ⟨4, 0, 0, 0, 1, d, false⟩

/-- Frames in the top buffer, spilling, in the body, spilled and returning. -/
def topFrame : Frame := whole (frameAt .top hubBase 0)
def leaving : Frame := whole (frameAt .spilling 0x20000000 0x10100000000)
def bodyFrame : Frame := { frameAt .body 0x20000000 0 with size := 128 }
def outFrame : Frame := frameAt .spilled 0x10100000000 0
def coming : Frame := whole (frameAt .returning 0x10100000000 0x20000000)

/-- A stack on a module whose channel of body offset 0 is under survey; one with the head record of its top frame. -/
def surveyed (st : Stack) : State :=
  { stacked st with hbm := { ready.hbm with held := [⟨(hbmDecode ready 0x20000000).1, 0, 0, 0, 0⟩] } }
def recorded (st : Stack) : State := { stacked st with recs := [(slotAt hubBase, headRec oneCol topFrame.crc)] }

theorem whole_passes (f : Frame) (st : Stack) (h : frameBad seven f = none) : frameBad (recorded st) (whole f) = none ∧
    sealOf (shapeOf (whole f).shape) (frameData (recorded st) (whole f)) = (whole f).crc := by
  have b : frameData (recorded st) (whole f) = frameData seven f := rfl
  exact ⟨h, by rw [b]; rfl⟩

/-- What a frame needs to pass its check. -/
theorem witness_StackUnitMovesFrames_whole :
    (∀ f ∈ [topFrame, leaving, coming], frameBad (recorded (aStack [f] [] false)) f = none ∧
      sealOf (shapeOf f.shape) (frameData (recorded (aStack [f] [] false)) f) = f.crc) ∧
    recCheck (rd (recorded (aStack [topFrame] [] false)).recs (slotAt hubBase)) (shapeOf topFrame.shape) true = none ∧
    recSeal (rd (recorded (aStack [topFrame] [] false)).recs (slotAt hubBase)) = topFrame.crc := by
  have r : rd (recorded (aStack [topFrame] [] false)).recs (slotAt hubBase) = headRec oneCol topFrame.crc := by
    show rd [(slotAt hubBase, headRec oneCol topFrame.crc)] (slotAt hubBase) = _
    simp [rd]
  refine ⟨?_, ?_, ?_⟩
  · intro f hf
    simp only [List.mem_cons, List.not_mem_nil, or_false] at hf
    rcases hf with rfl | rfl | rfl <;> exact whole_passes _ _ rfl
  · rw [r]; exact (headRec_holds (by decide) (by decide)).2
  · rw [r]; exact (headRec_holds (by decide) (by decide)).1

/-- A frame of the top buffer whose slot is not sealed fails. -/
theorem witness_StackUnitMovesFrames_bad : let f := frameAt .top hubBase 0
    (frameCheck (stacked (aStack [f] [] false)) f 0 0 true).1 = false := by decide +kernel

theorem witness_StackUnitMovesFrames :
    (nextDrain (aStack [topFrame] [] false) = some topFrame ∧ bodyFit (aStack [topFrame] [] false) topFrame = some 0x20000000) ∧
    nextDrain (aStack [bodyFrame] [] false) = none ∧
    (aStack [leaving] [] false).frames.find? (fun f => f.loc = .spilling) = some leaving ∧
    (aStack [bodyFrame] [] false).frames.find? (fun f => f.loc = .spilling) = none ∧
    (mustSpill (stacked (aStack [bodyFrame] [] false)) (aStack [bodyFrame] [] false) = true ∧
      nextSpill (stacked (aStack [bodyFrame] [] false)) (aStack [bodyFrame] [] false) = some bodyFrame ∧
      spillFit (aStack [bodyFrame] [] false) bodyFrame = some 0x10100000000) ∧
    mustSpill (stacked (aStack [] [] false)) (aStack [] [] false) = false ∧
    (aStack [coming] [] false).frames.find? (fun f => f.loc = .returning) = some coming ∧
    (aStack [] [someReq (some 9)] false).reqs.find? (fun r => r.num = 4) = some (someReq (some 9)) :=
  ⟨⟨rfl, rfl⟩, rfl, rfl, rfl, by decide +kernel, by decide +kernel, rfl, rfl⟩

theorem witness_StackUnitMovesFrames_held :
    heldRange (surveyed (aStack [] [] false)) 0x20000000 4096 = true ∧ heldRange (stacked (aStack [] [] false)) 0x20000000 4096 = false := by
  decide +kernel

/-- A full body: with a frame that can spill, and with none. -/
theorem witness_StackUnitMovesFrames_full :
    (∀ st ∈ [aStack [frameAt .top hubBase 0, { bodyFrame with slot := 1 }] [] false,
        { aStack [frameAt .top hubBase 0] [] false with bodyLen := 0 }],
      nextDrain st = some (frameAt .top hubBase 0) ∧ bodyFit st (frameAt .top hubBase 0) = none) ∧
    (let st := aStack [frameAt .top hubBase 0, { bodyFrame with slot := 1 }] [] false; canSpill (stacked st) st = true) ∧
    (let st := { aStack [frameAt .top hubBase 0] [] false with bodyLen := 0 }; canSpill (stacked st) st = false) := by decide +kernel

/-- A return that is admitted, and one whose deadline is now. -/
theorem witness_StackUnitMovesFrames_return : ∀ d ∈ [none, some 0], let st := aStack [outFrame] [someReq d] false
    st.frames.find? (fun f => f.loc = .returning) = none ∧ st.reqs.find? (fun r => r.num = 4) = some (someReq d) ∧
    nextReturn st (someReq d) = some outFrame ∧ liveReq (stacked st) (someReq d) = true ∧ (someReq d).refused = false ∧
    (d.any fun d => !admitted (stacked st) outFrame.addr (frameBytes outFrame) d) = d.isSome ∧ bodyFit st outFrame = some 0x20000000 := by
  decide +kernel

/-- A POP of tag 5 in flight. -/
def popping : Move := { someMove .pop with shape := some oneCol, slots := [(6136, 8)], ftag := 5, rclass := 1 }

theorem witness_StackUnitMovesFrames_starts :
    let s := setCore (stacked (aStack [outFrame] [] false)) 0 fun c => { c with launch := some (launchOf 1) }
    isLate (launchMove s 0 popping) popping = false ∧ outFrame.loc = .spilled ∧ popping.deadline = none ∧
    (let m := { popping with deadline := some 0 }; isLate (launchMove s 0 m) m = false ∧ admitted (launchMove s 0 m) outFrame.addr 0 0 = false) ∧
    (let m := { popping with deadline := some 3 }; isLate (launchMove { s with time := 5 } 0 m) m = true) := by decide +kernel

theorem witness_StackUnitMovesFrames_at (st : Stack) : stackAt (stacked st) 0 = some st := rfl

/-- A PUSH of tag `t` in flight, with the seal of the bytes it carries. -/
def pushing (t : DWord) : Move := { someMove .push with shape := some oneCol, ftag := t, carried := sealOf oneCol [], rclass := 1 }
def withMove (m : Move) (st : Stack) : State := setCore (stacked st) 0 fun c => { c with moves := [m], launch := some (launchOf 1) }
def frozenLayer (m : Move) : State := { withMove m (aStack [] [] false) with job := { ready.job with modes := [1] } }

theorem witness_StackUnitMovesFrames_ends :
    (∀ m ∈ [pushing 5, pushing (2 ^ 62 + 5), popping], let s := withMove m (aStack [] [] false);
      (coreAt s 0).moves.find? (fun x => x.id = 0) = some m ∧ moveWaits s 0 m = false ∧ isLate s m = false) ∧
    (let s := withMove popping (aStack [frameAt .body 0x20000000 0] [] false); isLate { s with time := 5 } { popping with deadline := some 3 } = true) ∧
    sealOf oneCol (pushing 5).bytes = (pushing 5).carried ∧ tagUse 5 ≠ 1 ∧
    (tagUse (2 ^ 62 + 5) = 1 ∧ layerMode (frozenLayer (pushing (2 ^ 62 + 5))) (tagLayer (2 ^ 62 + 5)) = 1) ∧
    (∀ o ∈ [false, true], let st := { aStack [] [] false with overflow := o };
      findFrame st 5 0 = none ∧ st.overflow = o ∧ (coreAt (withMove popping st) 0).stop = none) ∧
    (∀ f ∈ [frameAt .returning 0x10100000000 0x20000000, frameAt .dropped 0 0, frameAt .top hubBase 0, frameAt .body 0x20000000 0,
        frameAt .spilled 0x10100000000 0, frameAt .spilling 0x20000000 0x10100000000],
      findFrame (aStack [f] [] false) 5 0 = some f ∧ frameBad (withMove popping (aStack [f] [] false)) f = none) := by
  and_intros <;> decide +kernel

/-- Pushes of a tag that is there, with the same seal and another, with room in the top buffer and without; and of one that is not. -/
theorem witness_StackUnitMovesFrames_push :
    (let f := { frameAt .body 0x20000000 0 with crc := (pushing 5).carried }; findFrame (aStack [f] [] false) 5 0 = some f ∧ f.crc = (pushing 5).carried) ∧
    (let f := { frameAt .body 0x20000000 0 with crc := (pushing 5).carried + 1 }; findFrame (aStack [f] [] false) 5 0 = some f ∧
      f.crc ≠ (pushing 5).carried) ∧
    fit hubBase 0x10000 (topUsed (aStack [] [] false)) 4096 = some hubBase ∧
    (let st := { aStack [] [] false with topLen := 0 }; fit st.topBase st.topLen (topUsed st) 4096 = none) ∧
    freeEntry { aStack [] [] false with dirCount := 0 } 5 = none := by decide +kernel

theorem witness_StackUnitMovesFrames_free : freeEntry { aStack [] [] false with dirCount := 1 } 5 = some 0 := by
  simp [freeEntry, aStack, List.range, List.range.loop, Nat.mod_one]

theorem witness_StackUnitMovesFrames_taken : let s := stacked (aStack [] [] false)
    effUse s (2 ^ 63 + 5) = 2 ∧ effUse s 5 ≠ 2 ∧ (frameAt .body 0x20000000 0).pops = 0 := by decide +kernel

/-! ### Witnesses: programs, jobs, the sequencer (08, 10) -/

/-- The image of a program of one NOP. -/
def nopImage : List Byte :=
  let w := le 8 (0x01 * 2 ^ 56)
  ascii "TK9-TP01" ++ le 4 1 ++ le 4 1 ++ le 4 0 ++ le 2 0 ++ le 2 0 ++ le 4 0 ++ le 4 (crc32c w).toNat ++ zeros 32 ++ w

/-- A module with that program loaded under number 4095. -/
def programmed : State := { ready with programs := [⟨4095, 0, nopImage, []⟩], tables := [(15, [someEntry])] }

/-- A LAUNCH of it on core 151 from its own entry. -/
def launchPay (entry : Nat) : List Byte := le 2 151 ++ le 2 4095 ++ le 4 entry ++ zeros 64

/-- Core 151 running it for the LAUNCH with tag 6. -/
def hosted : State := setCore programmed 151 fun c => { c with launch := some { launchOf 1 with host := some (0, 6) } }

/-- A table of one entry of kind 1, and one of kind 0. -/
def tablePay (kind : Nat) : List Byte :=
  le 1 kind ++ zeros 7 ++ le 2 1 ++ zeros 2 ++ le 2 0 ++ le 2 0xFFFF ++ le 4 1 ++ le 4 1 ++ zeros 16 ++ le 2 0xFFFF ++ le 2 0xFFFF ++
    le 2 0xFFF ++ le 2 0 ++ le 2 0xFFF ++ zeros 14

/-- A module with a job, so that the pools are as its partition makes them: empty. -/
def pooled : State := { ready with job := { ready.job with phase := .loaded } }

theorem witness_ProgramCommandsComplete_load :
    Asks ready (cmd 5 1 nopImage 0xFFF) (fun s c => clean c 0xFFF 0 true = true ∧ imgBad c.payload = none ∧ runsOf s 0xFFF = 0 ∧
      (s.programs.filter (fun p => p.num ≠ 0xFFF)).foldl (fun n p => n + p.image.length) c.payload.length ≤ poolBytes s) ∧
    Asks (setCore ready 151 fun c => { c with launch := some (launchOf 1) }) (cmd 5 1 nopImage 0) (fun s c => clean c 0xFFF 0 true = true ∧
      imgBad c.payload = none ∧ 0 < runsOf s 0) ∧
    Asks pooled (cmd 5 1 nopImage 0) (fun s c => clean c 0xFFF 0 true = true ∧ imgBad c.payload = none ∧ runsOf s 0 = 0 ∧
      poolBytes s < (s.programs.filter (fun p => p.num ≠ 0)).foldl (fun n p => n + p.image.length) c.payload.length) ∧
    Asks ready (cmd 5 1 [] 0xFFF) (fun _ c => clean c 0xFFF 0 true = true ∧ imgBad c.payload = some 0xFFFFFFFF) ∧
    Asks programmed (cmd 5 2 [] 4095) (fun s c => clean c 0xFFF 0 false = true ∧ (findProg s c.arg0.toNat).isSome = true ∧ runsOf s 4095 = 0 ∧
      jobNames s 4095 = false) ∧
    Asks (setCore programmed 151 fun c => { c with launch := some { launchOf 1 with prog := 4095 } }) (cmd 5 2 [] 4095) (fun s c =>
      clean c 0xFFF 0 false = true ∧ (findProg s c.arg0.toNat).isSome = true ∧ 0 < runsOf s 4095) ∧
    Asks programmed (cmd 5 2 [] 0) (fun s c => clean c 0xFFF 0 false = true ∧ findProg s c.arg0.toNat = none) ∧
    Asks ready (cmd 5 3) (fun _ c => clean c 0 0 false = true) := by
  unfold Asks Starts; and_intros <;> decide +kernel

theorem witness_ProgramCommandsComplete_launch :
    (∀ e ∈ [0, 0xFFFFFFFF], Asks programmed (cmd 5 4 (launchPay e)) fun s c => clean c 0 0 true = true ∧ c.payload.length = 72 ∧
      field c.payload 0 2 = 151 ∧ (findProg s (field c.payload 2 2)).isSome = true ∧ field c.payload 8 4 < 2 ∧ (coreAt s 151).enabled = true ∧
      (coreAt s 151).launch = none ∧ (field c.payload 4 4 = 0xFFFFFFFF ∨ field c.payload 4 4 < imgCount nopImage)) ∧
    Asks ready (cmd 5 4 (launchPay 0)) (fun s c => clean c 0 0 true = true ∧ c.payload.length = 72 ∧ field c.payload 8 4 < 2 ∧
      findProg s (field c.payload 2 2) = none) ∧
    Asks hosted (cmd 5 4 (launchPay 0)) (fun s c => clean c 0 0 true = true ∧ (findProg s (field c.payload 2 2)).isSome = true ∧
      (coreAt s 151).launch.isSome = true) ∧
    Asks hosted (cmd 5 5 [] 151) (fun s c => clean c 0xFF 0 false = true ∧ (coreAt s 151).enabled = true ∧
      ((coreAt s 151).launch.any fun l => l.host.isSome) = true) ∧
    Asks ready (cmd 5 5 [] 151) (fun s c => clean c 0xFF 0 false = true ∧ (coreAt s 151).enabled = true ∧ (coreAt s 151).launch = none) ∧
    Asks ready (cmd 5 0x10 [0] 15) (fun _ c => clean c 0xF 0 true = true ∧ c.payload.length % 64 ≠ 0) ∧
    Asks ready (cmd 5 0x10 (tablePay 1) 15) (fun s c => clean c 0xF 0 true = true ∧ c.payload.length % 64 = 0 ∧ tableBad c.payload = none ∧
      tableNamed s 15 = false ∧ findTable s 15 = none) ∧
    Asks { programmed with job := { programmed.job with phase := .loaded, schedule := 15 } } (cmd 5 0x10 (tablePay 1) 15) (fun s c =>
      clean c 0xF 0 true = true ∧ tableBad c.payload = none ∧ tableNamed s 15 = true ∧ (findTable s 15).isSome = true) ∧
    Asks ready (cmd 5 0x10 (tablePay 0) 15) (fun _ c => clean c 0xF 0 true = true ∧ c.payload.length % 64 = 0 ∧ tableBad c.payload = some 0) ∧
    Asks programmed (cmd 5 0x11 [] 15) (fun s c => clean c 0xF 0 false = true ∧ (findTable s 15).isSome = true ∧ tableNamed s 15 = false) ∧
    insnsWhole nopImage = true ∧ tileBad ⟨4095, 0, nopImage, []⟩ = none := by
  unfold Asks Starts; and_intros <;> decide +kernel

/-! A job descriptor whose every check passes. Its layer-mode table is zeros and comes last, so that every field of the whole reads as
it does in the bytes before that table. -/

/-- A section with its header. -/
def jobSection (t : Nat) (b : List Byte) : List Byte := [le 4 t, le 4 b.length, b, zeros (roundUp b.length 64 - b.length)].flatten

/-- The topology section: device 0, no port connected, no partner. -/
def topoPart : List Byte := [ascii "EWTD", le 2 1, le 2 0, le 4 0, le 4 0xFFFFFFFF].flatten ++ zeros 2896

/-- Everything before the layer-mode table. -/
def jobHead : List Byte :=
  [ascii "TK9-JOB1", le 4 8, zeros 52, jobSection 1 (zeros 9 ++ [1, 1, 0] ++ le 4 1 ++ le 4 1 ++ zeros 44), jobSection 2 [], jobSection 3 [],
    jobSection 4 (zeros 20), jobSection 5 [], jobSection 7 [], jobSection 9 topoPart, le 4 6, le 4 262144].flatten

/-- The descriptor with a layer-mode table of `n` bytes. -/
def jobPayload (n : Nat) : List Byte := jobHead ++ zeros n

theorem unle_zeros (k : Nat) : unle (zeros k) = 0 := by
  induction k with
  | zero => rfl
  | succ k ih => simpa [zeros, List.replicate_succ, unle] using ih

theorem unle_pad (l : List Byte) (k : Nat) : unle (l ++ zeros k) = unle l := by
  induction l with
  | nil => exact unle_zeros k
  | cons b l ih => simp [unle, ih]

/-- What stands at an offset of bytes followed by zeros. -/
theorem slice_pad (p : List Byte) (k o n : Nat) : ∃ j, ((p ++ zeros k).drop o).take n = (p.drop o).take n ++ zeros j ∧
    j ≤ n - ((p.drop o).take n).length :=
  ⟨min (n - (p.length - o)) (k - (o - p.length)), by
    rw [List.drop_append, List.take_append]; simp [zeros], by simp; omega⟩

theorem field_pad (p : List Byte) (k o n : Nat) : field (p ++ zeros k) o n = field p o n := by
  obtain ⟨j, h, -⟩ := slice_pad p k o n
  rw [field, h, unle_pad, field]

theorem sub_pad (p : List Byte) (k o n : Nat) : sub (p ++ zeros k) o n = sub p o n := by
  obtain ⟨j, h, hj⟩ := slice_pad p k o n
  simp only [sub, h, List.append_assoc, List.length_append]
  congr 1
  simp only [zeros, List.length_replicate, ← List.replicate_add]
  congr 1
  omega

theorem length_pad (p : List Byte) (k : Nat) : (p ++ zeros k).length = p.length + k := by simp [zeros]

/-- `parseSects` of bytes that read as `bs` and are `len` long. -/
def sectsIn (len : Nat) (bs : List Byte) : Nat → Nat → List Sect → Except Nat (List Sect)
  | 0, o, acc => if o = len then .ok acc else .error o
  | n + 1, o, acc =>
    let t := field bs o 4
    let l := field bs (o + 4) 4
    if len < o + 8 + roundUp l 64 || t = 0 || 9 < t || acc.any (fun x => x.type = t) then .error o
    else sectsIn len bs n (o + 8 + roundUp l 64) (acc ++ [⟨t, o + 8, l⟩])

theorem parseSects_pad (p : List Byte) (k n o : Nat) (acc : List Sect) :
    parseSects (p ++ zeros k) n o acc = sectsIn (p.length + k) p n o acc := by
  induction n generalizing o acc with
  | zero => simp only [parseSects, sectsIn, length_pad]
  | succ n ih => simp only [parseSects, sectsIn, field_pad, ih, length_pad]

/-- The sections of the descriptor. -/
def jobXs : List Sect := [⟨1, 72, 64⟩, ⟨2, 144, 0⟩, ⟨3, 152, 0⟩, ⟨4, 160, 20⟩, ⟨5, 232, 0⟩, ⟨7, 240, 0⟩, ⟨9, 248, 2912⟩, ⟨6, 3200, 262144⟩]

set_option maxRecDepth 100000 in
theorem length_jobHead : jobHead.length = 3200 := by decide +kernel

set_option maxRecDepth 100000 in
theorem sects_head : (sectsIn 265344 jobHead 8 64 []).toOption = some jobXs := by decide +kernel

theorem jobSects_payload : jobSects (jobPayload 262144) = .ok jobXs := by
  have h : sectsIn 265344 jobHead 8 64 [] = .ok jobXs := by
    have := sects_head
    revert this
    cases sectsIn 265344 jobHead 8 64 [] <;> simp [Except.toOption]
  have a : (jobHead ++ zeros 262144).take 8 = ascii "TK9-JOB1" := by
    rw [List.take_append_of_le_length (by rw [length_jobHead]; decide)]; decide +kernel
  have b : (sub jobHead 12 52).all (· == 0) = true := by decide +kernel
  have c : field jobHead 8 4 = 8 := by decide +kernel
  have d : ¬ 3200 + 262144 < 64 := by decide
  have e : ([1, 2, 3, 4, 5, 6, 7, 9].all fun t => jobXs.any fun x => x.type = t) = true := by decide
  simp only [jobPayload, jobSects, a, zeroAt, sub_pad, field_pad, parseSects_pad, length_pad, length_jobHead, h, e, d, c, b]
  rfl

theorem firstBad_eq_none (cs : Checks) (h : cs.all (·.2) = true) : firstBad cs = none := by
  unfold firstBad
  induction cs with
  | nil => rfl
  | cons c cs ih =>
    simp only [List.all_cons, Bool.and_eq_true] at h
    rw [List.foldl_cons, if_pos h.1]
    exact ih h.2

theorem modesOk_zeros (n : Nat) : modesOk (zeros (4 * n)) = true := by
  induction n with
  | zero => rfl
  | succ n ih =>
    have : zeros (4 * (n + 1)) = 0 :: 0 :: 0 :: 0 :: zeros (4 * n) := rfl
    rw [this, modesOk]
    simpa using ih

theorem modeChecks_zeros (n o : Nat) (h : 4 * n = 262144) : (shiftBy o (modeChecks (zeros (4 * n)))).all (·.2) = true := by
  have l : (zeros (4 * n)).length = 262144 := by rw [zeros, List.length_replicate, h]
  simp only [shiftBy, modeChecks, modesOk_zeros, l, List.map_cons, List.map_nil, List.all_cons, List.all_nil]
  rfl

theorem modeChecks_cast (n m o : Nat) (h : 4 * n = m) (k : m = 262144) : (shiftBy o (modeChecks (zeros m))).all (·.2) = true := by
  subst h
  exact modeChecks_zeros n o k

theorem sub_end (p : List Byte) (n : Nat) : sub p p.length n = zeros n := by
  simp [sub]

/-- The bytes of the sections. -/
def headSect (t : Nat) : List Byte :=
  if t = 9 then topoPart else if t = 6 then zeros 262144 else sub jobHead (sectOf jobXs t).off (sectOf jobXs t).len

set_option maxRecDepth 100000 in
theorem headSect_nine : sub jobHead (sectOf jobXs 9).off (sectOf jobXs 9).len = topoPart := by decide +kernel

/-- A descriptor is good when its sections stand in order and every check of every section holds. -/
theorem jobBad_of {s : State} {b : List Byte} {xs : List Sect} {body : Nat → List Byte} (h : jobSects b = .ok xs)
    (hb : ∀ t, sectBytes b (sectOf xs t) = body t)
    (h1 : (shiftBy (sectOf xs 1).off (paramChecks (body 1))).all (·.2) = true)
    (h2 : (shiftBy (sectOf xs 2).off (groupChecks s (body 2))).all (·.2) = true)
    (h3 : (shiftBy (sectOf xs 3).off
      (stackSection s (parseGroups (body 2)) ((parsePartition (body 4)).map fun p => nth p 3) (body 3))).all (·.2) = true)
    (h4 : (shiftBy (sectOf xs 4).off (partitionChecks (body 4))).all (·.2) = true)
    (h5 : (shiftBy (sectOf xs 5).off (purposeChecks ((parseTopo (body 9)).rings.map (·.ring)) (body 5))).all (·.2) = true)
    (h6 : (shiftBy (sectOf xs 6).off (modeChecks (body 6))).all (·.2) = true)
    (h7 : (shiftBy (sectOf xs 7).off (maskChecks (body 7))).all (·.2) = true)
    (h8 : (shiftBy (sectOf xs 8).off (grantChecks (body 8))).all (·.2) = true)
    (h9 : (shiftBy (sectOf xs 9).off
      (topoChecks s.res.pending ((parsePartition (body 4)).map fun p => nth p 0) (reservedRanges s) (body 9))).all (·.2) = true) : jobBad s b = none := by
  unfold jobBad
  rw [h]
  simp only [hb]
  apply firstBad_eq_none
  simp only [List.all_append, Bool.and_eq_true]
  exact ⟨⟨⟨⟨⟨⟨⟨⟨h1, h2⟩, h3⟩, h4⟩, h5⟩, h6⟩, h7⟩, h8⟩, h9⟩

/-- A module without a job, with the JOB_LOAD of that descriptor outstanding. -/
def jobAsk : State := ask ready (cmd 6 1 (jobPayload 262144))

theorem modeChecks_head : (shiftBy (sectOf jobXs 6).off (modeChecks (headSect 6))).all (·.2) = true := by
  rw [show headSect 6 = zeros 262144 from rfl]
  exact modeChecks_cast 65536 262144 _ rfl rfl

set_option maxRecDepth 100000 in
theorem topoChecks_hold : (shiftBy (sectOf jobXs 9).off (topoChecks jobAsk.res.pending ((parsePartition (headSect 4)).map fun p => nth p 0)
    (reservedRanges jobAsk) (headSect 9))).all (·.2) = true := by
  rw [show headSect 9 = topoPart from rfl]
  unfold topoChecks
  simp only [topoPart, field_pad, sub_pad, zeroAt]
  decide +kernel

set_option maxRecDepth 100000 in
theorem rings_head : (parseTopo (headSect 9)).rings = [] := by
  rw [show headSect 9 = topoPart from rfl]
  simp only [parseTopo, topoPart, field_pad, sub_pad]
  decide +kernel

theorem headChecks_hold : (shiftBy (sectOf jobXs 1).off (paramChecks (headSect 1))).all (·.2) = true ∧
    (shiftBy (sectOf jobXs 2).off (groupChecks jobAsk (headSect 2))).all (·.2) = true ∧
    (shiftBy (sectOf jobXs 3).off
      (stackSection jobAsk (parseGroups (headSect 2)) ((parsePartition (headSect 4)).map fun p => nth p 3) (headSect 3))).all (·.2) = true ∧
    (shiftBy (sectOf jobXs 4).off (partitionChecks (headSect 4))).all (·.2) = true ∧
    (shiftBy (sectOf jobXs 5).off (purposeChecks ((parseTopo (headSect 9)).rings.map (·.ring)) (headSect 5))).all (·.2) = true ∧
    (shiftBy (sectOf jobXs 7).off (maskChecks (headSect 7))).all (·.2) = true ∧
    (shiftBy (sectOf jobXs 8).off (grantChecks (headSect 8))).all (·.2) = true := by
  rw [rings_head]
  decide +kernel

/-- The sections of the descriptor. -/
theorem sectBytes_payload (t : Nat) : sectBytes (jobPayload 262144) (sectOf jobXs t) = headSect t := by
  rw [sectBytes, jobPayload, sub_pad, headSect]
  split
  · next h => rw [h, headSect_nine]
  split
  · next h =>
    rw [h, show sectOf jobXs 6 = ⟨6, 3200, 262144⟩ from rfl]
    show sub jobHead 3200 262144 = _
    rw [← length_jobHead, sub_end]
  · rfl

theorem jobBad_payload : jobBad jobAsk (jobPayload 262144) = none :=
  jobBad_of jobSects_payload sectBytes_payload headChecks_hold.1 headChecks_hold.2.1 headChecks_hold.2.2.1 headChecks_hold.2.2.2.1
    headChecks_hold.2.2.2.2.1 modeChecks_head headChecks_hold.2.2.2.2.2.1 headChecks_hold.2.2.2.2.2.2 topoChecks_hold

theorem witness_JobCommandsComplete_load : Starts jobAsk 0 5 6 1 (cmd 6 1 (jobPayload 262144)) ∧ clean (cmd 6 1 (jobPayload 262144)) 0 0 true = true ∧
    jobIn jobAsk [.idle, .stopped, .held] = true ∧ jobBad jobAsk (jobPayload 262144) = none ∧ jobSects (jobPayload 262144) = .ok jobXs := by
  refine ⟨starts _ _ ?_, ?_, ?_, jobBad_payload, jobSects_payload⟩ <;> decide +kernel

/-- A module with a job in phase `ph` whose table 15 has one entry of group 3, and with the program of that entry. -/
def jobbed (ph : JobState) (es : List Entry) (xs : List EntryState) (cores : List Nat) : State := { ready with
  job := { ready.job with phase := ph, schedule := 15, vstages := 1, microBatches := 1, refLen := 1, maxInFlight := 1, groups := [(3, cores)], table := es, walk := xs },
  tables := [(15, es)], programs := [⟨0, 0, nopImage, []⟩], res := { ready.res with committed := some 4 } }

def jobAt (ph : JobState) : State := jobbed ph [someEntry] [] [151]

theorem witness_JobCommandsComplete :
    (∀ ph ∈ [JobState.idle, .stopped, .held], Asks (jobAt ph) (cmd 6 1 []) fun s c => clean c 0 0 true = true ∧
      jobIn s [.idle, .stopped, .held] = true ∧ jobBad s c.payload = some 0) ∧
    (∀ ph ∈ [JobState.loaded, .running, .stopping], Asks (jobAt ph) (cmd 6 1 []) fun s c => clean c 0 0 true = true ∧
      jobIn s [.idle, .stopped, .held] = false) ∧
    (∀ ph ∈ [JobState.loaded, .stopped, .held], ∀ n ∈ [5, 6], Asks (jobAt ph) (cmd 6 2 [] (BitVec.ofNat 64 n)) fun s c => clean c (2 ^ 48 - 1) 0 false = true ∧
      jobIn s [.loaded, .stopped, .held] = true ∧ tableStop s (s.job.swap.getD s.job.schedule) = none ∧ s.res.lost = false ∧ nextStep s = 5) ∧
    (∀ ph ∈ [JobState.running, .stopped, .held, .loaded], Asks (jobAt ph) (cmd 6 7 [] 15) fun s c => clean c 0xF 0 false = true ∧
      jobIn s [.running, .stopped, .held, .loaded] = true ∧ tableStop s c.arg0.toNat = none) ∧
    (∀ a ∈ [0, 1], Asks (jobAt .running) (cmd 6 3 [] (BitVec.ofNat 64 a)) fun s c => s.job.phase = .running ∧ clean c 1 0 false = true ∧ c.arg0.toNat = a) ∧
    Asks (jobAt .stopping) (cmd 6 3 [] 1) (fun s c => clean c 1 0 false = true ∧ c.arg0 = 1 ∧ s.job.phase = .stopping) ∧
    (∀ ph ∈ [JobState.idle, .loaded, .stopped, .held], Asks (jobAt ph) (cmd 6 3) fun s c => clean c 1 0 false = true ∧ s.job.phase = ph) ∧
    (∀ ph ∈ [JobState.loaded, .stopped, .held], Asks (jobAt ph) (cmd 6 6) fun s c => clean c 0 0 false = true ∧
      jobIn s [.loaded, .stopped, .held] = true) ∧
    Asks (jobAt .running) (cmd 6 5) (fun _ c => clean c 0 0 false = true) ∧
    Asks (jobAt .running) (cmd 6 4 (le 4 1) 7) (fun s c => clean c (2 ^ 48 - 1) 0 true = true ∧ s.job.phase ≠ .idle ∧
      lengthsBad s.job.microBatches c.payload = none ∧ lengthsTaken s 7 = true) ∧
    Asks (jobAt .running) (cmd 6 4 (le 4 1) 8) (fun s c => clean c (2 ^ 48 - 1) 0 true = true ∧
      lengthsBad s.job.microBatches c.payload = none ∧ lengthsTaken s 8 = false) ∧
    Asks (jobAt .running) (cmd 6 4 (le 4 0) 7) (fun s c => clean c (2 ^ 48 - 1) 0 true = true ∧
      lengthsBad s.job.microBatches c.payload = some 0) ∧
    Asks ready (cmd 6 0x20 ([3, 15] ++ zeros 14)) (fun _ c => clean c 0 0 true = true ∧ c.payload.length % 16 = 0 ∧
      firstBad (routeChecks c.payload) = none) ∧
    Asks ready (cmd 6 0x20 ([3, 16] ++ zeros 14)) (fun _ c => clean c 0 0 true = true ∧ c.payload.length % 16 = 0 ∧
      firstBad (routeChecks c.payload) = some 1) ∧
    Asks ready (cmd 6 0x20 [3, 15]) (fun _ c => clean c 0 0 true = true ∧ c.payload.length % 16 ≠ 0) := by
  unfold Asks Starts; and_intros <;> decide +kernel

theorem witness_JobStartNamesItsStep :
    (∀ ph ∈ [JobState.loaded, .stopped, .held], ∀ n ∈ [5, 4], Asks (jobAt ph) (cmd 6 2 [] (BitVec.ofNat 64 n)) fun s c => clean c (2 ^ 48 - 1) 0 false = true ∧
      s.job.phase = ph ∧ tableStop s (s.job.swap.getD s.job.schedule) = none ∧ s.res.lost = false ∧ s.res.committed = some 4) ∧
    findTable (jobAt .loaded) 15 = some [someEntry] := by
  unfold Asks Starts; and_intros <;> decide +kernel

/-- An entry that has started, with one instance. -/
def startedEntry (p : InstPhase) : EntryState := { freshEntry with phase := .started, insts := [⟨p, false, false, [], []⟩] }

/-- Core 151 whose launch of instance 0 of entry 0, whose second launch it is where `again`, has ended as `e` says. -/
def ended (e : Bool × Nat) (rc : Nat) (again := false) (bound := false) : State :=
  setCore (jobbed .running [{ someEntry with recompute := rc }] [{ freshEntry with phase := .started, insts := [⟨.running 151, false, again, [], []⟩] }]
    [151]) 151 fun c => { c with launch := some { launchOf 0 with sched := some 0, remote := bound }, ending := some e }

/-- What INSTANCE_END reads there. -/
def endsAs (e : Bool × Nat) (rc : Nat) (again bound : Bool) (s : State) : Prop :=
  walking s = true ∧ (∃ x, s.job.pairs[0]? = some ({ someEntry with recompute := rc }, x) ∧ x.phase = .started ∧
    ∃ y, x.insts[0]? = some y ∧ y.phase = .running 151 ∧ y.again = again) ∧
  (∃ l, (coreAt s 151).launch = some l ∧ l.sched = some 0 ∧ l.number % 65536 = 0 ∧ l.bound = bound ∧ l.cheaper = false) ∧
  (coreAt s 151).ending = some e

theorem ended_endsAs (e : Bool × Nat) (rc : Nat) (again bound : Bool) : endsAs e rc again bound (ended e rc again bound) :=
  ⟨rfl, ⟨_, rfl, rfl, _, rfl, rfl, rfl⟩, ⟨_, rfl, rfl, rfl, by cases bound <;> rfl, rfl⟩, rfl⟩

theorem witness_SequencerMovesOn_end :
    endsAs (false, 0) 0xFFFF false false (ended (false, 0) 0xFFFF) ∧ endsAs (false, 1) 0 false false (ended (false, 1) 0) ∧
    endsAs (false, 1) 0xFFFF false false (ended (false, 1) 0xFFFF) ∧ endsAs (true, 0) 0xFFFF false false (ended (true, 0) 0xFFFF) ∧
    endsAs (true, 0) 0xFFFF false true (ended (true, 0) 0xFFFF false true) ∧ endsAs (true, 0) 0xFFFF true false (ended (true, 0) 0xFFFF true) ∧
    endsAs (true, 2) 0xFFFF false false (ended (true, 2) 0xFFFF) := by
  exact ⟨ended_endsAs .., ended_endsAs .., ended_endsAs .., ended_endsAs .., ended_endsAs .., ended_endsAs .., ended_endsAs ..⟩

theorem witness_SequencerMovesOn :
    ((jobbed .running [someEntry] [freshEntry] [151]).job.pairs[1]? = none ∧ walking (jobAt .held) = false) ∧
    (let s := jobbed .running [someEntry] [freshEntry] [151]; s.job.pairs[0]? = some (someEntry, freshEntry) ∧ walking s = true ∧
      freshEntry.phase = .pending ∧ (liveCores s 3).isEmpty = false ∧ startsNow s 0 someEntry = true ∧ wantsReturns s someEntry freshEntry = false) ∧
    (let e := { someEntry with after := 0 }; let s := jobbed .running [e] [freshEntry] [151]; s.job.pairs[0]? = some (e, freshEntry) ∧
      walking s = true ∧ (liveCores s 3).isEmpty = false ∧ startsNow s 0 e = false) ∧
    (let s := jobbed .running [someEntry] [freshEntry] []; s.job.pairs[0]? = some (someEntry, freshEntry) ∧ (liveCores s 3).isEmpty = true) ∧
    (let e := { someEntry with kind := 3 }; let s := jobbed .running [e] [freshEntry] [151]; s.job.pairs[0]? = some (e, freshEntry) ∧
      eligible s 0 e = true) ∧
    (let e := { someEntry with stackSet := 1, leadUs := 1 }; let s := jobbed .running [e] [freshEntry] [151];
      s.job.pairs[0]? = some (e, freshEntry) ∧ wantsReturns s e freshEntry = true) ∧
    (∀ q ∈ [false, true], let x := { freshEntry with phase := .started, insts := [⟨.pending, q, false, [], []⟩] }
      let e := { someEntry with recompute := 0 }; let s := jobbed .stopping [e] [x] [151]; walking s = true ∧ s.job.pairs[0]? = some (e, x) ∧
      (∀ q ∈ s.job.pairs, ¬(q.1.group = 3 ∧ q.2.phase = .started ∧ q.2.order < x.order ∧ hasPending q.2 = true)) ∧
      (liveCores s 3).find? (fun n => (coreAt s n).launch.isNone) = some 151 ∧ x.insts.findIdx? (fun k => k.phase = .pending) = some 0 ∧
      (findProg s 0).isSome = true) ∧
    (∀ k ∈ [0, 5, 6], atOnce ready { someEntry with kind := k } = decide (k = 6)) ∧
    (∀ b ∈ [false, true], ∀ r ∈ [false, true], let x := { startedEntry .done with broken := b, rerun := r }
      let s := jobbed .running [someEntry] [x] [151]; s.job.pairs[0]? = some (someEntry, x) ∧ x.phase = .started ∧ x.insts.all instEnded = true ∧
      bit someEntry.flags 2 = false) := by
  and_intros <;> decide +kernel

/-! ### Witnesses: ticks, collectives, rings (14) -/

theorem witness_StepTakesTheFront :
    State.reset.pending = [] ∧ { State.reset with pwr := { State.reset.pwr with powered := false } }.pwr.powered = false ∧
    State.reset.pwr.powered = true ∧ State.reset.coll.rings = [] ∧ State.reset.tel.stepRec = none ∧ throttled State.reset = false ∧ State.reset.hbm.waiting = [] ∧
    (∀ n < 36, (nearAt State.reset n).window = none) ∧ (∀ n < 8, (farAt State.reset n).held = none) ∧ State.reset.job.phase = .idle := by
  and_intros <;> decide +kernel

theorem witness_EveryCommandCompletesOrNamesNoUnit : (Instr.doorbell 0 0 []).wf = true ∧ (Instr.doorbell 16 0 []).wf = false := by decide

/-- The ring 7 of list 2: one column vector and the token record to a block. -/
def aRing : RingRec := ⟨7, 0, 2, 1, 0, 0x01000040, 0, 1, 2, 1, 0x900000, 0xA00000, 0⟩

/-- A topology of modules 7 and 9. -/
def someTopo : Topo := ⟨0, some 9, 1, 0, 0, 0, List.replicate 36 ⟨true, 9, 35, 1, 1⟩, [⟨0x900000, 0x100000, 7, 3⟩], [aRing],
  [⟨1, 0, some 0, [7, 9]⟩, ⟨2, 3, some 0, [7, 9]⟩], []⟩

/-- A link that is up. -/
def upLink : Near := { Near.reset with state := .up, version := 2, credits := [255, 255, 255, 255] }

/-- Module 7 of that topology, whose near port 0 is up and leads to module 9; step 4 of a job walks. -/
def meshed : State :=
  let j := jobbed .running [someEntry] [freshEntry] [0]
  { j with job := { j.job with step := 4, purposes := [(3, 0x2F)], partition := [[1, 1, 1, 1, 1], [1, 1, 1, 1, 1]] },
           fab := { ready.fab with device := some 7, topo := some someTopo, near := ready.fab.near.set 0 upLink,
                                   routes := List.replicate 4 (List.replicate 16 0x100000000001) } }

/-- A descriptor of operation `h` of kind `op` on list `list`. -/
def collDesc (h op list : Nat) : List Byte :=
  le 2 h ++ le 1 op ++ le 1 0 ++ le 2 list ++ le 1 0 ++ le 1 0 ++ le 2 0 ++ le 2 0 ++ le 4 0 ++ le 4 5 ++ le 2 0 ++ zeros 10 ++ descAt 0x900000 ++ descAt 0xB00000 ++ zeros 32

def aDef (h op list : Nat) : CollDef := ⟨h, collDesc h op list, 0, 0, 0, 4, 0, 0, none⟩

/-- Operation 4095, an exchange of list 1, in progress, with one tile sent and kept; and ring operation 6 on ring 7. -/
def endGathering (op : Nat) (backward : Bool) : State := { meshed with coll := { meshed.coll with
  defs := [aDef 4095 op 1, aDef 6 7 7],
  runs := [⟨4095, 0, 0, [⟨1, 0, [1, 2], 3, shapeBits oneCol % 2 ^ 24, some 0, 0⟩], [⟨1, 1, 1, 0, (0, 1)⟩], [], [], [], [], [], [], 1, 1⟩],
  rings := [⟨7, 6, 0, 0, backward, { freshFlow with out := [⟨0, 0, [1, 2], 3, shapeBits oneCol % 2 ^ 24, some 0, 0⟩], told := (0, 2) },
    { freshFlow with told := (0, 2) }, [], 0⟩] } }

/-- A packet for module 7 from module 9 at near port 0, of the running step. -/
def fromNine (type : Byte) (address idx : Nat) (spec0 : Nat) (spec3 channel : Nat) (pay : List Byte) : Packet :=
  ⟨0, type, 0, 3, BitVec.ofNat 8 idx, 7, 9, 0, BitVec.ofNat 64 address, BitVec.ofNat 32 spec0,
   if type = 0x20 || type = 0x30 || type = 0x32 then BitVec.ofNat 24 (shapeBits oneCol) else 0, 0, 4,
   BitVec.ofNat 16 spec3, BitVec.ofNat 16 channel, pay⟩

/-- The payload of a RESHARD of one list, where the topology has no ring. -/
def reshardPay : List Byte := le 2 1 ++ le 1 0 ++ le 1 0 ++ le 4 2 ++ le 4 0 ++ le 4 0 ++ le 4 7 ++ le 4 9 ++ zeros 40
def ringless (phase : JobState) : State := { meshed with job := { meshed.job with phase }, fab := { meshed.fab with topo := some { someTopo with rings := [] } } }

/-- The gradient tile of out-slot 0, with its record. -/
def handing : State :=
  let s := endGathering 5 true
  let a := slotAt (outSlot aRing 0)
  { semAdd s 0 0 3 1 with recs := [(a, headRec ⟨0, 0, 0, 0, 128, 128⟩ 0)] }

theorem witness_CollectiveCommandsComplete :
    Asks meshed (cmd 6 0x22 (collDesc 4095 2 255 ++ collDesc 0 7 7)) (fun s c => clean c 0 0 true = true ∧ c.payload.length % 128 = 0 ∧
      ((records 128 c.payload).map (·.2)).all (collOk s) = true ∧
      (((records 128 c.payload).map (·.2)).any fun d => collBusy s (field d 0 2)) = false) ∧
    Asks meshed (cmd 6 0x22 (collDesc 4095 2 255 ++ collDesc 0 8 7)) (fun s c => clean c 0 0 true = true ∧ c.payload.length % 128 = 0 ∧
      ((records 128 c.payload).map (·.2)).findIdx? (fun d => !collOk s d) = some 1) ∧
    Asks (endGathering 2 false) (cmd 6 0x22 (collDesc 4095 2 255)) (fun s c => clean c 0 0 true = true ∧ c.payload.length % 128 = 0 ∧
      ((records 128 c.payload).map (·.2)).all (collOk s) = true ∧
      (((records 128 c.payload).map (·.2)).any fun d => collBusy s (field d 0 2)) = true) ∧
    Asks meshed (cmd 6 0x22 [0]) (fun _ c => clean c 0 0 true = true ∧ c.payload.length % 128 ≠ 0) ∧
    Asks meshed (cmd 6 0x23 [] 4095) (fun s c => clean c 0xFFF 0 false = true ∧ findDef s c.arg0.toNat = none) ∧
    Asks (endGathering 2 false) (cmd 6 0x23 [] 4095) (fun s c => clean c 0xFFF 0 false = true ∧ (findDef s c.arg0.toNat).isSome = true ∧
      collBusy s c.arg0.toNat = true) ∧
    (∀ gen ∈ [0, 2], Asks (ringless .running) (cmd 6 0x24 reshardPay (BitVec.ofNat 64 gen)) fun s c => clean c 0x1FFFF 0 true = true ∧ s.job.phase ≠ .idle ∧
      firstBad (reshardChecks s c.payload) = none ∧ (reshardParts s c.payload).isSome = true ∧ bits c.arg0.toNat 15 0 ≠ (s.coll.gen + 1) % 65536) ∧
    (∀ ph ∈ [JobState.running, .stopped], Asks (ringless ph) (cmd 6 0x24 reshardPay 0x10001) fun s c => clean c 0x1FFFF 0 true = true ∧
      firstBad (reshardChecks s c.payload) = none ∧ (reshardParts s c.payload).isSome = true ∧ bits c.arg0.toNat 15 0 = (s.coll.gen + 1) % 65536 ∧
      s.coll.pending = none ∧ bit c.arg0.toNat 16 = true ∧ (discardedEntry s).isSome = decide (ph = .running)) ∧
    Asks (ringless .running) (cmd 6 0x24 (le 2 2 ++ zeros 62) 1) (fun s c => clean c 0x1FFFF 0 true = true ∧ s.job.phase ≠ .idle ∧
      (firstBad (reshardChecks s c.payload)).isSome = true) ∧
    ((endGathering 2 false).coll.runs ≠ [] ∧ findDef meshed 0 = none) ∧
    Asks { meshed with coll := { meshed.coll with defs := [aDef 4095 2 1] } } (cmd 6 0x23 [] 4095) (fun s c => clean c 0xFFF 0 false = true ∧
      (findDef s c.arg0.toNat).isSome = true ∧ collBusy s c.arg0.toNat = false ∧ (∀ t ∈ s.tables, ∀ e ∈ t.2, ¬(e.kind = 5 ∧ e.program % 4096 = c.arg0.toNat))) ∧
    Asks (endGathering 2 false) (cmd 6 0x25 [] 4095) (fun s c => clean c 0xFFF 0 false = true ∧ findDef s c.arg0.toNat = some (aDef 4095 2 1)) ∧
    Asks meshed (cmd 6 0x21) (fun _ c => clean c 0 0 false = true) ∧
    (∀ ph ∈ [JobState.running, .stopped], Asks (ringless ph) (cmd 6 0x24 reshardPay 1) fun s c => clean c 0x1FFFF 0 true = true ∧ s.job.phase ≠ .idle ∧
      firstBad (reshardChecks s c.payload) = none ∧ reshardParts s c.payload = some ([(0, ⟨1, 0, some 0, [7, 9]⟩)], 64) ∧
      bits c.arg0.toNat 15 0 = (s.coll.gen + 1) % 65536 ∧ s.coll.pending = none ∧ bit c.arg0.toNat 16 = false ∧
      walking s = decide (ph = .running) ∧ s.coll.runs = [] ∧ s.coll.rings = []) ∧
    (let r : Reshard := ⟨0, 5, 1, [], []⟩; let s := { ringless .stopped with coll := { ready.coll with pending := some r } };
      walking s = false ∧ s.coll.pending = some r ∧ s.coll.runs = [] ∧ s.coll.rings = []) ∧
    (findDef (endGathering 5 true) 4095 = some (aDef 4095 5 1) ∧ dLimit (collDesc 4095 5 1) = 5 ∧ (findRun (endGathering 5 true) 4095).isSome = true) ∧
    (findDef (endGathering 5 true) 6 = some (aDef 6 7 7) ∧ dLimit (collDesc 6 7 7) = 5 ∧ findRun (endGathering 5 true) 6 = none ∧
      ((endGathering 5 true).coll.rings.find? fun r => r.handle = 6).isSome = true) := by
  unfold Asks Starts; and_intros <;> decide +kernel

/-- A state whose ring 7 holds what a hand-off asks for. -/
abbrev HandsOff (s : State) (items : Prop) (image : Bool) : Prop :=
  ∃ c r, ringCtx s 7 = some c ∧ findRing s 7 = some r ∧ purposeSems s (0x28 + 7) = 3 :: [] ∧ r.backward = true ∧
    r.handed ≠ c.n * c.rec'.blocks ∧ ringHolds s c 3 = true ∧ (r.handed < c.items ↔ items) ∧
    ((gradImage (setRing (ringTake s c 3) 7 fun r => { r with handed := r.handed + 1 }) c r.handed).toOption.isSome = image)

theorem witness_CollectiveCommandsComplete_handoff :
    HandsOff handing True true ∧ HandsOff { handing with recs := [] } True false ∧
    HandsOff { handing with coll := { handing.coll with rings := handing.coll.rings.map fun r => { r with handed := 1 } } } False true ∧
    ∃ c r, ringCtx meshed 7 = some c ∧ findRing (endGathering 5 false) 7 = some r ∧ r.backward = false := by
  refine ⟨?_, ?_, ?_, ⟨⟨aRing, 0, [7, 9]⟩, _, rfl, rfl, rfl⟩⟩
  all_goals refine ⟨⟨aRing, 0, [7, 9]⟩, _, rfl, rfl, ?_⟩
  all_goals and_intros
  all_goals decide +kernel


/-- The packet arrives, and `p` holds of the operation that it belongs to. -/
abbrev ForRun (s : State) (p : Packet) (type : Byte) (f : State → OpCtx → CollRun → Bool) : Prop :=
  Arrives s p type ∧ ((runOf (taken s p) p).any fun x => f (taken s p) x.1 x.2) = true

/-- The operation with tile (1, 0) half come, verified, asked for or counted, as `f` says. -/
def midRun (op : Nat) (f : CollRun → CollRun) : State :=
  { endGathering op false with coll := { (endGathering op false).coll with runs := (endGathering op false).coll.runs.map f } }

theorem witness_CollectivePacketsAct_stale :
    (∀ ty ∈ [0x20, 0x21, 0x22, 0x23, 0x24], let p := fromNine (BitVec.ofNat 8 ty) 0 0 1 1 4094 []; let s := endGathering 2 false
      Arrives s p (BitVec.ofNat 8 ty) ∧ bit p.channel.toNat 15 = false ∧ runOf (taken s p) p = none) ∧
    (let p := fromNine 0x24 5 0 0 1 0x8006 []; let s := endGathering 2 false; Arrives s p 0x24 ∧ bit p.channel.toNat 15 = true ∧
      ringOf (taken s p) p true = none ∧ ringOf (taken s p) p false = none) ∧
    (let p := fromNine 0x24 5 0 0 1 0x8007 []; let s := endGathering 2 false; Arrives s p 0x24 ∧ bit p.channel.toNat 15 = true ∧
      (ringOf (taken s p) p true).isSome = true) := by
  unfold Arrives; and_intros <;> decide +kernel

theorem witness_CollectivePacketsAct_data :
    ForRun (endGathering 2 false) (fromNine 0x20 2 0 1 1 4095 []) 0x20 (fun t o r => !itemExpected t o r 1 2) ∧
    ForRun (endGathering 2 false) (fromNine 0x20 0 1 1 1 4095 (zeros 8)) 0x20 (fun t o r => itemExpected t o r 1 0 && r.parts.isEmpty) ∧
    (∀ n ∈ [8, 4096], ForRun (endGathering 2 false) (fromNine 0x20 0 0 1 1 4095 (zeros n)) 0x20 fun t o r => itemExpected t o r 1 0 &&
      decide (o.h = 4095) && decide (Shape.bytes (expectShape o (fromNine 0x20 0 0 1 1 4095 [])) ≤ n) == decide (n = 4096)) ∧
    ForRun (midRun 2 fun r => { r with parts := [(1, 0, 1, zeros 2048)] }) (fromNine 0x20 0 1 1 1 4095 (zeros 2048)) 0x20 (fun t o r =>
      itemExpected t o r 1 0 && (r.parts.find? fun x => x.1 = 1 && x.2.1 = 0).any (fun x => x.2.2.1 = 1)) ∧
    (∀ asked ∈ [[], [(1, 0)]], let p : Packet := { fromNine 0x20 0 0 1 1 4095 (zeros 4096) with flags := 3, spec1 := 5 }
      ForRun (midRun 2 fun r => { r with asked }) p 0x20 fun t o r => (arrivalOk t p (expectShape o p) []).isNone &&
        r.asked.contains (1, 0) == !asked.isEmpty &&
        (pickPort (setRun t o.h fun r => { r with asked := (1, 0) :: r.asked }) (o.dev 1) 2).isSome) := by
  unfold ForRun Arrives; and_intros <;> decide +kernel

theorem witness_CollectivePacketsAct_others :
    (∀ op ∈ [2, 5], ForRun (endGathering op false) (fromNine 0x21 1 0 4 1 4095 []) 0x21 fun _ o _ => o.receivers.contains 1 == decide (op = 5)) ∧
    ForRun (endGathering 2 false) (fromNine 0x22 0 0 0 1 4095 []) 0x22 (fun t o r =>
      ((r.out.filter fun y => y.rcv = 1 && y.item = 0 && y.place.isSome).getLast?).any fun y => (sendTile t 0x20 (o.dev y.rcv) o.rank o.h y).isSome) ∧
    ForRun { endGathering 2 false with fab := { (endGathering 2 false).fab with routes := List.replicate 4 (List.replicate 16 0) } }
      (fromNine 0x22 0 0 0 1 4095 []) 0x22 (fun t o r =>
      ((r.out.filter fun y => y.rcv = 1 && y.item = 0 && y.place.isSome).getLast?).any fun y => (sendTile t 0x20 (o.dev y.rcv) o.rank o.h y).isNone) ∧
    (let p := fromNine 0x23 0 0 0 1 4095 (zeros 8); ForRun (endGathering 5 false) p 0x23 fun _ o r => dOp o.d = 5 && (!r.counts.any fun c => c.1 = 1) &&
      p.payload.length = 8) ∧
    ForRun (midRun 5 fun r => { r with counts := [(1, 0, 0)] }) (fromNine 0x23 0 0 0 1 4095 (zeros 8)) 0x23 (fun _ _ r => r.counts.any fun c => c.1 = 1) ∧
    (let p := fromNine 0x24 5 0 0 1 4095 []; ForRun (endGathering 2 false) p 0x24 fun _ _ r => !bit p.channel.toNat 15 && r.mates.any fun m => m.rank = 1) ∧
    (let p := fromNine 0x24 5 0 0 1 4095 []; ForRun (midRun 2 fun r => { r with mates := [] }) p 0x24 fun _ _ r => !bit p.channel.toNat 15 &&
      !r.mates.any fun m => m.rank = 1) := by
  unfold ForRun Arrives; and_intros <;> decide +kernel

/-- The packet arrives, and `f` holds of the ring that it belongs to. -/
abbrev ForRing (s : State) (p : Packet) (type : Byte) (fromPrev : Bool) (f : State → RingCtx → RingRun → Bool) : Prop :=
  Arrives s p type ∧ ((ringOf (taken s p) p fromPrev).any fun x => f (taken s p) x.1 x.2) = true

/-- The ring with its flows changed. -/
def midRing (backward : Bool) (f : RingRun → RingRun) : State :=
  { endGathering 2 backward with coll := { (endGathering 2 backward).coll with rings := (endGathering 2 backward).coll.rings.map f } }

theorem witness_RingPacketsAct_tiles :
    (∀ ty ∈ [(0x30, true), (0x31, false), (0x32, true), (0x33, false)], let p := fromNine (BitVec.ofNat 8 ty.1) 0 0 1 1 0x8006 []
      Arrives (endGathering 2 false) p (BitVec.ofNat 8 ty.1) ∧ ringOf (taken (endGathering 2 false) p) p ty.2 = none) ∧
    ForRing (endGathering 2 false) (fromNine 0x30 1 0 1 1 0x8007 []) 0x30 true (fun _ c _ => c.items ≤ 1) ∧
    ForRing (endGathering 2 false) (fromNine 0x32 1 0 1 1 0x8007 []) 0x32 true (fun _ _ r => r.backward = false) ∧
    (∀ n ∈ [(1, 8), (0, 8), (0, 4096)], ForRing (endGathering 2 false) (fromNine 0x30 0 n.1 1 1 0x8007 (zeros n.2)) 0x30 true fun _ c r => 0 < c.items &&
      !r.blk.got.contains 0 && 0 < r.blk.told.2 && r.blk.parts.isEmpty &&
      decide (Shape.bytes (ringShape c false 0 (fromNine 0x30 0 0 1 1 0x8007 [])) ≤ n.2) == decide (n.2 = 4096)) ∧
    (∀ idx ∈ [0, 1], ForRing (endGathering 2 true) (fromNine 0x32 1 idx 1 1 0x8007 (zeros 8)) 0x32 true fun _ c r => r.backward && c.items = 1 &&
      !r.grad.got.contains 1 && 1 < r.grad.told.2 && r.grad.parts.isEmpty && 8 < Shape.bytes (ringShape c true 0 (fromNine 0x32 1 0 1 1 0x8007 []))) ∧
    ForRing (midRing true fun r => { r with grad := { r.grad with parts := [(1, 0, 15, zeros 61440)] } }) (fromNine 0x32 1 15 1 1 0x8007 (zeros 4096))
      0x32 true (fun _ c r => r.backward && c.items = 1 && r.grad.parts.any (fun x => x.1 = 1 && x.2.2.1 = 15) &&
        Shape.bytes (ringShape c true 0 (fromNine 0x32 1 0 1 1 0x8007 [])) = 61440 + 4096) ∧
    (∀ redo ∈ [[], [0]], let p : Packet := { fromNine 0x30 0 0 1 1 0x8007 (zeros 4096) with flags := 3, spec1 := 5 }
      ForRing (midRing false fun r => { r with blk := { r.blk with redo } }) p 0x30 true fun t c r => (arrivalOk t p (ringShape c false 0 p) []).isNone &&
        (r.flow false).redo.contains 0 == !redo.isEmpty) ∧
    ForRing (endGathering 2 false) (fromNine 0x30 0 0 1 1 0x8007 (zeros 4096)) 0x30 true (fun t c r =>
      (arrivalOk t (fromNine 0x30 0 0 1 1 0x8007 []) (ringShape c false 0 (fromNine 0x30 0 0 1 1 0x8007 [])) []).isSome && !(r.flow false).asked.contains 0) := by
  unfold ForRing Arrives; and_intros <;> decide +kernel

theorem witness_RingPacketsAct_control :
    (∀ b ∈ [false, true], ForRing (endGathering 2 b) (fromNine 0x31 1 0 1 1 0x8007 []) 0x31 false fun _ c r => r.backward == b && 1 ≤ c.items) ∧
    ForRing (endGathering 2 true) (fromNine 0x31 1 0 2 1 0x8007 []) 0x31 false (fun _ c r => r.backward && c.items < 2) ∧
    ForRing (endGathering 2 false) (fromNine 0x33 1 0 0 1 0x8007 []) 0x33 false (fun _ c r =>
      ((r.flow (decide (c.items ≤ 1))).out.filter fun x => x.item = 1 && x.place.isSome).isEmpty) ∧
    (∀ w ∈ [0, 0x100000000001], let s := endGathering 2 false
      ForRing { s with fab := { s.fab with routes := List.replicate 4 (List.replicate 16 (BitVec.ofNat 64 w)) } } (fromNine 0x33 0 0 0 1 0x8007 []) 0x33 false
        fun t c r => !decide (c.items ≤ 0) && (r.blk.out.filter fun x => x.item = 0 && x.place.isSome).length = 1 &&
          (r.blk.out.filter fun x => x.item = 0 && x.place.isSome).all fun x =>
            (sendTile t 0x30 c.nextDev c.rank (ringChannel r.ring) x).isSome == decide (w ≠ 0)) := by
  unfold ForRing Arrives; and_intros <;> decide +kernel

theorem witness_ChunksPartitionTheTiles : (4 < 5 ∧ 0 < 3 ∧ chunkOf 5 3 4 = 2 ∧ chunkOf 5 3 0 = 0) ∧ 2 < 3 ∧ 0 < (parseDesc (descAt 0x900000)).tc := by
  decide +kernel

/-! ### Witnesses: the fabric (13) -/

/-- The block of module 9 at its port 35. -/
def nineBlock : List Byte := withCrc (ascii "EWCB" ++ le 1 2 ++ le 1 1 ++ le 1 35 ++ le 1 7 ++ le 4 9 ++ le 2 4096 ++ [192, 192, 96, 32] ++ zeros 42)

/-- Near port `n` of that module changed. -/
def linked (n : Nat) (f : Near → Near) : State := setNear { meshed with pwr := { meshed.pwr with stage := .ready } } n f

/-- A flit of sequence number 0 that carries no packet. -/
def idleFlit (crc : Nat) : List Byte := zeros 508 ++ le 4 crc

set_option maxRecDepth 100000 in
theorem witness_flit : ∃ b : List Byte, b.length = 512 ∧ bit (field b 0 4) 23 = false ∧ field b 508 4 = (crc32c (b.take 508)).toNat ∧
    bits (field b 0 4) 9 0 = upLink.rxNext := by
  refine ⟨idleFlit (crc32c (zeros 508)).toNat, ?_⟩; and_intros <;> decide +kernel

/-- A window at near port 0 of that module. -/
def visWindowed (k : Nat) (good : Bool) : State := linked 0 fun _ => { upLink with state := .held, window := some ⟨k, 5, true, 3, good⟩ }

/-- A block that is not the expected one: it is of module 10. -/
def tenBlock : List Byte := withCrc (ascii "EWCB" ++ le 1 2 ++ le 1 1 ++ le 1 35 ++ le 1 7 ++ le 4 10 ++ le 2 4096 ++ [192, 192, 96, 32] ++ zeros 42)

set_option maxRecDepth 100000 in
theorem witness_NearPortsMoveOn_link :
    (∀ n ∈ [0, 35], ∀ st ∈ [PortState.train, .exchange, .up, .held, .down, .failed], (nearAt (linked n fun x => { x with state := st }) n).state = st) ∧
    (∀ n ∈ [0, 35], let s := linked n fun _ => { Near.reset with state := .exchange }; (nearAt s n).state = .exchange ∧ (nearAt s n).block = [] ∧
      blockExpected s n nineBlock = true ∧ blockExpected s n tenBlock = false ∧ s.fab.near.length = 36) ∧
    (∀ st ∈ [PortState.up, .held], let s := linked 0 fun _ => { upLink with state := st }; (nearAt s 0).state = st ∧
      blockExpected s 0 nineBlock = true ∧ blockExpected s 0 tenBlock = false) ∧
    (let s := linked 0 fun x => { x with state := .exchange, block := nineBlock }; (nearAt s 0).state = .exchange ∧ (nearAt s 0).block ≠ []) := by
  and_intros <;> decide +kernel

set_option maxRecDepth 100000 in
theorem witness_NearPortsMoveOn_window :
    (∀ st ∈ [PortState.up, .exchange, .train], let s := linked 0 fun _ => { upLink with state := st, block := nineBlock }; (nearAt s 0).state = st ∧
      swapDue (.errors 1 99999) = true ∧ swapDue (.errors 1 100000) = false ∧ noSpare s 0 true = false) ∧
    (∀ out ∈ [false, true], let s := linked 0 fun _ => { upLink with block := nineBlock }
      noSpare { s with fab := { s.fab with spares := [(0, out, 7)] } } 0 true = out) ∧
    noSpare (linked 17 fun _ => upLink) 17 true = true ∧
    ((visWindowed 0 true).fab.near.length = 36 ∧ (nearAt (visWindowed 0 true) 0).state = .held) ∧
    (∀ k ∈ [0, 1, 2], ∀ good ∈ [true, false], (nearAt (visWindowed k good) 0).window = some ⟨k, 5, true, 3, good⟩) ∧
    drained meshed 0 = true ∧
    (let p : Packet := { fromNine 0x01 0 1 0 1 0 [] with src := 7, dst := 9 };
      drained { meshed with fab := { meshed.fab with egress := [(0, 0, p)], sent := [(0, { p with index := 0 })] } } 0 = false) := by
  and_intros <;> decide +kernel

set_option maxRecDepth 100000 in
theorem witness_NearPortsMoveOn_flits :
    Machine.linked (linked 0 fun _ => upLink) 0 = true ∧ Machine.linked (linked 0 fun _ => Near.reset) 0 = false ∧
    (let b := idleFlit 0; b.length = 512 ∧ bit (field b 0 4) 23 = false ∧ field b 508 4 ≠ (crc32c (b.take 508)).toNat) ∧
    (bits (field (idleFlit 0) 0 4) 9 0 ≠ (nearAt (linked 0 fun _ => { upLink with rxNext := 1023 }) 0).rxNext ∧
      (0 + 1024 - 1023) % 1024 < 512 ∧ (nearAt (linked 0 fun _ => { upLink with rxNext := 1023 }) 0).nak = false) ∧
    (∀ p ∈ [0, 17], meshed.fab.present.getD p false = true ∧ (setPresent meshed p false).fab.present.getD p false = false) ∧
    (∀ a ∈ [0, 1, 2], Asks meshed (cmd 10 6 [] 0xFFFFFFFFF (BitVec.ofNat 64 a)) fun _ c => clean c 0xFFFFFFFFF 3 false = true ∧ c.arg1 ≠ 3) := by
  unfold Asks Starts; and_intros <;> decide +kernel

/-- A request or an answer of module 9 with tag 5. -/
def toSeven (type : Byte) (address idx spec0 total : Nat) (pay : List Byte) : Packet :=
  { fromNine type address idx spec0 total 0 pay with tag := 5, spec2 := 0 }

/-- A sealed one, whose tile has its seal-table entry at 0x900100. -/
def sealedPacket (type : Byte) (idx : Nat) (resend : Bool) (crc : Word) (total : Nat) (pay : List Byte) : Packet :=
  { toSeven type 0x900000 idx 0 total pay with flags := if resend then 6 else 2, spec0 := crc, spec1 := 5, spec2 := 0x900100 }

/-- A module whose only memory channels have failed. -/
def deadChannels : State := { meshed with hbm := { meshed.hbm with failed := List.range 384 } }

/-- The exposed range of that topology begins at 0x900000. -/
theorem witness_RequestsAreServed_reads :
    heldRequest { meshed with hbm := { meshed.hbm with held := (List.range 384).map fun n => ⟨n, 2, 0, 0, 0⟩ } } (toSeven 0x01 0x900000 0 0 1 []) 64 = true ∧
    (∀ n ∈ [1, 1024], let p := toSeven 0x01 0x900000 0 0 n []; let t := taken meshed p; heldRequest meshed p (64 * n) = false ∧ Arrives meshed p 0x01 ∧
      p.total = n ∧ refuses t p p.addr (64 * n) 0 = none ∧ p.sealed = false ∧ badGranule t p.addr (64 * n) = none) ∧
    (∀ n ∈ [0, 1025], let p := toSeven 0x01 0x900000 0 0 n []; Arrives meshed p 0x01 ∧ p.total = n) ∧
    (let p := sealedPacket 0x01 0 false 0 1 []; let t := taken meshed p; refuses t p p.addr 64 0 = none ∧ p.sealed = true ∧
      badGranule t p.addr 64 = none ∧ badGranule t (bits p.spec2.toNat 40 0) 4 = none) ∧
    (∀ bad ∈ [0x900000, 0x900100], let p := { sealedPacket 0x01 0 false 0 1 [] with spec0 := 0, spec1 := 0 }; let s := { meshed with poison := [bad] }
      let t := taken s p; refuses t p p.addr 64 0 = none ∧ (badGranule t p.addr 64).isSome = decide (bad = 0x900000) ∧
      (badGranule t (bits p.spec2.toNat 40 0) 4).isSome = decide (bad = 0x900100)) ∧
    (∀ a ∈ [(0x800000, rAccess), (0xFFFFFFFFC0, rRange)], let p := toSeven 0x01 a.1 0 0 1 []; Arrives meshed p 0x01 ∧
      refuses (taken meshed p) p p.addr 64 0 = some a.2) := by
  unfold Arrives; and_intros <;> decide +kernel

theorem witness_RequestsAreServed_writes :
    (∀ n ∈ [1, 1024], let p := toSeven 0x03 0x900000 0 0 n (zeros 64); let u := dropEntry (taken meshed p) p; heldRequest meshed p 64 = false ∧
      Arrives meshed p 0x03 ∧ p.index = 0 ∧ p.total = n ∧ refuses u p p.addr (64 * n) 1 = none ∧
      (u.fab.entries.filter fun e => e.die = min 1 (portDie p.port)).length < 16384) ∧
    (∀ n ∈ [0, 1025], let p := toSeven 0x03 0x900000 0 0 n (zeros 64); Arrives meshed p 0x03 ∧ p.index = 0 ∧ p.total = n) ∧
    (∀ a ∈ [(0x800000, rAccess), (0xFFFFFFFFC0, rRange)], let p := toSeven 0x03 a.1 0 0 1 (zeros 64); Arrives meshed p 0x03 ∧ p.index = 0 ∧
      refuses (dropEntry (taken meshed p) p) p p.addr 64 1 = some a.2) ∧
    (let p := toSeven 0x03 0x900040 1 0 2 (zeros 64); let e : WrEntry := ⟨9, 5, 0x900000, 2, 64, false, 0, 0, 0, false, 0, 0⟩
      let s := { meshed with fab := { meshed.fab with entries := [e] } }; Arrives s p 0x03 ∧ p.index ≠ 0 ∧
      (taken s p).fab.entries.find? (fun e => e.src = p.src && e.tag = p.tag) = some e ∧
      (taken meshed p).fab.entries.find? (fun e => e.src = p.src && e.tag = p.tag) = none ∧ e.addr ≤ p.addr ∧
      p.addr + p.payload.length ≤ e.addr + 64 * e.total ∧ 64 * e.total ≤ e.got + p.payload.length) ∧
    (∀ r ∈ [false, true], let q : Word := 1; let p := sealedPacket 0x03 0 r q 1 (zeros 64)
      let e : WrEntry := ⟨9, 5, 0x900000, 1, 0, true, q, 5, 0x900100, r, 0, 0⟩; let d := dropEntry (writeLocal meshed p.addr p.payload) p
      deadRange d e.addr 64 = false ∧ e.sealed = true ∧ e.resend = r ∧ sealOf (shapeOf e.header) (readLocal d e.addr 64) ≠ e.crc) ∧
    deadRange deadChannels 0x900000 64 = true := by
  unfold Arrives; and_intros <;> decide +kernel

theorem witness_RequestsAreServed_seal : let d := dropEntry (writeLocal meshed 0x900000 (zeros 64)) (toSeven 0x03 0x900000 0 0 1 [])
    ∃ e : WrEntry, e.sealed = true ∧ deadRange d e.addr (64 * e.total) = false ∧
      sealOf (shapeOf e.header) (readLocal d e.addr (64 * e.total)) = e.crc :=
  ⟨⟨9, 5, 0x900000, 1, 0, true, sealOf (shapeOf 5) (readLocal (dropEntry (writeLocal meshed 0x900000 (zeros 64)) (toSeven 0x03 0x900000 0 0 1 []))
    0x900000 64), 5, 0x900100, false, 0, 0⟩, rfl, by decide +kernel, rfl⟩

theorem witness_RequestsAreServed_full : let s := { meshed with fab := { meshed.fab with entries := List.replicate 16384 ⟨9, 6, 0x900000, 2, 64, false, 0, 0, 0, false, 0, 0⟩ } }
    ∀ d, d = 0 → (s.fab.entries.filter fun e => e.die = d).length = 16384 := by
  intro s d h
  subst h
  simp only [s, List.filter_replicate, decide_true, if_true, List.length_replicate]

theorem witness_RequestsAreServed_others :
    (∀ k ∈ [0, 7], let p := toSeven 0x05 0x900000 0 k 0 (zeros 16); let t := taken meshed p; Arrives meshed p 0x05 ∧ p.addr % 8 = 0 ∧
      p.spec0.toNat = k ∧ p.payload.length = 16 ∧ refuses t { p with flags := 0 } p.addr 8 2 = none ∧ badGranule t p.addr 8 = none) ∧
    (let p := toSeven 0x05 0x900000 0 8 0 (zeros 16); Arrives meshed p 0x05 ∧ 8 ≤ p.spec0.toNat) ∧
    (let p := toSeven 0x05 0x900000 0 0 0 (zeros 16); let s := { meshed with poison := [0x900000] }; Arrives s p 0x05 ∧
      (badGranule (taken s p) p.addr 8).isSome = true) ∧
    (let p := toSeven 0x05 0x800000 0 0 0 (zeros 16); Arrives meshed p 0x05 ∧ refuses (taken meshed p) { p with flags := 0 } p.addr 8 2 = some rAccess) ∧
    (∀ q ∈ [0, 63], let p := toSeven 0x07 q 0 0 0 (zeros 128); Arrives meshed p 0x07 ∧ p.payload.length = 128 ∧
      (deliver (taken meshed p) (bits p.addr 5 0) p.payload).isSome = true) ∧
    (let p := toSeven 0x07 0 0 0 0 (zeros 8); Arrives meshed p 0x07 ∧ p.payload.length ≠ 128) ∧
    (let p := toSeven 0x07 63 0 0 0 (zeros 128); let s := { meshed with hubSems := meshed.hubSems.set (queueSem 63) 64 }; Arrives s p 0x07 ∧
      (deliver (taken s p) (bits p.addr 5 0) p.payload).isNone = true) ∧
    (let p := toSeven 0x07 63 0 1 0 (zeros 128); (nearAt (atPort meshed p) p.port).state = .up ∧ packetOk p = false) ∧
    (let p := toSeven 0x07 63 0 0 0 (zeros 128); let s := setNear meshed 0 (fun x => { x with version := 1 }); packetOk p = true ∧
      onV1 (takeIngress (atPort s p) p) p = true ∧ v1Ok (takeIngress (atPort s p) p) p = false) ∧
    (let p := toSeven 0x07 63 0 0 0 (zeros 128); packetOk p = true ∧ { meshed with fab := { meshed.fab with device := none } }.fab.device = none ∧
      onV1 meshed p = false) ∧
    (∀ h ∈ [0, 3], let p := { toSeven 0x07 63 0 0 0 (zeros 128) with dst := 9, hops := BitVec.ofNat 8 h }; packetOk p = true ∧ p.target ≠ 7 ∧
      p.index = 0 ∧ (pickPort meshed p.target (vcOf p.type)).isSome = true ∧ pickPort ready p.target (vcOf p.type) = none ∧ p.hops.toNat = h) ∧
    (let p := { toSeven 0x03 63 1 0 2 (zeros 64) with dst := 9 }; let s := { meshed with fab := { meshed.fab with flows := [(flowKey p, 0)] } }
      (s.fab.flows.find? fun f => f.1 = flowKey p).map (·.2) = some 0 ∧ p.index ≠ 0) := by
  unfold Arrives; and_intros <;> decide +kernel

theorem witness_AtomicsReadModifyWrite : ready.hbm.failed = [] ∧ ready.lpddr.failed = [] ∧ ready.poison = [] ∧ (lpddrBase - 8) + 8 ≤ lpddrBase ∧ 7 < 8 := by
  and_intros <;> decide +kernel

/-- A transaction of module 7 with module 9 that waits as `w` says. -/
def someTx (kind : TxKind) (w : TxWait) : Tx :=
  ⟨3, kind, .move 0 1, w, 0, 5, 9, 0x900000, 1, false, false, 0, 5, 0, 0, [], [], false, some 0, 0, none, 7, false⟩
def asking (t : Tx) : State := { meshed with fab := { meshed.fab with txs := [t] } }

/-- An answer with a status. -/
def statusOf (type : Byte) (n : Nat) (pay : List Byte) : Packet := { toSeven type 0 0 0 0 pay with spec2 := BitVec.ofNat 48 n }

/-- An unfinished write of module 9 at this module. -/
def openWrite : WrEntry := ⟨9, 5, 0x900000, 2, 1, false, 0, 0, 0, false, 0, 0⟩

/-- The answer arrives, and ends that transaction. -/
abbrev AnswersTx (t : Tx) (p : Packet) (type : Byte) (k : Option TxKind) : Prop :=
  Arrives (asking t) p type ∧ answered (taken (asking t) p) p k = some t

theorem witness_AnswersEndTransactions_answers :
    (∀ t ∈ [(0x02, TxKind.read), (0x04, .write), (0x06, .atomic), (0x08, .message)], let p := toSeven (BitVec.ofNat 8 t.1) 0 0 0 0 []
      Arrives meshed p (BitVec.ofNat 8 t.1) ∧ answered (taken meshed p) p (some t.2) = none) ∧
    (let p := toSeven 0x09 0 0 0 0 []; Arrives meshed p 0x09 ∧ answered (taken meshed p) p none = none) ∧
    (∀ st ∈ [0, 5], AnswersTx (someTx .read .response) (statusOf 0x02 st (zeros 8)) 0x02 (some .read) ∧ (statusOf 0x02 st (zeros 8)).status = st) ∧
    (∀ r ∈ [false, true], ∀ sl ∈ [false, true], AnswersTx { someTx .read .response with sealed := sl, resent := r } (statusOf 0x02 0 (zeros 64)) 0x02 (some .read) ∧
      isT7 meshed 9 = false ∧ sealOf (shapeOf 5) (zeros 64) ≠ (statusOf 0x02 0 (zeros 64)).spec0) ∧
    (∀ r ∈ [false, true], ∀ st ∈ [0, 1, 2, 7], AnswersTx { someTx .write .response with resent := r } (statusOf 0x04 st []) 0x04 (some .write) ∧
      (statusOf 0x04 st []).status = st) ∧
    AnswersTx (someTx .atomic .response) (statusOf 0x06 0 (zeros 8)) 0x06 (some .atomic) ∧
    (∀ st ∈ [0, 6], AnswersTx (someTx .message .response) (statusOf 0x08 st []) 0x08 (some .message) ∧ (statusOf 0x08 st []).status = st) ∧
    AnswersTx (someTx .read .response) (statusOf 0x09 2 []) 0x09 none := by
  unfold AnswersTx Arrives; and_intros <;> decide +kernel

theorem witness_AnswersEndTransactions_time :
    (let p := toSeven 0x01 0 0 0 1 []; let s := { meshed with fab := { meshed.fab with egress := [(0, 5, p)] } }
      (s.fab.egress.find? fun e => e.2.2 = p) = some (0, 5, p)) ∧
    (let p := toSeven 0x01 0 0 0 1 []; let s := { meshed with fab := { meshed.fab with ingress := [(5, p)] } }
      (s.fab.egress.find? fun e => e.2.2 = p) = none ∧ (s.fab.ingress.find? fun e => e.2 = p) = some (5, p)) ∧
    (∀ w ∈ [TxWait.tag, .response, .busy, .full], findTx (asking (someTx .write w)) 3 = some (someTx .write w) ∧ (someTx .write w).wait = w) ∧
    ({ meshed with fab := { meshed.fab with entries := [openWrite] } }.fab.entries.find? fun e => e.src = 9 && e.tag = 5) = some openWrite ∧
    (∀ d ∈ [0, 2], ∀ a ∈ [false, true], let s := setDom meshed d fun x => { x with active := a, gen := 15 }; (domAt s d).active = a ∧
      sweepOpen s d (((domAt s d).gen + 1) % 16) = true) ∧
    (∀ d ∈ [0, 2], ((domAt (setDom meshed d fun x => { x with quar := [(7, 1, 2)] }) d).quar.find? fun q => q.1 = 7) = some (7, 1, 2)) := by
  and_intros <;> decide +kernel

/-! ### Witnesses: memory tiers and the memory survey (11, 12) -/

/-- A TIER_REGION payload. -/
def regionPay (num flags base len : Nat) : List Byte := le 1 num ++ le 1 flags ++ zeros 6 ++ le 8 base ++ le 8 len ++ le 4 60000000 ++ zeros 36

/-- The region 63 of page 0x20000 with a pool of one frame in use by nobody, and that page as `f` leaves it. -/
def tiered (f : Page → Page) : State := { ready with tier := { ready.tier with
  pool := [(0x40000000, 0x200000)], regions := [⟨63, 1 + 16, 0, lpddrBase + 0x20000 * 0x200000, 0x200000, 0, []⟩],
  pages := [f ⟨0x20000, 63, false, 0, 0, 0, 0, false, 0, none⟩] } }

def aMove (promote started : Bool) (left : List Nat) : PageMove := ⟨promote, started, 3, [], if promote && started then some 0 else none, left, 1, none, none⟩

/-- The same pool, whose frame holds a second page. -/
def crowded : State :=
  let s := tiered fun p => { p with move := some (aMove true false []) }
  { s with tier := { s.tier with pages := s.tier.pages ++ [⟨0x20001, 63, true, 0, 0, 0, 0, false, 0, none⟩] } }

theorem witness_TierCommandsComplete :
    Asks ready (cmd 10 0x40 (le 8 0x40000000 ++ le 8 0x200000 ++ le 8 0x40200000 ++ le 8 0x200000)) (fun s c => clean c 0 0 true = true ∧
      c.payload.length % 16 = 0 ∧ (parsePairs c.payload).length ≤ 16 ∧
      (∀ r ∈ parsePairs c.payload, r.1 % 0x200000 = 0 ∧ r.2 % 0x200000 = 0 ∧ r.1 < 2 ^ 40 ∧ localExists s r.1 r.2 = true ∧ touches fixedRanges r.1 r.2 = false ∧
        touches (stackRanges s) r.1 r.2 = false) ∧ apart (parsePairs c.payload) = true ∧
      (∀ p ∈ s.tier.pages, p.high = false ∧ p.move.any (·.started) = false)) ∧
    (∀ n ∈ [(0, 0), (63, 16)], Asks ready (cmd 10 0x41 (regionPay n.1 n.2 0 0)) fun s c => clean c 0 0 true = true ∧ c.payload.length = 64 ∧
      field c.payload 0 1 = n.1 ∧ n.1 < 64 ∧ n.2 < 32 ∧ bits n.2 4 3 ≠ 3 ∧ field c.payload 2 1 < 4 ∧ (c.payload.drop 3).take 5 = zeros 5 ∧
      c.payload.drop 0x1C = zeros 36 ∧ bit n.2 0 = false ∧ s.tier.regions.find? (fun x => x.num = n.1) = none) ∧
    Asks ready (cmd 10 0x41 (regionPay 63 17 (2 ^ 40 + 0x40000000) 0x200000)) (fun s c => clean c 0 0 true = true ∧ c.payload.length = 64 ∧
      field c.payload 1 1 = 17 ∧ bits 17 4 3 ≠ 3 ∧ bit 17 1 = false ∧ field c.payload 24 4 ≤ 60000000 ∧ field c.payload 8 8 % 0x200000 = 0 ∧
      s.tier.regions.find? (fun x => x.num = 63) = none ∧ 2 ^ 40 ≤ field c.payload 8 8 ∧ localExists s (field c.payload 8 8) 0x200000 = true ∧
      touches fixedRanges (field c.payload 8 8) 0x200000 = false ∧
      touches (s.stackSet.map fun k => (k.spillBase, k.spillLen)) (field c.payload 8 8) 0x200000 = false ∧
      touches (s.tier.regions.map fun x => (x.base, x.len)) (field c.payload 8 8) 0x200000 = false) ∧
    Asks (tiered id) (cmd 10 0x42 ((le 1 1 ++ le 3 60000 ++ le 4 9 ++ le 8 lpddrBase) ++ le 1 3 ++ zeros 7 ++ le 8 (lpddrBase + 0x200000)))
      (fun s c => clean c 0 0 true = true ∧ c.payload.length % 16 = 0 ∧ c.payload ≠ [] ∧ c.payload.length ≤ 65536 ∧
        (parseHints c.payload).all hintOk = true ∧ s.tier.pool ≠ []) ∧
    Asks ready (cmd 10 0x41 (regionPay 63 0 0 0)) (fun s c => bit (field c.payload 1 1) 0 = false ∧ s.tier.regions.find? (fun x => x.num = 63) = none) ∧
    Asks (tiered id) (cmd 10 0x41 (regionPay 63 0 0 0)) (fun s c => bit (field c.payload 1 1) 0 = false ∧
      (s.tier.regions.find? (fun x => x.num = 63)).isSome = true) ∧
    Asks (tiered id) (cmd 10 0x41 (regionPay 63 17 (lpddrBase + 0x20000 * 0x200000) 0x200000)) (fun s c => bit (field c.payload 1 1) 0 = true ∧
      (s.tier.regions.find? (fun x => x.num = 63)).any (fun x => x.base = field c.payload 8 8 && x.len = field c.payload 16 8 && x.deleting.isEmpty) = true) ∧
    (∀ pin ∈ [0, 9], Asks (tiered fun p => { p with high := true, pinEnd := pin }) (cmd 10 0x43 [] 0x300) fun s c => clean c 0x33F 0 false = true ∧
      c.arg0.getLsbD 9 = true ∧ (s.tier.pages.filter fun p => c.arg0.getLsbD 8 && !atRest p).length = 1 ∧
      (s.tier.pages.all fun p => isPinned s p == decide (pin = 9)) = true) ∧
    (∀ a ∈ [0x3F, 0x100], Asks ready (cmd 10 0x43 [] (BitVec.ofNat 64 a)) fun _ c => clean c 0x33F 0 false = true ∧ c.arg0.getLsbD 9 = false) ∧
    Asks ready (cmd 10 0x45) (fun _ c => clean c 0 0 false = true) := by
  unfold Asks Starts; and_intros <;> decide +kernel

/-- The hints of TIER_HINT on that page. -/
def hintOf (op deadline : Nat) : Hint := ⟨op, 0, deadline, lpddrBase + 0x20000 * 0x200000⟩

theorem witness_TierCommandsComplete_hints :
    findPage ready (pageNo (hintOf 1 0).addr) = none ∧
    (∀ hi ∈ [false, true], (findPage (tiered fun p => { p with high := hi }) (pageNo (hintOf 1 0).addr)).any (fun p =>
      p.num = 0x20000 && p.high == hi && p.move.isNone && !p.defer) = true) ∧
    (let s := tiered id; (findPage s 0x20000).any (fun p => !((regionOf s p).any fun r => !r.deleting.isEmpty) &&
      (List.range (frameCount s)).any fun f => dieAllowed (regionOf s p) (frameDie s f)) = true ∧
      admitted s (2 ^ 40 + 0x20000 * 0x200000) 0x200000 (10 ^ 9) = true) ∧
    (∀ pin ∈ [0, 9], let s := tiered fun p => { p with high := true, pinEnd := pin }
      (findPage s 0x20000).any (fun p => isPinned s p == decide (pin = 9)) = true) := by
  and_intros <;> decide +kernel

/-- The page with a move, as a step of it finds the page: no deadline has passed. -/
abbrev MovesAs (s : State) (m : PageMove) (f : State → Page → Bool) : Prop :=
  (findPage (overdue s 0x20000) 0x20000).any (fun p => p.move = some m && f (overdue s 0x20000) p) = true

/-- That page with a move of it. -/
def onMove (m : PageMove) (f : Page → Page := id) : State := tiered fun p => f { p with move := some m }

theorem witness_PageMovesRun_promote :
    MovesAs (onMove (aMove true false [])) (aMove true false []) (fun u p => tokens u < 1024 && freeFrame u p = some 0) ∧
    MovesAs crowded (aMove true false []) (fun u p => (freeFrame u p).isNone && (pickVictim u p).any (fun v => v.num = 0x20001) &&
      !(u.tier.pages.any fun v => v.move.any fun x => x.heir = some 0x20000)) ∧
    (let s := setPage crowded 0x20001 fun p => { p with move := some { aMove false false [] with heir := some 0x20000 } };
      MovesAs s (aMove true false []) fun u p => (freeFrame u p).isNone && u.tier.pages.any fun v => v.move.any fun x => x.heir = some 0x20000) ∧
    (∀ pin ∈ [none, some 9], let m := { aMove true false [] with pin }
      let s := setPage (setPage crowded 0x20000 fun p => { p with move := some m }) 0x20001 fun p => { p with pinEnd := 9 }
      MovesAs s m fun u p => (freeFrame u p).isNone && (pickVictim u p).isNone && m.ops.isEmpty) ∧
    MovesAs (onMove (aMove false false [])) (aMove false false []) (fun _ _ => true) ∧
    (findPage (tiered id) 0x20000).any (fun p => p.move.isNone) = true ∧ findPage ready 0x20000 = none := by
  and_intros <;> decide +kernel

theorem witness_PageMovesRun_copy :
    (∀ b ∈ [true, false], let m := aMove b true [0, 31]; MovesAs (onMove m fun p => { p with high := !b }) m fun u p =>
      p.gen = 0 && p.gen ≠ 255 && m.left.contains 31 && !m.left.contains 30 && !granuleFails u (pageName p) 31) ∧
    (∀ cls ∈ [1, 3], let m := { aMove true true [0, 31] with cls }; let s := { onMove m with poison := [2 ^ 40 + 0x20000 * 0x200000 + 65536 * 31] }
      MovesAs s m fun u p => granuleFails u (pageName p) 31 && m.promote) ∧
    (let m := aMove true true []; MovesAs (onMove m) m fun u p => m.frame = some 0 && ((dirtyList p.dirty).find? (granuleFails u (pageName p))).isNone) ∧
    (let m := aMove true true []; let s := { onMove m fun p => { p with dirty := 1 } with poison := [2 ^ 40 + 0x20000 * 0x200000] };
      MovesAs s m fun u p => (dirtyList p.dirty).find? (granuleFails u (pageName p)) = some 0) ∧
    (let m := aMove true false []; MovesAs (onMove m) m fun _ _ => !m.started) := by
  and_intros <;> decide +kernel

theorem witness_PageMovesRun_demote :
    (∀ x ∈ [(false, 0), (true, 1), (true, 2)], let m := { aMove false x.1 [] with passes := x.2 }; let s := onMove m fun p => { p with high := true, dirty := 5 }
      (findPage s 0x20000).any (fun p => p.move = some m) = true ∧ m.left = [] ∧ tokens s < 1024) ∧
    (∀ h ∈ [none, some 0x20001], let m := { aMove false true [] with heir := h }; let s := onMove m fun p => { p with high := true, dirty := 5 }
      (findPage s 0x20000).any (fun p => p.move = some m) = true ∧ m.heir = h) ∧
    (∀ b ∈ [true, false], ∀ pin ∈ [none, some 9], let m := { aMove true b [0] with ops := [⟨0, 5, 0, some 9, 0, true⟩], pin }; let s := onMove m
      (findPage s 0x20000).any (fun p => p.move = some m && wantsFrame (advance s 9) p m == false) = true ∧ m.pin = pin) ∧
    (let m := { aMove true false [] with ops := [⟨0, 5, 0, some 9, 0, true⟩] };
      let s := setPage crowded 0x20000 fun p => { p with move := some m }
      (findPage s 0x20000).any (fun p => wantsFrame (advance s 9) p m) = true) ∧
    (∀ d ∈ [true, false], ∀ e ∈ [9, 0], (findPage (tiered fun p => { p with high := true, defer := d, pinEnd := e }) 0x20000).any (fun p =>
      p.high && p.move.isNone && p.defer == d && p.pinEnd = e) = true) := by
  and_intros <;> decide +kernel

theorem witness_MemorySurveyRuns_scrub :
    (∀ g ∈ [0, 0x47FFFFFFC0], ready.hbm.selfRefresh = false ∧ localExists ready g 64 = true ∧
      ready.hbm.failed.contains (hbmDecode ready g).1 = false ∧ (ready.hbm.held.any fun h => h.ch = (hbmDecode ready g).1) = false ∧
      ready.poison.contains g = false) ∧
    hbmDecoded ready 0 [] = .clean ∧ hbmDecoded ready 0 [(35, 1)] = .corrected 35 ∧ hbmDecoded ready 0 [(0, 1), (35, 1)] = .bad ∧
    (hbmDecode ready 0).1 = 0 ∧ { ready with poison := [0] }.poison.contains 0 = true ∧
    (∀ n ∈ [1, 16], let s := { ready with hbm := { ready.hbm with streaks := [((0, 0), 35, n - 1)] } }; streakOf s 0 0 35 = n) ∧
    (∀ n ∈ [62, 63], let s := { ready with hbm := { ready.hbm with hits := List.replicate n ((0, 0, 35), 0) } }
      ((((0, 0, 35), s.time) :: s.hbm.hits.filter fun x => s.time < x.2 + 1000000000).filter fun x => x.1 = (0, 0, 35)).length = n + 1) := by
  and_intros <;> decide +kernel

theorem witness_MemorySurveyRuns_windows :
    (∀ ch ∈ [0, 383], let w : Survey := ⟨ch, 0, 1, 35, 0⟩; let s := { ready with hbm := { ready.hbm with waiting := [w] } }
      (s.hbm.waiting.any fun w => w.ch = ch && w.kind = 0 && w.pc = 1 && w.lane = 35) = true ∧
      s.hbm.waiting.filter (fun w => w.ch / 32 = ch / 32 && mayOpen s w.ch) = [w]) ∧
    (∀ ch ∈ [0, 383], mayOpen ready ch = true ∧ spareUsed ready ch 1 = false ∧ ready.hbm.shadows.find? (fun w => w.ch = ch && w.pc = 1) = none) ∧
    (∀ ch ∈ [0, 383], let s := { ready with hbm := { ready.hbm with repaired := [(ch, 1, 34)], shadows := [⟨ch, 4, 0, 35, 7⟩] } }
      spareUsed s ch 1 = true ∧ s.hbm.shadows.find? (fun w => w.ch = ch && w.pc = 0) = some ⟨ch, 4, 0, 35, 7⟩ ∧ spareUsed s ch 0 = false) ∧
    (∀ k ∈ [0, 1, 2, 3], let s := { ready with hbm := { ready.hbm with held := [⟨383, k, 1, 35, 7⟩] } }
      s.hbm.held.find? (fun h => h.ch = 383) = some ⟨383, k, 1, 35, 7⟩ ∧ s.hbm.held.find? (fun h => h.ch = 0) = none) ∧
    (let a : Survey := ⟨31, 0, 0, 5, 0⟩; let b : Survey := ⟨0, 2, 0, 5, 0⟩; let s := { ready with hbm := { ready.hbm with waiting := [b, a] } };
      s.hbm.waiting.filter (fun w => w.ch / 32 = 0 && mayOpen s w.ch) = [b, a] ∧ surveyRank a < surveyRank b) ∧
    (∀ ch ∈ [0, 63], lpddrRuns ready ch = true ∧ lpddrRuns { ready with lpddr := { ready.lpddr with failed := [ch] } } ch = false) ∧
    (∀ ch ∈ [0, 63], let t := max (max ready.time (lpddrDue ready ch 2)) (nth ready.lpddr.closedAt ch + 200000)
      lpddrFirst ready (ch / 4) t = some (2, ch / 4 * 4)) ∧
    (let s := { ready with lpddr := { ready.lpddr with oscRead := ready.lpddr.oscRead.set 0 (10 ^ 9) } };
      lpddrFirst s 0 (max (max s.time (lpddrDue s 1 2)) (nth s.lpddr.closedAt 1 + 200000)) = some (2, 1)) := by
  and_intros <;> decide +kernel

theorem witness_MemoryReadsWhatWasWritten : zeros 64 ≠ [] ∧ (lpddrBase - 64) + (zeros 64).length ≤ lpddrBase ∧ ready.hbm.failed = [] ∧ ready.lpddr.failed = [] ∧
    (∀ g ∈ ({ ready with poison := [64, 128] }).poison, deadAt ready g = false) := by
  and_intros <;> decide +kernel

/-- AES-256-GCM with a key and IV of zeros, without data and for one block of zeros: test cases 13 and 14 of McGrew and Viega. -/
theorem test_gcm_empty : gcmProtect (zeros 32) (zeros 12) [] [] =
    [0x53, 0x0F, 0x8A, 0xFB, 0xC7, 0x45, 0x36, 0xB9, 0xA9, 0x63, 0xB4, 0xF1, 0xC4, 0xCB, 0x73, 0x8B] := by decide +kernel
theorem test_gcm_block : gcmProtect (zeros 32) (zeros 12) [] (zeros 16) =
    [0xCE, 0xA7, 0x40, 0x3D, 0x4D, 0x60, 0x6B, 0x6E, 0x07, 0x4E, 0xC5, 0xD3, 0xBA, 0xF3, 0x9D, 0x18,
     0xD0, 0xD1, 0xC8, 0xA7, 0x99, 0x99, 0x6B, 0xF0, 0x26, 0x5B, 0x98, 0xB5, 0xD4, 0x8A, 0xB9, 0x19] := by decide +kernel

/-! ### Witnesses: far ports, the commit tree (15, 16) -/

/-- A path to module 9 changed by `f`. -/
def nine (f : FarPath → FarPath) : FarPath :=
  f { newPath 0 9 0 with state := 1, samples := [(0, 0, 0)], credit := 4096, inc := some 5 }

/-- A port record of port `n`. -/
def farRecord (n : Nat) : List Byte := le 1 n ++ le 1 1 ++ le 2 1 ++ le 1 0 ++ le 1 1 ++ le 2 8368 ++ zeros 12 ++ le 4 1000 ++ zeros 296

/-- The transmitting and the receiving association 0. -/
def outward : Assoc := ⟨0, true, 1, zeros 12, zeros 32, 1⟩
def inward : Assoc := ⟨0, false, 2, zeros 12, zeros 32, 1⟩

/-- Far port `n` of module 7 UP, with associations 0 both ways and that path. -/
def farUpAt (n : Nat) (f : FarPath → FarPath := id) : State := setFar meshed n fun x => { x with
  state := .up, config := farRecord n, assocs := [outward, inward], txAn := some 0, paths := [nine f] }

/-- What module 9 sends from its far port `n`: header fields as given, no payload but times. -/
def farFrom (n kind epoch seq : Nat) : FarFrame :=
  ⟨1, BitVec.ofNat 8 kind, BitVec.ofNat 16 epoch, farAddr 9 n, farAddr 7 n, 0, BitVec.ofNat 64 seq, 0, 0, 0, 0, 0, 0, if kind % 16 = 3 then 5 else 0, [], false⟩

/-- A packet of VC0 for module 9. -/
def toNine : Packet := ⟨255, 0x01, 0, 3, 0, 9, 7, 5, 0x900000, 0, 0, 0, 0, 1, 0, []⟩

/-- An IPv6 packet with a UDP datagram from module 9 to module 7, and a frame that protects some bytes (R354, R369). -/
def ipFrom (n : Nat) (body : List Byte) : List Byte :=
  let udp := udpDatagram (farIp (farRecord n) 9 n) (farIp (farRecord n) 7 n) 0xC000 1 body
  be 2 0x86DD ++ be 4 (6 * 2 ^ 28) ++ be 2 udp.length ++ [17, 1] ++ farIp (farRecord n) 9 n ++ farIp (farRecord n) 7 n ++ udp
def onFibre (n : Nat) (plain : List Byte) : List Byte := macProtect (farRecord n) inward 1 plain

/-- What a test asks of the outcome of MACsec. -/
def receivedAs (f : List Byte → Bool) (r : Reception) : Bool := match r with | .plain an pn bs => an = 0 && pn = 1 && f bs | _ => false
def isLost (r : Reception) : Bool := match r with | .lost => true | _ => false
def isIgnored (r : Reception) : Bool := match r with | .ignored => true | _ => false

set_option maxRecDepth 100000 in
theorem witness_FarPathsMoveOn_frames :
    (∀ n ∈ [0, 7], farListens (farUpAt n) (farAt (farUpAt n) n) = true ∧ farListens meshed (farAt meshed n) = false ∧
      (farAt (farUpAt n) n).held = none) ∧
    isIgnored (macReceive (farRecord 7) [outward, inward] [1]) = true ∧ isLost (macReceive (farRecord 7) [outward, inward] (zeros 60)) = true ∧
    receivedAs (fun bs => (ipBody (farRecord 7) 7 7 bs).isNone) (macReceive (farRecord 7) [outward, inward] (onFibre 7 (zeros 8))) = true ∧
    receivedAs (fun bs => (ipBody (farRecord 7) 7 7 bs).any fun w => ((parseMessage w).filter (farHeaderOk (farTook (farUpAt 7) 7 0 1) 7)).isNone)
      (macReceive (farRecord 7) [outward, inward] (onFibre 7 (ipFrom 7 (zeros 8)))) = true ∧
    receivedAs (fun bs => (ipBody (farRecord 7) 7 7 bs).any fun w =>
        (parseMessage w).filter (farHeaderOk (farTook (farUpAt 7) 7 0 1) 7) = some (farFrom 7 1 0 0))
      (macReceive (farRecord 7) [outward, inward] (onFibre 7 (ipFrom 7 (farMessage (farFrom 7 1 0 0))))) = true := by
  and_intros <;> decide +kernel

theorem witness_FarPathsMoveOn_taken :
    (∀ n ∈ [0, 7], pathAt (farUpAt n) n 9 = some (nine id) ∧ pathAt (farUpAt n) n 8 = none) ∧
    ((nine id).epoch = 0 ∧ (nine id).expect = 0 ∧ (nine id).lastNak = none ∧ (nine id).inc = some 5 ∧ (farFrom 7 1 0 0).epoch.toNat = 0 ∧
      (farFrom 7 1 0 0).seq.toNat = 0 ∧ (farFrom 7 1 0 9).seq.toNat = 9 ∧ (farFrom 7 1 1 0).epoch.toNat = 1) ∧
    (nine fun q => { q with lastNak := some 0 }).lastNak.all (fun t => t + 100000 ≤ (farUpAt 7).time) = false ∧
    (farFrom 7 1 0 0).seq.toNat < (nine fun q => { q with expect := 3 }).expect ∧
    ((farFrom 7 0x12 0 0).kind.getLsbD 4 = true ∧ (farFrom 7 2 0 0).kind.getLsbD 4 = false ∧ (farFrom 7 0x23 0 0).kind.getLsbD 5 = true) ∧
    (∀ e ∈ [0, 1, 40000], let f := farFrom 7 3 e 0; (f.epoch.toNat + 65536 - (nine id).epoch) % 65536 = e ∧ (nine id).inc.any (· ≠ f.incarnation) = false ∧
      (nine fun q => { q with inc := some 6 }).inc.any (· ≠ f.incarnation) = true) ∧
    (pathAt (setFar (farUpAt 7) 7 fun x => { x with paths := List.replicate 1024 (newPath 0 8 0) }) 7 9).isNone = true := by
  and_intros <;> decide +kernel

theorem witness_FarPathsMoveOn_timers :
    (∀ k ∈ [0, 1], (pathAt (farUpAt 7 fun q => { q with dueCount := k }) 7 9).any (fun q => q.dueCount = k) = true) ∧
    (let s := farUpAt 7 fun q => { q with unacked := [⟨0, [(0, toNine)], 0, 0, 192⟩] }; (pathAt s 7 9).any (fun q =>
      q.unacked.head? = some ⟨0, [(0, toNine)], 0, 0, 192⟩) = true) ∧
    (farAt (setFar meshed 7 fun x => { x with stopped := some 4 }) 7).stopped = some 4 ∧ (farAt meshed 7).stopped = none ∧
    (∀ ps ∈ [[], [(0, toNine)]], let s := farUpAt 7 fun q => { q with queue := ps }
      let t := endFarWindow (advance s (farAt s 7).busy) 7; let x := farAt t 7
      (pathAt t 7 9).any (fun q => (farPick 9 (field x.config 6 2 - 80) (q.credit - q.used) false (farAlive t q q.queue)).1 = ps && farReady t q) = true ∧
        x.state = .up ∧ farMayData t x = true ∧ farUsed x + (roundUp (32 + farBytes ps) 64 + 64) ≤ farBuffer) ∧
    (let s := farUpAt 7 fun q => { q with credit := 0, queue := [(0, toNine)] };
      (pathAt s 7 9).any (fun q => (farPick 9 8288 (q.credit - q.used) false (farAlive s q q.queue)) = ([], [(0, toNine)])) = true) ∧
    (let s := farUpAt 7 fun q => { q with queue := [(0, toNine)], unacked := [⟨0, [], 0, 0, farBuffer⟩] };
      farBuffer < farUsed (farAt s 7) + (roundUp (32 + farBytes [(0, toNine)]) 64 + 64)) := by
  and_intros <;> decide +kernel

theorem witness_FarPicksWhatFits :
    let e := (0, toNine); let big := (1, { toNine with payload := zeros 64 }); let free := (2, { toNine with type := 0x02 });
    farPick 9 4096 60 false [big, e, free] = ([free], [big, e]) ∧ needsCredit 9 big.2 = true ∧ needsCredit 9 e.2 = true ∧ [big, e, free].Nodup := by
  decide +kernel

/-- The payload of a FAR_KEY. -/
def keyPay (n an dir act : Nat) : List Byte := le 1 n ++ le 1 an ++ le 1 dir ++ le 1 act ++ zeros 60

/-- What FAR_KEY finds: an association 3 of the given direction, or none; the active one; others of that direction. -/
abbrev Keys (on : Nat) (as : List Assoc) (n dir act : Nat) (f : FarPort → Bool) : Prop :=
  Asks (setFar meshed n fun x => { x with assocs := as, txAn := some on }) (cmd 10 0x51 (keyPay n 3 dir act)) fun s c =>
    clean c 0 0 true = true ∧ c.payload.length = 64 ∧ field c.payload 0 1 = n ∧ field c.payload 1 1 = 3 ∧ field c.payload 2 1 = dir ∧
      field c.payload 3 1 = act ∧ sub c.payload 0x14 12 = zeros 12 ∧ f (farAt s n) = true

theorem witness_FarPortsAndCommandsComplete_keys :
    (∀ n ∈ [0, 7], ∀ act ∈ [0, 1, 2], Keys 2 [⟨3, true, 1, zeros 12, zeros 32, 1⟩] n 0 act fun x => x.txAn ≠ some 3 && x.assocs.any (fun a => a.an = 3 && a.tx) &&
      ((x.assocs.filter fun a => !(a.an = 3 && a.tx)).filter fun a => a.tx).length < 2) ∧
    (∀ act ∈ [0, 1, 2], Keys 3 [⟨3, true, 1, zeros 12, zeros 32, 1⟩] 7 0 act fun x => x.txAn = some 3) ∧
    Keys 2 [] 7 0 1 (fun x => !x.assocs.any fun a => a.an = 3 && a.tx) ∧
    Keys 2 [⟨0, false, 1, zeros 12, zeros 32, 1⟩, ⟨1, false, 1, zeros 12, zeros 32, 1⟩] 7 1 0 (fun x =>
      decide (2 ≤ ((x.assocs.filter fun a => !(a.an = 3 && !a.tx)).filter fun a => !a.tx).length)) ∧
    Keys 2 [] 7 1 2 (fun _ => true) := by
  unfold Keys Asks Starts; and_intros <;> decide +kernel

theorem witness_FarPortsAndCommandsComplete :
    Asks meshed (cmd 10 0x50 (farRecord 0 ++ farRecord 7)) (fun s c => clean c 0 0 true = true ∧ c.payload.length % 320 = 0 ∧ c.payload.length / 320 = 2 ∧
      ((List.range 2).map fun i => sub c.payload (320 * i) 320).all farRecordOk = true ∧
      (∀ r ∈ (List.range 2).map (fun i => sub c.payload (320 * i) 320), (farAt s (field r 0 1)).state = .down ∨ (farAt s (field r 0 1)).state = .stopped)) ∧
    (∀ a ∈ [0, 1, 2], Asks (farUpAt 7) (cmd 10 0x52 [] 0x80 (BitVec.ofNat 64 a)) fun s c => clean c 0xFF 3 false = true ∧ c.arg1 ≠ 3 ∧
      (∀ n ∈ (List.range 8).filter (fun n => c.arg0.getLsbD n), (farAt s n).config ≠ [] ∧ (farAt s n).txAn.isSome = true)) ∧
    Asks meshed (cmd 10 0x53) (fun _ c => clean c 0 0 false = true) ∧
    Asks meshed (cmd 10 0x54 [] 7) (fun _ c => clean c 7 0 false = true) ∧
    (∀ n ∈ [0, 7], ∀ st ∈ [FarState.down, .train, .up, .held, .stopped, .failed], (farAt (setFar meshed n fun x => { x with state := st }) n).state = st) ∧
    (∀ n ∈ [0, 7], (farAt (setFar meshed n fun x => { x with state := .down, optic := some (some 9, true) }) n).optic.any (·.2) = true ∧
      (farAt (setFar meshed n fun x => { x with state := .held, held := some 4 }) n).held = some 4 ∧ (farAt meshed n).held = none ∧
      (farAt (setFar meshed n fun x => { x with optic := none }) n).optic = none ∧ (farAt meshed n).optic.isSome = true) := by
  unfold Asks Starts; and_intros <;> decide +kernel

/-- The configuration whose parent is `up` and whose children are `down`; one weight set at 0x900000 and 0xB00000. -/
def someConf (up : Option Nat) (down : List Nat) : ResConf := ⟨true, up, 1, 2, 3, 10, [⟨0, 0, 1, 0x900000, 0xB00000, 4096⟩], down⟩
def treed (up : Option Nat) (down : List Nat) (f : Resil → Resil := id) : State := resOf meshed fun r => f { r with conf := some (someConf up down) }

/-- A message of KIND `kind` of module 9 about step 4, from a module on feed `feed`, with step fields `a` and `b`. -/
def nineSays (kind feed : Nat) (a : Nat := 0) (b : Nat := 0) : List Byte :=
  commitBytes { meshed with fab := { meshed.fab with device := some 9 } } kind 0 4 feed a b

/-- A state with one message in queue 63. -/
def mailed (b : List Byte) (s : State) : State := { s with
  dram := writeRun s.dram (0x800000 + 16384 * 63) b, hubSems := s.hubSems.set (queueSem 63) 1,
  fab := { s.fab with msgCounts := s.fab.msgCounts.set 63 1 } }

/-- The message is the oldest of the queue, and `f` holds of its content and of the state without it. -/
abbrev Told (kind feed : Nat) (a b : Nat) (s : State) (f : CommitMsg → State → Bool) : Prop :=
  let t := mailed (nineSays kind feed a b) s
  queueHead t 63 = some (nineSays kind feed a b) ∧
    (parseCommit (nineSays kind feed a b)).any (fun x => x.1 = kind && x.2.sender = 9 && x.2.step = 4 && f x.2 (dropHead t)) = true

set_option maxRecDepth 100000 in
theorem witness_CommitTreeDecides_queue :
    queueHead meshed 63 = none ∧
    (∀ d ∈ [[], [9]], queueHead (mailed (zeros 128) (treed none d)) 63 = some (zeros 128) ∧ parseCommit (zeros 128) = none ∧
      ownsQueue (treed none d) = !d.isEmpty) := by
  and_intros <;> decide +kernel

set_option maxRecDepth 100000 in
theorem witness_CommitTreeDecides_tree :
    Told 1 0 0 0 (treed none [9]) (fun m t => ownsQueue t && (confChildren t).contains 9 && !t.res.readys.contains (9, m.step, m.attempt)) ∧
    Told 1 0 0 0 (treed none []) (fun _ t => !ownsQueue t) ∧
    Told 2 0 0 0 (treed (some 1) [9]) (fun _ t => ownsQueue t && (confChildren t).contains 9 && confParent t = some 1) ∧
    Told 2 0 0 0 (treed none [9]) (fun m t => ownsQueue t && (confParent t).isNone && t.job.step = m.step && attempt t = m.attempt) ∧
    Told 2 0 0 0 (treed none [8]) (fun _ t => !(confChildren t).contains 9) ∧
    (∀ k ∈ [3, 4], Told k 0 0 0 (treed (some 9) []) fun m t => ownsQueue t && confParent t = some 9 && (decisionOf t m.step m.attempt).isNone) ∧
    (∀ k ∈ [3, 4], Told k 0 0 0 (treed (some 9) [] fun r => { r with decisions := [(4, 0, true)] }) fun m t => confParent t = some 9 &&
      (decisionOf t m.step m.attempt).isSome) ∧
    Told 5 0 0 0 (treed none []) (fun _ t => !ownsQueue t) ∧
    (∀ x ∈ [true, false], Told 5 0 0 0 (treed (some 9) [] fun r => { r with decisions := [(4, 0, x)] }) fun m t => ownsQueue t &&
      decisionOf t m.step m.attempt = some x) ∧
    (∀ up ∈ [none, some 1], Told 5 0 0 0 (treed up [9]) fun m t => ownsQueue t && (decisionOf t m.step m.attempt).isNone && confParent t = up) := by
  unfold Told; and_intros <;> decide +kernel

set_option maxRecDepth 100000 in
theorem witness_CommitTreeDecides_vault :
    Told 6 1 0 0 meshed (fun m t => t.fab.topo.any fun f => f.partner = some 9 && m.feed ≠ f.feed) ∧
    Told 6 0 0 0 meshed (fun m t => t.fab.topo.any fun f => f.partner = some 9 && m.feed = f.feed && !bit f.flags 1) ∧
    Told 7 1 2 (2 ^ 64 - 1) (treed none [9] fun r => { r with copy := some ⟨4, false, none, none, 0⟩ }) (fun m t => partner t = some 9 &&
      t.res.copy.any (fun c => !c.accepted && m.step = c.step) && m.slot0 = 2 && m.slot1 = 2 ^ 64 - 1 &&
      !readsFail t (copyReads t ⟨4, true, some 2, none, 0⟩)) ∧
    Told 7 1 2 (2 ^ 64 - 1) { treed none [9] (fun r => { r with copy := some ⟨4, false, none, none, 0⟩ }) with poison := [0x900000] } (fun _ t =>
      readsFail t (copyReads t ⟨4, true, some 2, none, 0⟩)) ∧
    Told 7 1 2 0 meshed (fun _ t => t.res.copy.isNone) ∧
    Told 8 0 0 0 (treed none [9] fun r => { r with copy := some ⟨4, false, none, none, 0⟩ }) (fun _ t => partner t = some 9 && t.res.copy.isSome) ∧
    (∀ up ∈ [none, some 1], ∀ st ∈ [true, false], let s := treed up [9] fun r => { r with ready := some (4, 0), stalled := st }
      s.res.ready = some (4, 0) ∧ s.res.conf = some (someConf up [9]) ∧ s.res.stalled = st) ∧
    (meshed.res.ready = none ∧ meshed.res.conf = none ∧ meshed.res.copy = none) ∧
    (∀ a ∈ [true, false], let c : VaultCopy := ⟨4, a, none, none, 0⟩; let s := resOf meshed fun r => { r with copy := some c }
      let x := bareTx .write (.vault 4 1) 2 9 0 64
      s.res.copy = some c ∧ copyWaits s 4 = false ∧ copyWaits { s with fab := { s.fab with txs := [x] } } 4 = true ∧
      ((vaultWrite s ((partner s).getD 0) c 2 0 (readRun (copyImage s c) 0 4096)).fab.txs.any fun x => x.owner = .vault 4 2) = true) ∧
    (let s := resOf { meshed with fab := { meshed.fab with routes := List.replicate 4 (List.replicate 16 0) } } fun r => { r with copy := some ⟨4, true, none, none, 0⟩ };
      ((vaultWrite s ((partner s).getD 0) ⟨4, true, none, none, 0⟩ 2 0 (readRun (copyImage s ⟨4, true, none, none, 0⟩) 0 4096)).fab.txs.any fun x =>
        x.owner = .vault 4 2) = false) ∧
    (let s := treed none [9]; s.res.conf = some (someConf none [9]) ∧ (someConf none [9]).sets ≠ [] ∧ setChanged s ⟨0, 0, 1, 0x900000, 0xB00000, 4096⟩ = true ∧
      VaultCopy.target ⟨4, true, none, none, 0⟩ = none) := by
  unfold Told; and_intros <;> decide +kernel

/-- R388: an accepted copy zeroes the header of slot c mod 2 with a privileged write; the set's data, its entry and its digest wait behind it. -/
theorem test_vault_accept_zeroes_the_header_first :
    let s := vaultWrite (vaultWrite (resOf meshed fun r => { r with copy := some ⟨5, true, none, none, 0⟩ }) 9 ⟨5, true, none, none, 0⟩ 0 0 (zeros 128)) 9 ⟨5, true, none, none, 0⟩ 1 0x1000 (zeros 128)
    s.fab.txs.map (fun t => (t.addr, t.total, t.priv, t.wait)) = [(0x1E800000000, 2, true, .response), (0x1E800001000, 2, true, .order)] := by
  decide +kernel

/-- R388: with the image of two steps before in the slot, a set whose layers are all frozen is not written again. -/
theorem test_vault_copy_skips_frozen_sets :
    let s := treed none [9]; let f := { s with job := { s.job with modes := [1, 0, 0, 0] } }
    copyParts s ⟨4, true, some 2, none, 0⟩ = [(0x200000, 4096), (0x1000, 128), (0x9000, 64)] ∧
    copyParts f ⟨4, true, some 2, none, 0⟩ = [(0x1000, 128), (0x9000, 64)] ∧
    copyParts f ⟨4, true, none, none, 0⟩ = [(0x200000, 4096), (0x1000, 128), (0x9000, 64)] := by
  decide +kernel

theorem witness_FlipCommitsTheStep :
    (∀ ph ∈ [JobState.idle, .loaded, .stopped, .running, .stopping, .held], let s := jobAt ph
      (∀ n < 152, (coreAt s n).deferred = none) ∧ (∀ k ∈ s.stackSet, k.frames = []) ∧ s.job.phase = ph) ∧
    (let s := treed none []; s.job.phase = .running ∧ s.res.replayFailed = false ∧ s.res.conf = some (someConf none []) ∧
      (someConf none []).retry = true ∧ s.res.rollbacks + 1 ≤ (someConf none []).retryLimit) ∧
    (let s := treed none [] fun r => { r with rollbacks := 3 }; s.res.conf = some (someConf none []) ∧
      (someConf none []).retryLimit < s.res.rollbacks + 1) := by
  and_intros <;> decide +kernel

/-! ### Witnesses: resilience, vision, telemetry, the invariant (16, 17, 19) -/

/-- A RES_CONFIG payload: parent 9, one child, one set. -/
def confPay : List Byte :=
  ascii "TKRC" ++ le 2 1 ++ le 2 1 ++ le 2 1 ++ le 2 0 ++ le 4 9 ++ le 4 1 ++ le 1 2 ++ le 1 15 ++ zeros 2 ++ le 4 10 ++ zeros 36 ++
    (le 2 0 ++ zeros 2 ++ le 2 0 ++ le 2 1 ++ le 8 0x40000000 ++ le 8 0x40200000 ++ le 8 0x200000 ++ zeros 32) ++ (le 4 1 ++ zeros 60)

/-- A stopped job of a module whose committed step 4 stands in side 0. -/
def committed (f : Resil → Resil := id) : State :=
  let s := treed none [] fun r => f { r with committed := some 4, side0 := some 4 }
  { s with job := { s.job with phase := .stopped }, host := { s.host with windows := [⟨2, 0, 0x10000, 0x10000000⟩] } }

def slot63 (x : SnapSlot) : Resil → Resil := fun r => { r with slots := r.slots.set 63 x }

theorem witness_ResilienceCommandsComplete :
    Asks (committed) (cmd 7 1 confPay) (fun s c => clean c 0 0 true = true ∧ jobIn s [.loaded, .stopped, .held] = true ∧ firstBad (confChecks s c.payload) = none) ∧
    Asks ready (cmd 7 2) (fun _ c => clean c 0 0 false = true) ∧
    (∀ n ∈ [5, 2 ^ 48 - 1], Asks (committed fun r => { r with dataPos := [(5, 1), (6, 1), (7, 1), (n, 2)] }) (cmd 7 3 [] (BitVec.ofNat 64 n) 9) fun s c =>
      clean c (2 ^ 48 - 1) all64 false = true ∧ s.res.committed = some 4 ∧ 4 < c.arg0.toNat ∧ (s.res.dataPos.filter fun d => d.1 ≠ c.arg0.toNat).length < 4) ∧
    Asks (committed) (cmd 7 4) (fun s c => clean c 0 0 false = true ∧ s.res.committed = some 4 ∧ hasSets s = true) ∧
    Asks ready (cmd 7 5) (fun _ c => clean c 0 0 false = true) ∧
    Asks (committed (slot63 ⟨2, 3, 4, 0, 0, []⟩)) (cmd 7 6 [] 63) (fun s c => clean c 0x3F 0 false = true ∧ (validSlot s c.arg0.toNat).isSome = true) ∧
    Asks (committed (slot63 ⟨2, 3, 4, 0, 0, []⟩)) (cmd 7 7 [] 63 0x2000000000000008) (fun s c => clean c 0x3F 0xF000FFFFFFFFFFFF false = true ∧
      (validSlot s c.arg0.toNat).any (fun x => windowHolds s (bits c.arg1.toNat 63 60) (bits c.arg1.toNat 47 0) (imageLen x.image)) = true) ∧
    Asks (committed) (cmd 7 8 (zeros 8 ++ le 8 4 ++ le 8 (2 ^ 64 - 1) ++ zeros 40)) (fun s c => clean c 0 0 true = true ∧ c.payload.length = 64 ∧
      firstBad (restoreChecks c.payload) = none ∧ jobIn s [.loaded, .stopped, .held] = true ∧ s.res.conf.isSome = true ∧ field c.payload 0 1 = 0 ∧
      ownStop s c.payload = none) ∧
    Asks ready (cmd 7 9 (le 2 1023 ++ zeros 60 ++ le 2 1023)) (fun _ c => clean c 0 0 true = true ∧ c.payload.length = 64 ∧ firstBad (lanternChecks c.payload) = none) ∧
    Asks seven (cmd 7 10 [] 15) (fun s c => clean c 0x1FFFFF 0 false = true ∧ jobIn s [.idle, .loaded] = true ∧ sameCell s c.arg0.toNat = true) ∧
    Asks meshed (cmd 7 11 [] 9 0x1FFFFF) (fun s c => clean c 0x1FFFFF 0x1FFFFF false = true ∧ s.job.phase ≠ .idle) ∧
    (let s := committed fun r => { r with waiting := [⟨3, 4, 0, 0, some (0, 5)⟩] }; s.res.snap = none ∧
      s.res.waiting.findIdx? (fun x => s.res.committed.any (x.step ≤ ·)) = some 0 ∧ sideHolds s 4 = true ∧ pickSlot s = some 0) ∧
    (committed fun r => { r with snap := some ⟨3, 4, 0, 0, none⟩ }).res.snap = some ⟨3, 4, 0, 0, none⟩ ∧
    lanternOf (lanternScore ready) = ready.res.lantern := by
  unfold Asks Starts; and_intros <;> decide +kernel

/-- The record of context `n`: patches of one pixel, one token and one box at most. -/
def visRecord (n : Nat) : List Byte :=
  le 1 n ++ le 1 1 ++ zeros 3 ++ le 1 1 ++ le 2 2 ++ le 8 0x40000000 ++ le 8 0x100000 ++ le 8 0x50000000 ++ le 8 0x10000 ++ le 8 0x60000000 ++
    le 8 0x20000 ++ le 4 1 ++ le 2 1 ++ le 2 0x400 ++ le 2 0x401 ++ [1, 1, 1, 1, 1, 1] ++ zeros 184

/-- A list of the one box of that size. -/
def boxPay : List Byte := zeros 8 ++ le 4 1 ++ le 4 1 ++ le 2 1 ++ le 2 1 ++ zeros 4

/-- Context `n` running, changed by `f`. -/
def viewing (n : Nat) (f : VisCtx → VisCtx := id) : State := setVis (committed) n fun _ => f { VisCtx.reset with desc := visRecord n, phase := .running }

theorem witness_VisionRuns :
    (∀ n ∈ [0, 255], Asks ready (cmd 8 1 (visRecord n)) fun s c => let d := c.payload; clean c 0 0 true = true ∧ d.length = 256 ∧
      (visChecks s d).all (·.2) = true ∧ (visAt s (field d 0 1)).phase = .free ∧
      ((visAreas d).all fun a => !touches (reservedRanges s ++ (openVis s).flatMap visAreas) a.1 a.2) = true ∧ visSemBad s (vReadySem d) = false ∧
      visSemBad s (vFreeSem d) = false) ∧
    (∀ n ∈ [0, 255], Asks (viewing n) (cmd 8 3 (zeros 3) (BitVec.ofNat 64 (n + 256))) fun s c => let v := visAt s n; bits c.arg0.toNat 7 0 = n ∧
      clean c 0x1FF 0 true = true ∧ v.phase = .running ∧ v.eos = false ∧ v.waits = [] ∧ v.tail - v.head + c.payload.length ≤ vRingLen v.desc) ∧
    Asks (viewing 255) (cmd 8 4 (le 1 255 ++ le 1 2 ++ le 1 1 ++ zeros 5 ++ le 8 0x20 ++ le 8 0x100000)) (fun s c => let v := visAt s 255; field c.payload 0 1 = 255 ∧
      clean c 0 0 true = true ∧ c.payload.length = 24 ∧ field c.payload 2 1 ≤ 1 ∧ sub c.payload 3 5 = zeros 5 ∧ v.phase = .running ∧ v.eos = false ∧
      v.waits = [] ∧ v.tail - v.head + field c.payload 16 8 ≤ vRingLen v.desc ∧ windowHolds s (field c.payload 1 1) (field c.payload 8 8) (field c.payload 16 8) = true) ∧
    (∀ a ∈ [0xFF, 0x1FF], Asks (viewing 255) (cmd 8 5 boxPay (BitVec.ofNat 64 a) 7) fun s c => let v := visAt s 255; let bs := boxesOf c.payload;
      bits c.arg0.toNat 7 0 = 255 ∧ clean c 0x1FF all64 true = true ∧ c.payload.length % 24 = 0 ∧ c.payload ≠ [] ∧ v.phase = .running ∧
      (∀ b ∈ bs, boxBad b = none ∧ 1 ≤ gridW v.desc b ∧ 1 ≤ gridH v.desc b) ∧ bs.length ≤ vMaxBoxes v.desc ∧ listTokens v.desc bs ≤ vMaxTokens v.desc ∧
      bs.all (boxFits v.desc) = true ∧ c.arg0.getLsbD 8 = decide (a = 0x1FF) ∧ v.out ≤ c.arg1.toNat ∧ (v.lists.filter fun l => l.1 ≠ c.arg1.toNat).length < 16) ∧
    Asks (viewing 255) (cmd 8 2 [] 255 0) (fun s c => clean c 0xFF 1 false = true ∧ (visAt s 255).phase ≠ .free ∧ c.arg1 = 0) ∧
    Asks ready (cmd 8 6) (fun _ c => clean c 0 0 false = true) ∧
    (∀ e ∈ [0, 7], let s := { viewing 255 with vis := { (viewing 255).vis with engines := (viewing 255).vis.engines.set e (some (255, 4, false)) } };
      s.vis.engines.getD e none = some (255, 4, false) ∧ (visAt s 255).phase = .running ∧ (visAt s 255).hunt = false) ∧
    (let s := viewing 255 fun v => { v with waiting := [⟨0, 4, false⟩], always := some boxPay }; let v := visAt s 255; v.waiting.head? = some ⟨0, 4, false⟩ ∧
      listFor v v.out = some boxPay ∧ v.phase = .running ∧ slotFree s 255 v = true ∧ v.out < vSlots v.desc) := by
  unfold Asks Starts; and_intros <;> decide +kernel

/-- Context 0 holds one byte. What the byte's stream means is open (log 14), so this witness takes it that the byte is a unit and that the
picture buffer has room. -/
def oneByte : State := viewing 0 fun v => { v with tail := 1 }

theorem witness_VisionRuns_decodeStart (h1 : 0 < Config.accessUnit 1 (readRing oneByte (visRecord 0) 0 1) false) (h2 : Config.dpbFree 1 [] 0 = true) :
    oneByte.vis.engines.getD 0 none = none ∧ pickContext oneByte 0 = some 0 ∧ oneByte.poison = [] ∧ oneByte.hbm.failed = [] ∧ oneByte.lpddr.failed = [] := by
  refine ⟨by decide +kernel, ?_, by decide +kernel, by decide +kernel, by decide +kernel⟩
  have order : (List.range 256).map (fun i => (oneByte.vis.served.getD 0 255 + 1 + i) % 256) = 0 :: (List.range 255).map (· + 1) := by decide +kernel
  have none' : ∀ n ∈ (List.range 255).map (· + 1), decodable oneByte n = false := by decide +kernel
  have first : decodable oneByte 0 = true := by
    have hu : 0 < unitBytes oneByte (visAt oneByte 0) := by
      have : unitBytes oneByte (visAt oneByte 0) = min (Config.accessUnit 1 (readRing oneByte (visRecord 0) 0 1) false) 1 := rfl
      omega
    have hd : Config.dpbFree (vCodec (visAt oneByte 0).desc) (visAt oneByte 0).stream (visAt oneByte 0).waiting.length = true := h2
    have he : (oneByte.vis.engines.any fun e => e.any fun x => x.1 = 0) = false := by decide +kernel
    have hp : (visAt oneByte 0).phase = .running := by decide +kernel
    simp [decodable, hu, hd, he, hp]
  have able : (0 :: (List.range 255).map (· + 1)).filter (decodable oneByte) = [0] := by
    rw [List.filter_cons, if_pos first, List.filter_eq_nil_iff.2 fun n hn => by simp [none' n hn]]
  simp only [pickContext, order, able]
  simp

/-- A job with one closed record, one event and one error-log entry. -/
theorem witness_TelemetryIsRead :
    Asks (committed) (cmd 9 1 [] (BitVec.allOnes 64) 1024) (fun s c => clean c all64 0x7FF false = true ∧ 1 ≤ c.arg1.toNat ∧ c.arg1.toNat ≤ 1024 ∧ s.job.phase ≠ .idle) ∧
    (∀ a ∈ [0, 1], Asks (committed) (cmd 9 2 (le 1 2 ++ le 1 a ++ zeros 6 ++ le 8 0 ++ le 8 0x1000000)) fun s c => clean c 0 0 true = true ∧
      c.payload.length = 24 ∧ sub c.payload 2 6 = zeros 6 ∧ field c.payload 16 8 % 4096 = 0 ∧ s.job.phase ≠ .idle ∧ field c.payload 1 1 = a ∧
      field c.payload 16 8 ≠ 0 ∧ windowHolds s (field c.payload 0 1) (field c.payload 8 8) (field c.payload 16 8) = true) ∧
    Asks ready (cmd 9 3 [] 1024) (fun _ c => clean c 0x7FF 0 false = true ∧ 1 ≤ c.arg0.toNat ∧ c.arg0.toNat ≤ 1024) ∧
    Asks ready (cmd 9 4 [] 3 (BitVec.allOnes 64)) (fun _ c => clean c 3 all64 false = true) ∧
    Asks ready (cmd 9 5) (fun _ c => clean c 0 0 false = true) ∧
    Asks ready (cmd 9 6 [] 27) (fun _ c => clean c 0x1F 0 false = true ∧ c.arg0.toNat ≤ 27) ∧
    Asks ready (cmd 9 7 [] 0xFFFFFFFF 0xFFFF) (fun _ c => clean c 0xFFFFFFFF 0xFFFF false = true) ∧
    Asks ready (cmd 9 8) (fun s c => clean c 0 0 false = true ∧ within s s.tel.commitTime 60000000000 = false) ∧
    Asks ready (cmd 9 9) (fun _ c => clean c 0 0 false = true) ∧
    (List.replicate 20 (30 : Int)).length = 20 ∧ [1, 2, 3, 4].length = 4 := by
  unfold Asks Starts; and_intros <;> decide +kernel

/-- A module whose memory holds three bytes, about to execute a WRITE of two of them. -/
def writing : State :=
  { ask { ready with dram := [(0x900000, 1), (0x900001, 2), (0x900005, 3)] } (cmd 4 1 [0, 7] 0x900000) with pending := [.write 0 5] }

theorem witness_StepKeepsMemoriesWf : writing.MemoriesWf ∧ ∃ t, step writing = .next t := by
  refine ⟨by unfold State.MemoriesWf; decide +kernel, ?_⟩
  exact ⟨_, rfl⟩

/-- A restore record: source, number, flags, then step and data position. -/
def restorePay (src num flags step pos : Nat) (off : Nat := 0) : List Byte :=
  le 1 src ++ le 1 num ++ le 2 flags ++ zeros 4 ++ le 8 step ++ le 8 pos ++ le 8 off ++ zeros 32

/-- The manifest fields of a flash image of step 4 of that device, seed 0, position 9, generation 0, without a set. -/
def bareImage (device : Nat) : Mem := writeRun (writeRun (writeRun ([] : Mem) 0x10 (le 8 4)) 0x18 (le 8 9)) 0x28 (le 4 device)

/-- The module configured without a weight set, and with an image of step 4 in slot 63. -/
def flashed (device : Nat) : State :=
  committed fun r => { r with conf := some { someConf none [] with sets := [] }, slots := r.slots.set 63 ⟨2, 3, 4, 0, 0, bareImage device⟩ }

/-- The module without a vault partner. -/
def alone : State :=
  let s := committed
  { s with fab := { s.fab with topo := s.fab.topo.map fun t => { t with partner := none } } }

/-- RESTORE, under way: another's, its own. -/
def readingFor (mb : Nat) (tag : DWord) : State := committed fun r => { r with reading := some ⟨mb, tag, 9, 0, [], [(0, imgData)], 0⟩ }

/-- What every RESTORE of these witnesses meets before its source is looked at. -/
abbrev restoring (s : State) (c : Cmd) : Prop := s.res.reading = none ∧ clean c 0 0 true = true ∧ c.payload.length = 64 ∧
  firstBad (restoreChecks c.payload) = none ∧ jobIn s [.loaded, .stopped, .held] = true ∧ s.res.conf.isSome = true

theorem witness_ResilienceCommandsComplete_restores :
    (∀ x ∈ [(1, (5 : DWord)), (0, 6)], Asks (readingFor x.1 x.2) (cmd 7 8) fun s _ => s.res.reading.isSome = true ∧
      s.res.reading.any (fun r => r.mb ≠ 0 ∨ r.tag ≠ 5) = true) ∧
    Asks (committed) (cmd 7 8 (restorePay 0 0 0 4 0)) (fun s c => restoring s c ∧ field c.payload 0 1 = 0 ∧ ownStop s c.payload = some (0x0708, 0, 0)) ∧
    Asks alone (cmd 7 8 (restorePay 1 0 0 4 0)) (fun s c => restoring s c ∧ field c.payload 0 1 = 1 ∧ partner s = none) ∧
    Asks (committed) (cmd 7 8 (restorePay 1 0 3 4 0)) (fun s c => restoring s c ∧ field c.payload 0 1 = 1 ∧ (partner s).isSome = true) ∧
    Asks (committed) (cmd 7 8 (restorePay 2 63 0 4 0)) (fun s c => restoring s c ∧ field c.payload 0 1 = 2 ∧ restoreImage s c.payload = none) ∧
    Asks (committed) (cmd 7 8 (restorePay 3 15 0 4 0 8)) (fun s c => restoring s c ∧ field c.payload 0 1 = 3 ∧ restoreImage s c.payload = none) ∧
    Asks (flashed 8) (cmd 7 8 (restorePay 2 63 0 4 9)) (fun s c => restoring s c ∧ restoreImage s c.payload = some (bareImage 8) ∧
      imageStop s c.payload (bareImage 8) [0] = some (0x0705, 0, 0)) ∧
    Asks (flashed 7) (cmd 7 8 (restorePay 2 63 0 4 9)) (fun s c => restoring s c ∧ restoreImage s c.payload = some (bareImage 7) ∧
      imageStop s c.payload (bareImage 7) [0] = none) ∧
    (let s := ask (readingFor 0 5) { cmd 7 8 with started := true }; s.res.reading = some ⟨0, 5, 9, 0, [], [(0, imgData)], 0⟩ ∧
      findCmd s 0 5 = some { cmd 7 8 with started := true }) := by
  unfold Asks Starts restoring; and_intros <;> decide +kernel

/-- A snapshot of step 4 waits, nothing holding it back. -/
def snapDue (f : Resil → Resil := id) : State := committed fun r => f { r with waiting := [⟨3, 4, 0, 0, none⟩] }

theorem witness_ResilienceCommandsComplete_snapshots :
    (snapDue fun r => { r with snap := some ⟨3, 2, 0, 0, none⟩ }).res.snap.isSome = true ∧
    (snapDue fun r => { r with committed := some 3 }).res.waiting.findIdx? (fun x => (some 3).any (x.step ≤ ·)) = none ∧
    (let s := snapDue fun r => { r with side0 := none }; s.res.snap = none ∧ s.res.waiting.findIdx? (fun x => s.res.committed.any (x.step ≤ ·)) = some 0 ∧
      sideHolds s 4 = false) ∧
    (let s := snapDue fun r => { r with slots := r.slots.map fun x => { x with state := 1 } }; s.res.snap = none ∧
      s.res.waiting.findIdx? (fun x => s.res.committed.any (x.step ≤ ·)) = some 0 ∧ sideHolds s 4 = true ∧ pickSlot s = none) ∧
    (committed).res.snap = none ∧
    (let s := committed fun r => { r with snap := some ⟨3, 4, 0, 0, none⟩ }; s.res.snap = some ⟨3, 4, 0, 0, none⟩ ∧ readsFail s (snapReads s 4) = false ∧
      readsFail { s with poison := [0x900000] } (snapReads s 4) = true) := by
  and_intros <;> decide +kernel

/-- The whole ring of a context holds bytes. -/
def ringFull (v : VisCtx) : VisCtx := { v with tail := vRingLen v.desc }

/-- MB0's command waits for room in the ring of context 255. -/
def ringWaits (c : Cmd) : State := ask (viewing 255 fun v => { v with waits := [(0, 6)] }) c

/-- A pull into context 255. -/
def pull255 (w len : Nat) : Cmd := cmd 8 4 (le 1 255 ++ le 1 w ++ le 1 0 ++ zeros 5 ++ le 8 0 ++ le 8 len)

theorem witness_VisionRuns_commands :
    Asks ready (cmd 8 1 ((visRecord 255).set 2 4)) (fun s c => clean c 0 0 true = true ∧ c.payload.length = 256 ∧
      ((visChecks s c.payload).find? (fun x => !x.2)) = some (2, false)) ∧
    Asks (viewing 255 ringFull) (cmd 8 3 [1] 255) (fun s c => let v := visAt s 255; bits c.arg0.toNat 7 0 = 255 ∧ clean c 0x1FF 0 true = true ∧
      v.phase = .running ∧ v.eos = false ∧ v.waits = [] ∧ c.payload.length ≤ vRingLen v.desc ∧ vRingLen v.desc < v.tail - v.head + c.payload.length) ∧
    Asks (viewing 255 fun v => { v with waits := [(0, 6)] }) (cmd 8 3 [1] 255) (fun s _ => let v := visAt s 255; v.waits = [(0, 6)] ∧ findCmd s 0 6 = none) ∧
    Asks (viewing 255 ringFull) (pull255 2 1) (fun s c => let v := visAt s 255; field c.payload 0 1 = 255 ∧ clean c 0 0 true = true ∧ c.payload.length = 24 ∧
      field c.payload 2 1 ≤ 1 ∧ sub c.payload 3 5 = zeros 5 ∧ v.phase = .running ∧ v.eos = false ∧ v.waits = [] ∧
      field c.payload 16 8 ≤ vRingLen v.desc ∧ vRingLen v.desc < v.tail - v.head + field c.payload 16 8) ∧
    Asks (viewing 255 fun v => { v with phase := .resync }) (pull255 3 1) (fun s c => let v := visAt s 255; field c.payload 0 1 = 255 ∧ v.phase = .resync ∧
      v.eos = false ∧ v.waits = [] ∧ v.tail - v.head + field c.payload 16 8 ≤ vRingLen v.desc ∧
      windowHolds s (field c.payload 1 1) (field c.payload 8 8) (field c.payload 16 8) = false) ∧
    Asks (viewing 255 fun v => { v with phase := .ended }) (cmd 8 2 [] 255 1) (fun s c => bits c.arg0.toNat 7 0 = 255 ∧ clean c 0xFF 1 false = true ∧
      (visAt s 255).phase = .ended ∧ c.arg1 = 1) ∧
    (∀ p ∈ [VisPhase.running, .resync], Asks (viewing 255 fun v => { v with phase := p }) (cmd 8 2 [] 255 1) fun s c => bits c.arg0.toNat 7 0 = 255 ∧
      clean c 0xFF 1 false = true ∧ (visAt s 255).phase = p ∧ c.arg1 = 1) ∧
    (visAt (viewing 255) 255).eos = false := by
  unfold Asks Starts; and_intros <;> decide +kernel

/-- A context whose stream has ended and left nothing; `pics` says how many pictures it still holds, which is the standard's (log 14). -/
def drainedOut (n : Nat) : State := viewing n fun v => { v with phase := .draining, eos := true, drain := some (0, 5) }

theorem witness_VisionRuns_settle (k : Nat) (hk : k ≤ 1) (h : Config.picturesOut 1 [] true = k) : let s := drainedOut 255; let v := visAt s 255;
    v.phase = .draining ∧ v.eos = true ∧ v.waits = [] ∧ unitBytes s v = 0 ∧ (s.vis.engines.any fun e => e.any fun x => x.1 = 255) = false ∧
    v.drain = some (0, 5) ∧ ((outputPictures v true).waiting = [] ↔ k = 0) := by
  have hp : Config.picturesOut (vCodec (visAt (drainedOut 255) 255).desc) (visAt (drainedOut 255) 255).stream true = k := h
  refine ⟨by decide +kernel, by decide +kernel, by decide +kernel, Nat.min_eq_right (Nat.zero_le _), by decide +kernel, by decide +kernel, ?_⟩
  have hz : (visAt (drainedOut 255) 255).pics = 0 := by decide +kernel
  have hw : (visAt (drainedOut 255) 255).waiting = [] := by decide +kernel
  obtain rfl | rfl : k = 0 ∨ k = 1 := by omega
  · simp [outputPictures, hp, hz, hw]
  · simp [outputPictures, hp, hz, putPicture]

/-- Engine 7 has the first byte of context 255. -/
def decoding (f : VisCtx → VisCtx := id) (bad : Bool := false) : State :=
  { viewing 255 f with vis := { (viewing 255 f).vis with engines := (viewing 255 f).vis.engines.set 7 (some (255, 1, bad)) } }

theorem witness_VisionRuns_units :
    ((decoding).vis.engines.getD 7 none).isSome = true ∧ ready.vis.engines.getD 7 none = none ∧ pickContext ready 7 = none ∧
    (visAt (decoding fun v => { v with phase := .resync }) 255).phase = .resync ∧ (visAt (decoding fun v => { v with hunt := true }) 255).hunt = true ∧
    unitFault (visAt (decoding) 255) [1] true = some 0 ∧
    (∀ f ∈ [fun v : VisCtx => { v with waiting := [] }, fun v => { v with waiting := [⟨0, 4, false⟩] }, fun v => { v with phase := .error }],
      let v := visAt (viewing 255 f) 255; v.waiting = [] ∨ listFor v v.out = none ∨ v.phase = .error) ∧
    (let s := viewing 255 fun v => { v with waiting := [⟨0, 4, false⟩], always := some boxPay, out := 2 };
      (visAt s 255).out = vSlots (visAt s 255).desc ∧ vSlots (visAt s 255).desc = 2) := by
  and_intros <;> decide +kernel

/-- What a unit's bytes say is the standard's (log 14): each outcome, for the standards that give it. -/
theorem witness_VisionRuns_faults (v : VisCtx) (u : List Byte) (h : Config.pictureForm (vCodec v.desc) v.stream u = (63, 64, 8, 1))
    (g : Config.verdict (vCodec v.desc) v.stream u ≠ .unsupported) : unitFault v u false = some 2 := by
  simp [unitFault, h, g]

theorem witness_VisionRuns_unsupported (v : VisCtx) (u : List Byte) (g : Config.verdict (vCodec v.desc) v.stream u = .unsupported) :
    unitFault v u false = some 1 := by
  simp [unitFault, g]

theorem witness_VisionRuns_picture (v : VisCtx) (u : List Byte) (h : Config.pictureForm (vCodec v.desc) v.stream u = (64, 64, 8, 1))
    (n : Config.dpbNeed (vCodec v.desc) v.stream u ≤ vDpbLen v.desc) (g : Config.verdict (vCodec v.desc) v.stream u = .good) :
    unitFault v u false = none := by
  simp [unitFault, h, g, Nat.not_lt.2 n]

theorem witness_AbortsAndTimeouts_restore :
    Asks (committed) (cmd 7 8 (restorePay 3 2 0 4 0)) (fun s c => restoreReadsHost s c = true) := by
  unfold Asks Starts; and_intros <;> decide +kernel

/-- R423: a new static list leaves the one before it with the frames that were ready: those decoded whose slots are free, not the frame
after them, nor one with a list of its own. -/
theorem test_static_list_of_ready_frames :
    let s := viewing 255 fun v => { v with waiting := [⟨0, 4, false⟩, ⟨1, 4, false⟩], always := some [1], lists := [(1, [3])] }
    let v := visAt (setStatic s 255 [2]) 255
    listFor v 0 = some [1] ∧ listFor v 1 = some [3] ∧ listFor v 2 = some [2] ∧ v.taken = [(0, [1])] := by
  decide +kernel

/-- R435, R440: a clock above its cap glides down 25 MHz with each power sample, and a raise leaves it. -/
theorem test_clock_glide :
    let s := setLimits { ready with pwr := { ready.pwr with clock0 := 1600, clock1 := 800 } } 0 1000
    (powerSample s 54000 0 0 s.pwr.temps).pwr.clock0 = 1575 ∧ (powerSample s 54000 0 0 s.pwr.temps).pwr.clock1 = 800 ∧
      (clockRaise s).pwr.clock0 = 1600 ∧ (clockRaise s).pwr.clock1 = 825 := by
  and_intros <;> decide +kernel

/-- Core 0 fetches a tile from the window of core 151, which is lit. -/
def windowRead : State :=
  setCore (core151 fun c => { c with power := .lit, clockOn := true }) 0 fun c => { c with moves := [{ someMove .fetch with src := tileAddr 151 0 }] }

theorem witness_CoresChangeStateAndAreFenced_window :
    windowBusy (core151 fun c => { c with power := .lit, clockOn := true }) 151 = false ∧
    (∃ m ∈ (coreAt windowRead 0).moves, windowCore m.src = some 151) ∧ windowBusy windowRead 151 = true ∧ windowRead.cores.length = 152 := by
  and_intros <;> decide +kernel
end Sys2Proof.Tests
end

section
/-! SUPPORT. The rules of the host commands: a command that starts, completion records, the failed PROVE
(02_host_commands.md; R35, R41, R42, R44). -/

namespace Sys2Proof.Machine

variable {s : State} {mb : Nat} {tag : DWord} {c : Cmd} {cls code : Nat}

/-- A command that starts does what its body says. -/
theorem Starts.answers (h : Starts s mb tag cls code c) {body : Cmd → State → State} {t : State} (hb : body c s = t) :
    mbCommand mb tag cls code body s = .next t := hb ▸ mbCommand_starts h.1 h.2.1 h.2.2

/-- A change of the host link alone leaves every part of the state but that one. -/
theorem HostOnly.keeps {t : State} (h : HostOnly s t) {α : Type} (g : State → α) (hg : ∀ s h, g { s with host := h } = g s) : g t = g s := by
  rw [h, hg]

/-! ### Folds -/

/-- A fold of steps that each keep a value keeps it. -/
theorem foldl_keeps {σ α β : Type} (g : σ → β) {f : σ → α → σ} (hf : ∀ s x, g (f s x) = g s) (xs : List α) (s : σ) :
    g (xs.foldl f s) = g s := by
  induction xs generalizing s with
  | nil => rfl
  | cons x xs ih => exact (ih _).trans (hf s x)

/-- A fold whose steps on its list change nothing changes nothing. -/
theorem foldl_fixed_of_mem {σ α : Type} {f : σ → α → σ} {s : σ} {xs : List α} (h : ∀ x ∈ xs, f s x = s) : xs.foldl f s = s := by
  induction xs with
  | nil => rfl
  | cons x xs ih => rw [List.foldl_cons, h x (by simp), ih fun y hy => h y (by simp [hy])]

/-! ### Completion records -/

@[simp] theorem length_le (n v : Nat) : (le n v).length = n := by
  induction n generalizing v with
  | zero => rfl
  | succ n ih => simp [le, ih]

@[simp] theorem length_recordHeader (p : Bool) (r : CplRec) : (recordHeader mb p r).length = 64 := by
  simp [recordHeader, withCrc, zeros]

/-- A response of at most 64 KiB is one chunk. -/
theorem chunks_of_le {pay : List Byte} (h : pay.length ≤ 65536) : chunks pay = [pay] := by
  have hn : max 1 ((pay.length + 65535) / 65536) = 1 := by omega
  simp [chunks, hn, List.take_of_length_le h]

/-- The state in which the record that takes the present ORDINAL is posted (R41). -/
def nextOrdinal (s : State) : State := { s with host := { s.host with ordinal := s.host.ordinal + 1 } }

/-- The single record of a response of at most 64 KiB (R41). -/
def soleRecord (s : State) (c : Cmd) (status : Nat) (pay : List Byte) (r0 r1 : DWord) : CplRec :=
  ⟨c.cls, c.code, status, c.tag, c.seq, 0, r0, r1, s.host.ordinal, false, c.flags.getLsbD 0, pay⟩

/-- A response of at most 64 KiB is posted as one record, which takes the next ORDINAL (R41). -/
theorem respond_one {pay : List Byte} (h : pay.length ≤ 65536) (status : Nat) (r0 r1 : DWord) :
    respond s mb c status pay r0 r1 = postRecord (nextOrdinal s) mb (soleRecord s c status pay r0 r1) := by
  simp [respond, chunks_of_le h, nextOrdinal, soleRecord]

/-- What an update of a mailbox leaves of every mailbox. -/
theorem setMb_keeps {α : Type} (g : Mailbox → α) {f : Mailbox → Mailbox} (hf : ∀ m, g (f m) = g m) (k : Nat) :
    g (mbAt (setMb s mb f) k) = g (mbAt s k) := by
  by_cases hk : k = mb
  · subst hk
    by_cases hl : k < s.host.mbs.length
    · rw [mbAt_setMb hl, hf]
    · simp [mbAt, setMb, List.getD, hl]
  · rw [mbAt_setMb_of_ne hk]

@[simp] theorem raiseVector_mbs (v : Nat) : (raiseVector s v).host.mbs = s.host.mbs := by
  unfold raiseVector; split <;> rfl

theorem mbAt_raiseVector (v k : Nat) : mbAt (raiseVector s v) k = mbAt s k := by simp [mbAt]

/-- Raising the vector of a completion touches the interrupt fields of its mailbox alone. -/
theorem raiseCompletion_keeps {α : Type} (g : Mailbox → α) (h : ∀ m x y, g { m with irqLast := x, irqWait := y } = g m) (k : Nat) :
    g (mbAt (raiseCompletion s mb) k) = g (mbAt s k) := by
  simp only [raiseCompletion]; split
  · exact setMb_keeps g (fun m => h m m.irqLast true) k
  · rw [mbAt_raiseVector]; exact setMb_keeps g (fun m => h m _ m.irqWait) k

/-- A due record touches the interrupt fields, the held records and the producer pointer of its mailbox alone. -/
theorem postRecord_keeps {α : Type} (g : Mailbox → α)
    (h : ∀ m x y p l, g { m with irqLast := x, irqWait := y, cplProd := p, held := l } = g m) (r : CplRec) (k : Nat) :
    g (mbAt (postRecord s mb r) k) = g (mbAt s k) := by
  simp only [postRecord]; split
  · simp only [writeRecord]; split
    · exact (raiseCompletion_keeps g (fun m x y => h m x y m.cplProd m.held) k).trans
        (setMb_keeps g (fun m => h m m.irqLast m.irqWait _ m.held) k)
    · exact setMb_keeps g (fun m => h m m.irqLast m.irqWait _ m.held) k
  · exact setMb_keeps g (fun m => h m m.irqLast m.irqWait m.cplProd _) k

/-- Posting the records of a command leaves the outstanding commands of every mailbox. -/
theorem respond_cmds (status : Nat) (pay : List Byte) (r0 r1 : DWord) (k : Nat) :
    (mbAt (respond s mb c status pay r0 r1) k).cmds = (mbAt s k).cmds := by
  unfold respond
  exact foldl_keeps (fun s => (mbAt s k).cmds) (fun s _ => postRecord_keeps (s := nextOrdinal s) Mailbox.cmds (fun _ _ _ _ _ => rfl) _ k) _ s

/-- Dropping a command removes it from its mailbox. -/
theorem dropCmd_cmds (tag : DWord) : (mbAt (dropCmd s mb tag) mb).cmds = (mbAt s mb).cmds.filter fun x => x.tag ≠ tag := by
  by_cases h : mb < s.host.mbs.length
  · rw [dropCmd, mbAt_setMb h]
  · have none : mbAt s mb = Mailbox.reset := by simp [mbAt, List.getD, List.getElem?_eq_none (Nat.le_of_not_lt h)]
    rw [dropCmd, mbAt, List.getD, List.getElem?_eq_none (by simpa using h), none]
    rfl

/-- Completing a command takes it off its mailbox (R41). -/
theorem finish_cmds (status : Nat) (pay : List Byte) (r0 r1 : DWord) :
    (mbAt (finish s mb c status pay r0 r1) mb).cmds = (mbAt s mb).cmds.filter fun x => x.tag ≠ c.tag := by
  rw [finish, respond_cmds, dropCmd_cmds]

/-- A record without interrupt is posted by two writes to host memory and a move of the producer pointer. -/
theorem postRecord_room {r : CplRec} (hh : (mbAt s mb).held = []) (hr : hasRoom (mbAt s mb) r = true) (hi : r.irq = false) :
    postRecord s mb r = setMb (hostWrite (hostWrite s ((mbAt s mb).cplBase.toNat + (recordPlace (mbAt s mb) r).1 + 64) r.payload)
        ((mbAt s mb).cplBase.toNat + (recordPlace (mbAt s mb) r).1) (recordHeader mb (!(recordPlace (mbAt s mb) r).2.1) r)) mb fun m =>
      { m with cplProd := mkPtr (2 ^ m.cplSize) ((recordPlace (mbAt s mb) r).1 + recordLen r) (recordPlace (mbAt s mb) r).2.1 } := by
  simp [postRecord, hh, hr, writeRecord, hi]

/-- A record without room, or behind one that waits, is held (R42). -/
theorem postRecord_full {r : CplRec} (h : (mbAt s mb).held ≠ [] ∨ hasRoom (mbAt s mb) r = false) :
    postRecord s mb r = setMb s mb fun m => { m with held := m.held ++ [r] } := by
  rw [postRecord, if_neg]
  rcases h with h | h <;> simp [h]

/-- The commands of a mailbox decide neither where a record lands nor whether it has room. -/
theorem mbAt_dropCmd (h : mb < s.host.mbs.length) (tag : DWord) (r : CplRec) : let m := mbAt (nextOrdinal (dropCmd s mb tag)) mb
    m.held = (mbAt s mb).held ∧ hasRoom m r = hasRoom (mbAt s mb) r ∧ recordPlace m r = recordPlace (mbAt s mb) r ∧
      m.cplBase = (mbAt s mb).cplBase ∧ m.cplSize = (mbAt s mb).cplSize := by
  have : mbAt (nextOrdinal (dropCmd s mb tag)) mb = _ := mbAt_setMb h _
  rw [this]
  exact ⟨rfl, rfl, rfl, rfl, rfl⟩

/-- Posting a record without interrupt leaves ORDINAL and every other mailbox. -/
theorem postRecord_quiet {r : CplRec} (hi : r.irq = false) :
    (postRecord s mb r).host.ordinal = s.host.ordinal ∧ ∀ k ≠ mb, mbAt (postRecord s mb r) k = mbAt s k := by
  by_cases h : (mbAt s mb).held = [] ∧ hasRoom (mbAt s mb) r = true
  · rw [postRecord_room h.1 h.2 hi]
    exact ⟨rfl, fun k hk => mbAt_setMb_of_ne hk _⟩
  · rw [postRecord_full (by simpa [or_iff_not_imp_left] using h)]
    exact ⟨rfl, fun k hk => mbAt_setMb_of_ne hk _⟩

/-- What the ring reads after a record without interrupt has been posted: the header, the payload behind it. -/
theorem postRecord_bytes {r : CplRec} (hh : (mbAt s mb).held = []) (hr : hasRoom (mbAt s mb) r = true) (hi : r.irq = false) :
    let a := (mbAt s mb).cplBase.toNat + (recordPlace (mbAt s mb) r).1
    readRun (postRecord s mb r).host.mem a 64 = recordHeader mb (!(recordPlace (mbAt s mb) r).2.1) r ∧
      readRun (postRecord s mb r).host.mem (a + 64) r.payload.length = r.payload := by
  rw [postRecord_room hh hr hi]
  simp only [setMb_host, hostWrite_host]
  refine ⟨?_, ?_⟩
  · simpa using readRun_writeRun _ _ (recordHeader mb (!(recordPlace (mbAt s mb) r).2.1) r)
  · rw [readRun_writeRun_of_disjoint _ _ _ _ _ (by simp), readRun_writeRun]

/-- Settles O12: a response of at most 64 KiB is one record, posted at the producer pointer or held. -/
theorem recordsReachTheRing : Obligations.RecordsReachTheRing := by
  intro s mb c status pay r0 r1 hlen hmb hp hf r hr t
  have hmb : mb < s.host.mbs.length := hlen ▸ hmb
  have hrec : soleRecord (dropCmd s mb c.tag) c status pay r0 r1 = r := by rw [hr, soleRecord, hf]; rfl
  have ht : t = postRecord (nextOrdinal (dropCmd s mb c.tag)) mb r := hrec ▸ respond_one hp status r0 r1
  have frame : HostOnly s t := finish_host mb c status pay r0 r1
  have hi : r.irq = false := by rw [hr]
  have hpay : r.payload = pay := by rw [hr]
  have hu : mb < (nextOrdinal (dropCmd s mb c.tag)).host.mbs.length := by simpa [nextOrdinal, dropCmd] using hmb
  obtain ⟨hheld, hroom, hplace, hbase, hsize⟩ := mbAt_dropCmd hmb c.tag r
  obtain ⟨hord, hothers⟩ := postRecord_quiet (s := nextOrdinal (dropCmd s mb c.tag)) (mb := mb) hi
  refine ⟨ht ▸ hord, fun x hx => ?_, fun k hk => ?_, frame.keeps State.cores fun _ _ => rfl, frame.keeps State.dram fun _ _ => rfl,
    frame.keeps State.ctl fun _ _ => rfl, frame.keeps State.recs fun _ _ => rfl, frame.keeps State.time fun _ _ => rfl,
    fun h1 h2 => ?_, fun h => ?_⟩
  · have := finish_cmds (s := s) (mb := mb) (c := c) status pay r0 r1 ▸ hx
    simpa using (List.mem_filter.1 this).2
  · exact ht ▸ (hothers k hk).trans (mbAt_setMb_of_ne hk _)
  · have bytes := postRecord_bytes (s := nextOrdinal (dropCmd s mb c.tag)) (hheld.trans h1) (hroom.trans h2) hi
    have at_mb : mbAt t mb = _ :=
      (congrArg (mbAt · mb) (ht.trans (postRecord_room (hheld.trans h1) (hroom.trans h2) hi))).trans (mbAt_setMb hu _)
    simp only [hplace, hbase, hpay, ← ht] at bytes
    refine ⟨?_, ?_, bytes.1, bytes.2⟩
    · rw [at_mb, ← h1, ← hheld]
    · rw [at_mb, ← hplace, ← hsize]
  · have ht : t = _ := ht.trans (postRecord_full (by rwa [hheld, hroom]))
    rw [ht]
    refine ⟨?_, rfl⟩
    rw [mbAt_setMb hu, ← hheld]

/-! ### A PROVE that fails (R44) -/

theorem proveBody_fails (hc : clean c 0 0 true = true) (hl : c.payload.length = 48) (hs : (mbAt s mb).session = none)
    (hp : proofHolds s mb c.payload = false) :
    proveBody mb c s = finish (authFailed (setMb s mb fun m => { m with challenge := none }) mb) mb c stAuth := by
  simp [proveBody, hc, hl, hs, hp]

/-- Settles O6: the mailbox after a failed PROVE is the one without its challenge, counted as a failure. -/
theorem challengeIsConsumed : Obligations.ChallengeIsConsumed := by
  intro s mb tag c hlen h hc hl hs hp
  have hmb : mb < s.host.mbs.length := hlen ▸ h.1
  refine ⟨_, h.answers (proveBody_fails hc hl hs hp), ?_⟩
  have hat : mbAt (setMb s mb fun m => { m with challenge := none }) mb = _ := mbAt_setMb hmb _
  have hat' : mbAt (authFailed (setMb s mb fun m => { m with challenge := none }) mb) mb = _ :=
    mbAt_setMb (by simpa using hmb) _
  rw [hat', hat]
  refine ⟨rfl, hs, rfl, fun hf => ?_, fun k hk => ?_, rfl, rfl, rfl⟩
  · exact if_pos (Nat.succ_le_succ hf)
  · exact (mbAt_setMb_of_ne hk _).trans (mbAt_setMb_of_ne hk _)

end Sys2Proof.Machine
end

section
/-! SUPPORT. What each reset level leaves and keeps (18_power_clocks_reset.md; R448, R62). -/

namespace Sys2Proof.Machine

variable {s : State} {mb : Nat} {tag : DWord} {c : Cmd} {cls code : Nat}

section
variable {α : Type} (g : State → α)

theorem writeLocal_keeps (hg : ∀ s d p l q, g { s with dram := d, poison := p, tel := l, tier := q } = g s) (a : Nat) (bs : List Byte) :
    g (writeLocal s a bs) = g s := by
  have piece (s : State) (a : Nat) (bs : List Byte) : g (writePhys s a bs) = g s := by
    rw [writePhys_frame]; exact hg s _ _ _ s.tier
  have dirty : g (markDirty s a bs.length) = g s := by
    unfold markDirty; split
    · rfl
    · exact hg s s.dram s.poison s.tel _
  exact (foldl_keeps (fun x : State × List Byte => g x.1) (fun x p => piece x.1 _ _) _ _).trans dirty

theorem havocLocal_keeps (hg : ∀ s d p l q n, g { s with dram := d, poison := p, tel := l, tier := q, freeCount := n } = g s) (a n : Nat) :
    g (havocLocal s a n) = g s :=
  (hg (writeLocal s a (freeBytes s n)) _ _ _ _ _).trans (writeLocal_keeps g (fun s d p l q => hg s d p l q s.freeCount) a _)

/-- A write in flight that is cut off touches the bytes and the seals of its destination alone (R448). -/
theorem discardMove_keeps (hg : ∀ s d p l q n r, g { s with dram := d, poison := p, tel := l, tier := q, freeCount := n, recs := r } = g s)
    (m : Move) : g (discardMove s m) = g s := by
  have cut (sh : Shape) : g (if m.remote || space m.dst = 3 then s
      else if space m.dst = 2 then unsealSlots s (slotAt (offset m.dst)) (tileSlots sh.fmt sh.kind)
      else havocLocal s (offset m.dst) (tileBytes sh.fmt sh.kind)) = g s := by
    split
    · rfl
    · split
      · exact hg s s.dram s.poison s.tel s.tier s.freeCount _
      · exact havocLocal_keeps g (fun s d p l q n => hg s d p l q n s.recs) _ _
  unfold discardMove; split
  · exact cut _
  · exact cut _
  · rfl

theorem dropCores_keeps
    (hg : ∀ s d p l q n r k, g { s with dram := d, poison := p, tel := l, tier := q, freeCount := n, recs := r, cores := k } = g s) :
    g (dropCores s) = g s := by
  refine (hg (s.cores.foldl (fun s c => c.moves.foldl discardMove s) s) _ _ _ _ _ _ _).trans ?_
  exact foldl_keeps g (fun s c => foldl_keeps g
    (fun s m => discardMove_keeps g (fun s d p l q n r => hg s d p l q n r s.cores) m) c.moves s) s.cores s

theorem dropCtl_keeps (hg : ∀ s c n, g { s with ctl := c, freeCount := n } = g s) : g (dropCtl s) = g s :=
  (hg { s with ctl := s.ctl.filter fun c => c.1 < tileBase 0 } _ _).trans (hg s _ s.freeCount)

/-- The pictures that the engines lose are bytes of LPDDR (R422). -/
theorem dropPictures_keeps (hg : ∀ s d p l q n, g { s with dram := d, poison := p, tel := l, tier := q, freeCount := n } = g s) :
    g (dropPictures s) = g s :=
  foldl_keeps g (fun s e => by split <;> [exact havocLocal_keeps g hg _ _; rfl]) _ s

end

/-- The record of a reset touches LEVEL, SOURCE and the telemetry alone. -/
theorem noteReset_frame (level source k : Nat) : noteReset s level source k =
    { s with pwr := { s.pwr with level, source }, tel := (noteReset s level source k).tel } := by
  conv_lhs => simp only [noteReset]
  rw [fbEntry_frame]
  rfl

/-- No mailbox has a command outstanding. -/
def NoCommands (s : State) : Prop := ∀ m ∈ s.host.mbs, m.cmds = []

theorem NoCommands.cmds (h : NoCommands s) (k : Nat) : (mbAt s k).cmds = [] := by
  by_cases hk : k < s.host.mbs.length
  · rw [mbAt, List.getD, List.getElem?_eq_getElem hk]; exact h _ (List.getElem_mem hk)
  · rw [mbAt, List.getD, List.getElem?_eq_none (Nat.le_of_not_lt hk)]; rfl

theorem resetCommands_none (h : NoCommands s) : resetCommands s = s :=
  List.foldl_fixed' (fun k => by rw [h.cmds]; rfl) _

theorem closeLink_host (f : Mailbox → Mailbox) :
    (closeLink s f).host = { s.host with mbs := s.host.mbs.map f, windows := [], ordinal := 0 } := by
  simp [closeLink, revokeWindows, mapMailboxes]

@[simp] theorem noteReset_host (level source k : Nat) : (noteReset s level source k).host = s.host := by rw [noteReset_frame]
@[simp] theorem noteReset_level (level source k : Nat) : (noteReset s level source k).pwr.level = level := by rw [noteReset_frame]
@[simp] theorem noteReset_source (level source k : Nat) : (noteReset s level source k).pwr.source = source := by rw [noteReset_frame]

/-- A function reset closes the link and notes itself (R62). -/
theorem functionReset_eq (s : State) (source : Nat) :
    ∃ u, functionReset s source = noteReset (resetMsix (closeLink u Mailbox.functionReset)) 2 source cFunction := ⟨_, rfl⟩

theorem functionReset_leaves (s : State) (source : Nat) : let t := functionReset s source
    t.host.ordinal = 0 ∧ t.host.windows = [] ∧ (∀ m ∈ t.host.mbs, m.session = none ∧ m.cmds = [] ∧ m.held = []) ∧
    t.pwr.level = 2 ∧ t.pwr.source = source := by
  obtain ⟨u, hu⟩ := functionReset_eq s source
  simp only [hu, noteReset_host, noteReset_level, noteReset_source, resetMsix, closeLink_host, true_and, and_true]
  intro m hm
  obtain ⟨m', -, rfl⟩ := List.mem_map.1 hm
  exact ⟨rfl, rfl, rfl⟩

theorem mem_darkened {cs : List Core} {c : Core} (h : c ∈ cs.mapIdx fun n c => c.darkened n) :
    c.power = .dark ∧ c.launch = none ∧ c.moves = [] := by
  obtain ⟨n, hn, rfl⟩ := List.mem_mapIdx.1 h
  exact ⟨rfl, rfl, rfl⟩

/-- What a warm reset has dropped before its stage is set (R448). -/
def warmDropped (s : State) : State :=
  drawIncarnation (dropWork (dropPictures (dropCtl (dropCores (closeLink (resetCommands s) Mailbox.warmReset)))))

theorem warmReset_eq (s : State) (source : Nat) : warmReset s source =
    noteReset (selfRefresh { warmDropped s with
      pwr := { (warmDropped s).pwr with stage := warmStage (warmDropped s) source } }) 1 source cWarm := rfl

/-- A part of the state that neither the memories nor what a reset loses reach is as the cores' loss leaves it. -/
theorem warmDropped_keeps {α : Type} (g : State → α) (h1 : ∀ s, g (drawIncarnation (dropWork s)) = g s)
    (h2 : ∀ s d p l q n c, g { s with dram := d, poison := p, tel := l, tier := q, freeCount := n, ctl := c } = g s) (s : State) :
    g (warmDropped s) = g (dropCores (closeLink (resetCommands s) Mailbox.warmReset)) :=
  ((h1 _).trans (dropPictures_keeps g fun s d p l q n => h2 s d p l q n s.ctl)).trans
    (dropCtl_keeps g fun s c n => h2 s s.dram s.poison s.tel s.tier n c)

theorem warmDropped_ordinal (s : State) : (warmDropped s).host.ordinal = 0 :=
  (warmDropped_keeps (fun s => s.host.ordinal) (fun _ => rfl) (fun _ _ _ _ _ _ _ => rfl) s).trans
    (dropCores_keeps (fun s => s.host.ordinal) fun _ _ _ _ _ _ _ _ => rfl)

theorem warmDropped_stage (h : NoCommands s) : (warmDropped s).pwr.stage = s.pwr.stage := by
  refine (warmDropped_keeps (fun s => s.pwr.stage) (fun _ => rfl) (fun _ _ _ _ _ _ _ => rfl) s).trans ?_
  rw [resetCommands_none h]
  exact dropCores_keeps (fun s => s.pwr.stage) fun _ _ _ _ _ _ _ _ => rfl

theorem dropCores_cores (s : State) :
    ∃ cs : List Core, (dropCores s).cores = cs.mapIdx fun n c => c.darkened n := ⟨_, rfl⟩

theorem warmDropped_cores (s : State) : ∀ c ∈ (warmDropped s).cores, c.power = .dark ∧ c.launch = none ∧ c.moves = [] := by
  intro c hc
  obtain ⟨cs, h⟩ := dropCores_cores (closeLink (resetCommands s) Mailbox.warmReset)
  have := (warmDropped_keeps State.cores (fun _ => rfl) (fun _ _ _ _ _ _ _ => rfl) s).trans h
  exact mem_darkened (this ▸ hc)

theorem warmDropped_recs (s : State) : (warmDropped s).recs = [] :=
  (warmDropped_keeps State.recs (fun _ => rfl) (fun _ _ _ _ _ _ _ => rfl) s).trans rfl

theorem dropCores_dram (h : ∀ c ∈ s.cores, c.moves = []) : (dropCores s).dram = s.dram := by
  have idle : s.cores.foldl (fun s c => c.moves.foldl discardMove s) s = s := foldl_fixed_of_mem fun c hc => by simp [h c hc]
  show (s.cores.foldl (fun s c => c.moves.foldl discardMove s) s).dram = s.dram
  rw [idle]

theorem dropPictures_idle (h : ∀ e ∈ s.vis.engines, e = none) : dropPictures s = s :=
  foldl_fixed_of_mem fun e he => by simp [h e he]

/-- HBM and LPDDR keep their bytes where nothing was on its way into them (R448). -/
theorem warmDropped_dram (h : NoCommands s) (hm : ∀ c ∈ s.cores, c.moves = []) (hv : ∀ e ∈ s.vis.engines, e = none) :
    (warmDropped s).dram = s.dram := by
  have vis : (dropCtl (dropCores (closeLink s Mailbox.warmReset))).vis = s.vis :=
    (dropCtl_keeps State.vis fun _ _ _ => rfl).trans (dropCores_keeps State.vis fun _ _ _ _ _ _ _ _ => rfl)
  rw [warmDropped, resetCommands_none h, dropPictures_idle (by rwa [vis])]
  exact (dropCtl_keeps State.dram fun _ _ _ => rfl).trans (dropCores_dram hm)

theorem warmReset_leaves (s : State) (source : Nat) : let t := warmReset s source
    (∀ c ∈ t.cores, c.power = .dark ∧ c.launch = none ∧ c.moves = []) ∧ t.recs = [] ∧ t.programs = [] ∧ t.job = Job.reset ∧
    t.host.ordinal = 0 ∧ t.pwr.level = 1 ∧ t.pwr.source = source ∧ t.fab.device = none ∧ (source = 3 → t.pwr.stage = .hold) ∧
    (NoCommands s → source ≠ 3 → s.pwr.stage ≠ .hold → t.pwr.stage = .rom) ∧
    (NoCommands s → (∀ c ∈ s.cores, c.moves = []) → (∀ e ∈ s.vis.engines, e = none) → t.dram = s.dram) := by
  have cores := warmDropped_cores s
  have recs := warmDropped_recs s
  have ordinal := warmDropped_ordinal s
  have programs : (warmDropped s).programs = [] := rfl
  have job : (warmDropped s).job = Job.reset := rfl
  have device : (warmDropped s).fab.device = none := rfl
  have stage := warmDropped_stage (s := s)
  have dram := warmDropped_dram (s := s)
  simp only [warmReset_eq]
  generalize warmDropped s = u at *
  rw [noteReset_frame]
  refine ⟨cores, recs, programs, job, ordinal, rfl, rfl, device, fun h => if_pos (.inl h), fun hc h1 h2 => if_neg ?_, dram⟩
  rw [stage hc]
  exact not_or.2 ⟨h1, h2⟩

theorem coldReset_leaves (s : State) (source : Nat) : let t := coldReset s source
    t.pwr.stage = .power ∧ t.pwr.endpoint = false ∧ t.dram = [] ∧ t.ctl = [] ∧ t.recs = [] ∧ t.poison = [] ∧ t.pwr.level = 0 ∧
    t.time = s.time ∧ t.fw.ownerKey = s.fw.ownerKey ∧ t.fw.slots = s.fw.slots ∧ t.fw.minSec = s.fw.minSec ∧ t.res.slots = s.res.slots ∧
    (∀ c ∈ t.cores, c.power = .dark ∧ c.launch = none) := by
  simp only [coldReset]
  rw [noteReset_frame]
  refine ⟨rfl, rfl, rfl, rfl, rfl, rfl, rfl, rfl, rfl, rfl, rfl, rfl, fun c hc => ?_⟩
  obtain ⟨dark, idle, -⟩ := mem_darkened hc
  exact ⟨dark, idle⟩

theorem powerArrival_leaves (s : State) : (powerArrival s).time = 0 ∧ (powerArrival s).pwr.powered = true := by
  unfold powerArrival
  dsimp only
  split
  · exact ⟨rfl, rfl⟩
  · rw [coldReset, noteReset_frame]
    exact ⟨rfl, rfl⟩

/-- Settles O14: each reset level by the lemma that says what it leaves and keeps. -/
theorem resetLevelsLoseAndKeep : Obligations.ResetLevelsLoseAndKeep :=
  ⟨functionReset_leaves, warmReset_leaves, coldReset_leaves, fun s => ⟨rfl, rfl, powerArrival_leaves s⟩⟩

end Sys2Proof.Machine
end

section
/-! SUPPORT. The reset commands, and a step of the module (18_power_clocks_reset.md; 02_host_commands.md; R35, R62, R64, R433, R448). -/

namespace Sys2Proof.Machine

variable {s : State} {mb : Nat} {tag : DWord} {c : Cmd} {cls code : Nat}

/-! ### Resets (R62, R64, R448, R453, R507) -/

theorem onUnit_exists {n count : Nat} (h : n < count) (k : Out) : onUnit n count k = k := if_pos h

theorem resetOk_running (h1 : s.pwr.powered = true) (h2 : s.pwr.pinHeld = false) : resetOk s = true := by simp [resetOk, h1, h2]

theorem warmOk_running (h1 : s.pwr.powered = true) (h2 : s.pwr.pinHeld = false) (h3 : s.pwr.fault = false) (h4 : s.pwr.stage ≠ .power) :
    warmOk s = true := by simp [warmOk, resetOk_running h1 h2, h3, h4]

/-- What a RESET that is in order does after its record: the level that ARG0 names (R64). -/
theorem resetBody_performs (hc : clean c all64 0 false = true) (h : c.arg0 = 1 ∨ c.arg0 = 2) :
    resetBody mb c s = if c.arg0 = 1 then warmReset (finish s mb c 0) 0 else functionReset (finish s mb c 0) 0 := by
  rcases h with h | h <;> simp [resetBody, hc, h]

theorem next_if {p : Prop} [Decidable p] {t u : State} (h : p) : (.next (if p then t else u) : Out) = .next t := by rw [if_pos h]

theorem next_ite_of_iff {p q : Prop} [Decidable p] [Decidable q] {t u : State} (h : p ↔ q) :
    (.next (if p then t else u) : Out) = .next (if q then t else u) := by simp only [h]

/-- What the reset rows do on a module with 54 V, MOD_RESET_N released. -/
theorem resets_running (source : Nat) (h1 : s.pwr.powered = true) (h2 : s.pwr.pinHeld = false) :
    (source < 4 → s.pwr.endpoint = true → exec (.functionReset source) s = .next (functionReset s source)) ∧
    (source < 3 → exec (.coldReset source) s = .next (coldReset s source)) ∧
    exec .sidebandColdReset s = .next (coldReset s 2) ∧ exec .modResetNAssert s = .next (pinLow s) ∧
    ∀ mv, exec (.powerLoss mv) s = .next (if mv < 40000 then powerLoss s else s) := by
  have ok := resetOk_running h1 h2
  exact ⟨fun hs he => (onUnit_exists hs _).trans (next_if (by simp [ok, he])), fun hs => (onUnit_exists hs _).trans (next_if ok),
    next_if ok, next_if ok, fun mv => next_ite_of_iff (by simp [h1])⟩

/-- What the warm-reset rows do where a warm reset can act. -/
theorem warmResets_running (source : Nat) (h : warmOk s = true) :
    (source < 4 → exec (.warmReset source) s = .next (warmReset s source)) ∧ exec .sidebandWarmReset s = .next (warmReset s 1) ∧
    (s.pwr.stage ≠ .hold → exec .sysenWatchdogExpiry s = .next (warmReset (advance s (s.time + 2000000000)) 2)) :=
  ⟨fun hs => (onUnit_exists hs _).trans (next_if h), next_if h, fun hh => next_if (by simp [h, hh])⟩

theorem sidebandLimitWrite_eq (h : s.pwr.powered = true) (v : Byte) : exec (.sidebandLimitWrite v) s =
    if 100 ≤ v.toNat ∧ v.toNat ≤ 200 then .next { s with pwr := { s.pwr with boardLimit := v } } else .next s := by
  refine (next_ite_of_iff (q := 100 ≤ v.toNat ∧ v.toNat ≤ 200) (by simp [h])).trans ?_
  split <;> rfl

/-- Settles O13: each request by the lemma on when its level is performed; RESET by what its body does. -/
theorem resetsComplete : Obligations.ResetsComplete := by
  refine ⟨fun s source h1 h2 => ?_, fun s mb tag c h hc => ⟨fun ha => ?_, fun ha => ?_⟩, fun s h => ?_, fun s h1 h2 => ?_,
    fun s h => ⟨next_if h, sidebandLimitWrite_eq h⟩⟩
  · obtain ⟨function, cold, sideband, pin, loss⟩ := resets_running source h1 h2
    have warm (hf : s.pwr.fault = false) (hp : s.pwr.stage ≠ .power) := warmResets_running source (warmOk_running h1 h2 hf hp)
    exact ⟨function, fun hs hf hp => (warm hf hp).1 hs, cold, sideband, fun hf hp => (warm hf hp).2, pin, loss⟩
  · exact h.answers ((resetBody_performs hc (.inl ha)).trans (if_pos ha))
  · exact h.answers ((resetBody_performs hc (.inr ha)).trans (if_neg (by simp [ha])))
  · show Host.Outcome.next (if s.pwr.powered then s else powerArrival s) = .next (powerArrival s)
    rw [if_neg (by simp [h])]
  · exact next_if (by simp [h1, h2])

/-! ### A step (R35) -/

theorem advance_idle (hr : s.tel.stepRec = none) (ht : throttled s = false) : advance s (s.time + 1) = { s with time := s.time + 1 } := by
  simp [advance, book, hr, ht, Pwr.counting]

theorem endWindows_none (h : ∀ n < 36, (nearAt s n).window = none) : endWindows s = s :=
  foldl_fixed_of_mem fun n hn => endWindow_open fun w hw => by simp [h n (List.mem_range.1 hn)] at hw

theorem endFarWindows_none (h : ∀ n < 8, (farAt s n).held = none) : endFarWindows s = s :=
  foldl_fixed_of_mem fun n hn => by simp [endFarWindow, h n (List.mem_range.1 hn)]

theorem failEmptyGroups_idle (h1 : s.job.phase ≠ .running) (h2 : s.job.phase ≠ .stopping) : failEmptyGroups s = s := by
  simp [failEmptyGroups, walking, h1, h2]

theorem tick_powered (h : s.pwr.powered = true) :
    tick s = failEmptyGroups (endFarWindows (endWindows (pumpSurvey (pumpRings (advance s (s.time + 1)))))) := if_pos h

/-- Settles O1: a tick with nothing under way is one advance of the time, as every later stage of it finds nothing to do. -/
theorem stepTakesTheFront : Obligations.StepTakesTheFront := by
  refine ⟨fun _ _ _ => rfl, fun s h => by simp [step, h], fun s h => if_neg (by simp [h]), fun s h => tick_powered h, ?_⟩
  intro s hp hring hrec ht hw hnear hfar hrun hstop
  have hsurvey : pumpSurvey { s with time := s.time + 1 } = { s with time := s.time + 1 } := by simp [pumpSurvey, hw]
  have hrings : pumpRings { s with time := s.time + 1 } = { s with time := s.time + 1 } := by simp [pumpRings, hring]
  rw [tick_powered hp, advance_idle hrec ht, hrings, hsurvey, endWindows_none (s := { s with time := s.time + 1 }) hnear,
    endFarWindows_none (s := { s with time := s.time + 1 }) hfar, failEmptyGroups_idle (s := { s with time := s.time + 1 }) hrun hstop]

end Sys2Proof.Machine
end

section
/-! SUPPORT. Sessions, the device and firmware commands, the ring (02_host_commands.md; R29 to R48, R57, R58). -/

namespace Sys2Proof.Machine

variable {s : State} {mb : Nat} {tag : DWord} {c : Cmd} {cls code : Nat}

/-! ### Sessions (R43 to R48) -/

theorem openBody_opens (hc : clean c 0 0 true = true) (hl : c.payload.length = 32) (hs : (mbAt s mb).session = none) :
    openBody mb c s = finish (setMb (bump s 32) mb fun m =>
      { m with challenge := some ⟨c.payload, freeBytes s 32, m.cplBase, m.cplSize, s.time⟩ }) mb c 0 (freeBytes s 32 ++ serialBytes) := by
  simp [openBody, hc, hl, hs]

theorem proveBody_opens {ch : Challenge} {key : List Byte} (hc : clean c 0 0 true = true) (hl : c.payload.length = 48)
    (hs : (mbAt s mb).session = none) (hch : (mbAt s mb).challenge = some ch) (hk : s.fw.ownerKey = some key)
    (hp : proofHolds s mb c.payload = true) : let fields := sessionFields mb ch (mbAt s mb).cplBase (mbAt s mb).cplSize
    let id : Word := (freeWord s).setWidth 32
    proveBody mb c s = finish (setMb (bump s 1) mb fun m =>
      { m with session := some ⟨id, 1, fields⟩, challenge := none, fails := 0, lockEnd := none }) mb c 0
      (le 4 id.toNat ++ hmac key (ascii "TK9-PROVE" ++ fields ++ le 4 id.toNat)) := by
  simp [proveBody, hc, hl, hs, hch, hk, hp]

theorem provisionBody_stores (hc : clean c 0 0 true = true) (hl : c.payload.length = 48) (hk : s.fw.ownerKey = none) :
    provisionBody mb c s = finish (fbEntry { s with fw := { s.fw with ownerKey := some c.payload } } 18 0) mb c 0 := by
  simp [provisionBody, hc, hl, hk]

theorem rotateBody_stores {q : Session} {key new : List Byte} (hc : clean c 0 0 true = true) (hl : c.payload.length = 96)
    (hs : (mbAt s mb).session = some q) (hk : s.fw.ownerKey = some key)
    (hnew : new = List.zipWith (· ^^^ ·) (c.payload.take 48) (hmac key (ascii "TK9-ROTATE" ++ q.fields)))
    (hconf : c.payload.drop 48 = hmac new (ascii "TK9-CONFIRM" ++ le 4 q.id.toNat)) :
    rotateBody mb c s = finish (fbEntry { s with fw := { s.fw with ownerKey := some new } } 18 0) mb c 0 := by
  subst hnew
  simp [rotateBody, hc, hl, hs, hk, hconf]

/-- Settles O5: each command starts and is answered by its body, each expiry by the unit that it finds. -/
theorem sessionsOpenAndClose : Obligations.SessionsOpenAndClose := by
  intro s mb hmb
  refine ⟨fun tag c h hc hl hs => h.answers (openBody_opens hc hl hs), fun tag c ch key fields id h hc hl hs hch hk hp hf hid => ?_,
    fun tag c h hc hl hk => h.answers (provisionBody_stores hc hl hk),
    fun tag c q key new h hc hl hs hk hnew hconf => h.answers (rotateBody_stores hc hl hs hk hnew hconf), fun ch hch => ?_, fun t ht => ?_⟩
  · subst hf hid
    exact h.answers (proveBody_opens hc hl hs hch hk hp)
  · refine (onUnit_exists hmb _).trans ?_
    rw [hch]
  · refine (onUnit_exists hmb _).trans ?_
    rw [ht]

/-! ### Device and firmware commands (R49, R57, R58) -/

theorem stageBody_stores (hc : clean c 1 0 true = true) (hl : c.payload.length ≤ fwSlotBytes) (hr : slotRuns s c.arg0.toNat = false) :
    stageBody mb c s = finish (setSlot s c.arg0.toNat ⟨.staged, c.payload⟩) mb c 0 := by
  simp [stageBody, hc, hr, Nat.not_lt.2 hl]

theorem verifyBody_judges (hc : clean c 1 0 false = true) {x : FwSlot} (hx : x = fwSlotAt s c.arg0.toNat) :
    verifyBody mb c s = if imVerdict s.fw.minSec x.image = 0 then
      finish (setSlot s c.arg0.toNat (if x.state = .staged then ⟨.verified, x.image⟩ else x)) mb c 0
      else finish s mb c (imVerdict s.fw.minSec x.image) := by
  subst hx
  simp only [verifyBody, hc]
  cases imVerdict s.fw.minSec (fwSlotAt s c.arg0.toNat).image <;> rfl

theorem activateBody_activates (hc : clean c 1 1 false = true) (hr : slotRuns s c.arg0.toNat = false)
    (hv : (fwSlotAt s c.arg0.toNat).state = .verified) (h1 : c.arg1 = 0) : activateBody mb c s =
      finish (fbEntry (activateSlot s c.arg0.toNat) 15 (versions (fwSlotAt (activateSlot s c.arg0.toNat) c.arg0.toNat).image)) mb c 0 := by
  simp [activateBody, hc, hr, hv, h1]

theorem echoBody_echoes (hc : clean c 0 0 true = true) (hl : c.payload.length ≤ 2 ^ 20) :
    echoBody mb c s = finish s mb c 0 c.payload := by
  simp only [echoBody, hc]
  exact if_neg (Nat.not_lt.2 hl)

/-- Settles O7: each command starts and is answered by what its body does. -/
theorem deviceAndFirmwareCommands : Obligations.DeviceAndFirmwareCommands := by
  intro s mb tag c
  refine ⟨fun h hc => h.answers (if_neg (by simp [hc])), fun h hc => h.answers (if_neg (by simp [hc])),
    fun h hc => h.answers (if_neg (by simp [hc])), fun h hc hl => h.answers (echoBody_echoes hc hl),
    fun h hc => h.answers (if_neg (by simp [hc])), fun h hc hl hr => h.answers (stageBody_stores hc hl hr),
    fun x hx h hc => h.answers (verifyBody_judges hc hx), fun t ht h hc hr hv h1 => ?_⟩
  subst ht
  exact ⟨h.answers (activateBody_activates hc hr hv h1), rfl⟩

/-! ### Rings and doorbells (R29 to R38) -/

theorem serving_ready (h : s.pwr.stage = .ready) : serving s mb = true := by simp [serving, h]

@[simp] theorem ringWrite_host (off : Nat) (bs : List Byte) : (ringWrite s mb off bs).host = s.host := by
  unfold ringWrite; split <;> rfl

@[simp] theorem ringWrite_pwr (off : Nat) (bs : List Byte) : (ringWrite s mb off bs).pwr = s.pwr := by
  unfold ringWrite; split <;> rfl

@[simp] theorem mbAt_ringWrite (off k : Nat) (bs : List Byte) : mbAt (ringWrite s mb off bs) k = mbAt s k := by simp [mbAt]

/-- What a write to the producer pointer of a configured mailbox does in stage READY (R32). -/
theorem doorbell_ready {ptr : Word} (he : s.pwr.endpoint = true) (hs : s.pwr.stage = .ready) (hc : (mbAt s mb).cplSize ≠ 0) :
    doorbell s mb ptr = if badDoorbell (mbAt s mb).cmdCons ptr then setMbStatus s mb sBadDoorbell
      else setMb s mb fun m => { m with cmdProd := ptr } := by
  simp only [doorbell, he, serving_ready hs, hc]
  cases badDoorbell (mbAt s mb).cmdCons ptr <;> rfl

/-- A doorbell in stage READY: the host's bytes are in the ring before the pointer moves (R30). -/
theorem execDoorbell_ready {ptr : Word} {bytes : List Byte} (hmb : mb < 16) (he : s.pwr.endpoint = true) (hs : s.pwr.stage = .ready) :
    execDoorbell mb ptr bytes s = .next (doorbell (ringWrite (ringWrite s mb (ptrOff (mbAt s mb).cmdProd)
      ((bytes.take (2 ^ 20)).take (2 ^ 20 - ptrOff (mbAt s mb).cmdProd))) mb 0
      ((bytes.take (2 ^ 20)).drop (2 ^ 20 - ptrOff (mbAt s mb).cmdProd))) mb ptr) := by
  rw [execDoorbell, onUnit_exists hmb]
  simp only [he, serving_ready hs, Bool.and_self, if_true]

section
variable {hdr : List Byte} {size : Nat} (hs : s.pwr.stage = .ready) (hhdr : hdr = ringRead s mb (ptrOff (mbAt s mb).cmdCons) 64)
  (hne : (mbAt s mb).cmdProd ≠ (mbAt s mb).cmdCons) (hsize : size ≤ ptrDist (2 ^ 20) (mbAt s mb).cmdProd (mbAt s mb).cmdCons)
include hs hhdr hne hsize

/-- A whole packet at the consumer pointer that passes every check is accepted behind a moved pointer (R33, R37). -/
theorem takePacket_accepts {pay : List Byte} {s1 : State} (hf : findPacket hdr (ptrOff (mbAt s mb).cmdCons) = (.packet, size))
    (hp : pay = ringRead s mb (ptrOff (mbAt s mb).cmdCons + 64) (parseHeader hdr).plen)
    (h1 : s1 = setMb s mb fun m => { m with cmdCons := ptrAdd (2 ^ 20) m.cmdCons size })
    (hh : checkHeader s1 mb (parseHeader hdr) = none) (hc : checkChain (mbAt s1 mb) (parseHeader hdr) pay = none) :
    takePacket s mb = accept s1 mb (parseHeader hdr) pay := by
  subst hhdr hp h1
  simp [takePacket, hf, serving_ready hs, hne, Nat.not_lt.2 hsize, hh, hc, -Nat.reducePow]

/-- A whole pad moves the consumer pointer and leaves no record (R29). -/
theorem takePacket_pads (hf : findPacket hdr (ptrOff (mbAt s mb).cmdCons) = (.pad, size)) :
    takePacket s mb = setMb s mb fun m => { m with cmdCons := ptrAdd (2 ^ 20) m.cmdCons size } := by
  subst hhdr
  simp [takePacket, hf, serving_ready hs, hne, Nat.not_lt.2 hsize, -Nat.reducePow]

end

/-- Settles O4: the doorbell after the write of the ring, the packet and the pad by what the take of a whole one does. -/
theorem doorbellAndTake : Obligations.DoorbellAndTake := by
  intro s mb hmb hs he
  refine ⟨fun ptr bytes s1 hsize h1 => ?_, fun o hdr size ho hhdr hne hsz => ⟨fun h pay s1 hf hh hpay h1 hch hcc => ?_, fun hf => ?_⟩⟩
  · have ring : exec (.doorbell mb ptr bytes) s = .next (doorbell s1 mb ptr) := h1 ▸ execDoorbell_ready hmb he hs
    have same : mbAt s1 mb = mbAt s mb := by simp [h1]
    rw [ring, doorbell_ready (by simpa [h1] using he) (by simpa [h1] using hs) (same ▸ hsize), same]
    exact ⟨fun hb => by simp [hb], fun hb => by simp [hb]⟩
  · subst ho hh
    exact (onUnit_exists hmb _).trans (congrArg _ (takePacket_accepts hs hhdr hne hsz hf hpay h1 hch hcc))
  · subst ho
    have pads := takePacket_pads hs hhdr hne hsz hf
    refine ⟨(onUnit_exists hmb _).trans ?_, (onUnit_exists hmb _).trans (congrArg _ pads)⟩
    rw [← pads]
    exact next_if (by rw [← hhdr, hf])

end Sys2Proof.Machine
end

section
/-! SUPPORT. The memory commands (02_host_commands.md; R51, R53, R55, R56). -/

namespace Sys2Proof.Machine

variable {s : State} {mb : Nat} {tag : DWord} {c : Cmd} {cls code : Nat}

/-! ### Bytes of a range -/

@[simp] theorem length_readRun (m : Mem) (a n : Nat) : (readRun m a n).length = n := by simp [readRun]

/-- The pieces of a range cut at multiples of `p` from the page of `a` on, `m` of them, cover the range as far as they reach. -/
theorem sum_cuts (p a n q m : Nat) (hq : q * p ≤ a) :
    ((List.range m).map fun k => min (a + n) ((q + k + 1) * p) - max a ((q + k) * p)).sum = min (a + n) ((q + m) * p) - a := by
  induction m with
  | zero => simp; omega
  | succ m ih =>
    rw [List.range_succ, List.map_append, List.sum_append, ih]
    have next : (q + m + 1) * p = (q + m) * p + p := Nat.succ_mul _ _
    simp only [List.map_cons, List.map_nil, List.sum_cons, List.sum_nil, ← Nat.add_assoc, next]
    omega

/-- A range of local offsets is as long as its pieces. -/
theorem sum_pieces (a n : Nat) : ((pieces s a n).map (·.2)).sum = n := by
  unfold pieces
  split
  · simp_all
  · split
    · simp
    · rw [List.map_map]
      have first : a / pageBytes * pageBytes ≤ a := Nat.div_mul_le_self _ _
      have cuts := sum_cuts pageBytes a n (a / pageBytes) ((a + n - 1) / pageBytes - a / pageBytes + 1) first
      have last : a + n ≤ (a / pageBytes + ((a + n - 1) / pageBytes - a / pageBytes + 1)) * pageBytes := by
        simp only [pageBytes] at *
        omega
      rw [Nat.min_eq_left last, Nat.add_sub_cancel_left] at cuts
      exact cuts

@[simp] theorem length_readLocal (a n : Nat) : (readLocal s a n).length = n := by
  rw [readLocal, List.length_flatMap]
  simp only [length_readRun]
  exact sum_pieces a n

/-! ### Channels that serve -/

theorem heldRange_none (h : s.hbm.held = []) (a n : Nat) : heldRange s a n = false := by simp [heldRange, h]

theorem whenServed_none (h : s.hbm.held = []) (rs : List (Nat × Nat)) (k : State → State) : whenServed rs k s = k s :=
  whenServed_free fun r _ => heldRange_none h r.1 r.2

theorem endWrite_sound (h1 : s.hbm.failed = []) (h2 : s.lpddr.failed = []) (rs : List (Nat × Nat)) : endWrite s mb c rs = finish s mb c 0 := by
  simp [endWrite, h1, h2]

theorem writeLocal_failed (a : Nat) (bs : List Byte) :
    (writeLocal s a bs).hbm.failed = s.hbm.failed ∧ (writeLocal s a bs).lpddr.failed = s.lpddr.failed :=
  ⟨writeLocal_keeps (fun s => s.hbm.failed) (fun _ _ _ _ _ => rfl) a bs, writeLocal_keeps (fun s => s.lpddr.failed) (fun _ _ _ _ _ => rfl) a bs⟩

theorem badGranule_none (h1 : s.poison = []) (h2 : s.hbm.failed = []) (h3 : s.lpddr.failed = []) (a n : Nat) : badGranule s a n = none := by
  simp [badGranule, h1, h2, h3]

/-- The tiles of a tensor are written by writes of local ranges. -/
theorem putTensor_failed (h1 : s.hbm.failed = []) (h2 : s.lpddr.failed = []) (d : Desc) (pay : List Byte) :
    (putTensor s d pay).hbm.failed = [] ∧ (putTensor s d pay).lpddr.failed = [] := by
  have tile (s : State) (x : Nat × Nat × Nat) (bs : List Byte) :
      (putTensorTile s d x.2 bs).hbm.failed = s.hbm.failed ∧ (putTensorTile s d x.2 bs).lpddr.failed = s.lpddr.failed := by
    simp only [putTensorTile]
    exact ⟨(writeLocal_failed _ _).1.trans (writeLocal_failed _ _).1, (writeLocal_failed _ _).2.trans (writeLocal_failed _ _).2⟩
  exact ⟨(foldl_keeps (fun s => s.hbm.failed) (fun s x => (tile s x _).1) _ _).trans h1,
    (foldl_keeps (fun s => s.lpddr.failed) (fun s x => (tile s x _).2) _ _).trans h2⟩

section
variable (h1 : s.hbm.failed = []) (h2 : s.lpddr.failed = []) (h3 : s.hbm.held = [])
include h1 h2 h3

/-- A write of one range on channels that serve completes OK. -/
theorem whenServed_writes (rs rs' : List (Nat × Nat)) (a : Nat) (bs : List Byte) :
    whenServed rs (fun s => endWrite (writeLocal s a bs) mb c rs') s = finish (writeLocal s a bs) mb c 0 := by
  obtain ⟨hh, hl⟩ := writeLocal_failed (s := s) a bs
  rw [whenServed_none h3, endWrite_sound (hh.trans h1) (hl.trans h2)]

theorem writeBody_writes (hc : clean c all64 0 true = true) (hp : c.payload ≠ []) (hf : freeRange s c.arg0.toNat c.payload.length = true) :
    writeBody mb c s = finish (writeLocal s c.arg0.toNat c.payload) mb c 0 := by
  simp [writeBody, hc, hp, hf, whenServed_writes h1 h2 h3]

theorem fillBody_fills (hc : clean c all64 all64 true = true) (hl : c.payload.length = 8) (hn : c.arg1.toNat ≠ 0)
    (hf : freeRange s c.arg0.toNat c.arg1.toNat = true) :
    fillBody mb c s = finish (writeLocal s c.arg0.toNat (fillBytes c.payload c.arg0.toNat c.arg1.toNat)) mb c 0 := by
  simp [fillBody, hc, hl, hn, hf, whenServed_writes h1 h2 h3]

theorem readBody_reads (hc : clean c all64 all64 false = true) (hn : c.arg1.toNat ≠ 0) (hl : c.arg1.toNat ≤ 2 ^ 32)
    (hr : readable s c.arg0.toNat c.arg1.toNat = true) (hp : s.poison = []) : readBody mb c s =
      finish (touchRead s c.arg0.toNat c.arg1.toNat) mb c 0 (readDiag s c.arg0.toNat c.arg1.toNat) := by
  have done : readEnd mb c c.arg0.toNat c.arg1.toNat s = finish (touchRead s c.arg0.toNat c.arg1.toNat) mb c 0
      (readDiag s c.arg0.toNat c.arg1.toNat) := by simp [readEnd, badGranule_none hp h1 h2]
  simp [readBody, hc, hn, Nat.not_lt.2 hl, hr, whenServed_none h3, done, -Nat.reducePow]

theorem writeTensorBody_writes {d : Desc} (hd : d = parseDesc (c.payload.take 32)) (hc : clean c 0 0 true = true) (ht : tensorCheck s d = none)
    (hl : c.payload.length = 32 + (tileGrid d).length * d.own) : writeTensorBody mb c s = finish (putTensor s d c.payload) mb c 0 := by
  subst hd
  obtain ⟨hh, hlp⟩ := putTensor_failed h1 h2 (parseDesc (c.payload.take 32)) c.payload
  simp [writeTensorBody, hc, ht, hl, whenServed_none h3, endWrite_sound hh hlp]

end

/-! ### Reading a tensor (R53) -/

theorem width_pos (fmt : Nat) : 0 < width fmt := by unfold width; split <;> decide

theorem Desc.own_pos (d : Desc) : 0 < d.own := by
  have := width_pos d.fmt
  simp only [Desc.own, tileBytes, elemBytes]
  split <;> omega

/-- What is read of a tensor without a stop is a whole tile for each tile. -/
theorem length_readTiles {d : Desc} {unit : Nat} {g : List (Nat × Nat)} {acc bs : List Byte} (h : readTiles s d unit g acc = (bs, none)) :
    bs.length = acc.length + g.length * d.own := by
  induction g generalizing acc with
  | nil => simp_all [readTiles]
  | cons ij g ih =>
    simp only [readTiles] at h
    split at h
    · simp at h
    · simp at h
    · split at h
      · rw [ih h]; simp [Nat.succ_mul]; omega
      · simp at h

theorem readTensorEnd_reads {d : Desc} {bs : List Byte} {unit : Nat} (hr : readTiles s d unit (tileGrid d) [] = (bs, none)) :
    readTensorEnd mb c d unit s = finish (touchTiles s d (tileGrid d)) mb c 0 bs := by
  have all : (tileGrid d).take (bs.length / d.own + 1) = tileGrid d := by
    refine List.take_of_length_le ?_
    rw [length_readTiles hr, List.length_nil, Nat.zero_add, Nat.mul_div_cancel _ d.own_pos]
    exact Nat.le_succ _
  simp [readTensorEnd, hr, all]

theorem readTensorBody_reads (h3 : s.hbm.held = []) {d : Desc} {bs : List Byte} (hd : d = parseDesc c.payload) (hc : clean c 0 0 true = true)
    (hl : c.payload.length = 32) (ht : tensorCheck s d = none) (hr : readTiles s d (unitId 8 2 mb) (tileGrid d) [] = (bs, none)) :
    readTensorBody mb c s = finish (touchTiles s d (tileGrid d)) mb c 0 bs := by
  subst hd
  simp [readTensorBody, hc, hl, ht, whenServed_none h3, readTensorEnd_reads hr]

/-! ### Host windows (R55, R56) -/

theorem windowGrantBody_grants {w len : Nat} (hw : w = bits c.arg1.toNat 63 60) (hlen : len = bits c.arg1.toNat 47 0)
    (hc : clean c all64 0xF000FFFFFFFFFFFF false = true) (ha : c.arg0.toNat % 4096 = 0) (hl : len % 4096 = 0)
    (hn : ∀ x ∈ s.host.windows, x.num ≠ w) : windowGrantBody mb c s = finish { s with host := { s.host with
      windows := s.host.windows ++ [⟨w, mb, c.arg0.toNat, len⟩] } } mb c 0 := by
  subst hw hlen
  have fresh : (s.host.windows.any fun x => x.num = bits c.arg1.toNat 63 60) = false := by simpa using hn
  simp [windowGrantBody, hc, ha, hl, fresh]

theorem windowRevokeBody_revokes {w : Nat} (hw : w = bits c.arg1.toNat 63 60) (hc : clean c 0 0xF000000000000000 false = true)
    (hm : ∀ x ∈ s.host.windows, x.num = w → x.mb = mb) :
    windowRevokeBody mb c s = finish (revokeWindows s fun x => x.num = w) mb c 0 := by
  subst hw
  have own : (s.host.windows.any fun x => x.num = bits c.arg1.toNat 63 60 && x.mb ≠ mb) = false := by simpa using hm
  simp only [windowRevokeBody, hc, own]
  rfl

/-- Settles O8: with no failed and no held channel each body is one state operation and OK. -/
theorem memoryCommands : Obligations.MemoryCommands := by
  intro s mb tag c h1 h2 h3
  exact ⟨fun h hc hp hf => h.answers (writeBody_writes h1 h2 h3 hc hp hf),
    fun h hc hn hl hr hp => h.answers (readBody_reads h1 h2 h3 hc hn hl hr hp),
    fun h hc hl hn hf => h.answers (fillBody_fills h1 h2 h3 hc hl hn hf),
    fun d hd h hc ht hl => h.answers (writeTensorBody_writes h1 h2 h3 hd hc ht hl),
    fun d bs hd h hc hl ht hr => h.answers (readTensorBody_reads h3 hd hc hl ht hr),
    fun w len hw hlen h hc ha hl hn => h.answers (windowGrantBody_grants hw hlen hc ha hl hn),
    fun w hw h hc hm => h.answers (windowRevokeBody_revokes hw hc hm)⟩

end Sys2Proof.Machine
end

section
/-! SUPPORT. The program-class commands (08_tile_program_isa.md, R180 to R183, R204; 10_pipeline_sequencer.md, R231). -/

namespace Sys2Proof.Machine

variable {s : State} {mb : Nat} {tag : DWord} {c : Cmd} {cls code : Nat}

/-! ### Loading and dropping programs (R180, R181) -/

theorem progLoadBody_bad {w : Nat} (hc : clean c 0xFFF 0 true = true) (hb : imgBad c.payload = some w) :
    progLoadBody mb c s = finish s mb c stProgMalformed [] (BitVec.ofNat 64 w) := by
  simp [progLoadBody, hc, hb]

section
variable {num : Nat} (hn : num = c.arg0.toNat)
include hn

/-- A program image that passes its checks: refused while the program runs or where the pools have no room, loaded otherwise (R180). -/
theorem progLoadBody_good {rest : List Program} (hr : rest = s.programs.filter fun p => p.num ≠ num)
    (hc : clean c 0xFFF 0 true = true) (hb : imgBad c.payload = none) : progLoadBody mb c s =
      if 0 < runsOf s num then finish s mb c stProgInUse
      else if poolBytes s < rest.foldl (fun n p => n + p.image.length) c.payload.length then finish s mb c stProgPoolFull
      else finish { s with programs := rest ++ [newProgram num s.loads c.payload], loads := s.loads + 1 } mb c 0 := by
  subst hn hr
  simp only [progLoadBody, hc, hb]
  rfl

/-- PROG_DROP of a loaded program: refused while something runs or names it (R180). -/
theorem progDropBody_known (hc : clean c 0xFFF 0 false = true) (hp : (findProg s num).isSome = true) : progDropBody mb c s =
      if 0 < runsOf s num || jobNames s num then finish s mb c stProgInUse
      else finish { s with programs := s.programs.filter fun p => p.num ≠ num } mb c 0 := by
  subst hn
  obtain ⟨p, hp⟩ := Option.isSome_iff_exists.1 hp
  simp only [progDropBody, hc, hp]
  rfl

theorem progDropBody_unknown (hc : clean c 0xFFF 0 false = true) (hp : findProg s num = none) :
    progDropBody mb c s = finish s mb c stProgUnknown := by
  subst hn
  simp [progDropBody, hc, hp]

end

/-! ### Launches (R182, R183) -/

section
variable (hc : clean c 0 0 true = true) (hl : c.payload.length = 72) (hf : field c.payload 8 4 < 2)
include hc hl hf

theorem launchBody_unknown (hp : findProg s (field c.payload 2 2) = none) : launchBody mb c s = finish s mb c stProgUnknown := by
  simp [launchBody, hc, hl, Nat.not_le.2 hf, hp]

/-- A LAUNCH of a loaded program: first the core is looked at, then the entry (R183). -/
theorem launchBody_known {n entry : Nat} {p : Program} (hn : n = field c.payload 0 2) (he : entry = field c.payload 4 4)
    (hp : findProg s (field c.payload 2 2) = some p) : launchBody mb c s =
      if 152 ≤ n || !(coreAt s n).enabled || (coreAt s n).launch.isSome then finish s mb c stCoreBusy
      else if entry ≠ 0xFFFFFFFF ∧ imgCount p.image ≤ entry then finish s mb c stMalformed
      else launchCore (markStarted s mb c.tag [n]) n p
        (hostLaunch s mb c.tag c.payload p (if entry = 0xFFFFFFFF then imgEntry p.image else entry)) := by
  subst hn he
  have form : (!clean c 0 0 true || c.payload.length ≠ 72 || 2 ≤ field c.payload 8 4) = false := by simp [hc, hl, hf]
  simp only [launchBody, form, hp]
  rfl

theorem launchBody_busy {n : Nat} (hn : n = field c.payload 0 2) (hp : (findProg s (field c.payload 2 2)).isSome = true)
    (hb : 152 ≤ n ∨ (coreAt s n).enabled = false ∨ (coreAt s n).launch.isSome = true) : launchBody mb c s = finish s mb c stCoreBusy := by
  obtain ⟨p, hp⟩ := Option.isSome_iff_exists.1 hp
  rw [launchBody_known hc hl hf hn rfl hp]
  exact if_pos (by simpa [or_assoc] using hb)

theorem launchBody_launches {n entry first : Nat} {p : Program} (hn : n = field c.payload 0 2) (hp : findProg s (field c.payload 2 2) = some p)
    (he : entry = field c.payload 4 4) (hfirst : first = if entry = 0xFFFFFFFF then imgEntry p.image else entry)
    (h152 : n < 152) (hen : (coreAt s n).enabled = true) (hi : (coreAt s n).launch = none)
    (hin : entry = 0xFFFFFFFF ∨ entry < imgCount p.image) :
    launchBody mb c s = launchCore (markStarted s mb c.tag [n]) n p (hostLaunch s mb c.tag c.payload p first) := by
  rw [launchBody_known hc hl hf hn he hp, hfirst, if_neg (by simp [hen, hi, h152]), if_neg (by omega)]

end

/-- Where the words of a program have their CRC and its data tiles their seals, the launch does not fail (R182). -/
theorem failLaunch_whole {n : Nat} {p : Program} {l : Launch} (hw : insnsWhole p.image = true) (ht : tileBad p = none) :
    failLaunch s n p l = s := by
  simp [failLaunch, hw, ht]

/-! ### HALT (R183, R204) -/

theorem haltBody_enabled {n : Nat} (hn : n = c.arg0.toNat) (hc : clean c 0xFF 0 false = true) (h152 : n < 152)
    (hen : (coreAt s n).enabled = true) :
    (∀ l, (coreAt s n).launch = some l → l.host.isSome = true → haltBody mb c s = finish (stopFar (haltCore s n) n) mb c 0) ∧
    ((coreAt s n).launch = none → haltBody mb c s = finish s mb c stNothing) := by
  subst hn
  refine ⟨fun l hl hh => ?_, fun hl => ?_⟩
  · obtain ⟨x, hx⟩ := Option.isSome_iff_exists.1 hh
    simp [haltBody, hc, h152, hen, hl, hx]
  · simp [haltBody, hc, h152, hen, hl]

/-! ### Schedule tables (R231) -/

section
variable {num : Nat} (hn : num = c.arg0.toNat)
include hn

/-- A table of whole entries that passes its checks: loaded, unless it is loaded already and the job names it (R231). -/
theorem schedLoadBody_good (hc : clean c 0xF 0 true = true) (hw : c.payload.length % 64 = 0) (hb : tableBad c.payload = none) :
    schedLoadBody mb c s = if tableNamed s num && (findTable s num).isSome then finish s mb c 0x0582
      else finish { s with tables := (num, parseTable c.payload) :: s.tables.filter fun t => t.1 ≠ num } mb c 0 := by
  subst hn
  simp only [schedLoadBody, hc, hw, hb]
  rfl

end

/-- Settles O35: each command starts and is answered by what its body does, the image and the launch with their cases. -/
theorem programCommandsComplete : Obligations.ProgramCommandsComplete := by
  intro s mb tag c
  refine ⟨fun num rest hn hr h hc => ⟨fun hb h0 hp => ?_, fun hb h0 => ?_, fun hb h0 hp => ?_, fun w hb => h.answers (progLoadBody_bad hc hb)⟩,
    fun num hn h hc => ⟨fun hp h0 hj => ?_, fun hp hj => ?_, fun hp => h.answers (progDropBody_unknown hn hc hp)⟩,
    fun h hc => h.answers (if_neg (by simp [hc])),
    fun n p entry first hn hp he hfirst h hc hl hf h152 hen hi hin =>
      h.answers (launchBody_launches hc hl hf hn hp he hfirst h152 hen hi hin),
    fun n hn h hc hl hf => ⟨fun hp => h.answers (launchBody_unknown hc hl hf hp), fun hp hb => h.answers (launchBody_busy hc hl hf hn hp hb)⟩,
    fun n hn h hc h152 hen => ⟨fun l hl hh => h.answers ((haltBody_enabled hn hc h152 hen).1 l hl hh),
      fun hl => h.answers ((haltBody_enabled hn hc h152 hen).2 hl)⟩,
    fun num hn h hc => ⟨fun hw => ?_, fun hw hb ht => ?_, fun hw hb ht hs => ?_, fun i hw hb => ?_⟩,
    fun num hn h hc hs ht => ?_, fun n p l u hw ht hu => ?_⟩
  · exact h.answers ((progLoadBody_good hn hr hc hb).trans ((if_neg (by omega)).trans (if_neg (by omega))))
  · exact h.answers ((progLoadBody_good hn hr hc hb).trans (if_pos h0))
  · exact h.answers ((progLoadBody_good hn hr hc hb).trans ((if_neg (by omega)).trans (if_pos hp)))
  · exact h.answers ((progDropBody_known hn hc hp).trans (if_neg (by simp [h0, hj])))
  · exact h.answers ((progDropBody_known hn hc hp).trans (if_pos (by simpa using hj)))
  · exact h.answers (if_pos (by simp [hw]))
  · exact h.answers ((schedLoadBody_good hn hc hw hb).trans (if_neg (by rcases ht with ht | ht <;> simp [ht])))
  · exact h.answers ((schedLoadBody_good hn hc hw hb).trans (if_pos (by simp [ht, hs])))
  · exact h.answers (by simp [schedLoadBody, hc, hw, hb])
  · subst hn
    obtain ⟨t, hs⟩ := Option.isSome_iff_exists.1 hs
    exact h.answers (by simp [schedDropBody, hc, hs, ht])
  · subst hu
    simp only [launchCore, failLaunch_whole hw ht]

end Sys2Proof.Machine
end

section
/-! SUPPORT. The job-class commands (10_pipeline_sequencer.md, R225 to R237; 13_ewete_fabric.md, R324). -/

namespace Sys2Proof.Machine

variable {s : State} {mb : Nat} {tag : DWord} {c : Cmd} {cls code : Nat}

/-! ### JOB_LOAD (R225 to R227) -/

theorem jobLoadBody_state (hc : clean c 0 0 true = true) (hj : jobIn s [.idle, .stopped, .held] = false) :
    jobLoadBody mb c s = finish s mb c stJobState := by
  simp [jobLoadBody, hc, hj]

theorem jobLoadBody_bad {o : Nat} (hc : clean c 0 0 true = true) (hj : jobIn s [.idle, .stopped, .held] = true)
    (hb : jobBad s c.payload = some o) : jobLoadBody mb c s = finish s mb c stJobMalformed [] (BitVec.ofNat 64 o) := by
  simp [jobLoadBody, hc, hj, hb]

theorem jobLoadBody_loads {xs : List Sect} (hc : clean c 0 0 true = true) (hj : jobIn s [.idle, .stopped, .held] = true)
    (hb : jobBad s c.payload = none) (hx : jobSects c.payload = .ok xs) : jobLoadBody mb c s = finish (loadJob s c.payload xs) mb c 0 := by
  simp [jobLoadBody, hc, hj, hb, hx]

/-! ### JOB_START, JOB_SWAP, JOB_STOP (R228, R229, R232, R240) -/

/-- JOB_START of a table that is loaded and fits: from LOADED any step, from STOPPED or HELD the next one (R229). -/
theorem jobStartBody_fits {n : Nat} (hn : n = c.arg0.toNat) (hc : clean c (2 ^ 48 - 1) 0 false = true)
    (hj : jobIn s [.loaded, .stopped, .held] = true) (ht : tableStop s (s.job.swap.getD s.job.schedule) = none) (hl : s.res.lost = false) :
    jobStartBody mb c s = if s.job.phase ≠ .loaded ∧ n ≠ nextStep s then finish s mb c stJobStep else finish (startJob s n) mb c 0 := by
  subst hn
  have form : clean c step48 0 false = true := hc
  simp [jobStartBody, form, hj, ht, hl]

theorem jobSwapBody_keeps (hc : clean c 0xF 0 false = true) (hj : jobIn s [.running, .stopped, .held, .loaded] = true)
    (ht : tableStop s c.arg0.toNat = none) :
    jobSwapBody mb c s = finish (jobOf s fun j => { j with swap := some c.arg0.toNat }) mb c 0 := by
  simp [jobSwapBody, hc, hj, ht]

/-- JOB_STOP in order: with 0 the step finishes, with 1 it fails (R240). -/
theorem jobStopBody_clean (hc : clean c 1 0 false = true) : jobStopBody mb c s =
    if c.arg0 = 0 then
      if s.job.phase = .running then finish (jobOf s fun j => { j with phase := .stopping }) mb c 0 else finish s mb c stJobState
    else if s.job.phase = .running ∨ s.job.phase = .stopping then failStep (finish s mb c 0) none else finish s mb c stJobState := by
  have running : jobIn s [.running] = decide (s.job.phase = .running) := by simp [jobIn]
  have walks : jobIn s [.running, .stopping] = decide (s.job.phase = .running ∨ s.job.phase = .stopping) := by simp [jobIn]
  simp only [jobStopBody, hc, running, walks, Bool.not_eq_true', decide_eq_false_iff_not, ite_not]
  rfl

/-! ### JOB_LENGTHS (R236, R237) -/

/-- A whole length table is stored for a step in reach (R237). -/
theorem jobLengthsBody_whole {n : Nat} (hn : n = c.arg0.toNat) (hc : clean c (2 ^ 48 - 1) 0 true = true) (hp : s.job.phase ≠ .idle)
    (hb : lengthsBad s.job.microBatches c.payload = none) : jobLengthsBody mb c s =
      if lengthsTaken s n then finish (jobOf s fun j =>
        { j with lengths := (n, (records 4 c.payload).map fun r => field r.2 0 4) :: j.lengths.filter fun l => l.1 ≠ n }) mb c 0
      else finish s mb c stJobStep := by
  subst hn
  have form : clean c step48 0 true = true := hc
  have here : jobIn s [.idle] = false := by simpa [jobIn] using hp
  cases ht : lengthsTaken s c.arg0.toNat
  · simp [jobLengthsBody, form, here, hb, ht]
  · simp [jobLengthsBody, form, here, hb, ht]

theorem jobLengthsBody_bad {o : Nat} (hc : clean c (2 ^ 48 - 1) 0 true = true) (hp : s.job.phase ≠ .idle)
    (hb : lengthsBad s.job.microBatches c.payload = some o) :
    jobLengthsBody mb c s = finish s mb c stJobMalformed [] (BitVec.ofNat 64 o) := by
  have form : clean c step48 0 true = true := hc
  simp [jobLengthsBody, form, jobIn, hp, hb]

/-! ### TOPO_ROUTE (R324) -/

theorem topoRouteBody_bad {o : Nat} (hc : clean c 0 0 true = true) (hl : c.payload.length % 16 = 0)
    (hb : firstBad (routeChecks c.payload) = some o) : topoRouteBody mb c s = finish s mb c 0x0681 [] (BitVec.ofNat 64 o) := by
  simp [topoRouteBody, hc, hl, hb]

theorem topoRouteBody_stores (hc : clean c 0 0 true = true) (hl : c.payload.length % 16 = 0) (hb : firstBad (routeChecks c.payload) = none) :
    topoRouteBody mb c s = finish { s with fab := { s.fab with
      routes := (records 16 c.payload).foldl (fun rt r =>
        rt.modify (field r.2 0 1) fun t => t.set (field r.2 1 1) (BitVec.ofNat 64 (field r.2 8 8))) s.fab.routes } } mb c 0 := by
  simp [topoRouteBody, hc, hl, hb]

/-- Settles O36: each command starts and is answered by what its body does in each phase of the job. -/
theorem jobCommandsComplete : Obligations.JobCommandsComplete := by
  intro s mb tag c
  refine ⟨fun h hc hj => ⟨fun xs hb hx => h.answers (jobLoadBody_loads hc hj hb hx), fun o hb => h.answers (jobLoadBody_bad hc hj hb)⟩,
    fun h hc hj => h.answers (jobLoadBody_state hc hj),
    fun n hn h hc hj ht hl => ⟨fun hs => h.answers ((jobStartBody_fits hn hc hj ht hl).trans (if_neg (by tauto))),
      fun hp hs => h.answers ((jobStartBody_fits hn hc hj ht hl).trans (if_pos ⟨hp, hs⟩))⟩,
    fun h hc hj ht => h.answers (jobSwapBody_keeps hc hj ht),
    fun h hc => ⟨fun h0 hp => ?_, fun h1 hp => ?_, fun hr hs => ?_⟩,
    fun h hc hj => ⟨h.answers (by simp [jobUnloadBody, hc, hj]), rfl, rfl⟩,
    fun h hc => h.answers (if_neg (by simp [hc])),
    fun n xs hn hx h hc hp => ⟨fun hb ht => ?_, fun hb ht => ?_, fun o hb => h.answers (jobLengthsBody_bad hc hp hb)⟩,
    fun h hc => ⟨fun hl => h.answers (if_pos (by simp [hl])), fun hl hb => h.answers (topoRouteBody_stores hc hl hb),
      fun o hl hb => h.answers (topoRouteBody_bad hc hl hb)⟩⟩
  · exact h.answers ((jobStopBody_clean hc).trans ((if_pos h0).trans (if_pos hp)))
  · exact h.answers ((jobStopBody_clean hc).trans ((if_neg (by simp [h1])).trans (if_pos hp)))
  · refine h.answers ((jobStopBody_clean hc).trans ?_)
    simp [hr, hs, stJobState]
  · subst hx
    exact h.answers ((jobLengthsBody_whole hn hc hp hb).trans (if_pos ht))
  · exact h.answers ((jobLengthsBody_whole hn hc hp hb).trans (if_neg (by simp [ht])))

end Sys2Proof.Machine
end

section
/-! SUPPORT. The collective commands, generations, limits and gradient hand-offs (14_collectives_meridian.md, R333 to R352). -/

namespace Sys2Proof.Machine

variable {s : State} {mb : Nat} {tag : DWord} {c : Cmd} {cls code : Nat}

/-! ### COLL_DEFINE, COLL_DROP (R333, R343) -/

section
variable {ds : List (List Byte)} (hd : ds = (records 128 c.payload).map (fun r => r.2)) (hc : clean c 0 0 true = true)
  (hl : c.payload.length % 128 = 0)
include hd hc hl

theorem collDefineBody_bad {i : Nat} (hi : ds.findIdx? (fun d => !collOk s d) = some i) :
    collDefineBody mb c s = finish s mb c 0x0682 [] (BitVec.ofNat 64 i) := by
  subst hd
  simp only [collDefineBody, hc, hl, hi]
  rfl

/-- Descriptors that all pass are defined, unless one names an operation in progress (R333). -/
theorem collDefineBody_good (ha : ds.all (collOk s) = true) : collDefineBody mb c s =
    if ds.any fun d => collBusy s (field d 0 2) then finish s mb c 0x0683
    else finish { s with coll := { s.coll with defs := ds.foldl (fun defs d =>
      ⟨field d 0 2, d, 0, 0, 0, 0, 0, 0, none⟩ :: defs.filter fun x => x.handle ≠ field d 0 2) s.coll.defs } } mb c 0 := by
  have all : ds.findIdx? (fun d => !collOk s d) = none := by simpa [List.findIdx?_eq_none_iff] using ha
  subst hd
  simp only [collDefineBody, hc, hl, all]
  rfl

end

/-- Whether an entry of a loaded table starts an operation. -/
theorem collNamed_iff (h : Nat) : (s.tables.any fun t => t.2.any fun e => e.kind = 5 && e.program % 4096 = h) = true ↔
    ∃ t ∈ s.tables, ∃ e ∈ t.2, e.kind = 5 ∧ e.program % 4096 = h := by simp

/-- COLL_DROP of a definition: refused while an operation of it is in progress or an entry of a loaded table names it (R343). -/
theorem collDropBody_known {h : Nat} (hh : h = c.arg0.toNat) (hc : clean c 0xFFF 0 false = true) (hf : (findDef s h).isSome = true) :
    collDropBody mb c s = if collBusy s h = true ∨ ∃ t ∈ s.tables, ∃ e ∈ t.2, e.kind = 5 ∧ e.program % 4096 = h then finish s mb c 0x0683
      else finish { s with coll := { s.coll with defs := s.coll.defs.filter fun d => d.handle ≠ h } } mb c 0 := by
  subst hh
  obtain ⟨d, hd⟩ := Option.isSome_iff_exists.1 hf
  simp only [collDropBody, hc, hd, Bool.or_eq_true, collNamed_iff]
  rfl

theorem collDropBody_unknown {h : Nat} (hh : h = c.arg0.toNat) (hc : clean c 0xFFF 0 false = true) (hf : findDef s h = none) :
    collDropBody mb c s = finish s mb c 0x0684 := by
  subst hh
  simp [collDropBody, hc, hf]

/-! ### RESHARD, GEN_INSTALL (R344) -/

/-- Nothing of the old generation is in progress outside a walk: what waits is installed. -/
theorem settleReshard_installs {r : Reshard} (hw : walking s = false) (hp : s.coll.pending = some r) (h1 : s.coll.runs = [])
    (h2 : s.coll.rings = []) : settleReshard s = installReshard s r := by
  simp [settleReshard, hw, tryInstall, hp, h1, h2]

theorem settleReshard_waits (h : walking s = true ∨ s.coll.pending = none ∨ s.coll.runs ≠ [] ∨ s.coll.rings ≠ []) : settleReshard s = s := by
  unfold settleReshard
  split
  · rfl
  · next hw =>
    unfold tryInstall
    split
    · next r hr =>
      rw [if_neg]
      rcases h with h | h | h | h <;> simp_all
    · rfl

/-- An installed generation is the one in force. -/
theorem installReshard_gen (r : Reshard) : (installReshard s r).coll.gen = r.gen :=
  (finishTag_host r.mb r.tag 0 [] 0 0).keeps (fun s => s.coll.gen) fun _ _ => rfl

section
variable {gen o : Nat} {lists : List (Nat × MemberList)} {r : Reshard} (hg : gen = bits c.arg0.toNat 15 0)
  (hc : clean c 0x1FFFF 0 true = true) (hj : s.job.phase ≠ .idle)
include hc hj

theorem reshardBody_bad {e : Nat} (hb : firstBad (reshardChecks s c.payload) = some e) :
    reshardBody mb c s = finish s mb c 0x0681 [] (BitVec.ofNat 64 e) := by
  have here : jobIn s [.idle] = false := by simpa [jobIn] using hj
  simp only [reshardBody, hc, here, hb]
  rfl

include hg in
/-- A RESHARD whose payload passes: refused unless it names the next generation and none waits; with DISCARD at once (R344). -/
theorem reshardBody_good (hb : firstBad (reshardChecks s c.payload) = none) (hp : reshardParts s c.payload = some (lists, o))
    (hr : r = ⟨mb, c.tag, gen, lists.map (·.2), (records 64 (c.payload.drop o)).map fun x => parseRing x.2⟩) : reshardBody mb c s =
      if gen ≠ (s.coll.gen + 1) % 65536 || s.coll.pending.isSome then finish s mb c 0x0685
      else if bit c.arg0.toNat 16 then
        (discardedEntry s).elim (installReshard (markStarted (discardAll s) mb c.tag []) r) fun e =>
          failStep (installReshard (markStarted (discardAll s) mb c.tag []) r) (some e)
      else settleReshard (markStarted { s with coll := { s.coll with pending := some r } } mb c.tag []) := by
  have here : jobIn s [.idle] = false := by simpa [jobIn] using hj
  subst hg hr
  simp only [reshardBody, hc, here, hb, hp]
  rfl

include hg in
/-- A RESHARD to the next generation where none waits (R344). -/
theorem reshardBody_next (hb : firstBad (reshardChecks s c.payload) = none) (hp : reshardParts s c.payload = some (lists, o))
    (hr : r = ⟨mb, c.tag, gen, lists.map (·.2), (records 64 (c.payload.drop o)).map fun x => parseRing x.2⟩)
    (hn : gen = (s.coll.gen + 1) % 65536) (hw : s.coll.pending = none) : reshardBody mb c s =
      if bit c.arg0.toNat 16 then
        (discardedEntry s).elim (installReshard (markStarted (discardAll s) mb c.tag []) r) fun e =>
          failStep (installReshard (markStarted (discardAll s) mb c.tag []) r) (some e)
      else settleReshard (markStarted { s with coll := { s.coll with pending := some r } } mb c.tag []) :=
  (reshardBody_good hg hc hj hb hp hr).trans (if_neg (by simp [hn, hw]))

end

/-! ### Limits (R345) -/

theorem collLimit_run {h limit : Nat} {d : CollDef} {r : CollRun} (hd : findDef s h = some d) (hl : limit = dLimit d.desc) (h0 : limit ≠ 0)
    (hr : findRun s h = some r) : collLimit s h = collFail (advance s (r.start + limit * 1000000)) h 3 := by
  subst hl
  simp [collLimit, hd, h0, hr]

theorem collLimit_ring {h limit : Nat} {d : CollDef} {r : RingRun} (hd : findDef s h = some d) (hl : limit = dLimit d.desc) (h0 : limit ≠ 0)
    (hn : findRun s h = none) (hr : (s.coll.rings.find? fun r => r.handle = h) = some r) :
    collLimit s h = ringFail (advance s (r.start + limit * 1000000)) r.ring 3 := by
  subst hl
  simp [collLimit, hd, h0, hn, hr]

/-! ### Gradient hand-offs (R352) -/

section
variable {ring sem : Nat} {x : RingCtx} {r : RingRun} {rest : List Nat} (hx : ringCtx s ring = some x) (hr : findRing s ring = some r)
  (hs : purposeSems s (0x28 + ring) = sem :: rest)
include hx hr hs

theorem gradientHandoff_idle (h : r.backward = false ∨ r.handed = x.n * x.rec'.blocks ∨ ringHolds s x sem = false) :
    gradientHandoff s ring = s := by
  simp only [gradientHandoff, hx, hr, hs]
  exact if_pos (by simpa [or_assoc] using h)

/-- A hand-off that is there is taken, and its image sent, but for those of the last step (R352). -/
theorem gradientHandoff_takes {h : Nat} {t : State} (hb : r.backward = true) (hh : h = r.handed) (hn : h ≠ x.n * x.rec'.blocks)
    (hold : ringHolds s x sem = true) (ht : t = setRing (ringTake s x sem) ring fun r => { r with handed := h + 1 }) :
    gradientHandoff s ring = if x.items ≤ h then pumpRing t ring else
      match gradImage t x h with
      | .error q => ringFail (logSeal t q) ring 2
      | .ok tiles => pumpRing (queueItem t ring true (x.items + h) tiles) ring := by
  subst hh ht
  simp only [gradientHandoff, hx, hr, hs]
  exact if_neg (by simp [hb, hn, hold])

end

/-- Settles O39: each command by what its body does; the limit and the gradient hand-off by the cases of their step. -/
theorem collectiveCommandsComplete : Obligations.CollectiveCommandsComplete := by
  refine ⟨fun s mb tag c => ⟨fun ds hd h hc hl => ⟨fun ha hb => ?_, fun ha hb => ?_, fun i hi => h.answers (collDefineBody_bad hd hc hl hi)⟩,
      fun h hc hl => h.answers (if_pos (by simp [hl])),
      fun k hk h hc => ⟨fun hf => h.answers (collDropBody_unknown hk hc hf), fun hf => ⟨fun hb ht => ?_, fun hb => ?_⟩⟩,
      fun d h hc hf => h.answers (by simp [collStatusBody, hc, hf]), fun h hc => h.answers (if_neg (by simp [hc])),
      fun gen lists o r t u hg h hc hj hb hp hr => ⟨fun hn => ?_, fun hn hnone => ⟨fun hd ht => ⟨fun hw => ?_, fun hw h1 h2 => ?_⟩,
        fun hd hu => ⟨fun e he => ?_, fun he => ?_⟩⟩⟩,
      fun o h hc hj hb => h.answers (reshardBody_bad hc hj hb)⟩,
    fun s r hw hp h1 h2 => ⟨congrArg _ (settleReshard_installs hw hp h1 h2), installReshard_gen r⟩,
    fun s h => congrArg _ (settleReshard_waits h), fun s h hd => ?_,
    fun s h d limit hd hl h0 => ⟨fun r hr => congrArg _ (collLimit_run hd hl h0 hr), fun r hn hr => congrArg _ (collLimit_ring hd hl h0 hn hr)⟩,
    fun s ring x r sem rest h8 hx hr hs => ⟨fun hi => ?_,
      fun h t hb hh hn hold ht => ⟨fun hlast => ?_, fun tiles hi hg => ?_, fun q hi hg => ?_⟩⟩⟩
  · exact h.answers ((collDefineBody_good hd hc hl ha).trans (if_neg (by simp [hb])))
  · exact h.answers ((collDefineBody_good hd hc hl ha).trans (if_pos hb))
  · exact h.answers ((collDropBody_known hk hc hf).trans (if_neg (by
      rintro (hb' | ⟨t, hmem, e, he, hke⟩)
      · simp [hb] at hb'
      · exact ht t hmem e he hke)))
  · exact h.answers ((collDropBody_known hk hc hf).trans (if_pos hb))
  · exact h.answers ((reshardBody_good hg hc hj hb hp hr).trans (if_pos (by simpa using hn)))
  · subst ht
    refine h.answers ((reshardBody_next hg hc hj hb hp hr hn hnone).trans ((if_neg (by simp [hd])).trans ?_))
    exact settleReshard_waits (hw.imp_right .inr)
  · subst ht
    refine h.answers ((reshardBody_next hg hc hj hb hp hr hn hnone).trans ((if_neg (by simp [hd])).trans ?_))
    exact settleReshard_installs hw rfl h1 h2
  · subst hu
    refine h.answers ((reshardBody_next hg hc hj hb hp hr hn hnone).trans ((if_pos hd).trans ?_))
    rw [he]; rfl
  · subst hu
    refine h.answers ((reshardBody_next hg hc hj hb hp hr hn hnone).trans ((if_pos hd).trans ?_))
    rw [he]; rfl
  · show Host.Outcome.next (collLimit s h) = .next s
    simp [collLimit, hd]
  · exact (onUnit_exists h8 _).trans (congrArg _ (gradientHandoff_idle hx hr hs hi))
  · exact (onUnit_exists h8 _).trans (congrArg _ ((gradientHandoff_takes hx hr hs hb hh hn hold ht).trans (if_pos hlast)))
  · refine (onUnit_exists h8 _).trans (congrArg _ ((gradientHandoff_takes hx hr hs hb hh hn hold ht).trans ?_))
    rw [if_neg (Nat.not_le.2 hi), hg]
  · refine (onUnit_exists h8 _).trans (congrArg _ ((gradientHandoff_takes hx hr hs hb hh hn hold ht).trans ?_))
    rw [if_neg (Nat.not_le.2 hi), hg]

end Sys2Proof.Machine
end

section
/-! SUPPORT. ABORT, CLOSE, reads of host memory that time out, TIER_COPY from a window
(02_host_commands.md, R28, R46, R59 to R61; 12_memory_tiers.md, R288). -/

namespace Sys2Proof.Machine

variable {s : State} {mb : Nat} {tag : DWord} {c : Cmd} {cls code : Nat}

/-! ### Which command starts (R35) -/

theorem findCmd_tag {x : Cmd} (h : findCmd s mb tag = some x) : x.tag = tag := by simpa using List.find?_some h

/-- A command that starts is the outstanding one of its tag, with its class and code, and not started. -/
theorem starting_some (h : starting s mb tag cls code = some c) :
    findCmd s mb tag = some c ∧ c.cls = cls ∧ c.code = code ∧ c.started = false := by
  unfold starting at h
  split at h
  · cases h
  · unfold startable at h
    dsimp only at h
    split at h
    · next x hx =>
      split at h
      · next hg =>
        cases h
        obtain ⟨hcls, hcode, -, hs, -⟩ := hg
        exact ⟨hx, hcls, hcode, by simpa using hs⟩
      · cases h
    · cases h

/-- Of one tag, a command of one class and code alone starts. -/
theorem starting_other {cls' code' : Nat} (h : starting s mb tag cls code = some c) (hne : cls' ≠ cls ∨ code' ≠ code) :
    starting s mb tag cls' code' = none := by
  obtain ⟨hf, hcls, hcode, -⟩ := starting_some h
  refine Option.eq_none_iff_forall_ne_some.2 fun x hx => ?_
  obtain ⟨hf', hcls', hcode', -⟩ := starting_some hx
  obtain rfl : c = x := Option.some.inj (hf.symm.trans hf')
  omega

theorem starting_of_started (hf : findCmd s mb tag = some c) (hs : c.started = true) : starting s mb tag cls code = none := by
  refine Option.eq_none_iff_forall_ne_some.2 fun x hx => ?_
  obtain ⟨hf', -, -, hx'⟩ := starting_some hx
  obtain rfl : c = x := Option.some.inj (hf.symm.trans hf')
  simp [hs] at hx'

/-! ### ABORT (R59 to R61) -/

theorem execAbort_starts (hmb : mb < 16) (hs : s.pwr.standby = false) (hf : findCmd s mb tag = some c) (hcls : c.cls = 11) (hw : c.whole = true)
    (hst : c.started = false) : exec (.abort mb tag) s = .next (abortBody mb c s) := by
  refine (onUnit_exists hmb _).trans ?_
  simp only [hf]
  rw [if_pos ⟨hcls, hw, by simp [hst]⟩]
  simp [hs]

/-- The tags of commands that an abort has not ended yet. -/
def leftOver (t : State) (b : Nat) (ts : List Cmd) : List DWord := (ts.map (·.tag)).filter fun x => (findCmd t b x).isSome

/-- An ABORT that is in order ends its targets; it waits for those that go on (R59, R60). -/
theorem abortBody_ends {b : Nat} {ts : List Cmd} {t : State} (hc : clean c all64 0x10F false = true) (hb : b = bits c.arg1.toNat 3 0)
    (hmb : mb = 0 ∨ b = mb) (hall : c.arg1.getLsbD 8 = true → c.arg0 = 0) (hts : ts = abortTargets s b c)
    (hn : ∀ x ∈ ts, isAbortOrClose x = false) (ht : t = ts.foldl (fun s x => endTarget s b x) s) : abortBody mb c s =
      if leftOver t b ts = [] then abortEnds t mb c (ts.filter fun x => !decided s b x).length
      else markStarted t mb c.tag ([0, (ts.filter fun x => !decided s b x).length, b] ++ (leftOver t b ts).map (·.toNat)) := by
  subst hb hts ht
  have form : (!clean c all64 0x10F false || (c.arg1.getLsbD 8 && decide (c.arg0 ≠ 0))) = false := by
    cases h : c.arg1.getLsbD 8 <;> simp_all
  have own : ¬(mb ≠ 0 ∧ bits c.arg1.toNat 3 0 ≠ mb) := by tauto
  have abortable : (!c.arg1.getLsbD 8 && (abortTargets s (bits c.arg1.toNat 3 0) c).any isAbortOrClose) = false := by
    rw [Bool.and_eq_false_iff, List.any_eq_false]
    exact .inr fun x hx => by simp [hn x hx]
  simp only [abortBody, form, own, abortable, leftOver, List.isEmpty_iff]
  rfl

/-- A command that has not started ends with its record at once (R60). -/
theorem endTarget_waiting {x : Cmd} (hf : findCmd s mb tag = some x) (hs : x.started = false) :
    endTarget s mb x = finish (chainSpoil s x) mb x stAborted := by
  have hx : findCmd s mb x.tag = some x := by rw [findCmd_tag hf]; exact hf
  simp [endTarget, hs, endEarly, hx]

theorem findCmd_finish (st : Nat) (pay : List Byte) (r0 r1 : DWord) : findCmd (finish s mb c st pay r0 r1) mb c.tag = none := by
  rw [findCmd, finish_cmds, List.find?_eq_none]
  intro x hx
  simpa using (List.mem_filter.1 hx).2

/-- ARG1 of an ABORT that names its own mailbox and no other bit. -/
theorem ownMailbox (hmb : mb < 16) (h : c.arg1 = BitVec.ofNat 64 mb) : bits c.arg1.toNat 3 0 = mb ∧ c.arg1.getLsbD 8 = false := by
  rw [h]
  interval_cases mb <;> decide

theorem abortTargets_one (h : c.arg1.getLsbD 8 = false) (b : Nat) : abortTargets s b c = (findCmd s b c.arg0).toList :=
  if_neg (by rw [h]; decide)

/-- An ABORT of one command that has not started (R60). -/
theorem abortBody_one {x : Cmd} (hmb : mb < 16) (hc : clean c all64 0x10F false = true) (h1 : c.arg1 = BitVec.ofNat 64 mb)
    (hx : findCmd s mb c.arg0 = some x) (ha : isAbortOrClose x = false) (hs : x.started = false) (he : ending x = false) :
    abortBody mb c s = finish (finish (chainSpoil s x) mb x stAborted) mb c 0 [] 1 := by
  obtain ⟨hb, h8⟩ := ownMailbox hmb h1
  have targets : abortTargets s mb c = [x] := by rw [abortTargets_one h8, hx]; rfl
  have counted : decided s mb x = false := by simp [decided, he, hs]
  have ended := endTarget_waiting hx hs
  rw [abortBody_ends hc hb.symm (.inr rfl) (fun h => by rw [h8] at h; cases h) targets.symm (by simpa using ha) rfl]
  simp [leftOver, ended, findCmd_finish, counted, abortEnds]

theorem abortBody_none (hmb : mb < 16) (hc : clean c all64 0x10F false = true) (h1 : c.arg1 = BitVec.ofNat 64 mb)
    (hx : findCmd s mb c.arg0 = none) : abortBody mb c s = finish s mb c stNothing [] 0 := by
  obtain ⟨hb, h8⟩ := ownMailbox hmb h1
  have targets : abortTargets s mb c = [] := by rw [abortTargets_one h8, hx]; rfl
  rw [abortBody_ends hc hb.symm (.inr rfl) (fun h => by rw [h8] at h; cases h) targets.symm (by simp) rfl]
  simp [leftOver, abortEnds]

/-! ### ABORT_COMPLETE (R61) -/

section
variable {b n : Nat} {tags : List Nat} {t : State} (ha : c.aux = [0, n, b] ++ tags)
  (ht : t = (tags.map (BitVec.ofNat 64)).foldl (fun s x => endStopped s b x) (advance s (copyLimits s b (tags.map (BitVec.ofNat 64)))))
include ha ht

/-- What a waiting ABORT does where its targets stop as they can (R61). -/
theorem abortComplete_eq : abortComplete s mb c = if (tags.map (BitVec.ofNat 64)).any (outstanding t b) then s else abortEnds t mb c n := by
  have parts : nth c.aux 1 = n ∧ nth c.aux 2 = b ∧ c.aux.drop 3 = tags := by rw [ha]; exact ⟨rfl, rfl, rfl⟩
  obtain ⟨h1, h2, h3⟩ := parts
  subst ht
  simp only [abortComplete, h1, h2, h3]

theorem abortComplete_ends (h : ∀ x ∈ tags, findCmd t b (BitVec.ofNat 64 x) = none) : abortComplete s mb c = abortEnds t mb c n := by
  rw [abortComplete_eq ha ht, if_neg]
  simpa [outstanding] using h

theorem abortComplete_waits {x : Nat} (hx : x ∈ tags) (h : (findCmd t b (BitVec.ofNat 64 x)).isSome = true) : abortComplete s mb c = s := by
  rw [abortComplete_eq ha ht, if_pos]
  exact List.any_eq_true.2 ⟨_, List.mem_map_of_mem hx, h⟩

end

theorem execAbortComplete_waiting (hmb : mb < 16) (hf : findCmd s mb tag = some c) (hcls : c.cls = 11) (hst : c.started = true) :
    exec (.abortComplete mb tag) s = .next (abortComplete s mb c) := by
  refine (onUnit_exists hmb _).trans ?_
  simp only [hf]
  rw [if_pos ⟨hcls, hst⟩]

/-! ### CLOSE (R46) -/

theorem advance_past {t : Nat} (h : t ≤ s.time) : advance s t = s := if_pos h

/-- CLOSE of a mailbox with no other command (R46). -/
theorem closeBody_alone (hc : clean c 0 0 false = true) (ha : (mbAt s mb).cmds = [c]) : closeBody mb c s =
    setMb (finish (revokeWindows s fun w => w.mb = mb) mb c 0) mb fun m => { m with session := none } := by
  have ends : closeEnds s mb c = s := by simp [closeEnds, ha, copyLimits, advance_past]
  simp [closeBody, hc, ends, ha]

/-! ### Reads of host memory that time out (R28) -/

theorem execHostReadTimeout_running (hmb : mb < 16) (hs : s.pwr.standby = false) :
    exec (.hostReadTimeout mb tag) s = .next (hostReadTimeout s mb tag) :=
  (onUnit_exists hmb _).trans (by simp [hs])

theorem hostReadTimeout_copy (h : starting s mb tag 10 0x44 = some c) (hf : copyFormOk c.payload = true) (hr : copyRefused s c.payload = none)
    (hh : cpHost c.payload = true) (ho : cpOut c.payload = false) : hostReadTimeout s mb tag = timeoutNoted (finish
      (havocLocal (advance s (s.time + 50000000)) (cpNear c.payload) (cpLen c.payload)) mb c stHostTimeout) := by
  simp [hostReadTimeout, h, hf, hr, hh, ho, readTimesOut, copySpoiled, timeoutNoted]

theorem hostReadTimeout_pull (h : starting s mb tag 8 4 = some c) (hl : c.payload.length = 24)
    (hw : windowHolds s (field c.payload 1 1) (field c.payload 8 8) (field c.payload 16 8) = true) :
    hostReadTimeout s mb tag = timeoutNoted (finish (advance s (s.time + 50000000)) mb c stHostTimeout) := by
  simp [hostReadTimeout, starting_other (cls' := 10) (code' := 0x44) h (by decide), h, hl, hw, readTimesOut, timeoutNoted]

theorem hostReadTimeout_restore (h : starting s mb tag 7 8 = some c) (hr : restoreReadsHost s c = true) :
    hostReadTimeout s mb tag = timeoutNoted (finish (restoreLost (advance s (s.time + 50000000))) mb c stHostTimeout) := by
  simp [hostReadTimeout, starting_other (cls' := 10) (code' := 0x44) h (by decide), starting_other (cls' := 8) (code' := 4) h (by decide), h, hr,
    readTimesOut, timeoutNoted]

theorem hostReadTimeout_waiting {n : Nat} (hf : findCmd s mb tag = some c) (hcls : c.cls = 8) (hcode : c.code = 4) (hst : c.started = true)
    (hn : n = nth c.aux 0) (hw : (visAt s n).waits.contains (mb, tag) = true) : hostReadTimeout s mb tag = pumpVis (timeoutNoted (finish
      (setVis (advance s (s.time + 50000000)) n fun v => { v with waits := v.waits.filter fun w => w ≠ (mb, c.tag) }) mb c stHostTimeout)) n := by
  subst hn
  have pull : waitingPull s mb tag = some c := by
    rw [waitingPull, hf, Option.filter_some, if_pos]
    simpa [hcls, hcode, hst] using hw
  have none' (cls code : Nat) : starting s mb tag cls code = none := starting_of_started hf hst
  simp only [hostReadTimeout, none', pull]
  rfl

/-! ### TIER_COPY from host memory (R288) -/

theorem tierCopyBody_fromHost {p : List Byte} (hp : p = c.payload) (hc : clean c 0 0 true = true) (hf : copyFormOk p = true)
    (hn : copyNearOk s p = true) (hh : cpHost p = true) (ho : cpOut p = false)
    (hany : (s.host.windows.any fun w => w.num = cpWindow p) = true) (hw : windowHolds s (cpWindow p) (cpFar p) (cpLen p) = true)
    (h1 : s.hbm.failed = []) (h2 : s.lpddr.failed = []) (h3 : s.hbm.held = []) : tierCopyBody mb c s =
      finish (writeLocal s (cpNear p) (readRun s.host.mem (windowAddr s (cpWindow p) (cpFar p)) (cpLen p))) mb c 0 := by
  subst hp
  have admitted : copyRefused s c.payload = none := by
    simp only [copyRefused, hn, hh, hany, hw]
    rfl
  obtain ⟨hhbm, hlp⟩ := writeLocal_failed (s := s) (cpNear c.payload)
    (readRun s.host.mem (windowAddr s (cpWindow c.payload) (cpFar c.payload)) (cpLen c.payload))
  have copied := endWrite_sound (mb := mb) (c := c) (hhbm.trans h1) (hlp.trans h2) [(cpNear c.payload, cpLen c.payload)]
  simp [tierCopyBody, hc, hf, admitted, hh, whenServed_none h3, hostCopy, ho, copied]

/-- Settles O9: ABORT and ABORT_COMPLETE by what their bodies do with the tags left over, the timeout by its three kinds of target. -/
theorem abortsAndTimeouts : Obligations.AbortsAndTimeouts := by
  intro s mb tag c hmb hs
  refine ⟨fun x hf hcls hw hst hc h1 hx ha hxs he => ?_, fun hf hcls hw hst hc h1 hx => ?_,
    fun b ts n t left hf hcls hw hst hc hb hmb' hall hts hn hcount ht hleft => ?_,
    fun b n tags t hf hcls hst ha ht => ⟨fun h => ?_, fun x hx h => ?_⟩,
    fun h hc ha _ => h.answers (closeBody_alone hc ha), fun t ht => ⟨fun h hl hw => ?_, fun h hf hr hh ho => ?_, fun h hr => ?_,
      fun n hf hcls hcode hst hn hw => ?_⟩,
    fun p hp h hc hf hn hh ho hany hw h1 h2 h3 => h.answers (tierCopyBody_fromHost hp hc hf hn hh ho hany hw h1 h2 h3)⟩
  · exact (execAbort_starts hmb hs hf hcls hw hst).trans (congrArg _ (abortBody_one hmb hc h1 hx ha hxs he))
  · exact (execAbort_starts hmb hs hf hcls hw hst).trans (congrArg _ (abortBody_none hmb hc h1 hx))
  · subst hcount hleft
    exact (execAbort_starts hmb hs hf hcls hw hst).trans (congrArg _ (abortBody_ends hc hb hmb' hall hts hn ht))
  · exact (execAbortComplete_waiting hmb hf hcls hst).trans (congrArg _ (abortComplete_ends ha ht h))
  · exact (execAbortComplete_waiting hmb hf hcls hst).trans (congrArg _ (abortComplete_waits ha ht hx h))
  all_goals subst ht
  · exact (execHostReadTimeout_running hmb hs).trans (congrArg _ (hostReadTimeout_pull h.2.1 hl hw))
  · exact (execHostReadTimeout_running hmb hs).trans (congrArg _ (hostReadTimeout_copy h.2.1 hf hr hh ho))
  · exact (execHostReadTimeout_running hmb hs).trans (congrArg _ (hostReadTimeout_restore h.2.1 hr))
  · exact (execHostReadTimeout_running hmb hs).trans (congrArg _ (hostReadTimeout_waiting hf hcls hcode hst hn hw))

end Sys2Proof.Machine
end

section
/-! SUPPORT. What an issued tile instruction answers when it waits or branches, how a launch ends and how a stopped core reports
(08_tile_program_isa.md; R183, R185, R204). -/

namespace Sys2Proof.Machine

variable {i : Ctx} {op : Nat} {body : Ctx → Res} {s t u v : State} {n : Nat} {l : Launch}

/-! ### Issue -/

theorem Issues.core (h : Issues op i) : i.c = coreAt i.s i.n := congrArg Ctx.c h.2.2.1

theorem tileInstr_stall (h : Issues op i) (hb : body i = .stall) : tileInstr op body i.n i.s = .next i.s := by
  rw [tileInstr_issues h, hb]; rfl

theorem tileInstr_jump {k : Nat} (h : Issues op i) (hb : body i = .jump t k) : tileInstr op body i.n i.s = i.branches t k := by
  rw [tileInstr_issues h, hb]; rfl

/-! ### The instructions that wait for what is in flight (R185) -/

theorem endBody_idle (h : i.c.moves = []) : endBody i = .done (endLaunch i.s i.n i.l (i.f 55 48)) := by simp [endBody, h]

theorem endBody_busy (h : i.c.moves ≠ []) : endBody i = .stall := by simp [endBody, h]

theorem trapBody_idle (h : i.c.moves = []) :
    trapBody i = .jump (stopCore i.s i.n 2 (i.f 55 48) i.l.pc (BitVec.ofNat 64 i.w) 0 none) i.l.pc := by simp [trapBody, h]

theorem trapBody_busy (h : i.c.moves ≠ []) : trapBody i = .stall := by simp [trapBody, h]

theorem drainBody_idle (h : i.c.moves = []) : drainBody i = .done i.s := by simp [drainBody, h]

theorem drainBody_busy (h : i.c.moves ≠ []) : drainBody i = .stall := by simp [drainBody, h]

/-! ### The end of a launch (R183, R185) -/

theorem finishTag_found {mb : Nat} {tag : DWord} {c : Cmd} (hf : findCmd s mb tag = some c) (st : Nat) (pay : List Byte) (r0 r1 : DWord) :
    finishTag s mb tag st pay r0 r1 = finish s mb c st pay r0 r1 := by simp only [finishTag, hf]

section
variable {code : Nat} (hu : u = if (coreAt s n).nf0.getLsbD 63 = true then stepCount s 11 else s)
  (hv : v = if 128 ≤ code then stepCount u 13 else u)
include hu hv

theorem endLaunch_host {mb : Nat} {tag : DWord} {c : Cmd} (hl : l.host = some (mb, tag)) (hf : findCmd (clearLaunch v n) mb tag = some c) :
    endLaunch s n l code = finish (clearLaunch v n) mb c 0 [] (BitVec.ofNat 64 code) := by
  subst hu hv
  simp only [endLaunch, hl]
  exact finishTag_found hf _ _ _ _

theorem endLaunch_scheduled (hl : l.host = none) :
    endLaunch s n l code = setCore v n fun c => { c with ending := some (false, code), idleSince := v.time } := by
  subst hu hv
  simp only [endLaunch, hl]

end

/-! ### The report of a stopped core (R204) -/

section
variable {r : Stop} {s1 s2 s3 : State}
  (h1 : s1 = logError s 3 (trapRecord n l r ++ le 8 (coreAt s n).nf0.toNat ++ le 8 (coreAt s n).nf1.toNat))
  (h2 : s2 = r.report.elim s1 (logSeal s1)) (h3 : s3 = if (coreAt s n).nf0.getLsbD 63 = true then stepCount s2 11 else s2)
include h1 h2 h3

/-- What a report comes to once it has been logged and counted. -/
theorem reportStop_eq : reportStop s n l r = l.host.elim
    (setCore (setCore s3 n emptyUnits) n fun c => { c with stop := none, ending := some (true, r.kind), idleSince := s3.time })
    fun h => if (findCmd (setCore s3 n emptyUnits) h.1 h.2).any ending = true then clearLaunch (setCore s3 n emptyUnits) n
      else finishTag (clearLaunch (setCore s3 n emptyUnits) n) h.1 h.2 0x0504 (trapRecord n l r) := by
  subst h1 h2 h3
  cases hl : l.host <;> cases hr : r.report <;> simp only [reportStop, hl, hr] <;> rfl

/-- A command is looked up in the host link, which an update of a core leaves. -/
theorem reportStop_host {mb : Nat} {tag : DWord} {c : Cmd} (hl : l.host = some (mb, tag)) (hf : findCmd s3 mb tag = some c)
    (he : ending c = false) :
    reportStop s n l r = finish (clearLaunch (setCore s3 n emptyUnits) n) mb c 0x0504 (trapRecord n l r) := by
  have found : findCmd (setCore s3 n emptyUnits) mb tag = some c := hf
  have cleared : findCmd (clearLaunch (setCore s3 n emptyUnits) n) mb tag = some c := hf
  rw [reportStop_eq h1 h2 h3, hl, Option.elim_some, if_neg (by simp [found, he]), finishTag_found cleared]

theorem reportStop_scheduled (hl : l.host = none) : reportStop s n l r = setCore (setCore s3 n emptyUnits) n fun c =>
    { c with stop := none, ending := some (true, r.kind), idleSince := s3.time } := by
  rw [reportStop_eq h1 h2 h3, hl, Option.elim_none]

end

section
variable {r : Stop} (hs : (coreAt s n).stop = some r) (hl : (coreAt s n).launch = some l)
include hs hl

theorem trapStop_reports (hk : r.kind ≠ 3) (hm : (coreAt s n).moves = []) : trapStop s n = reportStop s n l r := by
  simp [trapStop, hs, hl, hk, hm]

theorem trapStop_waits (hk : r.kind ≠ 3) (hm : (coreAt s n).moves ≠ []) : trapStop s n = s := by
  simp [trapStop, hs, hl, hk, hm]

/-- After a halt what is in flight for 1 ms is given up (R183, R316, R368). -/
theorem trapStop_halted (hk : r.kind = 3) (hu : u = if (coreAt s n).moves = [] then s else advance s (r.since + 1000000))
    (hv : v = if l.host.isSome = true then advance u (farLast u (ownedBy n) l.start) else u) :
    trapStop s n = reportStop ((coreAt s n).moves.foldl (fun s m => abandonMove s n m) v) n l r := by
  subst hu hv
  simp [trapStop, hs, hl, hk, List.isEmpty_iff]

end

/-- Settles O21: END, TRAP and DRAIN by whether something is in flight, the report by what a stopped core logs and who launched it. -/
theorem launchEndsAndTraps : Obligations.LaunchEndsAndTraps := by
  refine ⟨fun i hm u v hu hv => ⟨fun mb tag c h hl hf => ?_, fun h hl => ?_, fun h => tileInstr_jump h (trapBody_idle hm),
      fun h => tileInstr_done h (drainBody_idle hm)⟩,
    fun i hm => ⟨fun h => tileInstr_stall h (endBody_busy hm), fun h => tileInstr_stall h (trapBody_busy hm),
      fun h => tileInstr_stall h (drainBody_busy hm)⟩,
    fun s n r l hn hs hl => ⟨fun hk hm => ?_, fun hk hm => ?_, fun u v hk hu hv => ?_⟩,
    fun s n r l s1 s2 s3 h1 h2 h3 => ⟨fun mb tag c hl hf he => reportStop_host h1 h2 h3 hl hf he, reportStop_scheduled h1 h2 h3⟩⟩
  · rw [h.core] at hu
    exact tileInstr_done h ((endBody_idle hm).trans (congrArg _ (endLaunch_host hu hv hl hf)))
  · rw [h.core] at hu
    exact tileInstr_done h ((endBody_idle hm).trans (congrArg _ (endLaunch_scheduled hu hv hl)))
  · exact (onUnit_exists hn _).trans (congrArg _ (trapStop_reports hs hl hk hm))
  · exact (onUnit_exists hn _).trans (congrArg _ (trapStop_waits hs hl hk hm))
  · exact (onUnit_exists hn _).trans (congrArg _ (trapStop_halted hs hl hk hu hv))

end Sys2Proof.Machine
end

section
/-! SUPPORT. The vector engine: what a write of a tile register leaves, the layout and random instructions, VCVT
(03_number_formats.md; 07_vector_reduction.md; R81 to R84, R151, R155, R156, R161, R173). -/

namespace Sys2Proof.Machine

variable {i : Ctx}

/-! ### Sources and the write of DST (R150, R151) -/

theorem sa_eq (i : Ctx) : i.sa = i.a := by funext e; simp [Ctx.sa, Ctx.a, el]

theorem sb_eq (i : Ctx) : i.sb = i.b := by funext e; simp [Ctx.sb, Ctx.b, el]

theorem vecWrite_eq (ty fmt : Nat) (g : Nat → Word) : i.vecWrite ty fmt g = .done (i.vecState ty fmt g) := by
  simp only [Ctx.vecWrite, merged_eq, Ctx.vecState]

/-- Only the check of a packed result looks at a format. -/
theorem vecState_unpacked {ty : Nat} (h : ty ≠ 4) (fmt : Nat) (g : Nat → Word) : i.vecState ty fmt g = i.vecState ty 0 g := by
  simp only [Ctx.vecState, h, if_false]

section
variable (h : i.f 29 27 = 4 → fmtOk (i.f 26 23) = true)
include h

theorem vec_done (g : Nat → Word) : i.vec g = .done (i.vecState (i.f 29 27) (i.f 26 23) g) := by
  rw [Ctx.vec, if_neg (fun hr => hr.2 (h hr.1)), vecWrite_eq]

theorem layout_done (g : Nat → Word) : i.layout g = .done (i.vecState (if i.f 29 27 = 0 then 0 else 1) 0 g) := by
  rw [Ctx.layout, if_neg (fun hr => hr.2 (h hr.1)), vecWrite_eq, vecState_unpacked (by split <;> decide)]

end

section
variable (h : i.f 29 27 = 4) (hf : fmtOk (i.f 26 23) = false)
include h hf

theorem vec_reserved (g : Nat → Word) : i.vec g = .fault fVec 0 none := by simp [Ctx.vec, h, hf]

theorem layout_reserved (g : Nat → Word) : i.layout g = .fault fVec 0 none := by simp [Ctx.layout, h, hf]

end

/-! ### Broadcasts (R155) -/

theorem vbcastBody_element (h : i.f 17 16 = 0) : vbcastBody i = i.layout fun _ => i.a (i.f 9 0) := by
  simp only [vbcastBody, h, sa_eq]

theorem vbcastBody_row (h : i.f 17 16 = 1) : vbcastBody i = i.layout fun e => i.a (32 * (i.f 9 0 % 32) + e % 32) := by
  simp only [vbcastBody, h, sa_eq]

theorem vbcastBody_column (h0 : i.f 17 16 ≠ 0) (h1 : i.f 17 16 ≠ 1) :
    vbcastBody i = i.layout fun e => i.a (32 * (e / 32) + i.f 9 0 % 32) := by
  simp only [vbcastBody, sa_eq]

theorem vbcastBody_layout (i : Ctx) : ∃ g, vbcastBody i = i.layout g := by
  by_cases h0 : i.f 17 16 = 0
  · exact ⟨_, vbcastBody_element h0⟩
  by_cases h1 : i.f 17 16 = 1
  · exact ⟨_, vbcastBody_row h1⟩
  · exact ⟨_, vbcastBody_column h0 h1⟩

/-! ### VCVT (R81, R161) -/

/-- How VCVT rounds element `e` (R81, R161). -/
def Ctx.cvtMode (i : Ctx) (e : Nat) : Round :=
  match i.f 37 36 with
  | 0 => .rne
  | 1 => .rtz
  | _ => .sr (i.draw (i.f 28 21) (i.x (i.f 20 17) + BitVec.ofNat 64 e))

theorem cvtMode_eq (i : Ctx) (e : Nat) : i.cvtMode e = if i.f 37 36 = 0 then .rne else if i.f 37 36 = 1 then .rtz
    else .sr (draw i.s.job.seed i.l.step i.l.mb i.l.layer (i.f 28 21) (i.x (i.f 20 17) + BitVec.ofNat 64 e)) := by
  unfold Ctx.cvtMode
  split
  · rename_i h; rw [if_pos h]
  · rename_i h; rw [if_neg (by omega), if_pos h]
  · rename_i h0 h1; rw [if_neg h0, if_neg h1]; rfl

/-- The elements that VCVT converts (R151). -/
abbrev Ctx.cvtOn (i : Ctx) : Nat → Bool := i.active (i.f 29 29) (i.f 34 30)

/-- The FP32 word that VCVT writes at element `e`. -/
def Ctx.cvtWord (i : Ctx) (e : Nat) : Word :=
  if i.f 45 42 ≠ 0 then
    BitVec.ofNat 32 (encode 0 (i.cvtMode e) (i.f 35 35 = 1) (packedVal (i.f 45 42) (i.t (i.f 50 46)) (e / 32) (e % 32)))
  else if (f32 (i.a e)).isNan then 0x7FC00000#32 else i.a e

/-- A convert of FP32 to itself leaves every code but a NaN (R81). -/
theorem cvtSame_fp32 (w : Word) : BitVec.ofNat 32 (cvtSame 0 w.toNat) = if (f32 w).isNan then 0x7FC00000#32 else w := by
  simp only [cvtSame, f32, decodeElem, floatFmt]
  split
  · rfl
  · simp

/-- What VCVT leaves when DST receives `t` and `kind` says how an element is recorded (R84, R85). -/
def Ctx.cvtState (i : Ctx) (t : Elems) (kind : Nat → Option Nat) : State :=
  nfWrite i (putT i.s i.n (i.f 55 51) t) uConvert (regAddr (i.f 55 51))
    ((List.range 1024).filterMap fun e => if i.cvtOn e then (kind e).map fun k => (e / 32, e % 32, k) else none)

theorem vcvtBody_reserved (h : fmtOk (i.f 45 42) = false ∨ fmtOk (i.f 41 38) = false) : vcvtBody i = .fault fVec 0 none := by
  rw [vcvtBody, if_pos]
  rcases h with h | h <;> simp [h]

theorem vcvtBody_fp32 (hs : fmtOk (i.f 45 42) = true) (ht : i.f 41 38 = 0) :
    vcvtBody i = .done (i.cvtState (i.merged (i.f 29 29) (i.f 34 30) (i.f 55 51) i.cvtWord) fun e =>
      cvtKind (cvtSource (i.f 45 42) (i.t (i.f 50 46)) e)
        (f32 (el (i.merged (i.f 29 29) (i.f 34 30) (i.f 55 51) i.cvtWord) e))) := by
  have word : (fun e => BitVec.ofNat 32 (if i.f 45 42 = 0 then cvtSame 0 (el (i.t (i.f 50 46)) e).toNat
      else encode 0 (i.cvtMode e) (i.f 35 35 = 1) (cvtSource (i.f 45 42) (i.t (i.f 50 46)) e))) = i.cvtWord := by
    funext e
    by_cases h0 : i.f 45 42 = 0
    · simp only [h0, Ctx.cvtWord, if_true, ne_eq, not_true_eq_false, if_false]
      exact cvtSame_fp32 _
    · simp only [h0, Ctx.cvtWord, cvtSource, if_false, ne_eq, not_false_eq_true, if_true]
  rw [vcvtBody, if_neg (by rw [hs, ht]; decide), if_pos ht]
  simp only [← word, ← merged_eq]
  rfl

theorem vcvtBody_packed {rows : List (List Word × (Nat → Option Nat))} (hs : fmtOk (i.f 45 42) = true) (ht : fmtOk (i.f 41 38) = true)
    (h0 : i.f 41 38 ≠ 0)
    (hr : rows = (List.range 32).map (cvtRow (i.f 45 42) (i.f 41 38) (i.f 35 35 = 1) i.cvtMode i.cvtOn (i.t (i.f 50 46)))) :
    vcvtBody i = .done (i.cvtState (rows.flatMap (·.1)) fun e => (rows.getD (e / 32) ([], fun _ => none)).2 (e % 32)) := by
  subst hr
  rw [vcvtBody, if_neg (by simp [hs, ht]), if_neg h0]
  rfl

/-- Settles O24: each layout instruction is one write of DST, VCVT one write of its words or of its packed rows. -/
theorem layoutVectorResults : Obligations.LayoutVectorResults := by
  refine ⟨fun i h ends hends => ?_, fun i r hr h hty hf => ?_, fun i sf tf src sat on mode hsf htf hsrc hsat hon hmode => ?_⟩
  · subst hends
    refine ⟨fun hi h0 => ?_, fun hi h1 => ?_, fun hi h2 => ?_, fun hi => tileInstr_done hi (layout_done h _),
      fun hi => ?_, fun hi => ?_, fun r hr hi => ?_⟩
    · exact tileInstr_done hi ((vbcastBody_element h0).trans (layout_done h _))
    · exact tileInstr_done hi ((vbcastBody_row h1).trans (layout_done h _))
    · exact tileInstr_done hi ((vbcastBody_column (by omega) (by omega)).trans (layout_done h _))
    · exact tileInstr_done hi (by rw [vxposeBody, sa_eq, layout_done h])
    · exact tileInstr_done hi (by rw [vpermBody, sa_eq, sb_eq, layout_done h])
    · subst hr
      exact tileInstr_done hi (vec_done h _)
  · simp only [List.mem_cons, List.not_mem_nil, or_false] at hr
    rcases hr with rfl | rfl | rfl | rfl | rfl
    · obtain ⟨g, hg⟩ := vbcastBody_layout i
      exact tileInstr_fault h (hg.trans (layout_reserved hty hf g))
    · exact tileInstr_fault h (layout_reserved hty hf _)
    · exact tileInstr_fault h (layout_reserved hty hf _)
    · exact tileInstr_fault h (layout_reserved hty hf _)
    · exact tileInstr_fault h (vec_reserved hty hf _)
  · have hmode : mode = i.cvtMode := hmode.trans (funext fun e => (cvtMode_eq i e).symm)
    subst hsf htf hsrc hsat hon hmode
    refine ⟨fun t hs ht hi h0 => ?_, fun rows hs ht h0 hr hi => ?_, fun hi h => tileInstr_fault hi (vcvtBody_reserved h)⟩
    · have ht : t = i.merged (i.f 29 29) (i.f 34 30) (i.f 55 51) i.cvtWord := ht
      rw [ht]
      exact tileInstr_done hi (vcvtBody_fp32 hs h0)
    · exact tileInstr_done hi (vcvtBody_packed hs ht h0 hr)

end Sys2Proof.Machine
end

section
/-! SUPPORT. The power-class commands (18_power_clocks_reset.md, R440 to R447, R506; 04_cores_tile_store_seals.md, R109; 11_hbm.md, R259). -/

namespace Sys2Proof.Machine

variable {s : State} {mb : Nat} {tag : DWord} {c : Cmd}

/-- Two answers chosen by opposite conditions, in either order. -/
theorem ite_swap {α : Type} {p q : Prop} [Decidable p] [Decidable q] {a b : α} (h : p ↔ ¬ q) : (if p then a else b) = if q then b else a := by
  rw [if_congr h rfl rfl, ite_not]

/-! ### PWR_LIMIT and IDLE_TIMERS (R438, R440) -/

theorem pwrLimitBody_clean (hc : clean c 0xFFFF 0xFFFF false = true) {limit cap : Nat} (hl : limit = c.arg0.toNat) (hp : cap = c.arg1.toNat) :
    pwrLimitBody mb c s =
      if (limit = 0 ∨ (1600 ≤ limit ∧ limit ≤ 3200)) ∧ (cap = 0 ∨ (800 ≤ cap ∧ cap ≤ 1850 ∧ cap % 25 = 0)) then
        finish (setLimits s limit cap) mb c 0 else finish s mb c stPwrRange := by
  subst hl hp
  refine (if_neg (by simp [hc])).trans (ite_swap ?_)
  simp only [Bool.or_eq_true, Bool.and_eq_true, decide_eq_true_eq]
  omega

theorem idleTimersBody_clean (hc : clean c 0xFFFFFFFF 0xFFFFFFFF false = true) {d k : Nat} (hd : d = c.arg0.toNat) (hk : k = c.arg1.toNat) :
    idleTimersBody mb c s = if 10 ≤ d ∧ d ≤ 1000000 ∧ 1 ≤ k ∧ k ≤ 3600000 then
      finish { s with pwr := { s.pwr with dimAfter := d, darkAfter := k } } mb c 0 else finish s mb c stPwrRange := by
  subst hd hk
  refine (if_neg (by simp [hc])).trans (ite_swap ?_)
  simp only [Bool.or_eq_true, decide_eq_true_eq]
  omega

/-! ### The cores (R109, R445, R506) -/

theorem coreStateBody_clean {mask r : Nat} {ns : List Nat} (hm : mask = field c.payload 0 20) (hr : r = field c.payload 20 1)
    (hns : ns = (List.range 152).filter fun n => bit mask n) (hc : clean c 0 0 true = true) (hl : c.payload.length = 24)
    (hlt : mask < 2 ^ 152) (hr2 : r ≤ 2) (hz : sub c.payload 21 3 = zeros 3) : coreStateBody mb c s =
      if ∀ n ∈ ns, coreStateRefused s r n = false then finish (ns.foldl (requestCore r) s) mb c 0 else finish s mb c stPwrState := by
  subst hm hr hns
  have form : (!clean c 0 0 true || decide (c.payload.length ≠ 24) || decide (2 ^ 152 ≤ field c.payload 0 20) ||
      decide (2 < field c.payload 20 1) || !(sub c.payload 21 3 == zeros 3)) = false := by
    simp only [hc, hl, hz, beq_self_eq_true, Nat.not_le.2 hlt, Nat.not_lt.2 hr2]
    rfl
  refine (if_neg (by rw [form]; decide)).trans (ite_swap ?_)
  simp only [List.any_eq_true, not_forall, Bool.not_eq_false, exists_prop]

theorem coreFenceBody_clean {n : Nat} (hn : n = c.arg0.toNat) (hc : clean c 0xFF 1 false = true) : coreFenceBody mb c s =
    if 152 ≤ n then finish s mb c stPwrRange
    else if (coreAt s n).cause ≠ none ∨ emptiesGroup s n = true then finish s mb c stPwrState
    else if c.arg1.getLsbD 0 = true ∨ stepRuns s = false then finish (failEmptyGroups (fenceCore s n 4)) mb c 0
    else setCore (markStarted s mb c.tag [n]) n fun x => { x with deferred := x.deferred.or (some 4) } := by
  subst hn
  refine (if_neg (by simp [hc])).trans ?_
  simp only [Bool.or_eq_true, Bool.not_eq_true', Option.isSome_iff_ne_none, fenceNow]

section
variable {n : Nat} (hn : n = c.arg0.toNat) (hc : clean c 0xFF 0 false = true)
include hn hc

theorem coreRetestBody_outside (h : 152 ≤ n) (pass : Bool) : coreRetestBody pass mb c s = finish s mb c stPwrRange := by
  subst hn
  exact (if_neg (by simp [hc])).trans (if_pos h)

/-- CORE_RETEST of a core there is: refused for one that is not fenced, answered by what the test finds for another (R109). -/
theorem coreRetestBody_inside (h : n < 152) (pass : Bool) : coreRetestBody pass mb c s = (coreAt s n).cause.elim (finish s mb c stPwrState)
    fun k => if pass then finish (fbState (fbEntry (setCore s n fun c => { c with retested := true, corrected := 0 }) 2
        (coreData (setCore s n fun c => { c with retested := true, corrected := 0 }) n k))) mb c 0
      else finish s mb c stPwrTest := by
  subst hn
  refine (if_neg (by simp [hc])).trans ((if_neg (Nat.not_le.2 h)).trans ?_)
  cases (coreAt s c.arg0.toNat).cause <;> rfl

end

/-! ### HBM_MAPOUT (R259) -/

theorem hbmMapoutBody_query (hc : clean c 0 0 true = true) (hp : c.payload = []) :
    hbmMapoutBody mb c s = finish s mb c 0 s.hbm.mapout := by simp [hbmMapoutBody, hc, hp]

theorem hbmMapoutBody_record (hc : clean c 0 0 true = true) (hl : c.payload.length = 48) : hbmMapoutBody mb c s =
    if moInRange c.payload = false then finish s mb c stPwrRange else if moClean c.payload = false then finish s mb c stMalformed
      else finish (storeMapout s c.payload) mb c 0 c.payload := by
  have full : c.payload.isEmpty = false := by rw [List.isEmpty_eq_false_iff_exists_mem]; exact List.exists_mem_of_length_pos (by omega)
  refine (if_neg (by simp [hc, hl])).trans ((if_neg (by rw [full]; decide)).trans ?_)
  simp only [Bool.not_eq_true']

/-! ### STANDBY (R447) -/

theorem standbyBody_enters (hc : clean c 1 0 false = true) (h : c.arg0 = 1) : standbyBody mb c s =
    if s.pwr.standby = true then finish s mb c 0
    else if standbyOk s = true then finish (enterStandby s) mb c 0 else finish s mb c stPwrState :=
  (if_neg (by simp [hc])).trans (if_pos h)

theorem standbyBody_leaves (hc : clean c 1 0 false = true) (h : c.arg0 = 0) :
    standbyBody mb c s = finish (if s.pwr.standby = true then leaveStandby s else s) mb c 0 :=
  (if_neg (by simp [hc])).trans (if_neg (by simp [h]))

/-- Settles O17: each command starts and is answered by its body, in the order in which that asks. -/
theorem powerCommandsComplete : Obligations.PowerCommandsComplete := by
  intro s mb tag c
  refine ⟨fun h hc => h.answers (if_neg (by simp [hc])), fun limit cap hl hp h hc => h.answers (pwrLimitBody_clean hc hl hp),
    fun mask r ns hm hr hns h hc hl hlt hr2 hz => h.answers (coreStateBody_clean hm hr hns hc hl hlt hr2 hz),
    fun n hn h hc => h.answers (coreFenceBody_clean hn hc),
    fun n hn h hc => ⟨fun hout pass => h.answers (coreRetestBody_outside hn hc hout pass), fun hin hk pass => ?_, fun k t hin hk ht => ?_⟩,
    fun h hc => ⟨fun hp => h.answers (hbmMapoutBody_query hc hp), fun hl => h.answers (hbmMapoutBody_record hc hl)⟩,
    fun d k hd hk h hc => h.answers (idleTimersBody_clean hc hd hk),
    fun h hc => ⟨fun ha => h.answers (standbyBody_enters hc ha), fun ha => h.answers (standbyBody_leaves hc ha)⟩⟩
  · exact h.answers ((coreRetestBody_inside hn hc hin pass).trans (by rw [hk]; rfl))
  · subst ht
    exact ⟨h.answers ((coreRetestBody_inside hn hc hin true).trans (by rw [hk]; rfl)),
      h.answers ((coreRetestBody_inside hn hc hin false).trans (by rw [hk]; rfl))⟩

end Sys2Proof.Machine
end

section
/-! SUPPORT. Loads, stores, gathers and scatters of the vector engine, and the seal class
(07_vector_reduction.md, R157 to R160, R170, R171; 08_tile_program_isa.md, R196; 04_cores_tile_store_seals.md, R108). -/

namespace Sys2Proof.Machine

variable {i : Ctx}

/-! ### Register tiles (R157) -/

/-- An array of a list, read with a default. -/
theorem getD_toArray {α : Type} (l : List α) (e : Nat) (d : α) : l.toArray.getD e d = l.getD e d := by simp

/-- A register read through its array of words. -/
theorem getD_toArray_eq_el (t : Elems) (e : Nat) : t.toArray.getD e 0 = el t e := getD_toArray t e 0

section
variable (hf : i.Free i.accessSlot 8)
include hf

theorem vldrBody_loads (hh : i.Holds i.accessSlot regShape) : vldrBody i = .done (putT
    (i.actives.foldl (fun s e => readBytes s i.n (512 * i.accessSlot + 4 * e) 4) i.s) i.n (i.f 55 51)
    ((i.t (i.f 55 51)).mapIdx fun e o => if i.accessOn e then el (bytesReg (i.tile i.accessSlot regShape)) e else o)) := by
  rw [vldrBody, operand_free hf, check_holds hh]
  simp only [getD_toArray_eq_el, Ctx.actives]

theorem vstrBody_stores {bs : List Byte} (hbs : bs = (List.range 4096).map fun b => if i.accessOn (b / 4) then
      (regBytes (i.t (i.f 55 51))).getD b 0 else (getSlots i.s (tileSlot i.n i.accessSlot) 8).getD b 0) :
    vstrBody i = .done (i.actives.foldl (fun s e => ownBytes s i.n (512 * i.accessSlot + 4 * e) 4)
      (putTile i.s (tileSlot i.n i.accessSlot) regShape bs (sealOf regShape bs))) := by
  rw [vstrBody, operand_free hf, hbs]
  simp only [getD_toArray, Ctx.actives]

end

/-! ### Packed rows (R158 to R160) -/

/-- Whether a row has an active element. -/
def Ctx.rowLive (i : Ctx) (r : Nat) : Bool := (List.range 32).any fun c => i.accessOn (32 * r + c)

theorem rowLive_iff {r : Nat} : i.rowLive r = true ↔ ∃ c < 32, i.accessOn (32 * r + c) = true := by
  simp [Ctx.rowLive]

/-- The words that VLDP leaves in row `r` of its register (log 18). -/
def Ctx.loadedRow (i : Ctx) (sh : Shape) (r : Nat) : List Word :=
  if i.rowLive r then packRow sh.fmt
    (fun c => if i.accessOn (32 * r + c) then unpackAt (width sh.fmt)
        (readRun i.s.ctl (tileBase i.n + lineOff sh i.accessSlot (i.f 30 29) (i.f 28 27) r) (packedLen sh.fmt)).toArray c
      else packedCode sh.fmt (i.t (i.f 55 51)) r c)
    (rd i.s.ctl (tileBase i.n + lineScale sh i.accessSlot (i.f 30 29) (i.f 28 27) r)).toNat
  else (List.range 32).map fun c => el (i.t (i.f 55 51)) (32 * r + c)

/-- The read of a row of the tile at the access slot, and of its scale byte (R108). -/
def Ctx.readRow (i : Ctx) (sh : Shape) (s : State) (r : Nat) : State :=
  let s := readBytes s i.n (lineOff sh i.accessSlot (i.f 30 29) (i.f 28 27) r) (packedLen sh.fmt)
  if isMx sh.fmt then readBytes s i.n (lineScale sh i.accessSlot (i.f 30 29) (i.f 28 27) r) 1 else s

section
variable {sh : Shape} (hsh : sh = i.shape (i.f 34 31)) (hok : shapeOk sh = true)
include hsh hok

/-- Where the form rules of R159 are not met, both fault. -/
theorem packedBody_reserved (hf : packedForm sh = false) : vldpBody i = .fault fVec 0 none ∧ vstpBody i = .fault fVec 0 none := by
  subst hsh
  simp [vldpBody, vstpBody, withShape_ok hok, hf]

section
variable (hf : packedForm sh = true) (hfree : i.Free i.accessSlot (tileSlots sh.fmt 0))
include hf hfree

theorem vldpBody_loads (hh : i.Holds i.accessSlot sh) : vldpBody i = .done (putT
    (((List.range 32).filter i.rowLive).foldl (i.readRow sh) i.s) i.n (i.f 55 51) ((List.range 32).flatMap (i.loadedRow sh))) := by
  subst hsh
  simp only [vldpBody, withShape_ok hok, hf, operand_free hfree, check_holds hh, Bool.not_true, Bool.false_eq_true, if_false]
  rfl

theorem vstpBody_stores : vstpBody i =
    .done ((List.range 32).foldl (vstpRow i sh i.accessSlot (i.f 30 29) (i.f 28 27) (i.t (i.f 55 51))) i.s) := by
  subst hsh
  simp only [vstpBody, withShape_ok hok, hf, operand_free hfree]
  rfl

end

end

/-! ### Gathers and scatters (R170, R171) -/

/-- An offset of the tile store that an access may use at once: aligned, inside, of no slot that a fetch holds. -/
def Ctx.OffsetFree (i : Ctx) (o : Nat) : Prop := o % 4 = 0 ∧ o ≤ 0x2FFFFC ∧ slotsHeld i.c (o / 512) 1 = false

theorem offsets_free {os : List Nat} {k : Res} (h : ∀ o ∈ os, i.OffsetFree o) : i.offsets os k = k := by
  have inside : os.find? (fun o => o % 4 ≠ 0 || o > 0x2FFFFC) = none := by
    rw [List.find?_eq_none]
    intro o ho
    obtain ⟨aligned, within, -⟩ := h o ho
    simp [aligned, Nat.not_lt.2 within]
  have unheld : (os.any fun o => slotsHeld i.c (o / 512) 1) = false := by
    rw [List.any_eq_false]
    intro o ho
    obtain ⟨-, -, hheld⟩ := h o ho
    simp [hheld]
  rw [Ctx.offsets, inside]
  exact if_neg (by simp [unheld])

theorem offsets_outside {os : List Nat} {o : Nat} (h : os.find? (fun o => o % 4 ≠ 0 || o > 0x2FFFFC) = some o) (k : Res) :
    i.offsets os k = .fault fRange o none := by rw [Ctx.offsets, h]

/-- What one element of VSCADD in FP32 does: an addition, a store, the check of its value (log 87). -/
def Ctx.addStep (i : Ctx) (s : State) (e : Nat) : State :=
  let v := addF32 (BitVec.ofNat 32 (rdNat s.ctl (tileBase i.n + i.index e) 4)) (el (i.t (i.f 55 51)) e)
  nfWrite i (pokeWord i.n (readBytes s i.n (i.index e) 4) (i.index e) v) uVector (tileAddr i.n (i.index e))
    ((nonFinite (f32 v)).map fun k => (e / 32, e % 32, k)).toList

theorem vscaddStep_integer (h : i.f 3 3 = 1) (src : Elems) : vscaddStep i src = fun s e => pokeWord i.n (readBytes s i.n (i.index e) 4)
    (i.index e) (BitVec.ofNat 32 (rdNat s.ctl (tileBase i.n + i.index e) 4) + el src e) := by
  funext s e
  simp only [vscaddStep, h, if_true]
  rfl

theorem vscaddStep_float (h : i.f 3 3 = 0) : vscaddStep i (i.t (i.f 55 51)) = i.addStep := by
  funext s e
  simp only [vscaddStep, h, Nat.zero_ne_one, if_false]
  rfl

section
variable (h : ∀ e ∈ i.actives, i.OffsetFree (i.index e))
include h

theorem offsets_index {k : Res} : i.offsets (i.actives.map i.index) k = k := by
  refine offsets_free fun o ho => ?_
  obtain ⟨e, he, rfl⟩ := List.mem_map.1 ho
  exact h e he

theorem vgathBody_gathers : vgathBody i = .done (putT (i.actives.foldl (fun s e => readBytes s i.n (i.index e) 4) i.s) i.n (i.f 55 51)
    ((i.t (i.f 55 51)).mapIdx fun e o =>
      if i.accessOn e then BitVec.ofNat 32 (rdNat i.s.ctl (tileBase i.n + i.index e) 4) else o)) := by
  rw [vgathBody, offsets_index h]

theorem vscatBody_scatters : vscatBody i =
    .done (i.actives.foldl (fun s e => pokeWord i.n s (i.index e) (el (i.t (i.f 55 51)) e)) i.s) := by
  rw [vscatBody, offsets_index h]

theorem vscaddBody_adds : vscaddBody i = .done (i.actives.foldl (vscaddStep i (i.t (i.f 55 51))) i.s) := by
  rw [vscaddBody, offsets_index h]

end

/-- A gather or scatter with an offset that is not aligned or lies outside the tile store faults with the first such. -/
theorem gatherBodies_outside {o : Nat} (h : (i.actives.map i.index).find? (fun o => o % 4 ≠ 0 || o > 0x2FFFFC) = some o) :
    vgathBody i = .fault fRange o none ∧ vscatBody i = .fault fRange o none ∧ vscaddBody i = .fault fRange o none :=
  ⟨by rw [vgathBody, offsets_outside h], by rw [vscatBody, offsets_outside h], by rw [vscaddBody, offsets_outside h]⟩

theorem vrscatBody_scatters {r : List (Nat × Word) × (Nat → Nat)}
    (hr : r = radix (el (i.t (i.f 50 46))) (el (i.t (i.f 55 51))) (i.f 9 5) (i.x (i.f 26 23)).toNat (i.f 4 4 = 1) i.actives
      fun b => (el (i.t (i.f 45 41)) b).toNat)
    (h : ∀ o ∈ r.1, i.OffsetFree o.1) : vrscatBody i = .done (putT (r.1.foldl (fun s o => pokeWord i.n s o.1 o.2) i.s) i.n (i.f 45 41)
      ((i.t (i.f 45 41)).mapIdx fun e o => if e < 256 then BitVec.ofNat 32 (r.2 e) else o)) := by
  have free : ∀ o ∈ r.1.map (·.1), i.OffsetFree o := by
    intro o ho
    obtain ⟨p, hp, rfl⟩ := List.mem_map.1 ho
    exact h p hp
  rw [hr] at free ⊢
  simp only [vrscatBody, getD_toArray_eq_el]
  rw [offsets_free free]

/-! ### The seal class (R196) -/

section
variable {q n : Nat} {sh : Shape} (hq : q = i.sealSlot) (hsh : sh = i.shape (i.f 55 52)) (hn : n = tileSlots sh.fmt sh.kind)
  (hok : shapeOk sh = true) (hfmt : fmtOk sh.fmt = true) (hfree : i.Free q n)
include hsh hok hfmt

theorem sealShape_ok (k : Shape → Res) : i.sealShape k = k sh := by
  subst hsh
  simp [Ctx.sealShape, withShape_ok hok, hfmt]

include hq hn hfree

theorem sealBody_seals : sealBody i = .done (storeTile (readSlots i.s i.n q n) i.n q sh (getSlots i.s (tileSlot i.n q) n)) := by
  subst hq hn
  rw [sealBody, sealShape_ok hsh hok hfmt]
  exact operand_free hfree

/-- SCHK of a tile with exactly the shape: its bytes give the recorded seal or are a seal fault of kind 0 (R104, R196). -/
theorem schkBody_checks (hh : i.HoldsExactly q sh) {want got : Word} (hw : want = recSeal (rd i.s.recs (tileSlot i.n q)))
    (hg : got = sealOf sh (getSlots i.s (tileSlot i.n q) n)) {a : Nat} (ha : a = tileAddr i.n (512 * q)) : schkBody i =
      if got = want then .done (readSlots i.s i.n q n)
      else .fault fSeal a (some (sealRecord i.s a (unitId 1 (dieOf i.n) i.n) want got 0 sh)) := by
  subst hq hn hw hg ha
  rw [schkBody, sealShape_ok hsh hok hfmt]
  exact (operand_free hfree).trans (check_exactly hh)

end

theorem srecBody_reads {q : Nat} (hq : q = i.sealSlot) (h : i.Free q 1) :
    srecBody i = .done (putX i.s i.n (i.f 55 52) (rd i.s.recs (tileSlot i.n q))) := by
  subst hq
  exact operand_free h

theorem sclrBody_unseals {q : Nat} (hq : q = i.sealSlot) (h : i.Free q (i.f 34 27 + 1)) :
    sclrBody i = .done (unsealSlots i.s (tileSlot i.n q) (i.f 34 27 + 1)) := by
  subst hq
  exact operand_free h

/-- A fault with a seal fault record stops the core with it (R104, R204). -/
theorem tileInstr_reports {op a b : Nat} {body : Ctx → Res} {r : List Byte} (h : Issues op i) (hb : body i = .fault a b (some r)) :
    tileInstr op body i.n i.s = .next (stopCore i.s i.n 0 a i.l.pc (BitVec.ofNat 64 i.w) b (some r)) := by
  rw [tileInstr_issues h, hb]; rfl

/-- Settles O29: each instruction by what its body does once its operands are in order. -/
theorem tileAccessResults : Obligations.TileAccessResults := by
  intro i p on live hp hon hlive
  subst hp hon
  rw [hlive]
  refine ⟨fun hf hh h => tileInstr_done h (vldrBody_loads hf hh), fun bs hbs hf h => tileInstr_done h (vstrBody_stores hf hbs),
    fun sh rb cb hsh hrb hcb hok => ⟨fun hf => ?_, fun hf hfree => ⟨fun rows reads hh hrows hreads h => ?_, fun h => ?_⟩⟩,
    fun hfree => ⟨fun h => tileInstr_done h (vgathBody_gathers hfree), fun h => tileInstr_done h (vscatBody_scatters hfree),
      fun h3 h => ?_, fun h3 h => ?_⟩,
    fun o ho r hr h => ?_, fun r hr hfree h => tileInstr_done h (vrscatBody_scatters hr hfree),
    fun q hq => ⟨fun sh n want got a hsh hn hw hg ha hok hfmt hfree => ⟨fun h => ?_, fun hh he h => ?_, fun hh he h => ?_⟩,
      fun hf h => tileInstr_done h (srecBody_reads hq hf), fun hf h => tileInstr_done h (sclrBody_unseals hq hf)⟩⟩
  · obtain ⟨load, store⟩ := packedBody_reserved hsh hok hf
    exact ⟨fun h => tileInstr_fault h load, fun h => tileInstr_fault h store⟩
  · subst hrb hcb
    have words : rows = (List.range 32).flatMap (i.loadedRow sh) :=
      hrows.trans (congrArg (List.flatMap · _) (funext fun r => (if_congr (rowLive_iff (i := i)) rfl rfl).symm))
    rw [words, hreads]
    exact tileInstr_done h (vldpBody_loads hsh hok hf hfree hh)
  · subst hrb hcb
    exact tileInstr_done h (vstpBody_stores hsh hok hf hfree)
  · exact tileInstr_done h ((vscaddBody_adds hfree).trans (by rw [vscaddStep_integer h3]; rfl))
  · exact tileInstr_done h ((vscaddBody_adds hfree).trans (by rw [vscaddStep_float h3]; rfl))
  · obtain ⟨gather, scatter, add⟩ := gatherBodies_outside ho
    simp only [List.mem_cons, List.not_mem_nil, or_false] at hr
    rcases hr with rfl | rfl | rfl
    · exact tileInstr_fault h gather
    · exact tileInstr_fault h scatter
    · exact tileInstr_fault h add
  · exact tileInstr_done h (sealBody_seals hq hsh hn hok hfmt hfree)
  · exact tileInstr_done h ((schkBody_checks hq hsh hn hok hfmt hfree hh hw hg ha).trans (if_pos he))
  · exact tileInstr_reports h ((schkBody_checks hq hsh hn hok hfmt hfree hh hw hg ha).trans (if_neg he))

end Sys2Proof.Machine
end

section
/-! SUPPORT. What issues the moves of a core, and how a move that reads begins (08_tile_program_isa.md, R191 to R195; 12_memory_tiers.md,
R279). -/

namespace Sys2Proof.Machine

variable {i : Ctx} {s u : State} {n : Nat} {m k : Move}

/-! ### Descriptors and tile coordinates (R92, R96, R191) -/

theorem withDesc_ok {d : Desc} {r : Nat} {k : Desc → Res} (hd : d = parseDesc (i.c.d.getD r [])) (hok : descOk d = true)
    (hin : d.outOfRange i.s = none) (hpl : descPlaced d (tileExists i.s) = true) : i.withDesc r k = k d := by
  subst hd
  simp only [Ctx.withDesc, hok, hin, hpl]
  rfl

theorem withTile_ok {d : Desc} {xc r c : Nat} {k : Nat → Nat → Res} (hr : r = bits (i.x xc).toNat 31 0) (hc : c = bits (i.x xc).toNat 63 32)
    (hrt : r < d.tr) (hct : c < d.tc) : i.withTile d xc k = k r c := by
  subst hr hc
  exact if_neg (not_or.2 ⟨Nat.not_le.2 hrt, Nat.not_le.2 hct⟩)

section
variable {d : Desc} {sh : Shape} {r c : Nat} (hd : d = parseDesc (i.c.d.getD (i.f 55 52) [])) (hok : descOk d = true)
  (hin : d.outOfRange i.s = none) (hpl : descPlaced d (tileExists i.s) = true) (hr : r = bits (i.x (i.f 51 48)).toNat 31 0)
  (hc : c = bits (i.x (i.f 51 48)).toNat 63 32) (hrt : r < d.tr) (hct : c < d.tc) (hsh : sh = d.shape r c)
include hd hok hin hpl hr hc hrt hct hsh

section
variable {p : Nat} (hp : p = i.slot (i.f 47 35) (i.f 34 31)) (hfree : i.Free p (Shape.slots sh))
include hp hfree

/-- FETCH with its operands in order: the destination slots are unsealed before the read begins (R191). -/
theorem fetchBody_starts : fetchBody i = .done (startRead (unsealSlots i.s (tileSlot i.n p) (Shape.slots sh)) i.n
    { bareMove i .fetch (i.f 30 19) with
      rclass := i.f 18 17, deadline := i.deadline (i.f 16 15) (i.f 14 11),
      shape := some sh, src := d.addr r c, srcSeal := d.sealAddr r c, slots := [(p, Shape.slots sh)] }) := by
  rw [fetchBody, withDesc_ok hd hok hin hpl, withTile_ok hr hc hrt hct]
  subst hsh hp
  exact operand_free hfree

/-- STORE to this module with its operands in order takes the source tile and its seal at issue (R191). -/
theorem storeBody_takes (hw : mayWrite i.s (d.addr r c) (Shape.bytes sh) = true) (hh : i.HoldsExactly p sh)
    (ha : isAway i.s (d.addr r c) = false) : storeBody i = .done (launchMove (readSlots i.s i.n p (Shape.slots sh)) i.n
      { bareMove i .store (i.f 30 19) with
        shape := some sh, src := tileAddr i.n (512 * p), dst := d.addr r c,
        dstSeal := d.sealAddr r c, carried := recSeal (rd i.s.recs (tileSlot i.n p)),
        bytes := getSlots i.s (tileSlot i.n p) (Shape.slots sh), remote := false }) := by
  rw [storeBody, withDesc_ok hd hok hin hpl, withTile_ok hr hc hrt hct]
  subst hsh hp
  simp only [operand_free hfree, hw, Bool.not_true, Bool.false_eq_true, if_false, check_exactly hh, ha]

end

/-- MOVEM between two grids of one legend whose tiles have one shape (R191). -/
theorem movemBody_starts {e : Desc} (he : e = parseDesc (i.c.d.getD (i.f 34 31) [])) (heok : descOk e = true)
    (hein : e.outOfRange i.s = none) (hepl : descPlaced e (tileExists i.s) = true) (hleg : e.legend = d.legend) (hret : r < e.tr)
    (hcet : c < e.tc) (hesh : e.shape r c = sh) (hw : mayWrite i.s (e.addr r c) (Shape.bytes sh) = true) :
    movemBody i = .done (startRead i.s i.n
      { bareMove i .movem (i.f 30 19) with
        rclass := i.f 18 17, deadline := i.deadline (i.f 16 15) (i.f 14 11),
        shape := some sh, src := d.addr r c, srcSeal := d.sealAddr r c, dst := e.addr r c, dstSeal := e.sealAddr r c }) := by
  rw [movemBody, withDesc_ok hd hok hin hpl, withDesc_ok he heok hein hepl, if_neg (not_not.2 hleg.symm), withTile_ok hr hc hrt hct,
    withTile_ok hr hc hret hcet]
  subst hsh
  simp only [hesh, hw, Bool.not_true, Bool.false_eq_true, if_false, ne_eq, not_true_eq_false]

end

/-! ### Granule fetches, atomics, messages (R194, R195) -/

theorem gfetchBody_starts {base p : Nat} {gs : List (Nat × Nat)} (hb : base = (parseDesc (i.c.d.getD (i.f 55 52) [])).base)
    (hp : p = i.slot (i.f 40 28) (i.f 27 24)) (hgs : gs = i.gathers base) (hfree : i.Free p 128) (hlt : base < 2 ^ 41)
    (hal : base % 64 = 0) (hex : localExists i.s base 64 = true) (hg : ∀ g ∈ gs, gatherable i.s base g.2 = true)
    (hm : m = { bareMove i .gfetch (i.f 23 12) with
      deadline := i.deadline (i.f 11 10) (i.f 9 6), src := base, slots := [(p, 128)], list := gs })
    (hu : u = launchMove (gs.foldl (fun s g => unsealSlots s (tileSlot i.n (p + g.1 / 8)) 1) i.s) i.n m) :
    gfetchBody i = .done (if isLate u m then endLate (spoil u i.n m) i.n m true else u) := by
  have good : gs.find? (fun g => !gatherable i.s base g.2) = none := by
    rw [List.find?_eq_none]
    intro g hmem
    simp [hg g hmem]
  have inOrder : ¬(2 ^ 41 ≤ base ∨ base % 64 ≠ 0 ∨ ¬ localExists i.s base 64 = true) :=
    not_or.2 ⟨Nat.not_le.2 hlt, not_or.2 ⟨not_not.2 hal, not_not.2 hex⟩⟩
  rw [hgs] at good
  rw [hu, hm, hgs]
  subst hb hp
  rw [gfetchBody, operand_free hfree, if_neg inOrder, good]

theorem atomBody_issues {a : Nat} (ha : a = (i.x (i.f 55 52)).toNat) (hok : atomOk i.s a = true) (hhere : isAway i.s a = false) :
    atomBody i = .done (issuedRemote (launchMove i.s i.n
      { bareMove i .atom (i.f 30 19) with
        dst := a, reg := i.f 43 40, remote := false,
        bytes := le 8 (i.x (i.f 51 48)).toNat ++ le 8 (i.x (i.f 47 44)).toNat }) i.n) := by
  subst ha
  simp only [atomBody, hok, hhere, Bool.not_true, Bool.false_eq_true, if_false]

theorem msgBody_issues {a : Nat} (ha : a = (i.x (i.f 45 42)).toNat) (hok : (space a = 0 ∧ device a = 0) ∨ space a = 1)
    (hhere : isAway i.s a = false) : msgBody i = .done (issuedRemote (launchMove i.s i.n
      { bareMove i .msg (i.f 30 19) with dst := a, remote := false, bytes := i.rowOut }) i.n) := by
  subst ha
  have admitted : ((space (i.x (i.f 45 42)).toNat = 0 && device (i.x (i.f 45 42)).toNat = 0) || space (i.x (i.f 45 42)).toNat = 1) = true := by
    simpa using hok
  simp only [msgBody, admitted, hhere, Bool.not_true, Bool.false_eq_true, if_false]
  rfl

/-! ### A move that reads begins (R193, R279) -/

section
variable (hk : k = { m with remote := isAway s m.src }) (hu : u = readOwn (launchMove s n k) n k)
include hk hu

/-- What a read that begins comes to, by its deadline, its admission and where its source lies. -/
theorem startRead_eq : startRead s n m =
    if isLate u m then endLate (spoilSlots u n k) n k true
    else if !isAway s m.src && space m.src ≠ 2 && m.deadline.any fun d => !admitted u (offset m.src) 0 d then
      endRefused (spoilSlots u n k) n k
    else if isAway s m.src then moveTx u n k .read m.src m.srcSeal (Shape.bytes (moveShape m) / 64) []
    else u := by
  subst hu hk
  rfl

theorem startRead_late (h : isLate u m = true) : startRead s n m = endLate (spoilSlots u n k) n k true :=
  (startRead_eq hk hu).trans (if_pos h)

variable (h : isLate u m = false)
include h

theorem startRead_away (ha : isAway s m.src = true) :
    startRead s n m = moveTx u n k .read m.src m.srcSeal (Shape.bytes (moveShape m) / 64) [] := by
  rw [startRead_eq hk hu, if_neg (by simp [h]), if_neg (by simp [ha]), if_pos ha]

variable (ha : isAway s m.src = false)
include ha

theorem startRead_unlimited (hf : m.deadline = none ∨ space m.src = 2) : startRead s n m = u := by
  rw [startRead_eq hk hu, if_neg (by simp [h]), if_neg (by rcases hf with hf | hf <;> simp [hf]), if_neg (by simp [ha])]

/-- With a deadline, a read of HBM or LPDDR of this module begins when it is admitted (R279). -/
theorem startRead_limited {d : Nat} (hd : m.deadline = some d) (hs : space m.src ≠ 2) :
    startRead s n m = if admitted u (offset m.src) 0 d = false then endRefused (spoilSlots u n k) n k else u := by
  rw [startRead_eq hk hu, if_neg (by simp [h])]
  simp only [ha, hd, hs, Option.any_some, Bool.not_false, Bool.true_and, ne_eq, not_false_eq_true, decide_true, Bool.not_eq_true',
    Bool.false_eq_true, if_false]

end

/-- Settles O30: each instruction by what its body issues, the read that begins by its four cases. -/
theorem movesIssue : Obligations.MovesIssue := by
  refine ⟨fun i => ⟨fun d sh p r c hd hok hin hpl hr hc hrt hct hsh => ⟨fun hp hfree => ⟨fun h => ?_, fun hw hh ha h => ?_⟩,
      fun e he heok hein hepl hleg hret hcet hesh hw h => ?_⟩,
    fun base p gs m u hb hp hgs hfree hlt hal hex hg hm hu h =>
      tileInstr_done h (gfetchBody_starts hb hp hgs hfree hlt hal hex hg hm hu),
    fun a ha hok hhere h => tileInstr_done h (atomBody_issues ha hok hhere),
    fun a ha hok hhere h => tileInstr_done h (msgBody_issues ha hok hhere)⟩,
    fun s n m k u hk hu => ⟨startRead_late hk hu, fun h ha => startRead_away hk hu h ha,
      fun h ha => ⟨startRead_unlimited hk hu h ha, fun d hd hs => ⟨fun had => ?_, fun had => ?_⟩⟩⟩⟩
  · exact tileInstr_done h (fetchBody_starts hd hok hin hpl hr hc hrt hct hsh hp hfree)
  · exact tileInstr_done h (storeBody_takes hd hok hin hpl hr hc hrt hct hsh hp hfree hw hh ha)
  · exact tileInstr_done h (movemBody_starts hd hok hin hpl hr hc hrt hct hsh he heok hein hepl hleg hret hcet hesh hw)
  · exact (startRead_limited hk hu h ha hd hs).trans (if_neg (by simp [had]))
  · exact (startRead_limited hk hu h ha hd hs).trans (if_pos had)

end Sys2Proof.Machine
end

section
/-! SUPPORT. How a move in flight ends: what its source gives, what a failure leaves, by kind of move
(08_tile_program_isa.md, R192 to R195; 04_cores_tile_store_seals.md, R99 to R105; 13_ewete_fabric.md, R311, R315). -/

namespace Sys2Proof.Machine

variable {s u v : State} {n id unit : Nat} {m : Move} {sh : Shape} {o : MoveOutcome} {here : Bool} {bs r : List Byte} {want crc : Word}

/-! ### Failures (R105, R192) -/

theorem stopMove_running (h : (coreAt s n).stop = none) (code detail : Nat) (report : Option (List Byte)) :
    stopMove s n m code detail report = stopCore s n 0 code m.index m.word detail report := if_neg (by simp [h])

theorem stopMove_stopped (h : (coreAt s n).stop ≠ none) (code detail : Nat) (r : List Byte) :
    stopMove s n m code detail (some r) = logSeal s r := if_pos (Option.isSome_iff_ne_none.2 h)

theorem endSealFault_plain (h : m.rclass = 0) (r : List Byte) :
    endSealFault s n m r = closeMove (stopMove s n m fSeal (field r 0 8) (some r)) n m := by
  unfold endSealFault
  split
  · rfl
  · contradiction

theorem endSealFault_classed (h : m.rclass ≠ 0) (r : List Byte) :
    endSealFault s n m r = endLate (spoil (logSeal s r) n m) n m (m.rclass = 1) := by
  unfold endSealFault
  split
  · contradiction
  · rfl

theorem endLost_plain (h : m.rclass = 0) (a : Nat) :
    endLost s n m a = closeMove (stopMove (spoil s n m) n m fTransfer a none) n m := by
  unfold endLost
  split
  · rfl
  · contradiction

theorem endLost_classed (h : m.rclass ≠ 0) (a : Nat) : endLost s n m a = endLate (spoil s n m) n m (m.rclass = 1) := by
  unfold endLost
  split
  · contradiction
  · rfl

/-! ### Reading a tile (R99 to R104, R248 to R250) -/

/-- A range without a bad granule that arrives undisturbed. -/
theorem readRange_arrived {a k : Nat} (h : badGranule s a k = none) : readRange s a k .arrived = (none, s) := by
  simp only [readRange, h]

theorem sealCheck_good (h : sealOf sh bs = want) (a : Nat) : sealCheck s sh a unit bs want .arrived = (.tile bs want, s) :=
  (if_neg (by decide)).trans (if_pos h)

theorem sealCheck_bad (h : sealOf sh bs ≠ want) (a : Nat) :
    sealCheck s sh a unit bs want .arrived = (.bad (sealRecord s a unit want (sealOf sh bs) 0 sh), s) :=
  (if_neg (by decide)).trans (if_neg h)

/-- A tile whose bytes agree with the seal it carries is good wherever it is checked (R99). -/
theorem arrives_good (h : sealOf sh bs = want) (a : Nat) (here : Bool) : arrives s sh a unit here bs want .arrived = (.tile bs want, s) := by
  cases here
  · simp only [arrives, sealCarried, Bool.false_eq_true, if_false, reduceCtorEq]
  · exact sealCheck_good h a

/-- A tile of HBM or LPDDR without a bad granule is what its bytes and its seal-table entry say. -/
theorem readMemTile_arrived {a b : Nat} (hu : u = touchRead (touchRead s (offset a) (Shape.bytes sh)) (offset b) 4)
    (h1 : badGranule u (offset a) (Shape.bytes sh) = none) (h2 : badGranule u (offset b) 4 = none) :
    readMemTile s sh a b unit here .arrived =
      arrives u sh a unit here (readLocal u (offset a) (Shape.bytes sh)) (BitVec.ofNat 32 (unle (readLocal u (offset b) 4))) .arrived := by
  subst hu
  unfold readMemTile
  dsimp only
  rw [readRange_arrived h1]
  dsimp only
  rw [readRange_arrived h2]

section
variable {a : Nat} {w : DWord} (hc : ctlExists s (offset a) (Shape.bytes sh) = true) (hw : w = rd s.recs (slotAt (offset a)))
include hc hw

theorem readSlotTile_unsealed (h : recCheck w sh true = some 2) :
    readSlotTile s sh a unit here o = (.bad (sealRecord s a unit 0 0 2 sh), s) := by
  subst hw
  simp only [readSlotTile, hc, h, Bool.not_true, Bool.false_eq_true, if_false]

theorem readSlotTile_sealed (h : recCheck w sh true = none) : readSlotTile s sh a unit here .arrived =
    arrives (windowTouched s a) sh a unit here (getSlots s (slotAt (offset a)) (Shape.slots sh)) (recSeal w) .arrived := by
  subst hw
  simp only [readSlotTile, hc, h, Bool.not_true, Bool.false_eq_true, if_false, reduceCtorEq]

end

section
variable (hsh : moveShape m = sh)
include hsh

theorem readSource_memory (ha : isAway s m.src = false) (h2 : space m.src ≠ 2) :
    readSource s m unit here .arrived = readMemTile s sh m.src m.srcSeal unit here .arrived := by
  subst hsh
  simp only [readSource, ha, h2, Bool.false_eq_true, if_false, reduceCtorEq]

theorem readSource_slots (ha : isAway s m.src = false) (h2 : space m.src = 2) :
    readSource s m unit here .arrived = readSlotTile s sh m.src unit here .arrived := by
  subst hsh
  simp only [readSource, ha, h2, Bool.false_eq_true, if_false, reduceCtorEq, if_true]

theorem readSource_away (ha : isAway s m.src = true) : readSource s m unit here o = readAwayTile s m sh unit := by
  subst hsh
  exact if_pos ha

end

theorem readAwayTile_failed (h : m.status ≠ some rOk) : readAwayTile s m sh unit = (.lost m.src, s) := if_pos h

theorem readAwayTile_good (h : m.status = some rOk) (h7 : isT7 s (device m.src) = false) (hs : sealOf sh m.bytes = m.carried) :
    readAwayTile s m sh unit = (.tile m.bytes m.carried, s) :=
  (if_neg (not_not.2 h)).trans ((if_neg (by simp [h7])).trans (sealCheck_good hs m.src))

/-! ### MOVE_END (R192) -/

theorem moveEnd_waits (hf : (coreAt s n).moves.find? (fun m => m.id = id) = some m) (hw : moveWaits s n m = true) :
    moveEnd s n id o = s := by
  simp only [moveEnd, hf, hw, if_true]

section
variable (hf : (coreAt s n).moves.find? (fun m => m.id = id) = some m) (hw : moveWaits s n m = false)
include hf hw

/-- A move that waits for nothing more ends by its kind. -/
theorem moveEnd_ends : moveEnd s n id o =
    if m.kind = .movem ∧ isAway s m.dst = true then pumpTx (endMove s n m o) else endMove s n m o := by
  simp only [moveEnd, hf, hw, Bool.false_eq_true, if_false, Bool.and_eq_true, decide_eq_true_eq]

/-- Only a MOVEM to another module lets other transactions go. -/
theorem moveEnd_eq_endMove (h : m.kind ≠ .movem ∨ isAway s m.dst = false) : moveEnd s n id o = endMove s n m o := by
  rw [moveEnd_ends hf hw, if_neg]
  rcases h with h | h <;> simp [h]

theorem moveEnd_eq_pumpTx (hk : m.kind = .movem) (ha : isAway s m.dst = true) : moveEnd s n id o = pumpTx (endMove s n m o) := by
  rw [moveEnd_ends hf hw, if_pos ⟨hk, ha⟩]

end

/-- Module time does not decide whose memory an address names. -/
theorem isAway_advance (t a : Nat) : isAway (advance s t) a = isAway s a := by
  rw [advance_frame]
  rfl

theorem fetchDeadline_passes {d : Nat} (hf : (coreAt s n).moves.find? (fun m => m.id = id) = some m) (hd : m.deadline = some d) :
    fetchDeadline s n id = if m.kind = .movem ∧ isAway s m.dst = true then advance s (d + 1)
      else endLate (spoil (advance s (d + 1)) n m) n m true := by
  simp only [fetchDeadline, hf, hd, isAway_advance, Bool.and_eq_true, decide_eq_true_eq]

/-! ### FETCH (R193, R280) -/

section
variable (hk : m.kind = .fetch)
include hk

theorem endMove_fetch : endMove s n m o = endFetch s n m o := by rw [endMove, hk]

variable (hl : isLate s m = false)
include hl

theorem endMove_fetch_tile (hr : readSource s m (unitId 2 (dieOf n) n) true o = (.tile bs crc, u)) : endMove s n m o =
    closeMove (ownSlots (putTile u (tileSlot n (m.slots.headD (0, 0)).1) (moveShape m) bs crc) n (m.slots.headD (0, 0)).1
      (Shape.slots (moveShape m))) n m := by
  rw [endMove_fetch hk]
  simp only [endFetch, hl, hr, endDone, Bool.false_eq_true, if_false]

theorem endMove_fetch_bad (hr : readSource s m (unitId 2 (dieOf n) n) true o = (.bad r, u))
    (hv : v = if field r 24 1 = 0 then spoil u n m else u) : endMove s n m o = endSealFault v n m r := by
  subst hv
  rw [endMove_fetch hk]
  simp only [endFetch, hl, hr, Bool.false_eq_true, if_false]

theorem endMove_fetch_lost {a : Nat} (hr : readSource s m (unitId 2 (dieOf n) n) true o = (.lost a, u)) :
    endMove s n m o = endLost u n m a := by
  rw [endMove_fetch hk]
  simp only [endFetch, hl, hr, Bool.false_eq_true, if_false]

end

/-! ### GFETCH (R194) -/

/-- The bytes of one granule land in the destination slots of a gather. -/
def landGranule (n p : Nat) (s : State) (g : Nat × Nat) : State :=
  ownBytes { s with ctl := writeRun s.ctl (tileBase n + 512 * p + 64 * g.1) (readLocal s g.2 64) } n (512 * p + 64 * g.1) 64

section
variable (hk : m.kind = .gfetch)
include hk

theorem endMove_gfetch : endMove s n m o = endGfetch s n m o := by rw [endMove, hk]

variable (hl : isLate s m = false)
include hl

theorem endMove_gfetch_lands (hr : readGranules s m.list .arrived = (none, u)) :
    endMove s n m .arrived = closeMove (m.list.foldl (landGranule n (m.slots.headD (0, 0)).1) u) n m := by
  rw [endMove_gfetch hk]
  simp only [endGfetch, hl, hr, Bool.false_eq_true, if_false, reduceCtorEq]
  rfl

theorem endMove_gfetch_fails {g : Nat} (h1 : o ≠ .failed) (h2 : o ≠ .uncorrectable) (hr : readGranules s m.list o = (some g, u)) :
    endMove s n m o = endLost u n m g := by
  rw [endMove_gfetch hk]
  simp only [endGfetch, hl, hr, h1, h2, Bool.false_eq_true, if_false]

end

/-- A fetch or granule fetch past its deadline reads nothing. -/
theorem endMove_late (hk : m.kind = .fetch ∨ m.kind = .gfetch) (hl : isLate s m = true) :
    endMove s n m o = endLate (spoil s n m) n m true := by
  rcases hk with hk | hk
  · exact (endMove_fetch hk).trans (if_pos hl)
  · exact (endMove_gfetch hk).trans (if_pos hl)

/-! ### STORE and MOVEM (R99 to R104, R309, R315) -/

/-- Where the answer of another module ends a move. -/
theorem endMove_away (h : (m.kind = .store ∧ isAway s m.dst = true) ∨ (m.kind = .movem ∧ m.writing = true)) :
    endMove s n m o = endAway s n m := by
  rcases h with ⟨hk, ha⟩ | ⟨hk, hw⟩
  · rw [endMove, hk]
    exact if_pos ha
  · rw [endMove, hk]
    exact if_pos hw

theorem endAway_eq : endAway s n m = if m.deadline.any (· < m.since) = true then endLate s n m true
    else if m.status = some rOk then closeMove s n m else endLost s n m m.dst := rfl

/-- A tile that agrees with its seal is written where its destination exists and serves (R102, R103). -/
theorem endWriteTile_lands (hsh : moveShape m = sh) (hs : sealOf sh bs = crc)
    (hc : space m.dst ≠ 2 ∨ ctlExists s (offset m.dst) (Shape.bytes sh) = true) (hd : deadRange s m.dst (Shape.bytes sh) = false) :
    endWriteTile s n m bs crc .arrived = closeMove (wroteOwn (landTile s m.dst m.dstSeal sh bs crc) n m.dst (Shape.bytes sh)) n m := by
  subst hsh
  have exists' : (decide (space m.dst = 2) && !ctlExists s (offset m.dst) (Shape.bytes (moveShape m))) = false := by
    rcases hc with hc | hc <;> simp [hc]
  simp only [endWriteTile, sealCheck_good hs, exists', hd, Bool.or_self, Bool.false_eq_true, if_false]
  rfl

section
variable (hk : m.kind = .store) (ha : isAway s m.dst = false)
include hk ha

theorem endMove_store (h1 : o ≠ .failed) (h2 : o ≠ .uncorrectable) (h3 : o ≠ .corrected) :
    endMove s n m o = endWriteTile s n m m.bytes m.carried o := by
  rw [endMove, hk]
  simp only [endStore, ha, h1, h2, h3, Bool.false_eq_true, if_false]

theorem endMove_store_failed : endMove s n m .failed = endLost s n m m.dst := by
  rw [endMove, hk]
  exact if_neg (by simp [ha])

theorem endMove_store_uncorrectable : endMove s n m .uncorrectable = ownTileError s n m := by
  rw [endMove, hk]
  exact if_neg (by simp [ha])

end

section
variable (hk : m.kind = .movem)
include hk

theorem endMove_movem : endMove s n m o = endMovem s n m o := by rw [endMove, hk]

variable (hwr : m.writing = false)
include hwr

theorem endMove_movem_late (hl : isLate s m = true) (ha : isAway s m.dst = false) :
    endMove s n m o = endLate (spoil s n m) n m true := by
  rw [endMove_movem hk]
  simp only [endMovem, hwr, hl, ha, Bool.false_eq_true, if_false, Bool.not_false, Bool.and_self, if_true]

section
variable (hl : isLate s m = false ∨ isAway s m.dst = true)
include hl

theorem endMove_movem_tile (hr : readSource s m (movemUnit s n m) (!isAway s m.dst) o = (.tile bs crc, u)) : endMove s n m o =
    if isAway s m.dst = true then
      moveTx (setCore u n fun c => { c with moves := c.moves.map fun x => if x.id = m.id then
          { m with remote := true, writing := true, status := none, bytes := bs, carried := crc } else x }) n
        { m with remote := true, writing := true, status := none, bytes := bs, carried := crc } .write m.dst m.dstSeal
        (Shape.bytes (moveShape m) / 64) bs
    else endWriteTile u n m bs crc .arrived := by
  have inTime : (isLate s m && !isAway s m.dst) = false := by rcases hl with hl | hl <;> simp [hl]
  rw [endMove_movem hk]
  simp only [endMovem, hwr, inTime, hr, Bool.false_eq_true, if_false]

theorem endMove_movem_lost {a : Nat} (hr : readSource s m (movemUnit s n m) (!isAway s m.dst) o = (.lost a, u)) :
    endMove s n m o = endLost u n m a := by
  have inTime : (isLate s m && !isAway s m.dst) = false := by rcases hl with hl | hl <;> simp [hl]
  rw [endMove_movem hk]
  simp only [endMovem, hwr, inTime, hr, Bool.false_eq_true, if_false]

end

end

/-! ### ATOM and MSG (R195, R312) -/

theorem nearTimeout_eq : nearTimeout = 2000000 := rfl

section
variable (hk : m.kind = .atom)
include hk

theorem endMove_atom_remote (hr : m.remote = true) : endMove s n m o =
    if m.status = some rOk then closeMove (putX s n m.reg (BitVec.ofNat 64 (unle m.bytes))) n m else endLost s n m m.dst := by
  rw [endMove, hk]
  exact if_pos hr

theorem endMove_atom_here {old : List Byte} (hr : m.remote = false) (hb : badGranule s (offset m.dst) 8 = none)
    (hat : atomLocal s (offset m.dst) (bits m.word.toNat 39 36) m.bytes = (old, u)) :
    endMove s n m .arrived = closeMove (putX u n m.reg (BitVec.ofNat 64 (unle old))) n m := by
  rw [endMove, hk]
  simp only [endAtom, hr, readRange_arrived hb, hat, Bool.false_eq_true, if_false, reduceCtorEq]
  rfl

end

section
variable (hk : m.kind = .msg)
include hk

theorem endMove_msg_remote (hr : m.remote = true) :
    endMove s n m o = if m.status = some rOk then closeMove s n m else endLost s n m m.dst := by
  rw [endMove, hk]
  exact if_pos hr

theorem endMove_msg_delivered (hr : m.remote = false) (hd : deliver s (bits m.dst 5 0) m.bytes = some u) :
    endMove s n m .arrived = closeMove u n m := by
  rw [endMove, hk]
  simp only [endMsg, hr, hd, endDone, Bool.false_eq_true, if_false, reduceCtorEq]

/-- An own MSG whose queue is full waits for room in it until the fabric time-out (R312, log 92). -/
theorem endMove_msg_full (hr : m.remote = false) (hd : deliver s (bits m.dst 5 0) m.bytes = none) :
    endMove s n m .arrived = if m.since + 2000000 ≤ s.time then endLost s n m m.dst else s := by
  rw [endMove, hk, ← nearTimeout_eq]
  simp only [endMsg, hr, hd, Bool.false_eq_true, if_false, reduceCtorEq]

end

/-! ### The commands that end a move -/

section
variable {t : State} (hn : n < 152) (hf : (coreAt s n).moves.find? (fun m => m.id = id) = some m) (hw : moveWaits s n m = false)
include hn hf hw

theorem exec_moveEnd_plain (hk : m.kind ≠ .movem ∨ isAway s m.dst = false) (h : endMove s n m o = t) :
    exec (.moveEnd n id o) s = .next t := by
  subst h
  exact (onUnit_exists hn _).trans (congrArg _ (moveEnd_eq_endMove hf hw hk))

theorem exec_moveEnd_pumped (hk : m.kind = .movem) (ha : isAway s m.dst = true) (h : endMove s n m o = t) :
    exec (.moveEnd n id o) s = .next (pumpTx t) := by
  subst h
  exact (onUnit_exists hn _).trans (congrArg _ (moveEnd_eq_pumpTx hf hw hk ha))

/-- A write to another module ends by its answer; behind a MOVEM other transactions may go (R318). -/
theorem exec_moveEnd_answered (h : (m.kind = .store ∧ isAway s m.dst = true) ∨ (m.kind = .movem ∧ m.writing = true))
    (ha : isAway s m.dst = true) {f : State → State} (hfun : f = if m.kind = .movem then pumpTx else fun s => s) :
    exec (.moveEnd n id o) s = .next (f (endAway s n m)) := by
  subst hfun
  rcases h with ⟨hk, -⟩ | ⟨hk, hwr⟩
  · rw [if_neg (by simp [hk])]
    exact exec_moveEnd_plain hn hf hw (.inl (by simp [hk])) (endMove_away (.inl ⟨hk, ha⟩))
  · rw [if_pos hk]
    exact exec_moveEnd_pumped hn hf hw hk ha (endMove_away (.inr ⟨hk, hwr⟩))

end

/-- Settles O32: what the source gives, and the end of each kind of move by its own lemma. -/
theorem fetchEnds : Obligations.FetchEnds := by
  refine ⟨fun s n id m o hn hf => ?_, fun s m unit here sh hsh => ?_, fun s n id m d hn hf hd => ?_, fun s n m _ => rfl,
    fun s n id m sh hn hf hw hsh => ?_⟩
  · have ends (hw : moveWaits s n m = false) (hk : m.kind = .fetch ∨ m.kind = .gfetch) {t : State} (h : endMove s n m o = t) :
        exec (.moveEnd n id o) s = .next t :=
      exec_moveEnd_plain hn hf hw (.inl (by rcases hk with hk | hk <;> simp [hk])) h
    refine ⟨fun hw => (onUnit_exists hn _).trans (congrArg _ (moveEnd_waits hf hw)), fun hw hk hl => ends hw hk (endMove_late hk hl),
      fun hw hk hl => ⟨fun bs crc u p hr hp => ?_, fun r u v hr hv => ?_, fun a u hr => ?_⟩,
      fun hw hk hl => ⟨fun u p ho hr hp => ?_, fun g u h1 h2 hr => ends hw (.inr hk) (endMove_gfetch_fails hk hl h1 h2 hr)⟩⟩
    · subst hp
      exact ends hw (.inl hk) (endMove_fetch_tile hk hl hr)
    · have faulted := endMove_fetch_bad hk hl hr hv
      refine ⟨fun h0 hs => ends hw (.inl hk) (faulted.trans ((endSealFault_plain h0 r).trans ?_)),
        fun h0 hs => ends hw (.inl hk) (faulted.trans ((endSealFault_plain h0 r).trans ?_)),
        fun h0 => ends hw (.inl hk) (faulted.trans (endSealFault_classed h0 r))⟩
      · rw [stopMove_running hs]
      · rw [stopMove_stopped hs]
    · have failed := endMove_fetch_lost hk hl hr
      refine ⟨fun h0 hs => ends hw (.inl hk) (failed.trans ((endLost_plain h0 a).trans ?_)),
        fun h0 => ends hw (.inl hk) (failed.trans (endLost_classed h0 a))⟩
      rw [stopMove_running hs]
    · subst ho hp
      exact ends hw (.inr hk) (endMove_gfetch_lands hk hl hr)
  · refine ⟨fun u bs want ha h2 hu hb1 hb2 hbs hwant => ?_, fun r ha h2 hc hr => ⟨fun hrec => ?_, fun hrec he => ?_⟩,
      fun ha => ⟨fun hst => (readSource_away hsh ha).trans (readAwayTile_failed hst),
        fun hst h7 he => (readSource_away hsh ha).trans (readAwayTile_good hst h7 he)⟩⟩
    · subst hbs hwant
      have read (here : Bool) := (readSource_memory (unit := unit) (here := here) hsh ha h2).trans (readMemTile_arrived hu hb1 hb2)
      exact ⟨fun he => (read here).trans (arrives_good he m.src here), fun he => (read true).trans (sealCheck_bad he m.src)⟩
    · exact (readSource_slots hsh ha h2).trans (readSlotTile_unsealed hc hr hrec)
    · exact (readSource_slots hsh ha h2).trans ((readSlotTile_sealed hc hr hrec).trans (arrives_good he m.src true))
  · have passes := (onUnit_exists hn _).trans (congrArg Host.Outcome.next (fetchDeadline_passes hf hd))
    exact ⟨fun h => passes.trans (congrArg _ (if_neg (by rcases h with h | h <;> simp [h]))), fun hk ha => passes.trans (congrArg _ (if_pos ⟨hk, ha⟩))⟩
  · refine ⟨fun o hm ha f hfun => ?_, fun hk ha => ?_, fun o hk hwr => ⟨fun hl ha => ?_, fun bs crc u hr => ⟨fun ha hl he hc hd => ?_, fun m' ha hm' => ?_⟩,
      fun a u hl hr => ?_⟩, fun hk => ?_, fun hk => ?_⟩
    · have answered := exec_moveEnd_answered (o := o) hn hf hw hm ha hfun
      rw [endAway_eq] at answered
      refine ⟨fun hlate => ?_, fun hlate => ⟨fun hst => ?_, fun hst => ?_⟩⟩
      · rwa [if_pos hlate] at answered
      · rwa [if_neg (by simp [hlate]), if_pos hst] at answered
      · rwa [if_neg (by simp [hlate]), if_neg hst] at answered
    · have ends {o : MoveOutcome} {t : State} (h : endMove s n m o = t) : exec (.moveEnd n id o) s = .next t :=
        exec_moveEnd_plain hn hf hw (.inr ha) h
      refine ⟨fun crc hcrc he hc hd => ?_, ends (endMove_store_failed hk ha), ?_⟩
      · subst hcrc
        exact ends ((endMove_store hk ha (by decide) (by decide) (by decide)).trans (endWriteTile_lands hsh he hc hd))
      · subst hsh
        exact ends (endMove_store_uncorrectable hk ha)
    · exact exec_moveEnd_plain hn hf hw (.inr ha) (endMove_movem_late hk hwr hl ha)
    · refine exec_moveEnd_plain hn hf hw (.inr ha) ((endMove_movem_tile hk hwr (.inl hl) hr).trans ?_)
      rw [if_neg (by simp [ha]), endWriteTile_lands hsh he hc hd]
    · subst hm' hsh
      exact exec_moveEnd_pumped hn hf hw hk ha ((endMove_movem_tile hk hwr (.inr ha) hr).trans (if_pos ha))
    · have lost := endMove_movem_lost hk hwr hl hr
      cases ha : isAway s m.dst
      · exact exec_moveEnd_plain hn hf hw (.inr ha) lost
      · exact exec_moveEnd_pumped hn hf hw hk ha lost
    · have ends {t : State} (h : endMove s n m .arrived = t) : exec (.moveEnd n id .arrived) s = .next t :=
        exec_moveEnd_plain hn hf hw (.inl (by simp [hk])) h
      exact ⟨fun hr => ⟨fun hst => ends ((endMove_atom_remote hk hr).trans (if_pos hst)),
          fun hst => ends ((endMove_atom_remote hk hr).trans (if_neg hst))⟩,
        fun old u hr hb hat => ends (endMove_atom_here hk hr hb hat)⟩
    · have ends {t : State} (h : endMove s n m .arrived = t) : exec (.moveEnd n id .arrived) s = .next t :=
        exec_moveEnd_plain hn hf hw (.inl (by simp [hk])) h
      exact ⟨fun hr => ends (endMove_msg_remote hk hr), fun hr => ⟨fun u hd => ends (endMove_msg_delivered hk hr hd),
        fun hd => ends (endMove_msg_full hk hr hd)⟩⟩

end Sys2Proof.Machine
end

section
/-! SUPPORT. The sequencer: an entry starts, its returns are asked for, its instances are dispatched and end
(10_pipeline_sequencer.md, R233 to R241; 04_cores_tile_store_seals.md, R108). -/

namespace Sys2Proof.Machine

variable {s t : State} {i n : Nat} {e : Entry} {x : EntryState}

/-! ### Rows about no entry, or with no step walking -/

/-- What the rows of an entry do where the walk has no such entry or no step is walked. -/
theorem entryRows_idle (h : s.job.pairs[i]? = none ∨ walking s = false) :
    tryStart s i = s ∧ wLatestStart s i = s ∧ returnRequest s i = s ∧ dispatch s i = s := by
  rcases hp : s.job.pairs[i]? with _ | ⟨e, x⟩
  · simp only [tryStart, wLatestStart, returnRequest, dispatch, hp, and_self]
  · have hw : walking s = false := h.resolve_left (by simp [hp])
    refine ⟨?_, ?_, ?_, ?_⟩
    · simp only [tryStart, hp, hw, Bool.not_false, Bool.true_or, if_true]
    · simp only [wLatestStart, hp, hw, Bool.false_and, Bool.false_eq_true, if_false]
    · simp only [returnRequest, hp, hw, Bool.false_and, Bool.false_eq_true, if_false]
    · simp only [dispatch, hp, hw, Bool.false_and, Bool.false_eq_true, if_false]
      split
      · split <;> rfl
      · rfl

/-- An entry that has started is not started again, and asks for no returns. -/
theorem startRows_notPending (hp : s.job.pairs[i]? = some (e, x)) (hx : x.phase ≠ .pending) :
    tryStart s i = s ∧ wLatestStart s i = s ∧ returnRequest s i = s := by
  refine ⟨?_, ?_, ?_⟩
  · simp only [tryStart, hp, hx, ne_eq, not_false_eq_true, decide_true, Bool.or_true, if_true]
  · simp only [wLatestStart, hp, hx, decide_false, Bool.and_false, Bool.false_and, Bool.false_eq_true, if_false]
  · simp only [returnRequest, hp, hx, decide_false, Bool.and_false, Bool.false_and, Bool.false_eq_true, if_false]

section
variable (hp : s.job.pairs[i]? = some (e, x)) (hw : walking s = true)
include hp hw

/-! ### The start of an entry (R233, R241, R445) -/

section
variable (hx : x.phase = .pending)
include hx

theorem tryStart_pending : tryStart s i =
    if (liveCores s e.group).isEmpty = true then failEntry s i else if startsNow s i e = true then startEntry s i e x else s := by
  simp only [tryStart, hp, hw, hx, Bool.not_true, ne_eq, not_true_eq_false, decide_false, Bool.or_self, Bool.false_eq_true, if_false]

theorem wLatestStart_eligible (h3 : e.kind = 3) (he : eligible s i e = true) :
    wLatestStart s i = tryStart (advance s (latestStart s i e)) i := by
  simp only [wLatestStart, hp, hw, hx, h3, he, decide_true, Bool.and_self, if_true]

theorem returnRequest_pending {u : State} (hu : u = advance s (predStart s i e - e.leadUs * 1000)) : returnRequest s i =
    if wantsReturns s e x = true then
      if predStart u i e ≤ u.time + e.leadUs * 1000 then issueReturns u i e (predStart u i e) else u
    else s := by
  subst hu
  simp only [returnRequest, hp, hw, hx, decide_true, Bool.and_self, Bool.true_and]

end

/-! ### Dispatch (R234) -/

/-- The next instance of a started entry that is the first of its group to have one goes to the lowest idle core. -/
theorem dispatch_launches {cores : List Nat} {k : Nat} {inst : Inst} {p : Program} {l : Launch} {u : State}
    (hc : cores = liveCores s e.group) (hx : x.phase = .started)
    (hfirst : ∀ q ∈ s.job.pairs, ¬(q.1.group = e.group ∧ q.2.phase = .started ∧ q.2.order < x.order ∧ hasPending q.2 = true))
    (hn : cores.find? (fun n => (coreAt s n).launch.isNone) = some n) (hk : x.insts.findIdx? (fun k => k.phase = .pending) = some k)
    (hi : x.insts[k]? = some inst) (hprog : findProg s (if inst.cheap then e.recompute else e.program) = some p)
    (hu : u = if inst.cheap then stepCount s 3 else s)
    (hl : l = instanceLaunch u i k (cores.findIdx fun c => c = n) cores.length e x inst p) :
    dispatch s i = launchCore (setEntry u i fun x => { x with insts := x.insts.set k { inst with phase := .running n } }) n p l := by
  subst hc hu hl
  have first : (s.job.pairs.all fun p => !(p.1.group = e.group && p.2.phase = .started && p.2.order < x.order && hasPending p.2)) = true := by
    rw [List.all_eq_true]
    intro q hq
    simp only [Bool.not_eq_true', ← Bool.not_eq_true, Bool.and_eq_true, decide_eq_true_eq, and_assoc]
    exact hfirst q hq
  have found : x.insts.getD k ⟨.pending, false, false, [], []⟩ = inst := by rw [List.getD_eq_getElem?_getD, hi]; rfl
  simp only [dispatch, hp, hw, hn, hk, found, hprog, hx, first, decide_true, Bool.and_self, if_true]

/-! ### The end of an instance (R239) -/

/-- The report of a core that runs an instance of a started entry is taken by the sequencer. -/
theorem instanceEnd_takes {l : Launch} {k code : Nat} {y : Inst} {stopped : Bool} (hl : (coreAt s n).launch = some l) (hs : l.sched = some i)
    (hk : k = l.number % 65536) (hx : x.phase = .started) (hy : x.insts[k]? = some y) (hr : y.phase = .running n)
    (he : (coreAt s n).ending = some (stopped, code)) : instanceEnd s n = endInstance (clearLaunch s n) i k l stopped code e := by
  subst hk
  have hp' : (clearLaunch s n).job.pairs[i]? = some (e, x) := hp
  have hw' : walking (clearLaunch s n) = true := hw
  simp only [instanceEnd, hl, he, hs, hp', hw', hx, hy, hr, Option.any_some, decide_true, Bool.and_self, if_true]

end

/-- Instance `k` of entry `i` after a launch of it has ended: its pairs kept, then changed by `f` (R201, R239). -/
def putInstance (s : State) (i k : Nat) (l : Launch) (f : Inst → Inst) : State :=
  setEntry s i fun x => { x with insts := x.insts.modify k fun y => f (y.keeping l) }

section
variable {l : Launch} {k code : Nat}

theorem endInstance_ended (h : code ≠ 1) : endInstance t i k l false code e =
    settleEntry (putInstance t i k l fun y => { y with phase := .done }) i := by
  simp only [endInstance, h, Bool.not_false, if_true, if_false, putInstance]

/-- A launch that ends with code 1 asks for the cheaper path, which there is once. -/
theorem endInstance_dear : endInstance t i k l false 1 e = if (l.cheaper || e.recompute = 0xFFFF) = true then failEntry t i
    else putInstance t i k l fun y => { y with phase := .pending, cheap := true } := by
  simp only [endInstance, Bool.not_false, if_true, putInstance]

variable {y : Inst} (hp : t.job.pairs[i]? = some (e, x)) (hy : x.insts[k]? = some y)
include hp hy

theorem walk_again : ((t.job.walk[i]?).bind fun x => x.insts[k]?).any (·.again) = y.again := by
  obtain ⟨-, hwalk⟩ := List.getElem?_zip_eq_some.1 hp
  rw [hwalk]
  exact congrArg (Option.any _) hy

theorem endInstance_fails (h : code ≠ 0 ∨ y.again = true) : endInstance t i k l true code e = failEntry t i := by
  simp only [endInstance, walk_again hp hy, Bool.not_true, Bool.false_eq_true, if_false]
  exact if_pos (by rcases h with h | h <;> simp [h])

/-- A fault is retried once, in the same place unless the launch cannot start anew (R108). -/
theorem endInstance_faulted (h : y.again = false) : endInstance t i k l true 0 e = if l.bound = true then
      settleEntry (setEntry (putInstance t i k l fun y => { y with phase := .failed }) i fun x => { x with broken := true }) i
    else putInstance t i k l fun y => { y with phase := .pending, again := true } := by
  simp only [endInstance, walk_again hp hy, h, Bool.not_true, Bool.false_eq_true, if_false, ne_eq, not_true_eq_false, decide_false,
    Bool.or_self, putInstance]

end

/-! ### What a start comes to, and how an entry settles (R234, R238, R242) -/

section
variable {m u : State} (hm : m = markEntry s i e) (hu : u = if firstUpdate s e then noteUpdate m m.job.step else m)
include hm hu

theorem startEntry_eq : startEntry s i e x = if atOnce s e = true then completeEntry u i
    else if e.kind = 5 then startCollective u (e.program % 4096) i
    else setEntry (if wantsReturns u e x then issueReturns u i e u.time else u) i fun x =>
      { x with insts := List.replicate e.instances ⟨.pending, false, false, [], []⟩ } := by
  subst hm hu
  rfl

end

theorem settleEntry_ended (hp : s.job.pairs[i]? = some (e, x)) (hx : x.phase = .started) (ha : x.insts.all instEnded = true) :
    settleEntry s i = if x.broken = false then completeEntry s i else if bit e.flags 2 = true ∨ x.rerun = true then failEntry s i
      else setEntry s i fun x => { x with
        broken := false, rerun := true, insts := x.insts.map fun k => { k with phase := .pending, cheap := false, again := false } } := by
  simp only [settleEntry, hp, hx, ha, ne_eq, not_true_eq_false, decide_false, Bool.not_true, Bool.or_self, Bool.false_eq_true, if_false,
    Bool.not_eq_true', Bool.or_eq_true]

/-- Settles O38: each row by what it does on an entry of the walk, a start and a settling by their cases. -/
theorem sequencerMovesOn : Obligations.SequencerMovesOn := by
  refine ⟨fun s i h => ?_, fun s i e x hp hw => ⟨fun hx => ⟨fun hg hs => ?_, fun hg hs => ?_, fun hg => ?_, fun h3 he => ?_, fun u hr hu => ?_, fun hr => ?_⟩,
      fun hx => ?_, fun cores n k inst p l hc hx hfirst hn hk hi hprog hl => ?_, fun n l k y t put hn hl hs hk hx hy hr ht hput => ?_⟩,
    fun s i e x m u hm hu => ⟨fun h => ?_, fun h h5 => ?_, fun h h5 => ?_⟩, fun s i e x hp hx ha => ⟨fun hb => ?_, fun hb hf => ?_, fun hb hf hr => ?_⟩⟩
  · obtain ⟨start, latest, returns, next⟩ := entryRows_idle h
    exact ⟨congrArg _ start, congrArg _ latest, congrArg _ returns, congrArg _ next⟩
  · exact congrArg _ ((tryStart_pending hp hw hx).trans ((if_neg (by simp [hg])).trans (if_pos hs)))
  · exact congrArg _ ((tryStart_pending hp hw hx).trans ((if_neg (by simp [hg])).trans (if_neg (by simp [hs]))))
  · exact congrArg _ ((tryStart_pending hp hw hx).trans (if_pos hg))
  · exact congrArg _ (wLatestStart_eligible hp hw hx h3 he)
  · exact congrArg _ ((returnRequest_pending hp hw hx hu).trans (if_pos hr))
  · exact congrArg _ ((returnRequest_pending hp hw hx rfl).trans (if_neg (by simp [hr])))
  · obtain ⟨start, latest, returns⟩ := startRows_notPending hp hx
    exact ⟨congrArg _ start, congrArg _ latest, congrArg _ returns⟩
  · exact congrArg _ (dispatch_launches hp hw hc hx hfirst hn hk hi hprog rfl hl)
  · subst ht hput
    have ended {stopped : Bool} {code : Nat} {u : State} (he : (coreAt s n).ending = some (stopped, code))
        (hu : endInstance (clearLaunch s n) i k l stopped code e = u) : exec (.instanceEnd n) s = .next u :=
      (onUnit_exists hn _).trans (congrArg _ ((instanceEnd_takes hp hw hl hs hk hx hy hr he).trans hu))
    have hp' : (clearLaunch s n).job.pairs[i]? = some (e, x) := hp
    refine ⟨fun code hc he => ended he (endInstance_ended hc), fun he => ⟨fun hch hre => ?_, fun h => ?_⟩,
      fun he hag => ⟨fun hb => ?_, fun hb => ?_⟩, fun code h he => ended he (endInstance_fails hp' hy h)⟩
    · exact ended he (endInstance_dear.trans (if_neg (by simp [hch, hre])))
    · exact ended he (endInstance_dear.trans (if_pos (by simpa using h)))
    · exact ended he ((endInstance_faulted hp' hy hag).trans (if_neg (by simp [hb])))
    · exact ended he ((endInstance_faulted hp' hy hag).trans (if_pos hb))
  · exact (startEntry_eq hm hu).trans (if_pos h)
  · exact (startEntry_eq hm hu).trans ((if_neg (by simp [h])).trans (if_pos h5))
  · exact (startEntry_eq hm hu).trans ((if_neg (by simp [h])).trans (if_neg h5))
  · exact (settleEntry_ended hp hx ha).trans (if_pos hb)
  · exact (settleEntry_ended hp hx ha).trans ((if_neg (by simp [hb])).trans (if_pos hf))
  · exact (settleEntry_ended hp hx ha).trans ((if_neg (by simp [hb])).trans (if_neg (by simp [hf, hr])))

end Sys2Proof.Machine
end


section
/-! SUPPORT. What a source makes of the answers to its transactions, and what time does to those that get none (13_ewete_fabric.md,
R304 to R327), and O46. -/

namespace Sys2Proof.Machine

/-! ### An answer comes (R308 to R312, R325) -/

/-- An answer that no transaction waits for is counted as late. -/
theorem onAnswer_late {u : State} {p : Packet} {kind : Option TxKind} {k : Tx → State} (h : answered u p kind = none) :
    onAnswer u p kind k = countUp u 22 1 := by
  simp [onAnswer, h, cLate]

/-- An answer goes to the transaction that waits for it. -/
theorem onAnswer_of_answered {u : State} {p : Packet} {kind : Option TxKind} {k : Tx → State} {t : Tx}
    (h : answered u p kind = some t) : onAnswer u p kind k = k t := by
  simp [onAnswer, h]

/-- An answer that arrives in order and that no transaction waits for is counted, and nothing else changes. -/
theorem arrive_onAnswer_late {s : State} {p : Packet} {ty : Byte} {kind : Option TxKind} {k : State → Tx → State}
    (ha : Arrives s p ty) (h : answered (taken s p) p kind = none) :
    arrive ty p (fun s => onAnswer s p kind (k s)) s = .next (countUp (taken s p) 22 1) := by
  rw [arrive_serves ha, onAnswer_late h]

/-- An answer that arrives in order goes to its transaction, on the state without the packet. -/
theorem arrive_onAnswer {s : State} {p : Packet} {ty : Byte} {kind : Option TxKind} {k : State → Tx → State} {t : Tx}
    (ha : Arrives s p ty) (h : answered (taken s p) p kind = some t) :
    arrive ty p (fun s => onAnswer s p kind (k s)) s = .next (k (taken s p) t) := by
  rw [arrive_serves ha, onAnswer_of_answered h]

/-- The answers of a read, a write, an atomic or a message, and ERR, that no transaction waits for. -/
theorem lateAnswers_counted {s : State} {p : Packet} {u : State} (hu : u = taken s p) :
    (Arrives s p 0x02 → answered u p (some .read) = none → exec (.rdData p) s = .next (countUp u 22 1)) ∧
    (Arrives s p 0x04 → answered u p (some .write) = none → exec (.wrAck p) s = .next (countUp u 22 1)) ∧
    (Arrives s p 0x06 → answered u p (some .atomic) = none → exec (.atResp p) s = .next (countUp u 22 1)) ∧
    (Arrives s p 0x08 → answered u p (some .message) = none → exec (.msgAck p) s = .next (countUp u 22 1)) ∧
    (Arrives s p 0x09 → answered u p none = none → exec (.err p) s = .next (countUp u 22 1)) := by
  rw [hu]
  exact ⟨fun ha h => arrive_onAnswer_late (k := fun s => takeData s p) ha h,
    fun ha h => arrive_onAnswer_late (k := fun s => takeWrAck s p) ha h,
    fun ha h => arrive_onAnswer_late (k := fun s t => endTx s t p.status (p.payload.take 8) 0) ha h,
    fun ha h => arrive_onAnswer_late (k := fun s => takeMsgAck s p) ha h,
    fun ha h => arrive_onAnswer_late
      (k := fun s t => endTx s t (if p.status = rOk then rMalformed else p.status) [] 0) ha h⟩

/-! ### RD_DATA (R104, R308) -/

section Data
variable {u : State} {p : Packet} {t : Tx} {got bs : List Byte}

/-- A read that the destination refuses ends with its status. -/
theorem takeData_refused (h : p.status ≠ 0) : takeData u p t = endTx u t p.status [] 0 := by
  simp [takeData, rOk, h]

/-- Data that is not yet whole is kept. -/
theorem takeData_partial (h : p.status = 0) (hg : got = t.got ++ p.payload) (hl : got.length < 64 * t.total) :
    takeData u p t = setTx u t.id fun t => { t with got := got } := by
  subst hg
  simp only [takeData, rOk, h, ne_eq, not_true_eq_false, if_false, if_pos hl]

/-- Whole data ends its read where it is fine: not sealed, from a T7 or in agreement with its seal; otherwise the read goes
again, and ends as it came the second time. -/
theorem takeData_whole (h : p.status = 0) (hg : got = t.got ++ p.payload) (hl : 64 * t.total ≤ got.length)
    (hb : bs = got.take (64 * t.total)) :
    takeData u p t =
      if t.sealed = false ∨ isT7 u t.dst = true ∨ sealOf (shapeOf t.shape) bs = p.spec0 then endTx (countRetry u t) t 0 bs p.spec0
      else if t.resent = false then repeatTx u t true else endTx u t 0 bs p.spec0 := by
  subst hg hb
  simp only [takeData, rOk, h, ne_eq, not_true_eq_false, if_false, if_neg (Nat.not_lt.mpr hl)]
  by_cases hf : t.sealed = false ∨ isT7 u t.dst = true ∨ sealOf (shapeOf t.shape) ((t.got ++ p.payload).take (64 * t.total)) = p.spec0
  · have hfine : (!t.sealed || isT7 u t.dst ||
        decide (sealOf (shapeOf t.shape) ((t.got ++ p.payload).take (64 * t.total)) = p.spec0)) = true := by
      simpa [or_assoc] using hf
    simp [hf, hfine]
  · have hfine : (!t.sealed || isT7 u t.dst ||
        decide (sealOf (shapeOf t.shape) ((t.got ++ p.payload).take (64 * t.total)) = p.spec0)) = false := by
      simpa [and_assoc] using hf
    simp [hf, hfine]

end Data

/-- What an RD_DATA does to the read it answers. -/
theorem rdData_answers {s : State} {p : Packet} {u : State} {t : Tx} {got bs : List Byte} (hu : u = taken s p)
    (ha : Arrives s p 0x02) (ht : answered u p (some .read) = some t) (hg : got = t.got ++ p.payload)
    (hb : bs = got.take (64 * t.total)) :
    (p.status ≠ 0 → exec (.rdData p) s = .next (endTx u t p.status [] 0)) ∧
    (p.status = 0 → got.length < 64 * t.total → exec (.rdData p) s = .next (setTx u t.id fun t => { t with got := got })) ∧
    (p.status = 0 → 64 * t.total ≤ got.length →
      (t.sealed = false ∨ isT7 u t.dst = true → exec (.rdData p) s = .next (endTx (countRetry u t) t 0 bs p.spec0)) ∧
      (t.sealed = true → isT7 u t.dst = false →
        (sealOf (shapeOf t.shape) bs = p.spec0 → exec (.rdData p) s = .next (endTx (countRetry u t) t 0 bs p.spec0)) ∧
        (sealOf (shapeOf t.shape) bs ≠ p.spec0 → t.resent = false → exec (.rdData p) s = .next (repeatTx u t true)) ∧
        (sealOf (shapeOf t.shape) bs ≠ p.spec0 → t.resent = true → exec (.rdData p) s = .next (endTx u t 0 bs p.spec0)))) := by
  have he : exec (.rdData p) s = .next (takeData u p t) := by
    rw [hu] at ht ⊢
    exact arrive_onAnswer (k := fun s => takeData s p) ha ht
  rw [he]
  refine ⟨fun h => by rw [takeData_refused h], fun h hl => by rw [takeData_partial h hg hl], fun h hl => ?_⟩
  rw [takeData_whole h hg hl hb]
  refine ⟨fun hf => ?_, fun hs h7 => ⟨fun hc => ?_, fun hc hr => ?_, fun hc hr => ?_⟩⟩
  · rw [if_pos (hf.imp_right Or.inl)]
  · rw [if_pos (.inr (.inr hc))]
  · simp [hs, h7, hc, hr]
  · simp [hs, h7, hc, hr]

/-! ### WR_ACK, AT_RESP, MSG_ACK and ERR (R309 to R312) -/

/-- A write goes again at once on the first RESEND, later on BUSY, and ends on any other answer. -/
theorem takeWrAck_cases (u : State) (p : Packet) (t : Tx) :
    (p.status = 0 → takeWrAck u p t = endTx (countRetry u t) t 0 [] t.crc) ∧
    (p.status = 1 → t.resent = false → takeWrAck u p t = repeatTx u t true) ∧
    (p.status = 7 → takeWrAck u p t = waitAgain u t .busy 2000) ∧
    (p.status ≠ 0 → (p.status = 1 → t.resent = true) → p.status ≠ 7 → takeWrAck u p t = endTx u t p.status [] t.crc) := by
  refine ⟨fun h => ?_, fun h hr => ?_, fun h => ?_, fun h0 h1 h7 => ?_⟩
  · simp [takeWrAck, rResend, rBusy, rOk, h]
  · simp [takeWrAck, rResend, h, hr]
  · simp [takeWrAck, rResend, rBusy, h]
  · have hr : ¬ (decide (p.status = rResend) && !t.resent) = true := by
      simp only [Bool.and_eq_true, decide_eq_true_eq, Bool.not_eq_true', not_and, Bool.not_eq_false]
      exact h1
    have hok : ¬ p.status = rOk := h0
    have hbusy : ¬ p.status = rBusy := h7
    rw [takeWrAck, if_neg hr, if_neg hbusy, if_neg hok]

/-- What the answers of a write, an atomic and a message, and ERR, do to the transaction they answer. -/
theorem answers_end {s : State} {p : Packet} {u : State} {t : Tx} (hu : u = taken s p) :
    (Arrives s p 0x04 → answered u p (some .write) = some t →
      (p.status = 0 → exec (.wrAck p) s = .next (endTx (countRetry u t) t 0 [] t.crc)) ∧
      (p.status = 1 → t.resent = false → exec (.wrAck p) s = .next (repeatTx u t true)) ∧
      (p.status = 7 → exec (.wrAck p) s = .next (waitAgain u t .busy 2000)) ∧
      (p.status ≠ 0 → (p.status = 1 → t.resent = true) → p.status ≠ 7 → exec (.wrAck p) s = .next (endTx u t p.status [] t.crc))) ∧
    (Arrives s p 0x06 → answered u p (some .atomic) = some t → exec (.atResp p) s = .next (endTx u t p.status (p.payload.take 8) 0)) ∧
    (Arrives s p 0x08 → answered u p (some .message) = some t →
      exec (.msgAck p) s = .next (if p.status = 6 then waitAgain u t .full 10000 else endTx u t p.status [] 0)) ∧
    (Arrives s p 0x09 → answered u p none = some t →
      exec (.err p) s = .next (endTx u t (if p.status = 0 then 9 else p.status) [] 0)) := by
  rw [hu]
  refine ⟨fun ha ht => ?_, fun ha ht => ?_, fun ha ht => ?_, fun ha ht => ?_⟩
  · have he : exec (.wrAck p) s = .next (takeWrAck (taken s p) p t) := arrive_onAnswer (k := fun s => takeWrAck s p) ha ht
    simpa only [he, Host.Outcome.next.injEq] using takeWrAck_cases (taken s p) p t
  · exact arrive_onAnswer (k := fun s t => endTx s t p.status (p.payload.take 8) 0) ha ht
  · exact arrive_onAnswer (k := fun s => takeMsgAck s p) ha ht
  · exact arrive_onAnswer (k := fun s t => endTx s t (if p.status = rOk then rMalformed else p.status) [] 0) ha ht

/-- A retry is counted where a sealed transaction went again. -/
theorem countRetry_eq (s : State) (t : Tx) :
    countRetry s t = if t.resent = true ∧ t.sealed = true then stepCount (countUp s 16 1) 10 else s := by
  simp only [countRetry, cSealRetry, Bool.and_eq_true]

/-! ### Time (R307, R310, R312, R314, R326, R327) -/

/-- A packet held too long leaves the egress queue or the ingress buffer that holds it. -/
theorem packetHoldExpiry_discards (s : State) (p : Packet) (u : State) :
    (∀ e, s.fab.egress.find? (fun e => e.2.2 = p) = some e → u = advance s (e.2.1 + 20000) →
      exec (.packetHoldExpiry p) s =
        .next (roomBack (fabCount { u with fab := { u.fab with egress := u.fab.egress.erase e } } 2 1) p)) ∧
    (∀ e, s.fab.egress.find? (fun e => e.2.2 = p) = none → s.fab.ingress.find? (fun e => e.2 = p) = some e → exec (.packetHoldExpiry p) s =
      .next (roomBack (fabCount (takeIngress (advance s (e.1 + 20000)) p) 2 1) p)) ∧
    (s.fab.egress.find? (fun e => e.2.2 = p) = none → s.fab.ingress.find? (fun e => e.2 = p) = none →
      exec (.packetHoldExpiry p) s = .next s) := by
  have he : exec (.packetHoldExpiry p) s = .next (packetExpires s p) := rfl
  rw [he, packetExpires]
  refine ⟨fun e hf hu => ?_, fun e hn hf => ?_, fun hn hf => ?_⟩
  · rw [hf, hu]
  · rw [hn, hf]
  · rw [hn, hf]

/-- A transaction without an answer ends by the time-out of its way, and one put aside goes again. -/
theorem waitingTx_timed {s : State} {n : Nat} {t : Tx} (h : findTx s n = some t) :
    exec (.fabricTimeout (.tx n)) s = .next (endTx (advance s (t.since.getD t.born +
      (if t.far = true ∨ isFar s t.dst = true then 25000000 else 2000000))) t 0xFFFF [] 0) ∧
    (t.wait = .busy → exec (.busyResend n) s = .next (tryTx (setTx (advance s t.retry) n fun t => { t with wait := .tag, got := [] }) n)) ∧
    (t.wait = .full → exec (.msgRetry n) s = .next (tryTx (setTx (advance s t.retry) n fun t => { t with wait := .tag, got := [] }) n)) ∧
    (t.wait ≠ .busy → exec (.busyResend n) s = .next s) ∧ (t.wait ≠ .full → exec (.msgRetry n) s = .next s) := by
  have hb : exec (.busyResend n) s = .next (sendAgain s n .busy) := rfl
  have hm : exec (.msgRetry n) s = .next (sendAgain s n .full) := rfl
  have hto : exec (.fabricTimeout (.tx n)) s = .next (fabricTimeout s n) := rfl
  have hl : (if t.far = true ∨ isFar s t.dst = true then 25000000 else 2000000) =
      if t.far then 25000000 else fabricLimit s t.dst := by
    cases t.far <;> simp [fabricLimit]
  rw [hb, hm, hto, hl]
  simp only [fabricTimeout, sendAgain, h, rTimeout, true_and]
  exact ⟨fun hw => by rw [if_pos hw], fun hw => by rw [if_pos hw], fun hw => by rw [if_neg hw], fun hw => by rw [if_neg hw]⟩

/-- Time says nothing to a transaction that has ended. -/
theorem endedTx_untimed {s : State} {n : Nat} (h : findTx s n = none) :
    exec (.fabricTimeout (.tx n)) s = .next s ∧ exec (.busyResend n) s = .next s ∧ exec (.msgRetry n) s = .next s := by
  have hb : exec (.busyResend n) s = .next (sendAgain s n .busy) := rfl
  have hm : exec (.msgRetry n) s = .next (sendAgain s n .full) := rfl
  have hto : exec (.fabricTimeout (.tx n)) s = .next (fabricTimeout s n) := rfl
  rw [hb, hm, hto]
  simp only [fabricTimeout, sendAgain, h, and_self]

/-- A write entry without a packet for 10 ms is released. -/
theorem writeEntryRelease_releases (s : State) (src tag : Word) :
    (∀ e t, s.fab.entries.find? (fun e => e.src = src && e.tag = tag) = some e → t = advance s (e.last + 10000000) →
      exec (.writeEntryRelease src tag) s =
        .next (fabCount { t with fab := { t.fab with entries := t.fab.entries.filter fun x => x ≠ e } } 5 1)) ∧
    (s.fab.entries.find? (fun e => e.src = src && e.tag = tag) = none → exec (.writeEntryRelease src tag) s = .next s) := by
  have he : exec (.writeEntryRelease src tag) s = execWriteEntryRelease src tag s := rfl
  rw [he, execWriteEntryRelease]
  refine ⟨fun e t hf ht => ?_, fun hf => ?_⟩
  · rw [hf, ht]
  · rw [hf]

/-- A sweep that may start opens the next generation; another changes nothing. -/
theorem tagSweepStart_opens {s : State} {d g : Nat} (hd : d < 3) (hg : g = ((domAt s d).gen + 1) % 16) :
    ((domAt s d).active = false → sweepOpen s d g = true → exec (.tagSweepStart d) s =
      .next (pumpTx (setDom s d fun x => { x with active := true, gen := g, next := 0, gens := x.gens.set g (0, 0) }))) ∧
    ((domAt s d).active = true ∨ sweepOpen s d g = false → exec (.tagSweepStart d) s = .next s) := by
  have he : exec (.tagSweepStart d) s = onUnit d 3 (.next (tagSweepStart s d)) := rfl
  rw [he, onUnit_exists hd, tagSweepStart, ← hg]
  refine ⟨fun ha ho => ?_, fun h => ?_⟩
  · simp [ha, ho]
  · rw [if_pos (by simpa using h)]

/-- A T7 tag leaves its quarantine when the time of it has passed. -/
theorem t7TagQuarantineEnd_frees {s : State} {d : Nat} (tag : Nat) (hd : d < 3) :
    (∀ q, (domAt s d).quar.find? (fun q => q.1 = tag) = some q → exec (.t7TagQuarantineEnd d tag) s =
      .next (pumpTx (setDom (advance s (q.2.1 + q.2.2 + 1)) d fun x => { x with quar := x.quar.filter fun y => y.1 ≠ tag }))) ∧
    ((domAt s d).quar.find? (fun q => q.1 = tag) = none → exec (.t7TagQuarantineEnd d tag) s = .next s) := by
  have he : exec (.t7TagQuarantineEnd d tag) s = onUnit d 3 (.next (t7TagEnds s d tag)) := rfl
  rw [he, onUnit_exists hd, t7TagEnds]
  exact ⟨fun q hf => by rw [hf], fun hf => by rw [hf]⟩

/-- Settles O46: an answer that arrives in order goes to the transaction that waits for it, or is counted as late; each kind of answer
and each time limit then has its own lemma above. -/
theorem answersEndTransactions : Obligations.AnswersEndTransactions := by
  unfold Obligations.AnswersEndTransactions
  exact ⟨fun _ _ _ hu => lateAnswers_counted hu, fun _ _ _ _ _ _ hu ha ht hg hb => rdData_answers hu ha ht hg hb,
    fun _ _ _ _ hu => answers_end hu, countRetry_eq, fun _ _ _ _ => rfl, packetHoldExpiry_discards,
    fun _ _ _ h => waitingTx_timed h, fun _ _ h => endedTx_untimed h, fun _ _ _ => ⟨rfl, fun _ => rfl⟩,
    writeEntryRelease_releases, fun _ _ _ hd hg => tagSweepStart_opens hd hg, fun _ _ tag hd => t7TagQuarantineEnd_frees tag hd⟩

end Sys2Proof.Machine
end

section
/-! SUPPORT. The matrix engine: what MMUL, MLOAD, MSTORE and XPOSE do once their operands are in order
(05_matrix_engine.md, R110 to R117; 08_tile_program_isa.md, R187). -/

namespace Sys2Proof.Machine

variable {i : Ctx}

/-! ### MMUL (R110, R111, R115) -/

section
variable {sa sb : Shape} {tn : Bool} {k m n pa pb : Nat} (hsa : sa = i.shape (i.f 51 48)) (hsb : sb = i.shape (i.f 47 44))
  (htn : tn = decide (i.f 55 55 = 1)) (hk : k = if tn then sa.rows else sa.cols) (hm : m = if tn then sa.cols else sa.rows)
  (hn : n = if tn then sb.cols else sb.rows) (hpa : pa = i.slot (i.f 43 31) (i.f 17 14)) (hpb : pb = i.slot (i.f 30 18) (i.f 13 10))
  (oka : shapeOk sa = true) (okb : shapeOk sb = true) (forma : matrixForm tn sa = true) (formb : matrixForm tn sb = true)
  (hkb : k = if tn then sb.rows else sb.cols) (freea : i.Free pa (tileSlots sa.fmt 0)) (freeb : i.Free pb (tileSlots sb.fmt 0))
  (holdsa : i.HoldsExactly pa sa) (holdsb : i.HoldsExactly pb sb)
include hsa hsb htn hk hm hn hpa hpb oka okb forma formb hkb freea freeb holdsa holdsb

/-- With its operands in order MMUL looks only at the accumulator: it multiplies over zero, or over an open accumulator of the product's
extents. -/
theorem mmulBody_operands : mmulBody i = (i.acc (i.f 53 52)).elim
    (if i.f 54 54 = 1 then mmulBody.run i tn sa sb pa pb (i.f 53 52) m n k (i.f 54 54 = 1) [] else .fault fAcc (i.f 53 52) none)
    fun t => if i.f 54 54 = 1 ∨ t.rows = m ∧ t.cols = n then
        mmulBody.run i tn sa sb pa pb (i.f 53 52) m n k (i.f 54 54 = 1) t.el
      else .fault fAcc (i.f 53 52) none := by
  have fits : matrixForm tn sa = true ∧ matrixForm tn sb = true ∧
      (if tn then sa.rows else sa.cols) = if tn then sb.rows else sb.cols := ⟨forma, formb, hk.symm.trans hkb⟩
  subst hsa hsb hk hm hn hpa hpb htn
  simp only [decide_eq_true_eq] at fits ⊢
  simp only [mmulBody, withShape_ok oka, withShape_ok okb, fits, operand_free freea, operand_free freeb,
    check_exactly holdsa, check_exactly holdsb]
  cases i.acc (i.f 53 52) <;> rfl

theorem mmulBody_multiplies {old : Elems} (hold : i.f 54 54 = 1 ∧ (i.acc (i.f 53 52)).elim [] (·.el) = old ∨
    i.f 54 54 = 0 ∧ i.acc (i.f 53 52) = some ⟨m, n, old⟩) :
    mmulBody i = mmulBody.run i tn sa sb pa pb (i.f 53 52) m n k (i.f 54 54 = 1) old := by
  rw [mmulBody_operands hsa hsb htn hk hm hn hpa hpb oka okb forma formb hkb freea freeb holdsa holdsb]
  rcases hold with ⟨zero, rfl⟩ | ⟨-, hacc⟩
  · cases i.acc (i.f 53 52)
    · exact if_pos zero
    · exact if_pos (.inl zero)
  · rw [hacc]
    exact if_pos (.inr ⟨rfl, rfl⟩)

end

/-! ### MLOAD and MSTORE (R115, R117) -/

section
variable {p : Nat} (hp : p = i.slot (i.f 43 31) (i.f 17 14))
include hp

theorem mloadBody_loads {sh : Shape} (hsh : sh = i.shape (i.f 51 48)) (hok : shapeOk sh = true) (hf : sh.fmt = 0) (hk : sh.kind = 0)
    (ho : sh.order = 0) (hb : sh.block = 0) (hfree : i.Free p 128) (hh : i.HoldsExactly p sh) : mloadBody i =
      .done (putAcc (readSlots i.s i.n p 128) i.n (i.f 53 52) ⟨sh.rows, sh.cols, tileWords (i.tile p sh)⟩) := by
  subst hsh hp
  rw [mloadBody, withShape_ok hok, if_neg (not_not.2 ⟨hf, hk, ho, hb⟩)]
  exact (operand_free hfree).trans (check_exactly hh)

variable (hfree : i.Free p 128)
include hfree

theorem mstoreBody_stores {a : Acc} {sh : Shape} {bs : List Byte} (hacc : i.acc (i.f 53 52) = some a) (hsh : sh = f32Shape a.rows a.cols)
    (hbs : bs = wordsTile a.rows a.cols fun r c => el a.el (128 * r + c)) : mstoreBody i =
      .done (nfWrite i (storeTile i.s i.n p sh bs) uMatrix (tileAddr i.n (512 * p)) (tileHits sh bs.toArray)) := by
  subst hp hsh hbs
  rw [mstoreBody, operand_free hfree, hacc]
  simp only [getD_toArray_eq_el]

theorem mstoreBody_closed (hacc : i.acc (i.f 53 52) = none) : mstoreBody i = .fault fAcc (i.f 53 52) none := by
  subst hp
  rw [mstoreBody, operand_free hfree, hacc]

end

/-! ### XPOSE (R114) -/

theorem xposeBody_transposes {sh : Shape} {p q n : Nat} {bs : List Byte} (hsh : sh = i.shape (i.f 51 48))
    (hp : p = i.slot (i.f 43 31) (i.f 17 14)) (hq : q = i.slot (i.f 30 18) (i.f 13 10)) (hn : n = tileSlots sh.fmt 0)
    (hok : shapeOk sh = true) (hfmt : fmtOk sh.fmt = true) (hk : sh.kind = 0) (ho : sh.order = 0) (apart : overlap p n q n = false)
    (freep : i.Free p n) (freeq : i.Free q n) (hh : i.HoldsExactly p sh) (hbs : bs = transposeTile sh (i.tile p sh)) : xposeBody i =
      .done (nfWrite i (storeTile (readSlots i.s i.n p n) i.n q (transposeShape sh) bs) uMatrix (tileAddr i.n (512 * q))
        (tileHits (transposeShape sh) bs.toArray)) := by
  subst hn hbs hp hq hsh
  rw [xposeBody, withShape_ok hok]
  refine Eq.trans (if_neg (not_or.2 ⟨not_not.2 ⟨hfmt, hk, ho⟩, Bool.eq_false_iff.1 apart⟩)) ?_
  exact (operand_free freep).trans ((operand_free freeq).trans (check_exactly hh))

/-- Settles O26: each instruction by what its body does once its operands are in order, MMUL by what its accumulator holds. -/
theorem matrixResults : Obligations.MatrixResults := by
  intro i
  refine ⟨fun sa sb tn k m n pa pb old hsa hsb htn hk hm hn hpa hpb oka okb forma formb hkb freea freeb holdsa holdsb hold h => ?_,
    fun sh p hsh hp hok hf hk ho hb hfree hh h => tileInstr_done h (mloadBody_loads hp hsh hok hf hk ho hb hfree hh),
    fun p a sh bs hp hfree hacc hsh hbs h => tileInstr_done h (mstoreBody_stores hp hfree hacc hsh hbs),
    fun sh p q n bs hsh hp hq hn hok hfmt hk ho apart freep freeq hh hbs h =>
      tileInstr_done h (xposeBody_transposes hsh hp hq hn hok hfmt hk ho apart freep freeq hh hbs),
    fun p hp hfree hacc h => tileInstr_fault h (mstoreBody_closed hp hfree hacc)⟩
  exact tileInstr_done h
    (mmulBody_multiplies hsa hsb htn hk hm hn hpa hpb oka okb forma formb hkb freea freeb holdsa holdsb hold)

end Sys2Proof.Machine
end

section
/-! SUPPORT. The attention pipeline: what ACFG, AEXP, AFOLD, ACLOSE and ADPREP do once their operands are in order
(06_attention_pipeline.md; 08_tile_program_isa.md, R188). -/

namespace Sys2Proof.Machine

variable {i : Ctx} {b : AttnBlock} {sa sb : Shape} {k : Res}

/-! ### What an instruction asks of the pipeline (R137, R148) -/

theorem block_inForce (h : i.c.attn.block = some b) (k : AttnBlock → Res) : i.block k = k b := by
  rw [Ctx.block, h]

theorem attnState_holds {ok : Bool} (h : ok = true) : attnState ok k = k := if_pos h

theorem attnForm_holds {ok : Bool} (h : ok = true) : attnForm ok k = k := if_pos h

/-- The side columns are an operand of their own, which a block without them does not have (R134, R135). -/
theorem sideRun_ok {p : Nat} {sh : Shape} (h : b.side ≠ 0 → i.RunHolds p sh b.side) :
    (if b.side = 0 then k else i.run p sh b.side false k) = k :=
  ite_eq_left_iff.2 fun hside => run_ok (h hside)

/-! ### ACFG (R137) -/

theorem acfgBody_loads {p : Nat} (hp : p = (i.x (i.f 55 52)).toNat % 8192) (hfree : i.Free p 8) (hh : i.Holds p regShape)
    (hb : parseBlock (i.c.attn.acfgs + 1) (getSlots i.s (tileSlot i.n p) 8) = some b) : acfgBody i =
      .done (setCore (readSlots i.s i.n p 8) i.n fun c =>
        { c with attn := { c.attn with block := some b, acfgs := c.attn.acfgs + 1 } }) := by
  subst hp
  rw [acfgBody, operand_free hfree, check_holds hh, hb]

section
variable (hsa : sa = i.shape (i.f 39 36)) (oka : shapeOk sa = true) (hb : i.c.attn.block = some b)
include hsa oka hb

/-! ### ACLOSE (R133) -/

theorem acloseBody_closes {stat : Nat} (hstat : stat = i.xa + 128 * tilesOf b.value)
    (hrun : i.RunHolds i.xa (f32Shape sa.rows 0) b.value) (hfree : i.Free stat 8) (hh : i.HoldsExactly stat regShape)
    (hout : i.Free i.xb (128 * tilesOf b.value + 8)) : acloseBody i =
      .done (i.putStat
        (i.putRun (i.reading [(i.xa, 128 * tilesOf b.value + 8)]) i.xb sa.rows b.value fun r c =>
          if i.regWord stat (128 + r) ≠ 0#32 then divF32 (i.runWord i.xa b.value r c) (i.regWord stat (128 + r)) else 0)
        (i.xb + 128 * tilesOf b.value) (fun r => if r < sa.rows then i.regWord stat r else 0xFF800000#32)
        (fun r => if r < sa.rows then i.regWord stat (128 + r) else 0)
        (fun r => if r < sa.rows ∧ i.regWord stat (128 + r) ≠ 0#32 then log2F32 (i.regWord stat (128 + r)) else 0) fun _ => 0) := by
  subst hsa hstat
  rw [acloseBody, withShape_ok oka, block_inForce hb]
  exact (run_ok hrun).trans ((regTile_ok hfree hh).trans (operand_free hout))

variable (hsb : sb = i.shape (i.f 35 32)) (okb : shapeOk sb = true)
  (forma : storedForm sa true false = true) (formb : storedForm sb true false = true)
include hsb okb forma formb

/-! ### ADPREP (R141) -/

theorem adprepBody_writes (hrows : sa.rows = sb.rows) (holdsa : i.RunHolds i.xa sa b.dim) (holdsb : i.RunHolds i.xb sb b.dim)
    (hfree : i.Free i.xc 8) (hh : i.HoldsExactly i.xc regShape) (hout : i.Free i.xd 8) : adprepBody i =
      .done (i.putStat
        (i.reading [(i.xa, tileSlots sa.fmt 0 * tilesOf b.dim), (i.xb, tileSlots sb.fmt 0 * tilesOf b.dim), (i.xc, 8)]) i.xd
        (i.regWord i.xc) (fun r => i.regWord i.xc (128 + r)) (fun r => i.regWord i.xc (256 + r))
        fun r => if r < sa.rows ∧ i.regWord i.xc (128 + r) ≠ 0#32 then
          dot b.dim 0 (i.runVal i.xb sb b.dim r) (i.runVal i.xa sa b.dim r) else 0) := by
  have forms : (storedForm sa true false && storedForm sb true false && decide (sa.rows = sb.rows)) = true := by
    simp [forma, formb, hrows]
  subst hsa hsb
  rw [adprepBody, withShape_ok oka, withShape_ok okb, block_inForce hb, attnForm_holds forms, run_ok holdsa, run_ok holdsb,
    regTile_ok hfree hh, operand_free hout]

/-! ### AEXP and AFOLD (R134, R135) -/

theorem aexpBody_expands {side : Nat} {up : Nat → List (List Val)} {ke : List (List Val)}
    (hside : side = i.xa + tileSlots sa.fmt 0 * tilesOf b.rank)
    (hup : up = fun p => tabulate sa.rows b.dim fun r j =>
      b.roundP (dot b.rank 0 (i.runVal i.xa sa b.rank r) (i.gridVal p sb b.dim b.rank j)))
    (hke : ke = (up i.xb).mapIdx fun r row => row ++ (List.range b.side).map (i.runVal side sa b.side r))
    (hmode : b.absorbed = false) (holds : i.RunHolds i.xa sa b.rank) (holdsSide : b.side ≠ 0 → i.RunHolds side sa b.side)
    (holdsKey : i.GridHolds i.xb sb b.dim b.rank) (holdsValue : i.GridHolds i.xc sb b.dim b.rank) : aexpBody i =
      .done (setCore (i.reading [(i.xa, tileSlots sa.fmt 0 * tilesOf b.rank + if b.side = 0 then 0 else tileSlots sa.fmt 0),
          (i.xb, tileSlots sb.fmt 0 * tilesOf b.dim * tilesOf b.rank), (i.xc, tileSlots sb.fmt 0 * tilesOf b.dim * tilesOf b.rank)]) i.n
        fun c => { c with attn := { c.attn with expand := some (ke, up i.xc) } }) := by
  have mode : (!b.absorbed) = true := by rw [hmode, Bool.not_false]
  have forms : (storedForm sa true false && storedForm sb true false) = true := by rw [forma, formb, Bool.and_self]
  subst hke hup hside hsa hsb
  rw [aexpBody, withShape_ok oka, withShape_ok okb, block_inForce hb, attnState_holds mode, attnForm_holds forms]
  exact (run_ok holds).trans ((sideRun_ok holdsSide).trans ((grid_ok holdsKey).trans (grid_ok holdsValue)))

theorem afoldBody_folds {grad : Bool} {cols : Nat} {rows : List (List Val)} (hgrad : grad = decide (i.f 24 24 = 1))
    (hcols : cols = if grad then b.dim else b.dim + b.side)
    (hrows : rows = (tabulate sa.rows b.rank fun r j =>
        b.roundP (dot b.dim 0 (i.runVal i.xa sa cols r) (i.gridVal i.xb sb b.rank b.dim j))).mapIdx fun r row =>
      row ++ (List.range b.side).map fun c => if grad then .fin false 0 0 else i.runVal i.xa sa cols r (b.dim + c))
    (hmode : b.absorbed = true) (holds : i.RunHolds i.xa sa cols) (holdsMap : i.GridHolds i.xb sb b.rank b.dim) : afoldBody i =
      .done (setCore
        (i.reading [(i.xa, tileSlots sa.fmt 0 * tilesOf cols), (i.xb, tileSlots sb.fmt 0 * tilesOf b.dim * tilesOf b.rank)]) i.n
        fun c => if grad then { c with attn := { c.attn with foldG := some (b.serial, rows) } }
          else { c with attn := { c.attn with foldQ := some (b.serial, rows) } }) := by
  have forms : (storedForm sa true false && storedForm sb true false) = true := by rw [forma, formb, Bool.and_self]
  subst hrows hcols hgrad hsa hsb
  rw [afoldBody, withShape_ok oka, withShape_ok okb, block_inForce hb, attnState_holds hmode, attnForm_holds forms]
  by_cases grad : i.f 24 24 = 1
  · simp only [grad, decide_true, if_true] at holds ⊢
    exact (run_ok holds).trans (grid_ok holdsMap)
  · simp only [grad, decide_false, if_false, Bool.false_eq_true] at holds ⊢
    exact (run_ok holds).trans (grid_ok holdsMap)

end

/-- Settles O27: each instruction by what its body does once its operands are in order. -/
theorem attentionBufferResults : Obligations.AttentionBufferResults := by
  intro i
  refine ⟨fun p b hp hfree hh hb h => tileInstr_done h (acfgBody_loads hp hfree hh hb),
    fun sa b stat hsa oka hb hstat hrun hfree hh hout h =>
      tileInstr_done h (acloseBody_closes hsa oka hb hstat hrun hfree hh hout),
    fun sa sb b hsa hsb oka okb hb => ⟨fun forma formb hrows holdsa holdsb hfree hh hout h =>
      tileInstr_done h (adprepBody_writes hsa oka hb hsb okb forma formb hrows holdsa holdsb hfree hh hout),
    fun forma formb => ⟨fun side up ke hside hup hke hmode holds holdsSide holdsKey holdsValue h =>
      tileInstr_done h (aexpBody_expands hsa oka hb hsb okb forma formb hside hup hke hmode holds holdsSide holdsKey holdsValue),
    fun grad cols rows hgrad hcols hrows hmode holds holdsMap h =>
      tileInstr_done h (afoldBody_folds hsa oka hb hsb okb forma formb hgrad hcols hrows hmode holds holdsMap)⟩⟩⟩

end Sys2Proof.Machine
end

section
/-! SUPPORT. The block pairs of the attention pipeline: the forward update of ABLK and the gradients of ABBLK
(06_attention_pipeline.md; 08_tile_program_isa.md, R188). -/

namespace Sys2Proof.Machine

variable {i : Ctx} {b : AttnBlock} {sa sb : Shape} {pr : Pair} {k : Res}

/-! ### The operands of a block pair and of its gradient (R134, R135, R136, R142) -/

section
variable (h : i.PairReady b sa sb pr)
include h

theorem pairForm_ready : i.pairForm b sa sb k = k := by
  rcases h with ⟨mode, rows, buffer, hfmt, hkind, horder, hmx, hrows, -⟩ | ⟨mode, ke, ve, buffer, form, hke, hke', hve, hve', -⟩
  · simp [Ctx.pairForm, mode, buffer, attnState, attnForm, hfmt, hkind, horder, hmx, hrows]
  · have forms : (ke.all fun r => r.length = b.score) = true ∧ (ve.all fun r => r.length = b.dim) = true := by
      simpa using ⟨hke', hve'⟩
    simp [Ctx.pairForm, mode, buffer, attnForm, form, hke, hve, forms]

theorem pair_ready (f : Pair → Res) : i.pair b sa sb f = f pr := by
  rcases h with ⟨mode, rows, buffer, -, -, -, -, -, holds, side, rfl⟩ | ⟨mode, ke, ve, buffer, -, -, -, -, -, holds, rfl⟩
  · rw [Ctx.pair, if_pos mode, buffer]
    exact (run_ok holds).trans (sideRun_ok side)
  · rw [Ctx.pair, if_neg (Bool.eq_false_iff.1 mode), buffer]
    exact run_ok holds

end

section
variable {nq dq : Nat} {dout : Nat → Nat → Val} {gread : List (Nat × Nat)} (h : i.GradientReady b nq dout dq gread)
include h

theorem gradientForm_ready : i.gradientForm b nq k = k := by
  rcases h with ⟨mode, rows, buffer, hrows, -⟩ | ⟨mode, sc, rfl, ok, form, hrows, -⟩
  · simp [Ctx.gradientForm, mode, buffer, attnState, attnForm, hrows]
  · rw [Ctx.gradientForm, if_neg (Bool.eq_false_iff.1 mode), withShape_ok ok, attnForm_holds (by simp [form, hrows])]

theorem gradient_ready (f : (Nat → Nat → Val) → Nat → List (Nat × Nat) → Res) : i.gradient b f = f dout dq gread := by
  rcases h with ⟨mode, rows, buffer, -, rfl, rfl, rfl⟩ | ⟨mode, sc, rfl, ok, -, -, holds, rfl, rfl, rfl⟩
  · rw [Ctx.gradient, if_pos mode, buffer]
    rfl
  · rw [Ctx.gradient, if_neg (Bool.eq_false_iff.1 mode), withShape_ok ok]
    exact run_ok holds

end

/-- A field of one bit that is not 1 is 0. -/
theorem flag_eq_zero {n : Nat} (h : i.f n n ≠ 1) : i.f n n = 0 := by
  have : i.f n n < 2 ^ (n + 1 - n) := Nat.mod_lt _ (Nat.two_pow_pos _)
  rw [Nat.add_sub_cancel_left] at this
  omega

/-! ### Tables of computed rows and cells -/

theorem rowTable_getD {α : Type} (n r : Nat) (f : Nat → α) (d : α) :
    ((List.range n).map f).toArray.getD r d = if r < n then f r else d := by
  rw [getD_toArray]
  by_cases hr : r < n <;> simp [hr]

/-- A part of what a table of rows holds at `r`. -/
theorem rowTable_apply {α β : Type} (part : α → β) (n r : Nat) (f : Nat → α) (d : α) :
    part (((List.range n).map f).toArray.getD r d) = if r < n then part (f r) else part d := by
  rw [rowTable_getD, apply_ite part]

/-- The O rows of a table of rows, a table of their own. -/
theorem outTable_getD {α β γ : Type} (n r c : Nat) (f : Nat → α × β × List γ) (d : γ) :
    ((((List.range n).map f).toArray.map fun x => x.2.2.toArray).getD r #[]).getD c d =
      if r < n then (f r).2.2.getD c d else d := by
  rw [List.map_toArray, List.map_map, rowTable_getD]
  split
  · exact getD_toArray _ c d
  · rfl

theorem cellTable_getD {α : Type} (n m r k : Nat) (f : Nat → Nat → α) (d : α) :
    (((List.range n).map fun r => ((List.range m).map (f r)).toArray).toArray.getD r #[]).getD k d =
      if r < n ∧ k < m then f r k else d := by
  rw [rowTable_getD]
  by_cases hr : r < n
  · rw [if_pos hr, rowTable_getD]; simp [hr]
  · simp [hr]

/-- What is written depends on what the functions give, not on how they are computed. -/
theorem putBlock_congr {s : State} {p n cols q : Nat} {w w' : Nat → Nat → Word} {m m' l l' sv d : Nat → Word}
    (hw : ∀ r c, w r c = w' r c) (hm : ∀ r, m r = m' r) (hl : ∀ r, l r = l' r) :
    i.putStat (i.putRun s p n cols w) q m l sv d = i.putStat (i.putRun s p n cols w') q m' l' sv d := by
  rw [funext hm, funext hl, funext fun r => funext (hw r)]

/-! ### What a block pair gives -/

/-- The pair is skipped by the test of R140 over the position records. -/
def Ctx.pairSkips (i : Ctx) (b : AttnBlock) (nq nk : Nat) : Bool :=
  skips b (fun n => (i.regWord i.xb n).toNat) (fun n => (i.regWord i.xc n).toNat) nq nk

/-- Key `k` is visible to query `r` (R138). -/
def Ctx.sees (i : Ctx) (b : AttnBlock) (r k : Nat) : Bool :=
  visible b (i.regWord i.xb r).toNat (i.regWord i.xb (128 + r)).toNat (i.regWord i.xc k).toNat (i.regWord i.xc (128 + k)).toNat

/-- The scaled score of query `r` and key `k`. -/
def AttnBlock.scaled (b : AttnBlock) (pr : Pair) (r k : Nat) : Word := mulF32 (dot b.score 0 (pr.q r) (pr.k k)) b.scaleC

/-- The tile of statistics behind the O run of ABLK. -/
def Ctx.blockStat (i : Ctx) (b : AttnBlock) : Nat := i.xd + 128 * tilesOf b.value

/-- M, L and the O row that ABLK leaves for query `r`, from empty ones with FIRST (R128, R140). -/
def Ctx.blockRow (i : Ctx) (b : AttnBlock) (nq nk : Nat) (pr : Pair) (r : Nat) : Word × Word × List Word :=
  let first := i.f 27 27 = 1
  let m := if first then 0xFF800000#32 else i.regWord (i.blockStat b) r
  let l := if first then 0#32 else i.regWord (i.blockStat b) (128 + r)
  let o := fun c => if first then 0#32 else i.runWord i.xd b.value r c
  if i.pairSkips b nq nk then (m, l, (List.range b.value).map o)
  else forwardRow b nk (b.scaled pr r) (i.sees b r) pr.v m l o

/-- The state that ABLK leaves. -/
def Ctx.blockState (i : Ctx) (b : AttnBlock) (nq nk : Nat) (pr : Pair) : State :=
  let first := i.f 27 27 = 1
  let s := i.reading (pr.read ++ [(i.xb, 8), (i.xc, 8)] ++ if first then [] else [(i.xd, 128 * tilesOf b.value + 8)])
  if i.pairSkips b nq nk ∧ ¬ first then s
  else i.putStat
    (i.putRun s i.xd nq b.value fun r c => if r < nq then (i.blockRow b nq nk pr r).2.2.getD c 0 else 0)
    (i.blockStat b) (fun r => if r < nq then (i.blockRow b nq nk pr r).1 else 0xFF800000#32)
    (fun r => if r < nq then (i.blockRow b nq nk pr r).2.1 else 0) (fun _ => 0) fun _ => 0

/-- P and dS of query `r` and key `k`, rounded; +0 outside the pair (R142). -/
def Ctx.backCell (i : Ctx) (b : AttnBlock) (nq nk : Nat) (pr : Pair) (dout : Nat → Nat → Val) (r k : Nat) : Val × Val :=
  let p := if i.sees b r k ∧ i.regWord i.xd r ≠ 0xFF800000#32 then
    exp2Val (f32 (subF32 (subF32 (b.scaled pr r k) (i.regWord i.xd r)) (i.regWord i.xd (256 + r)))) else 0#32
  let ds := mulF32 (mulF32 p (subF32 (dot b.value 0 (dout r) (pr.v k)) (i.regWord i.xd (384 + r)))) b.scaleTau
  if r < nq ∧ k < nk then (b.roundP p, b.roundP ds) else (.fin false 0 0, .fin false 0 0)

/-- The state that ABBLK leaves: its contributions added to the dq, dk and dv runs, or from zero where the word says so
(R142, R143). -/
def Ctx.gradientState (i : Ctx) (b : AttnBlock) (nq nk : Nat) (pr : Pair) (dout : Nat → Nat → Val) (dq : Nat)
    (gread : List (Nat × Nat)) : State :=
  let dk := dq + 128 * tilesOf b.score
  let dv := dk + 128 * tilesOf b.score
  let cell := i.backCell b nq nk pr dout
  let s0 := i.reading (pr.read ++ gread ++ [(i.xb, 8), (i.xc, 8), (i.xd, 8)] ++
    (if i.f 27 27 = 1 then [] else [(dq, 128 * tilesOf b.score)]) ++ (if i.f 26 26 = 1 then [] else [(dk, 128 * tilesOf b.score)]) ++
    if i.f 25 25 = 1 then [] else [(dv, 128 * if b.absorbed then 0 else tilesOf b.dim)])
  let s1 := i.putRun s0 dq nq b.score fun r j =>
    dot nk (if i.f 27 27 = 1 then 0#32 else i.runWord dq b.score r j) (fun k => (cell r k).2) fun k => pr.k k j
  let sum := fun k j =>
    dot nq (if i.f 26 26 = 1 then 0#32 else i.runWord dk b.score k j) (fun r => (cell r k).2) fun r => pr.q r j
  let s2 := i.putRun s1 dk nk b.score fun k j =>
    if b.absorbed ∧ j < b.rank then dot nq (sum k j) (fun r => (cell r k).1) fun r => dout r j else sum k j
  if i.pairSkips b nq nk then s0
  else if b.absorbed then s2
  else i.putRun s2 dv nk b.dim fun k j =>
    dot nq (if i.f 25 25 = 1 then 0#32 else i.runWord dv b.dim k j) (fun r => (cell r k).1) fun r => dout r j

section
variable (hsa : sa = i.shape (i.f 39 36)) (hsb : sb = i.shape (i.f 35 32)) (oka : shapeOk sa = true) (okb : shapeOk sb = true)
  (hb : i.c.attn.block = some b) (hpr : i.PairReady b sa sb pr) (freeq : i.Free i.xb 8) (holdsq : i.HoldsExactly i.xb regShape)
  (freek : i.Free i.xc 8) (holdsk : i.HoldsExactly i.xc regShape)
include hsa hsb oka okb hb hpr freeq holdsq freek holdsk

/-! ### ABLK (R128, R130, R140) -/

theorem ablkBody_updates (hout : i.Free i.xd (128 * tilesOf b.value + 8))
    (hold : i.f 27 27 ≠ 1 → i.RunHolds i.xd (f32Shape sa.rows 0) b.value ∧ i.Free (i.blockStat b) 8 ∧
      i.HoldsExactly (i.blockStat b) regShape) : ablkBody i = .done (i.blockState b sa.rows sb.rows pr) := by
  subst hsa hsb
  rw [ablkBody, withShape_ok oka, withShape_ok okb, block_inForce hb, pairForm_ready hpr, pair_ready hpr]
  refine (regTile_ok freeq holdsq).trans ((regTile_ok freek holdsk).trans ((operand_free hout).trans
    ((ite_eq_left_iff.2 fun hn => ?_).trans ?_)))
  · obtain ⟨run, free, holds⟩ := hold hn
    exact (run_ok run).trans (regTile_ok free holds)
  · refine (if_congr Iff.rfl rfl (congrArg Res.done ?_)).trans (apply_ite Res.done _ _ _).symm
    exact putBlock_congr (fun r c => outTable_getD _ r c (i.blockRow b _ _ pr) 0)
      (fun r => rowTable_apply Prod.fst _ r (i.blockRow b _ _ pr) _)
      fun r => rowTable_apply (fun x => x.2.1) _ r (i.blockRow b _ _ pr) _

/-! ### ABBLK (R142, R143, R140) -/

theorem abblkBody_adds {dout : Nat → Nat → Val} {dq dk dv : Nat} {gread : List (Nat × Nat)}
    (hgr : i.GradientReady b sa.rows dout dq gread) (free : i.Free i.xd 8) (holds : i.HoldsExactly i.xd regShape)
    (hdk : dk = dq + 128 * tilesOf b.score) (hdv : dv = dk + 128 * tilesOf b.score)
    (hout : i.Free dq (128 * (2 * tilesOf b.score + if b.absorbed then 0 else tilesOf b.dim)))
    (holdq : i.f 27 27 = 0 → i.RunHolds dq (f32Shape sa.rows 0) b.score)
    (holdk : i.f 26 26 = 0 → i.RunHolds dk (f32Shape sb.rows 0) b.score)
    (holdv : b.absorbed = false → i.f 25 25 = 0 → i.RunHolds dv (f32Shape sb.rows 0) b.dim) :
    abblkBody i = .done (i.gradientState b sa.rows sb.rows pr dout dq gread) := by
  subst hsa hsb hdv hdk
  rw [abblkBody, withShape_ok oka, withShape_ok okb, block_inForce hb, pairForm_ready hpr, gradientForm_ready hgr, pair_ready hpr]
  refine (regTile_ok freeq holdsq).trans ((regTile_ok freek holdsk).trans ((regTile_ok free holds).trans
    ((gradient_ready hgr _).trans ((operand_free hout).trans ?_))))
  -- A run that the word zeroes is no operand; each other one is sealed with its shape.
  refine (ite_eq_left_iff.2 fun hn => run_ok (holdq (flag_eq_zero hn))).trans ?_
  refine (ite_eq_left_iff.2 fun hn => run_ok (holdk (flag_eq_zero hn))).trans ?_
  refine (ite_eq_left_iff.2 fun hn => ?_).trans ?_
  · obtain ⟨mode, hn⟩ := not_or.1 hn
    exact run_ok (holdv (Bool.eq_false_iff.2 mode) (flag_eq_zero hn))
  · simp only [cellTable_getD, decide_eq_true_eq, ite_apply]
    exact (apply_ite Res.done _ _ _).symm

end

/-- Settles O28: each instruction by the state that it leaves once its operands are in order. -/
theorem attentionBlockResults : Obligations.AttentionBlockResults := by
  intro i sa sb b pr hsa hsb oka okb hb hpr freeq holdsq freek holdsk skip vis hskip hvis
  refine ⟨fun first stat m0 l0 o0 row hfirst hstat hm hl ho hrow hout hold h => ?_,
    fun dout dq gread dk dv cell hgr free holds hdk hdv hout holdq holdk holdv hcell h => ?_⟩
  · subst hrow ho hl hm hstat hfirst hvis hskip
    -- The statement names FIRST by a Bool, the body by a proposition.
    simp only [decide_eq_true_eq, Bool.and_eq_true, Bool.not_eq_true', decide_eq_false_iff_not]
    exact tileInstr_done h (ablkBody_updates hsa hsb oka okb hb hpr freeq holdsq freek holdsk hout
      fun hn => hold (decide_eq_false hn))
  · have adds := abblkBody_adds hsa hsb oka okb hb hpr freeq holdsq freek holdsk hgr free holds hdk hdv hout holdq holdk holdv
    subst hcell hvis hskip hdv hdk
    exact tileInstr_done h adds

end Sys2Proof.Machine
end

section
/-! SUPPORT. The cold reset: the cores that it leaves (R115, R149, R164, R174, R436). -/

namespace Sys2Proof.Machine

/-- The cores of a module in reset are each at core reset, in their places. -/
theorem mem_reset_cores {c : Core} : c ∈ State.reset.cores ↔ ∃ n < 152, Core.reset n = c := by
  simp only [State.reset, List.mem_map, List.mem_range]

theorem length_reset_cores : State.reset.cores.length = 152 := by
  simp only [State.reset, List.length_map, List.length_range]

/-- Every MSI-X vector of a module in reset is masked (R481). -/
theorem masked_of_mem_reset_msix {e : Msix} (h : e ∈ State.reset.host.msix) : e.masked = true := by
  rw [List.eq_of_mem_replicate h]

/-- Settles O3: the reset state writes each value out; a core of it is `Core.reset` of its place. -/
theorem resetValues : Obligations.ResetValues := by
  refine ⟨rfl, rfl, rfl, rfl, rfl, rfl, rfl, rfl, rfl, rfl, rfl, fun _ => masked_of_mem_reset_msix, rfl, rfl,
    length_reset_cores, fun c hc => ?_⟩
  obtain ⟨n, -, rfl⟩ := mem_reset_cores.1 hc
  exact ⟨rfl, rfl, rfl, rfl, rfl, rfl, rfl, rfl, rfl⟩

end Sys2Proof.Machine
end

section
/-! SUPPORT. The element-wise instructions of the vector engine: one, two and three sources, comparison
(07_vector_reduction.md; R150, R151, R153, R154, R189). -/

namespace Sys2Proof.Machine

variable {i : Ctx}

/-! ### Instructions of one to three sources (R150, R151) -/

theorem sc_eq (i : Ctx) : i.sc = i.k := funext fun _ => getD_toArray_eq_el _ _

section
variable (h : i.f 29 27 = 4 → fmtOk (i.f 26 23) = true)
include h

theorem vec1_done (f : Word → Word) : i.vec1 f = .done (i.vecState (i.f 29 27) (i.f 26 23) fun e => f (i.a e)) := by
  rw [Ctx.vec1, sa_eq, vec_done h]

theorem vec2_done (f : Word → Word → Word) :
    i.vec2 f = .done (i.vecState (i.f 29 27) (i.f 26 23) fun e => f (i.a e) (i.b e)) := by
  rw [Ctx.vec2, sa_eq, sb_eq, vec_done h]

theorem vfmaBody_done : vfmaBody i = .done (i.vecState (i.f 29 27) (i.f 26 23) fun e => fmaF32 (i.a e) (i.b e) (i.k e)) := by
  rw [vfmaBody, sa_eq, sb_eq, sc_eq, vec_done h]

theorem vselBody_done :
    vselBody i = .done (i.vecState (i.f 29 27) (i.f 26 23) fun e => if i.k e ≠ 0 then i.a e else i.b e) := by
  rw [vselBody, sa_eq, sb_eq, sc_eq, vec_done h]

end

/-! ### The order of integers (R154) -/

theorem intLt_iff (ty : Nat) (a b : Word) :
    intLt ty a b = true ↔ if ty = 1 then a.toInt < b.toInt else a.toNat < b.toNat := by
  unfold intLt
  split <;> exact decide_eq_true_iff

/-- Of two words one comes first, or they are the same. -/
theorem intLt_trichotomy (ty : Nat) (a b : Word) :
    intLt ty a b = true ∧ intLt ty b a = false ∧ a ≠ b ∨ intLt ty a b = false ∧ intLt ty b a = false ∧ a = b ∨
      intLt ty a b = false ∧ intLt ty b a = true ∧ a ≠ b := by
  simp only [Bool.eq_false_iff, ne_eq, intLt_iff]
  by_cases hty : ty = 1
  · simp only [hty, if_true, ← BitVec.toInt_inj]
    omega
  · simp only [hty, if_false, ← BitVec.toNat_inj]
    omega

/-- A choice by the order of TYPE, its two forms apart. -/
theorem ite_intLt {α : Type} (ty : Nat) (a b : Word) (x y : α) :
    (if intLt ty a b = true then x else y) =
      if ty = 1 then (if a.toInt < b.toInt then x else y) else if a.toNat < b.toNat then x else y := by
  simp only [intLt_iff]
  split <;> rfl

/-! ### VCMP (R154, R189) -/

theorem vcmpBody_done (i : Ctx) :
    vcmpBody i = .done (i.vecState 3 0 fun e => cmpWord (i.f 29 27) (i.f 22 16) (i.a e) (i.b e)) := by
  rw [vcmpBody, sa_eq, sb_eq, vecWrite_eq]

/-- The predicate codes with the orders that they admit. -/
def orderPredicates : List (Nat × (Option Ordering → Bool)) :=
  [(0, fun o => decide (o = some .eq)), (1, fun o => decide (o ≠ some .eq)), (2, fun o => decide (o = some .lt)),
    (3, fun o => decide (o = some .lt ∨ o = some .eq)), (4, fun o => decide (o = some .gt)),
    (5, fun o => decide (o = some .gt ∨ o = some .eq)), (6, fun o => decide (o = none))]

theorem orderHolds_of_mem {r : Nat × (Option Ordering → Bool)} (hr : r ∈ orderPredicates) (o : Option Ordering) :
    orderHolds r.1 o = r.2 o := by
  simp only [orderPredicates, List.mem_cons, List.not_mem_nil, or_false] at hr
  rcases o with _ | _ | _ | _ <;> rcases hr with rfl | rfl | rfl | rfl | rfl | rfl | rfl <;> rfl

/-- The predicate codes with what they say of two integers under an order `lt`. -/
def intPredicates (lt : Word → Word → Bool) : List (Nat × (Word → Word → Bool)) :=
  [(0, fun a b => decide (a = b)), (1, fun a b => decide (a ≠ b)), (2, fun a b => lt a b), (3, fun a b => !lt b a),
    (4, fun a b => lt b a), (5, fun a b => !lt a b), (6, fun _ _ => false)]

/-- How two integers compare by TYPE. -/
def intOrder (ty : Nat) (a b : Word) : Ordering := if intLt ty a b then .lt else if intLt ty b a then .gt else .eq

theorem intPredicate_of_mem {ty : Nat} {r : Nat × (Word → Word → Bool)} (hr : r ∈ intPredicates (intLt ty)) (a b : Word) :
    orderHolds r.1 (some (intOrder ty a b)) = r.2 a b := by
  simp only [intPredicates, List.mem_cons, List.not_mem_nil, or_false] at hr
  rcases intLt_trichotomy ty a b with ⟨hlt, hgt, hne⟩ | ⟨hlt, -, rfl⟩ | ⟨hlt, hgt, hne⟩
  · rcases hr with rfl | rfl | rfl | rfl | rfl | rfl | rfl <;> simp [intOrder, orderHolds, hlt, hgt, hne]
  · rcases hr with rfl | rfl | rfl | rfl | rfl | rfl | rfl <;> simp [intOrder, orderHolds, hlt]
  · rcases hr with rfl | rfl | rfl | rfl | rfl | rfl | rfl <;> simp [intOrder, orderHolds, hlt, hgt, hne]

theorem cmpWord_float (sub : Nat) (a b : Word) : cmpWord 0 sub a b = maskWord (orderHolds sub ((f32 a).cmp (f32 b))) := rfl

theorem cmpWord_int {ty : Nat} (h : ty ≠ 0) (sub : Nat) (a b : Word) :
    cmpWord ty sub a b = maskWord (orderHolds sub (some (intOrder ty a b))) := by
  simp only [cmpWord, if_neg h, intOrder]

/-- Settles O22: each instruction writes its function of the sources; VCMP the mask of its predicate. -/
theorem floatVectorResults : Obligations.FloatVectorResults := by
  refine ⟨fun i h => ⟨fun hi => tileInstr_done hi (vec2_done h _), fun hi => tileInstr_done hi (vec2_done h _),
    fun hi => tileInstr_done hi (vec2_done h _), fun hi => tileInstr_done hi (vec2_done h _),
    fun hi => tileInstr_done hi (vec2_done h _), fun hi => tileInstr_done hi (vec1_done h _),
    fun hi => tileInstr_done hi (vec1_done h _), fun hi => tileInstr_done hi (vfmaBody_done h),
    fun hi => tileInstr_done hi (vec2_done h _), fun hi => tileInstr_done hi (vec1_done h _),
    fun hi => tileInstr_done hi (vec1_done h _), fun hi => tileInstr_done hi (vec1_done h _),
    fun hi => tileInstr_done hi (vec1_done h _), fun r hr hi hty hsub => ?_⟩, fun i r hr h hty hf => ?_⟩
  · have hr : r ∈ orderPredicates := hr
    refine tileInstr_done hi ((vcmpBody_done i).trans ?_)
    simp only [hty, hsub, cmpWord_float, orderHolds_of_mem hr, maskWord]
  · simp only [List.mem_cons, List.not_mem_nil, or_false] at hr
    -- Every body is `vec` of some function of the element, which asks for the format first.
    rcases hr with rfl | rfl | rfl | rfl | rfl | rfl | rfl | rfl | rfl | rfl | rfl | rfl | rfl <;>
      exact tileInstr_fault h (vec_reserved hty hf _)

/-- Settles O23: each instruction writes its function of the sources; VCMP the mask of its predicate in the order of its TYPE. -/
theorem integerVectorResults : Obligations.IntegerVectorResults := by
  refine ⟨fun i h => ⟨fun hi => tileInstr_done hi (vselBody_done h), fun hi => tileInstr_done hi (vec2_done h _),
    fun hi => tileInstr_done hi (vec2_done h _), fun hi => tileInstr_done hi (vec2_done h _),
    fun hi => tileInstr_done hi ?_, fun hi => tileInstr_done hi ?_,
    fun hi => tileInstr_done hi (vec2_done h _), fun hi => tileInstr_done hi (vec2_done h _),
    fun hi => tileInstr_done hi (vec2_done h _), fun hi => tileInstr_done hi (vec1_done h _),
    fun hi => tileInstr_done hi (vec2_done h _), fun hi => tileInstr_done hi (vec2_done h _),
    fun hi => tileInstr_done hi (vec2_done h _), fun lt hlt r hr hi hty hsub => ?_⟩, fun i r hr h hty hf => ?_⟩
  · rw [viminBody, vec2_done h]
    simp only [ite_intLt]
  · rw [vimaxBody, vec2_done h]
    simp only [ite_intLt]
  · have hlt : lt = intLt (i.f 29 27) := hlt
    subst hlt
    have hr : r ∈ intPredicates (intLt (i.f 29 27)) := hr
    refine tileInstr_done hi ((vcmpBody_done i).trans ?_)
    simp only [hsub, cmpWord_int hty, intPredicate_of_mem hr, maskWord]
  · simp only [List.mem_cons, List.not_mem_nil, or_false] at hr
    rcases hr with rfl | rfl | rfl | rfl | rfl | rfl | rfl | rfl | rfl | rfl | rfl | rfl | rfl <;>
      exact tileInstr_fault h (vec_reserved hty hf _)

end Sys2Proof.Machine
end

section
/-! SUPPORT. SCAN and the reduction unit: what each instruction makes of the tile that it names
(07_vector_reduction.md; R162 to R168, R190). -/

namespace Sys2Proof.Machine

variable {i : Ctx} {r : Red} {m : Merge} {k : Nat} {es : Elems}

/-! ### SCAN (R162, R163) -/

/-- Whether a segment of the scan starts at element `e`. -/
def Ctx.scanStart (i : Ctx) (e : Nat) : Bool := i.f 40 40 = 1 && el (i.t (i.f 45 41)) e ≠ 0

/-- The values that a scan gives, row by row; none where an element gets no value. -/
def Ctx.scanned (i : Ctx) (m : Merge) : List (Option Word) :=
  scanRows m (i.f 29 29 = 1) (fun e => el (i.t (i.f 50 46)) e) (i.active (i.f 23 23) (i.f 28 24)) i.scanStart 32 0
    (if i.f 34 34 = 1 then some (el (i.t (i.f 39 35)) 1023) else none)

theorem scanStart_eq (i : Ctx) :
    (fun e => decide (i.f 40 40 = 1) && decide ((i.t (i.f 45 41)).toArray.getD e 0 ≠ 0)) = i.scanStart := by
  funext e
  rw [getD_toArray_eq_el, Ctx.scanStart]

theorem scanBody_writes {t : Elems} (hm : m = scanOp (i.f 33 31) (i.f 30 30 = 1))
    (ht : t = i.merged (i.f 23 23) (i.f 28 24) (i.f 55 51) fun e => ((i.scanned m).getD e none).getD (el (i.t (i.f 55 51)) e)) :
    scanBody i = .done (nfWrite i (putT i.s i.n (i.f 55 51) t) uScan (regAddr (i.f 55 51))
      (if m.isFloat then regHits t (i.active (i.f 23 23) (i.f 28 24)) else [])) := by
  rw [scanBody, scanStart_eq, ← hm, ht]
  simp only [getD_toArray, el, Ctx.scanned, Ctx.merged]

/-! ### RCLR (R164) -/

theorem rclrBody_opens {mode : RedMode} (h : redMode (i.f 41 39) (i.f 38 34) = some mode) :
    rclrBody i = .done (i.putU ⟨mode, (List.range 1024).map fun e => redInit mode (e % 32)⟩) := by rw [rclrBody, h]

theorem rclrBody_reserved (h : redMode (i.f 41 39) (i.f 38 34) = none) : rclrBody i = .fault fVec 0 none := by
  rw [rclrBody, h]

/-! ### RROW, RCOL and RADD (R165) -/

theorem merging_open {f : Red → Merge → Res} (hu : i.u = some r) (hm : redMerge r.mode = some m) : i.merging f = f r m := by
  simp only [Ctx.merging, hu, hm]

theorem merging_shut {f : Red → Merge → Res} (hu : i.u = none) : i.merging f = .fault fRed (i.f 55 53) none := by
  rw [Ctx.merging, hu]

/-- The active elements of line `l` of the source, `line l j` being the index of its position `j`. -/
def Ctx.lineWords (i : Ctx) (line : Nat → Nat → Nat) (l : Nat) : List Word :=
  ((List.range 32).filter fun j => i.redOn (line l j)).map fun j => el (i.t (i.f 52 48)) (line l j)

/-- The elements of a reduction tile with each line merged into row DROW. -/
def Ctx.lineMerged (i : Ctx) (r : Red) (m : Merge) (line : Nat → Nat → Nat) : Elems :=
  (List.range 1024).map fun e =>
    if e / 32 = i.f 38 34 then (m.all (i.lineWords line (e % 32))).elim (el r.el e) (m.two (el r.el e)) else el r.el e

theorem reduceLines_merges (hu : i.u = some r) (hm : redMerge r.mode = some m) (line : Nat → Nat → Nat) :
    i.reduceLines line = .done (i.putU ⟨r.mode, i.lineMerged r m line⟩) := by
  rw [Ctx.reduceLines, merging_open hu hm]
  simp only [getD_toArray_eq_el, src_eq]
  refine congrArg (fun es => Res.done (i.putU ⟨r.mode, es⟩)) (List.map_congr_left fun e _ => if_congr Iff.rfl ?_ rfl)
  rw [Ctx.lineWords]
  split <;> simp only [*, Option.elim_some, Option.elim_none]

theorem raddBody_merges (hu : i.u = some r) (hm : redMerge r.mode = some m) : raddBody i = .done (i.putU ⟨r.mode,
    r.el.mapIdx fun e o => if i.redOn e then m.two o (el (i.t (i.f 52 48)) e) else o⟩) := by
  rw [raddBody, merging_open hu hm, src_eq]

/-! ### RTOPK (R166) -/

/-- The `k` first of the candidates in row `row` of the source and of the list that the row of the tile holds. -/
def Ctx.ranked (i : Ctx) (k : Nat) (es : Elems) (row : Nat) : List (Word × Word) :=
  ((((List.range 32).filter fun c => i.redOn (32 * row + c)).map fun c =>
    (el (i.t (i.f 52 48)) (32 * row + c), (i.x (i.f 28 25)).setWidth 32 + BitVec.ofNat 32 c)).foldl (fun l a => insertRank a l)
      ((List.range k).map fun j => (el es (32 * row + j), el es (32 * row + 16 + j)))).take k

/-- The elements of a TOPK tile once the candidates are ranked: values in the low half of each row, indexes in the high half. -/
def Ctx.rankedElems (i : Ctx) (k : Nat) (es : Elems) : Elems :=
  (List.range 1024).map fun e =>
    if e % 32 % 16 < k then
      if e % 32 < 16 then ((i.ranked k es (e / 32)).getD (e % 32 % 16) (0, 0)).1
      else ((i.ranked k es (e / 32)).getD (e % 32 % 16) (0, 0)).2
    else if e % 32 < 16 then 0xFF800000#32 else 0xFFFFFFFF#32

theorem rtopkBody_ranks (hu : i.u = some ⟨.topk k, es⟩) : rtopkBody i = .done (i.putU ⟨.topk k, i.rankedElems k es⟩) := by
  rw [rtopkBody, hu]
  refine congrArg (fun es => Res.done (i.putU ⟨.topk k, es⟩)) (List.map_congr_left fun e he => ?_)
  have row : e / 32 < 32 := Nat.div_lt_of_lt_mul (List.mem_range.1 he)
  simp only [getD_toArray_eq_el, src_eq]
  rw [rowTable_getD, if_pos row, getD_toArray]
  rfl

/-! ### RHIST (R167) -/

/-- How often a value occurs among those of chosen elements: as often as a chosen element has it. -/
theorem count_map_filter (l : List Nat) (on : Nat → Bool) (f : Nat → Nat) (b : Nat) :
    ((l.filter on).map f).count b = (l.filter fun e => on e && decide (f e = b)).length := by
  rw [List.count, List.countP_map, List.countP_filter, List.countP_eq_length_filter]
  simp only [Function.comp_apply, beq_eq_decide, Bool.and_comm]

theorem rhistBody_counts (hu : i.u = some ⟨.hist, es⟩) : rhistBody i = .done (i.putU ⟨.hist, es.mapIdx fun b o =>
    o + BitVec.ofNat 32 (((List.range 1024).filter fun e =>
      i.redOn e && decide ((el (i.t (i.f 52 48)) e).toNat / 2 ^ i.f 33 29 % 256 = b)).length)⟩) := by
  rw [rhistBody, hu]
  simp only [count_map_filter, src_eq]

/-! ### RREAD (R168) -/

/-- The elements that RREAD checks in each mode: those that hold FP32 values. -/
def RedMode.checks : RedMode → Nat → Bool
  | .topk _ => fun e => decide (e % 32 < 16)
  | .sumI => fun _ => false
  | .hist => fun _ => false
  | .sumF => fun _ => true
  | .maxF => fun _ => true
  | .minF => fun _ => true

theorem rreadBody_reads (hu : i.u = some r) : rreadBody i =
    .done (nfWrite i (putT i.s i.n (i.f 24 20) r.el) uReduce (regAddr (i.f 24 20)) (regHits r.el r.mode.checks)) := by
  rw [rreadBody, hu]
  obtain ⟨mode, es⟩ := r
  cases mode <;> rfl

/-- A function that marks no element of an integer mode, every one of an FP32 mode and the values of a TOPK mode is `checks`. -/
theorem checks_unique {mode : RedMode} {checked : Nat → Bool} (int : mode = .sumI ∨ mode = .hist → checked = fun _ => false)
    (float : mode = .sumF ∨ mode = .maxF ∨ mode = .minF → checked = fun _ => true)
    (topk : ∀ k, mode = .topk k → checked = fun e => decide (e % 32 < 16)) : checked = mode.checks := by
  cases mode with
  | sumF => exact float (.inl rfl)
  | sumI => exact int (.inl rfl)
  | maxF => exact float (.inr (.inl rfl))
  | minF => exact float (.inr (.inr rfl))
  | topk k => exact topk k rfl
  | hist => exact int (.inr rfl)

/-! ### A tile that is not open (R164) -/

section
variable (hu : i.u = none)
include hu

theorem rtopkBody_shut : rtopkBody i = .fault fRed (i.f 55 53) none := by rw [rtopkBody, hu]

theorem rhistBody_shut : rhistBody i = .fault fRed (i.f 55 53) none := by rw [rhistBody, hu]

theorem rreadBody_shut : rreadBody i = .fault fRed (i.f 55 53) none := by rw [rreadBody, hu]

end

/-- Settles O25: each instruction by the tile that it leaves, or by the tile being shut. -/
theorem reductionResults : Obligations.ReductionResults := by
  intro i
  refine ⟨fun mode h hm => tileInstr_done h (rclrBody_opens hm), fun h hm => tileInstr_fault h (rclrBody_reserved hm),
    fun r m hu hm => ⟨fun new hnew h => ?_, fun new hnew h => ?_, fun h => tileInstr_done h (raddBody_merges hu hm)⟩,
    fun k es rows new hu hrows hnew h => ?_, fun es hu h => tileInstr_done h (rhistBody_counts hu),
    fun r checked hu int float topk h => ?_, fun m ys hm hys t ht h => ?_,
    fun hu => ⟨fun h => tileInstr_fault h (merging_shut hu), fun h => tileInstr_fault h (merging_shut hu),
      fun h => tileInstr_fault h (merging_shut hu), fun h => tileInstr_fault h (rtopkBody_shut hu),
      fun h => tileInstr_fault h (rhistBody_shut hu), fun h => tileInstr_fault h (rreadBody_shut hu)⟩⟩
  · have hnew : new = i.lineMerged r m fun l j => 32 * l + j := hnew
    exact hnew ▸ tileInstr_done h (reduceLines_merges hu hm _)
  · have hnew : new = i.lineMerged r m fun l j => 32 * j + l := hnew
    exact hnew ▸ tileInstr_done h (reduceLines_merges hu hm _)
  · have hrows : rows = i.ranked k es := hrows
    subst hrows
    have hnew : new = i.rankedElems k es := hnew
    exact hnew ▸ tileInstr_done h (rtopkBody_ranks hu)
  · rw [checks_unique int float topk]
    exact tileInstr_done h (rreadBody_reads hu)
  · subst hys
    exact tileInstr_done h (scanBody_writes hm ht)

end Sys2Proof.Machine
end

section
/-! SUPPORT. The scalar and branch instructions, and the status words: what an instruction that may branch answers, the tables of
R178 and R185 (08_tile_program_isa.md; R174, R178, R185, R186). -/

namespace Sys2Proof.Machine

variable {i : Ctx} {op : Nat} {body : Ctx → Res} {t u : State}

/-! ### Branches -/

/-- An instruction whose body branches on `c` goes to its target when `c` holds and to the next index otherwise (R186). -/
theorem tileInstr_branch {c : Prop} [Decidable c] {k : Nat} (h : Issues op i) (hb : body i = if c then .jump t k else .done u) :
    tileInstr op body i.n i.s = if c then i.branches t k else i.ends u := by
  by_cases hc : c
  · rw [if_pos hc] at hb ⊢
    exact tileInstr_jump h hb
  · rw [if_neg hc] at hb ⊢
    exact tileInstr_done h hb

/-! ### Tables -/

/-- An entry of a table of `f`'s values over `ks` holds `f` of its key. -/
theorem eq_of_mem_table {α : Type} {f : Nat → α} {ks : List Nat} {r : Nat × α} (h : r ∈ ks.map fun k => (k, f k)) : f r.1 = r.2 := by
  obtain ⟨k, -, rfl⟩ := List.mem_map.1 h
  rfl

/-- The conditions of BR as propositions (R185). -/
theorem branchHolds_table (a b : DWord) : (List.range 7).map (fun cond => (cond, branchHolds cond a b)) =
    [(0, decide (a = b)), (1, decide (a ≠ b)), (2, decide (a.toInt < b.toInt)), (3, decide (b.toInt ≤ a.toInt)),
      (4, decide (a.toNat < b.toNat)), (5, decide (b.toNat ≤ a.toNat)), (6, true)] := by
  simp only [List.range_succ, List.range_zero, List.nil_append, List.cons_append, List.map_cons, List.map_nil, branchHolds,
    beq_eq_decide, bne, ← decide_not, ne_eq]

/-! ### Scalar registers and descriptors (R174, R185) -/

theorem liBody_extends (h : i.f 51 51 = 0) :
    liBody i = .done (putX i.s i.n (i.f 55 52) ((BitVec.ofNat 32 (i.f 31 0)).signExtend 64)) := by simp [liBody, h]

theorem liBody_upper (h : i.f 51 51 = 1) : liBody i =
    .done (putX i.s i.n (i.f 55 52) (BitVec.ofNat 64 (2 ^ 32 * i.f 31 0 + (i.x (i.f 55 52)).toNat % 2 ^ 32))) := by simp [liBody, h]

theorem dldBody_loads {p : Nat} (hp : p = i.slot (i.f 51 39) (i.f 38 35)) (hfree : i.Free p 8) (hh : i.Holds p regShape) :
    dldBody i = .done (setCore (readSlots i.s i.n p 8) i.n fun c =>
      { c with d := c.d.set (i.f 55 52) (readRun i.s.ctl (tileBase i.n + 512 * p + 32 * i.f 34 28) 32) }) := by
  subst hp
  exact (operand_free hfree).trans (check_holds hh)

theorem loopBody_eq {v : DWord} (hv : v = i.x (i.f 55 52) - 1) : loopBody i =
    if v ≠ 0 then .jump (putX i.s i.n (i.f 55 52) v) (i.f 12 0) else .done (putX i.s i.n (i.f 55 52) v) := by
  subst hv
  rfl

/-- BRF tests its flags once no move can change the ones that it names (R185). -/
theorem brfBody_settled (h : (i.f 49 49 = 1 ∨ i.f 48 48 = 1) → fswBusy i.c = false) : brfBody i =
    if (i.f 50 50 = 1 ∧ i.c.nf0.getLsbD 63 = true) ∨ (i.f 49 49 = 1 ∧ i.c.fsw.getLsbD 62 = true) ∨
        (i.f 48 48 = 1 ∧ i.c.fsw.getLsbD 63 = true)
    then .jump i.s (i.f 12 0) else .done i.s :=
  if_neg fun hb => by simp [h hb.1] at hb

/-! ### Status words (R178) -/

theorem rdstBody_reads (h : i.f 51 48 = 2 → fswBusy i.c = false) : rdstBody i =
    .done (putX (if i.f 51 48 = 6 then bump i.s 1 else i.s) i.n (i.f 55 52) (statusWord i (i.f 51 48))) :=
  if_neg fun hb => by simp [h hb.1] at hb

section
variable {w : Nat} (hw : w = (i.x (i.f 55 52)).toNat)
include hw

theorem wrstBody_nonFinite (h : i.f 51 48 = 0) :
    wrstBody i = .done (setCore i.s i.n fun c => { c with nf0 := BitVec.ofNat 64 (wrstNf c.nf0.toNat w) }) := by
  simp only [wrstBody, h, hw]

theorem wrstBody_fetchStatus (h : i.f 51 48 = 2) :
    wrstBody i = .done (setCore i.s i.n fun c => { c with fsw := BitVec.ofNat 64 (wrstFsw c.fsw.toNat w) }) := by
  simp only [wrstBody, h, hw]

theorem wrstBody_waitLimit (h : i.f 51 48 = 9) :
    wrstBody i = .done (setCore i.s i.n fun c => { c with launch := c.launch.map fun l => { l with waitLimit := w } }) := by
  simp only [wrstBody, h, hw]

end

/-- Settles O19: each instruction by what its body does, XALU and BR by their tables. -/
theorem scalarAndBranchInstructionsComplete : Obligations.ScalarAndBranchInstructionsComplete := by
  intro i
  refine ⟨fun h => tileInstr_done (body := fun i => .done i.s) h rfl, fun h => tileInstr_done (body := setshBody) h rfl,
    fun h hf => tileInstr_done h (liBody_extends hf), fun h hf => tileInstr_done h (liBody_upper hf), fun b hb r hr h hsub => tileInstr_done h ?_,
    fun p hp h hfree hh => tileInstr_done h (dldBody_loads hp hfree hh), fun a b ha hb r hr h hcond => tileInstr_branch h ?_,
    fun v hv h => (tileInstr_branch h (loopBody_eq hv)).trans (ite_not ..), fun h hbusy => tileInstr_branch h (brfBody_settled hbusy)⟩
  · have entry : r ∈ (List.range 13).map fun op => (op, xaluOp op (i.x (i.f 51 48)) b) := hr
    rw [← eq_of_mem_table entry, ← hsub, hb]
    rfl
  · rw [← branchHolds_table] at hr
    rw [← eq_of_mem_table hr, ← hcond, ha, hb]
    rfl

/-- Settles O20: RDST by the table of status words, WRST by the word that it selects. -/
theorem statusWordsReadAndWritten : Obligations.StatusWordsReadAndWritten := by
  intro i
  refine ⟨fun r hr h hsel hbusy => ?_, fun h hsel => ?_, fun w hw h => ⟨fun hsel => tileInstr_done h (wrstBody_nonFinite hw hsel),
    fun hsel => tileInstr_done h (wrstBody_fetchStatus hw hsel), fun hsel => tileInstr_done h (wrstBody_waitLimit hw hsel)⟩⟩
  · have entry : r ∈ [0, 1, 2, 3, 4, 5, 7, 8, 9, 10].map fun sel => (sel, statusWord i sel) := hr
    have drawsNothing : r.1 ≠ 6 := by
      intro h6
      simp [h6, Prod.ext_iff] at hr
    rw [← hsel] at hbusy drawsNothing
    rw [← eq_of_mem_table entry, ← hsel]
    exact tileInstr_done h ((rdstBody_reads hbusy).trans (by rw [if_neg drawsNothing]))
  · have reads := rdstBody_reads (i := i) fun h2 => absurd (hsel.symm.trans h2) (by decide)
    rw [hsel] at reads
    exact tileInstr_done h reads

end Sys2Proof.Machine
end

section
/-! SUPPORT. STORE, ATOM and MSG to another module, and PUSH (08_tile_program_isa.md; 13_ewete_fabric.md; R191, R195, R197, R313). -/

namespace Sys2Proof.Machine

variable {i : Ctx} {m : Move}

theorem isAway_space {s : State} {a : Nat} (h : isAway s a = true) : space a = 1 :=
  of_decide_eq_true (Bool.and_eq_true_iff.1 h).1

/-- STORE to another module with its operands in order takes the source tile and its seal at issue, and its write starts (R191). -/
theorem storeBody_sends {d : Desc} {sh : Shape} {p r c : Nat} (hd : d = parseDesc (i.c.d.getD (i.f 55 52) [])) (hok : descOk d = true)
    (hin : d.outOfRange i.s = none) (hpl : descPlaced d (tileExists i.s) = true) (hr : r = bits (i.x (i.f 51 48)).toNat 31 0)
    (hc : c = bits (i.x (i.f 51 48)).toNat 63 32) (hrt : r < d.tr) (hct : c < d.tc) (hsh : sh = d.shape r c)
    (hp : p = i.slot (i.f 47 35) (i.f 34 31)) (hfree : i.Free p (Shape.slots sh))
    (hw : mayWrite i.s (d.addr r c) (Shape.bytes sh) = true) (hh : i.HoldsExactly p sh) (ha : isAway i.s (d.addr r c) = true)
    (hm : m = { bareMove i .store (i.f 30 19) with
      shape := some sh, src := tileAddr i.n (512 * p), dst := d.addr r c,
      dstSeal := d.sealAddr r c, carried := recSeal (rd i.s.recs (tileSlot i.n p)),
      bytes := getSlots i.s (tileSlot i.n p) (Shape.slots sh), remote := true }) :
    storeBody i = .done (moveTx (launchMove (readSlots i.s i.n p (Shape.slots sh)) i.n m) i.n m .write m.dst m.dstSeal
      (Shape.bytes sh / 64) m.bytes) := by
  rw [storeBody, withDesc_ok hd hok hin hpl, withTile_ok hr hc hrt hct]
  subst hsh hp hm
  simp only [operand_free hfree, hw, Bool.not_true, Bool.false_eq_true, if_false, check_exactly hh, ha, if_true]

theorem atomBody_sends {a : Nat} (ha : a = (i.x (i.f 55 52)).toNat) (hok : atomOk i.s a = true) (haway : isAway i.s a = true)
    (hm : m = { bareMove i .atom (i.f 30 19) with
      dst := a, reg := i.f 43 40, remote := true,
      bytes := le 8 (i.x (i.f 51 48)).toNat ++ le 8 (i.x (i.f 47 44)).toNat }) :
    atomBody i = .done (moveTx (issuedRemote (launchMove i.s i.n m) i.n) i.n m .atomic a a 1 m.bytes) := by
  subst ha hm
  simp only [atomBody, hok, haway, Bool.not_true, Bool.false_eq_true, if_false, if_true]

theorem msgBody_sends {a : Nat} (ha : a = (i.x (i.f 45 42)).toNat) (haway : isAway i.s a = true)
    (hm : m = { bareMove i .msg (i.f 30 19) with dst := a, remote := true, bytes := i.rowOut }) :
    msgBody i = .done (newTx (issuedRemote (launchMove i.s i.n m) i.n)
      { bareTx .message (.move i.n m.id) (coreDomain i.n) (device a) (bits a 5 0) 2 with data := m.bytes }) := by
  subst ha hm
  have admitted : (!((space (i.x (i.f 45 42)).toNat = 0 && device (i.x (i.f 45 42)).toNat = 0) ||
      space (i.x (i.f 45 42)).toNat = 1)) = false := by simp [isAway_space haway]
  rw [msgBody, admitted]
  simp only [haway, Bool.false_eq_true, if_false, if_true]
  rfl

/-- PUSH with its stack, frame tag and slots in order takes the tile and its seal at issue (R197). -/
theorem pushBody_takes {sh : Shape} {tag : DWord} {p k : Nat} (hsh : sh = i.shape (i.f 52 49)) (hok : shapeOk sh = true)
    (htag : tag = i.x (i.f 31 28)) (hp : p = i.slot (i.f 48 36) (i.f 35 32)) (hk : i.stack = some k) (huse : tagUse tag ≠ 3)
    (hres : bits tag.toNat 58 56 = 0) (hfree : i.Free p (Shape.slots sh)) (hh : i.HoldsExactly p sh) :
    pushBody i = .done (launchMove (readSlots i.s i.n p (Shape.slots sh)) i.n
      { bareMove i .push (i.f 27 16) with
        shape := some sh, src := tileAddr i.n (512 * p),
        carried := recSeal (rd i.s.recs (tileSlot i.n p)), bytes := getSlots i.s (tileSlot i.n p) (Shape.slots sh),
        stack := k, ftag := tag }) := by
  subst hsh htag hp
  rw [pushBody, withShape_ok hok]
  simp only [hk, huse, hres, ne_eq, not_true_eq_false, or_self, if_false, operand_free hfree, check_exactly hh]

/-- Settles O31: each instruction by what its body issues. -/
theorem awayMovesIssue : Obligations.AwayMovesIssue := fun _ =>
  ⟨fun _ _ _ _ _ _ hd hok hin hpl hr hc hrt hct hsh hp hfree hw hh ha hm h =>
      tileInstr_done h (storeBody_sends hd hok hin hpl hr hc hrt hct hsh hp hfree hw hh ha hm),
    fun _ _ ha hok haway hm h => tileInstr_done h (atomBody_sends ha hok haway hm),
    fun _ _ ha haway hm h => tileInstr_done h (msgBody_sends ha haway hm),
    fun _ _ _ _ hsh hok htag hp hk huse hres hfree hh h =>
      tileInstr_done h (pushBody_takes hsh hok htag hp hk huse hres hfree hh)⟩

end Sys2Proof.Machine
end

section
/-! SUPPORT. WAIT, WAIT_SATISFY, SYNC_TIMEOUT and FENCE: when a wait is satisfied, and which moves hold a fence or a signal back
(08_tile_program_isa.md; R198 to R201, R319). -/

namespace Sys2Proof.Machine

variable {i : Ctx} {s t : State} {n sem k since : Nat} {l : Launch} {m : Move}

/-! ### When a wait is satisfied (R199, R201) -/

/-- A core that issues does so under its launch. -/
theorem Issues.launch {op : Nat} (h : Issues op i) : (coreAt i.s i.n).launch = some i.l := by
  obtain ⟨-, hl, -⟩ := h
  exact (Option.ite_none_right_eq_some.1 hl).2

/-- Core `n` has taken sequence number `seq` of a semaphore, and its pair is counted (R201). -/
def countPair (s : State) (n sem seq : Nat) : State := setLaunch s n fun l => { takeSeq l sem with counted := (sem, seq) :: l.counted }

section
variable (hl : (coreAt s n).launch = some l)
include hl

theorem tryWait_counted (h : (sem, nextSeq l sem) ∈ l.counted) : tryWait s n sem k = some (setLaunch s n fun l => takeSeq l sem) := by
  simp [tryWait, hl, h]

variable (h : (sem, nextSeq l sem) ∉ l.counted)
include h

theorem tryWait_takes (hk : k ≤ semGet s n (dieOf n) sem) :
    tryWait s n sem k = some (semTake (countPair s n sem (nextSeq l sem)) n (dieOf n) sem k) := by
  simp [tryWait, hl, h, hk, countPair]

theorem tryWait_short (hk : semGet s n (dieOf n) sem < k) : tryWait s n sem k = none := by
  simp [tryWait, hl, h, Nat.not_le.2 hk]

end

/-! ### WAIT, and a core that waits (R199) -/

theorem waitBody_done (h : tryWait i.s i.n (i.f 55 44) (i.f 43 28) = some t) : waitBody i = .done t := by rw [waitBody, h]

theorem waitBody_waits (h : tryWait i.s i.n (i.f 55 44) (i.f 43 28) = none) : waitBody i =
    .jump (setCore i.s i.n fun c => { c with wait := some (i.f 55 44, i.f 43 28, i.s.time) }) i.l.pc := by rw [waitBody, h]

section
variable (hn : n < 152) (hw : (coreAt s n).wait = some (sem, k, since)) (hl : (coreAt s n).launch = some l)
include hn hw hl

theorem execWaitSatisfy_goesOn (h : tryWait s n sem k = some t) :
    execWaitSatisfy n s = .next (goto (setCore t n fun c => { c with wait := none }) n (l.pc + 1)) := by
  simp only [execWaitSatisfy, onUnit_exists hn, hw, hl, h]

theorem execWaitSatisfy_waits (h : tryWait s n sem k = none) : execWaitSatisfy n s = .next s := by
  simp only [execWaitSatisfy, onUnit_exists hn, hw, hl, h]

/-- A wait that has outlasted its limit stops the core with SYNC. -/
theorem execSyncTimeout_stops (h : tryWait s n sem k = none) (hlim : l.waitLimit ≠ 0) :
    execSyncTimeout n s = .next (stopCore (advance s (since + l.waitLimit * 1000)) n 0 fSync l.pc
      ((coreAt s n).insns.getD l.pc 0) sem none) := by
  simp [execSyncTimeout, onUnit_exists hn, hw, hl, h, hlim]

end

/-! ### What holds a signal or a fence back (R199, R200, R319) -/

theorem writesHere_write (h : m.kind = .store ∨ m.kind = .movem) : writesHere s m = !isAway s m.dst := by
  rcases h with h | h <;> simp only [writesHere, h]

theorem writesHere_request (h : m.kind = .atom ∨ m.kind = .msg) : writesHere s m = !m.remote := by
  rcases h with h | h <;> simp only [writesHere, h]

theorem writesHere_read (h : m.kind = .fetch ∨ m.kind = .gfetch ∨ m.kind = .push ∨ m.kind = .pop) : writesHere s m = true := by
  rcases h with h | h | h | h <;> simp only [writesHere, h]

theorem holdsFence_write (h : m.kind = .store ∨ m.kind = .movem) : holdsFence s n m = (!isAway s m.dst || unsent s n m) := by
  rcases h with h | h <;> simp only [holdsFence, h]

theorem holdsFence_other (hs : m.kind ≠ .signal) (hst : m.kind ≠ .store) (hmv : m.kind ≠ .movem) : holdsFence s n m = true := by
  unfold holdsFence
  split
  · contradiction
  · contradiction
  · contradiction
  · rfl

/-! ### FENCE (R200) -/

theorem fenceBody_passes (h : (i.f 55 52 = 3 ∧ ∀ m ∈ i.c.moves, m.kind = .signal) ∨
    (i.f 55 52 ≠ 3 ∧ ∀ m ∈ i.c.moves, holdsFence i.s i.n m = false)) : fenceBody i = .done i.s := by
  refine if_neg ?_
  obtain ⟨hk, h⟩ | ⟨hk, h⟩ := h
  · simpa [hk] using h
  · simpa [hk] using h

theorem fenceBody_waits (h : (i.f 55 52 = 3 ∧ ∃ m ∈ i.c.moves, m.kind ≠ .signal) ∨
    (i.f 55 52 ≠ 3 ∧ ∃ m ∈ i.c.moves, holdsFence i.s i.n m = true)) : fenceBody i = .stall := by
  refine if_pos ?_
  obtain ⟨hk, h⟩ | ⟨hk, h⟩ := h
  · simpa [hk] using h
  · simpa [hk] using h

/-- Settles O33: a wait by whether its pair is counted and what the semaphore holds, SIGNAL and FENCE by their bodies, what holds them
back by the kind of move. -/
theorem synchronisationResults : Obligations.SynchronisationResults := by
  refine ⟨fun i => ⟨fun m hm h => ?_, fun sem hsem hc h => ?_, fun sem k hsem hk hc h => ⟨fun hle => ?_, fun hlt => ?_⟩,
      fun h => ⟨fun hf => tileInstr_done h (fenceBody_passes hf), fun hf => tileInstr_stall h (fenceBody_waits hf)⟩⟩,
    fun s n m => ⟨writesHere_write, fun h => ⟨writesHere_request h, ?_⟩, holdsFence_write, fun h => ⟨writesHere_read h, ?_⟩⟩,
    fun s n l sem k since hn hw hl => ⟨fun hc => execWaitSatisfy_goesOn hn hw hl (tryWait_counted hl hc),
      fun hc => ⟨fun hle => execWaitSatisfy_goesOn hn hw hl (tryWait_takes hl hc hle),
        fun hlt => ⟨execWaitSatisfy_waits hn hw hl (tryWait_short hl hc hlt),
          execSyncTimeout_stops hn hw hl (tryWait_short hl hc hlt)⟩⟩⟩⟩
  · subst hm
    exact tileInstr_done h rfl
  · subst hsem
    exact tileInstr_done h (waitBody_done (tryWait_counted h.launch hc))
  · subst hsem hk
    exact tileInstr_done h (waitBody_done (tryWait_takes h.launch hc hle))
  · subst hsem hk
    exact tileInstr_jump h (waitBody_waits (tryWait_short h.launch hc hlt))
  · apply holdsFence_other <;> rcases h with h | h <;> simp [h]
  · apply holdsFence_other <;> rcases h with h | h | h | h <;> simp [h]

end Sys2Proof.Machine
end

section
/-! SUPPORT. The activation stacks: POP and SDROP at issue, drain, spill and returns, how a PUSH and a POP end
(09_backward_activation_stack.md; R211 to R221). -/

namespace Sys2Proof.Machine

variable {i : Ctx} {s u : State} {n id k req a : Nat} {m : Move} {st : Stack} {f : Frame} {r : Req} {sh : Shape}

/-! ### POP and SDROP at issue (R209, R217, R218) -/

/-- An instruction whose body waits on `c` changes nothing while `c` holds. -/
theorem tileInstr_waitsWhile {op : Nat} {body : Ctx → Res} {c : Prop} [Decidable c] (h : Issues op i)
    (hb : body i = if c then .stall else .done u) : tileInstr op body i.n i.s = if c then .next i.s else i.ends u := by
  by_cases hc : c
  · rw [if_pos hc] at hb ⊢
    exact tileInstr_stall h hb
  · rw [if_neg hc] at hb ⊢
    exact tileInstr_done h hb

section
variable {tag : DWord} (htag : tag = i.x (i.f 31 28)) (hk : i.stack = some k) (hst : stackAt i.s k = some st)
include htag hk hst

theorem sdropBody_absent (hf : findFrame st tag (stepLow i.l) = none) : sdropBody i = .done i.s := by
  subst htag
  simp only [sdropBody, hk, hst, Option.bind_some, hf]

variable (hf : findFrame st tag (stepLow i.l) = some f)
include hf

theorem sdropBody_present : sdropBody i =
    if f.loc = .spilling ∨ f.loc = .returning ∨ popInFlight i.s k tag = true then .stall else .done (removeFrame i.s k f) := by
  subst htag
  simp only [sdropBody, hk, hst, Option.bind_some, hf]

/-- POP of a frame with a fitting shape and use takes its slots out of seal and starts its move (R217). -/
theorem popBody_starts {e : Entry} {p : Nat} (hsh : sh = i.shape (i.f 52 49)) (hp : p = i.slot (i.f 48 36) (i.f 35 32))
    (hok : shapeOk sh = true) (he : entryOf i.s i.l = some e) (hshape : f.shape = shapeBits sh)
    (huse : useForbidden e.kind (effUse i.s tag) = false) (hfree : i.Free p (Shape.slots sh)) :
    popBody i = .done (startPop (unsealSlots i.s (tileSlot i.n p) (Shape.slots sh)) i.n
      { bareMove i .pop (i.f 27 16) with
        rclass := 1, deadline := i.deadline (i.f 15 14) (i.f 13 10), shape := some sh, slots := [(p, Shape.slots sh)],
        stack := k, ftag := tag } (some f)) := by
  subst hsh hp htag
  rw [popBody, withShape_ok hok]
  simp only [hk, he, hst, hf, hshape, huse, ne_eq, not_true_eq_false, Bool.false_eq_true, if_false, operand_free hfree]

end

section
variable (hu : u = launchMove s n m)
include hu

/-- No request goes out for a dropped frame or past the deadline (R193, R217). -/
theorem startPop_late (h : isLate u m = true ∨ f.loc = .dropped) : startPop s n m (some f) = endLate (spoil u n m) n m true := by
  subst hu
  exact if_pos (by simpa using h)

section
variable (hl : isLate u m = false) (hd : f.loc ≠ .dropped)
include hl hd

theorem startPop_inTime : startPop s n m (some f) =
    if (f.loc = .spilled && m.deadline.any fun d => !admitted u f.addr 0 d) = true then endRefused (spoil u n m) n m else u := by
  subst hu
  exact if_neg (by simp [hl, hd])

theorem startPop_unrefused (h : f.loc ≠ .spilled ∨ m.deadline = none) : startPop s n m (some f) = u := by
  rw [startPop_inTime hu hl hd, if_neg]
  rcases h with h | h <;> simp [h]

/-- The request of a class D move for a spilled frame passes admission (R279). -/
theorem startPop_spilled {d : Nat} (hs : f.loc = .spilled) (hdl : m.deadline = some d) : startPop s n m (some f) =
    if admitted u f.addr 0 d then u else endRefused (spoil u n m) n m := by
  rw [startPop_inTime hu hl hd, hs, hdl]
  cases h : admitted u f.addr 0 d <;> simp [h]

end

end

/-! ### The check of a frame (R100, R104) -/

/-- The head record of a frame in the top buffer names its shape and its seal. -/
def RecordNames (s : State) (f : Frame) : Prop :=
  recCheck (rd s.recs (slotAt f.addr)) (shapeOf f.shape) true = none ∧ recSeal (rd s.recs (slotAt f.addr)) = f.crc

theorem topRefused_none (h : RecordNames s f) (unit die : Nat) : topRefused s f unit die = none := by
  obtain ⟨hrec, hseal⟩ := h
  simp only [topRefused, hrec, hseal, if_true]

/-- Nothing is found against the head record of a frame that is not in the top buffer, or whose record names it. -/
theorem topCheck_none (h : f.loc = .top → RecordNames s f) (unit die : Nat) :
    (if f.loc = .top then topRefused s f unit die else none) = none := by
  split
  · next ht => exact topRefused_none (h ht) unit die
  · rfl

theorem frameCheck_passes (hb : frameBad s f = none) (hs : sealOf (shapeOf f.shape) (frameData s f) = f.crc)
    (ht : f.loc = .top → RecordNames s f) (unit die : Nat) : frameCheck s f unit die true = (true, s) := by
  simp only [frameCheck, topCheck_none ht, hb, hs, Option.isSome_none, Bool.false_eq_true, ne_eq, not_true_eq_false, if_false, if_true]

/-! ### The commands of a stack unit -/

theorem onStack_exists (hk : k < 128) (g : State → Nat → State) : onStack s k g = .next (g s k) := if_pos hk

section
variable {t : State} (hk : k < 128)
include hk

theorem exec_stackDrain (h : stackDrain s k = t) : exec (.stackDrain k) s = .next t := h ▸ onStack_exists hk stackDrain

theorem exec_stackSpill (h : stackSpill s k = t) : exec (.stackSpill k) s = .next t := h ▸ onStack_exists hk stackSpill

theorem exec_frameReturn {ok : Bool} (h : frameReturn s k req ok = t) : exec (.frameReturn k req ok) s = .next t :=
  h ▸ onStack_exists hk fun s k => frameReturn s k req ok

theorem exec_returnDeadline (h : returnDeadline s k req = t) : exec (.returnDeadline k req) s = .next t :=
  h ▸ onStack_exists hk fun s k => returnDeadline s k req

end

/-! ### STACK_DRAIN (R214, R215) -/

section
variable (hst : stackAt s k = some st)
include hst

theorem stackDrain_empty (h : nextDrain st = none) : stackDrain s k = s := by
  simp only [stackDrain, hst, h]

section
variable (hd : nextDrain st = some f)
include hd

theorem stackDrain_full (hb : bodyFit st f = none) : stackDrain s k = if canSpill s st then s else dropFrame s k f := by
  simp only [stackDrain, hst, hd, hb]

variable (hb : bodyFit st f = some a)
include hb

theorem stackDrain_held (hh : heldRange s a (frameBytes f) = true) : stackDrain s k = s := by
  simp only [stackDrain, hst, hd, hb, hh, if_true]

variable (hh : heldRange s a (frameBytes f) = false)
include hh

theorem stackDrain_moves (hc : frameCheck s f (memUnit s a) st.die true = (true, u)) : stackDrain s k =
    putFrame (unsealSlots (writeLocal u a (frameData u f)) (slotAt f.addr) f.size) k { f with loc := .body, addr := a } := by
  simp only [stackDrain, hst, hd, hb, hh, hc, Bool.false_eq_true, if_false]

theorem stackDrain_drops (hc : frameCheck s f (memUnit s a) st.die true = (false, u)) : stackDrain s k = dropFrame u k f := by
  simp only [stackDrain, hst, hd, hb, hh, hc, Bool.false_eq_true, if_false]

end

end

/-! ### STACK_SPILL (R214, R215) -/

/-- Turning the spilling of a stack on or off changes nothing that decides whether its body has to give up frames. -/
theorem mustSpill_setStack (g : Stack → Stack) : mustSpill (setStack s k g) st = mustSpill s st := rfl

section
variable (hst : stackAt s k = some st)
include hst

section
variable (hf : st.frames.find? (fun f => f.loc = .spilling) = some f)
include hf

theorem stackSpill_held (hh : heldRange s f.addr (frameBytes f) = true) : stackSpill s k = s := by
  simp only [stackSpill, hst, hf, hh, if_true]

/-- The frame that is spilling arrives, or fails its check and is dropped. -/
theorem stackSpill_arrives {ok : Bool} (hh : heldRange s f.addr (frameBytes f) = false)
    (hc : frameCheck s f (memUnit s f.dest) st.die true = (ok, u)) : stackSpill s k =
      if ok then putFrame (writeLocal u f.dest (frameData u f)) k { f with loc := .spilled, addr := f.dest, dest := 0 }
      else dropFrame u k f := by
  cases ok <;> simp only [stackSpill, hst, hf, hh, hc, Bool.false_eq_true, if_false, if_true]

end

section
variable (hf : st.frames.find? (fun f => f.loc = .spilling) = none)
  (hu : u = setStack s k (fun x => { x with spilling := decide (st.high * st.bodyLen < 100 * occupancy st) ||
    (st.spilling && decide (st.low * st.bodyLen < 100 * occupancy st)) }))
include hf hu

theorem stackSpill_idle (hm : mustSpill s st = false) : stackSpill s k = u := by
  subst hu
  simp only [stackSpill, hst, hf, mustSpill_setStack, hm, Bool.not_false, if_true]

theorem stackSpill_starts (hm : mustSpill s st = true) (hn : nextSpill u st = some f) (ha : spillFit st f = some a) :
    stackSpill s k = putFrame u k { f with loc := .spilling, dest := a } := by
  subst hu
  simp only [stackSpill, hst, hf, mustSpill_setStack, hm, hn, ha, Bool.not_true, Bool.false_eq_true, if_false]

end

/-! ### FRAME_RETURN and RETURN_DEADLINE (R215, R216, R280) -/

section
variable {ok : Bool} (hf : st.frames.find? (fun f => f.loc = .returning) = some f)
include hf

theorem frameReturn_held (hh : heldRange s f.dest (frameBytes f) = true) : frameReturn s k req ok = s := by
  simp only [frameReturn, hst, hf, landReturn, hh, if_true]

/-- The frame that is returning lands in the body, or fails its check and is dropped. -/
theorem frameReturn_lands {pass : Bool} (hh : heldRange s f.dest (frameBytes f) = false)
    (hc : frameCheck s f (memUnit s f.dest) st.die ok = (pass, u)) : frameReturn s k req ok =
      if pass then putFrame (writeLocal u f.dest (frameData u f)) k { f with loc := .body, addr := f.dest, dest := 0 }
      else dropFrame u k f := by
  cases pass <;> simp only [frameReturn, hst, hf, landReturn, hh, hc, Bool.false_eq_true, if_false, if_true]

end

section
variable {ok : Bool} (hf : st.frames.find? (fun f => f.loc = .returning) = none) (hr : st.reqs.find? (fun r => r.num = req) = some r)
  (hn : nextReturn st r = some f) (hl : liveReq s r = true) (hrf : r.refused = false)
include hf hr hn hl hrf

theorem frameReturn_refuses (h : r.deadline.any (fun d => !admitted s f.addr (frameBytes f) d) = true) :
    frameReturn s k req ok = refuseReturn s k req := by
  simp only [frameReturn, hst, hf, hr, hn, hl, hrf, h, Bool.not_true, Bool.or_self, Bool.false_eq_true, if_false, if_true]

theorem frameReturn_starts (h : r.deadline.any (fun d => !admitted s f.addr (frameBytes f) d) = false) (ha : bodyFit st f = some a) :
    frameReturn s k req ok = putFrame s k { f with loc := .returning, dest := a } := by
  simp only [frameReturn, hst, hf, hr, hn, hl, hrf, h, ha, Bool.not_true, Bool.or_self, Bool.false_eq_true, if_false]

end

theorem returnDeadline_ends {d : Nat} (hr : st.reqs.find? (fun r => r.num = req) = some r) (hd : r.deadline = some d) :
    returnDeadline s k req = setStack (advance s d) k fun st => { st with reqs := st.reqs.filter fun x => x.num ≠ req } := by
  simp only [returnDeadline, hst, Option.bind_some, hr, hd]

end

/-! ### What the stack unit makes of a pushed tile (R213, R220) -/

section
variable {step : Nat} (hst : stackAt s k = some st)
include hst

section
variable (hf : findFrame st m.ftag step = some f)
include hf

/-- A frame under way makes the push of its tag wait. -/
theorem takePush_underway (h : f.loc = .spilling ∨ f.loc = .returning) : takePush s k m step = none := by
  simp only [takePush, hst, hf, h, if_true]

section
variable (h1 : f.loc ≠ .spilling) (h2 : f.loc ≠ .returning)
include h1 h2

theorem takePush_same (hc : f.crc = m.carried) : takePush s k m step = some s := by
  simp only [takePush, hst, hf, h1, h2, hc, or_self, if_false, if_true]

/-- A frame with another seal is replaced where the top buffer has room, and the divergence is recorded. -/
theorem takePush_replaces (hc : f.crc ≠ m.carried) : takePush s k m step =
    (fit st.topBase st.topLen (topUsed st) (Shape.bytes (moveShape m))).map fun a =>
      diverged (placeFrame (setStack (removeFrame s k f) k fun x => { x with nextSeq := (takePushSeq st step).2.nextSeq }) k m f.slot a
        step (takePushSeq st step).1) st.num m.ftag := by
  simp only [takePush, hst, hf, h1, h2, hc, or_self, if_false]

end

end

section
variable (hf : findFrame st m.ftag step = none)
include hf

theorem takePush_overflows (hs : freeEntry st m.ftag = none) : takePush s k m step =
    some (reportDrop (setStack s k fun st => { st with overflow := true }) m.ftag) := by
  simp only [takePush, hst, hf, hs]

/-- A new frame takes the free entry where the top buffer has room. -/
theorem takePush_stores {slot : Nat} (hs : freeEntry st m.ftag = some slot) : takePush s k m step =
    (fit st.topBase st.topLen (topUsed st) (Shape.bytes (moveShape m))).map fun a =>
      placeFrame (setStack s k fun x => { x with nextSeq := (takePushSeq st step).2.nextSeq }) k m slot a step
        (takePushSeq st step).1 := by
  simp only [takePush, hst, hf, hs]

end

end

/-! ### A pop that is taken (R218, R219) -/

section
variable {kind : Nat}

theorem popTaken_first (h2 : effUse s f.tag = 2) (hk : kind ≠ 3) (hp : f.pops = 0) :
    popTaken s k f kind = putFrame s k { f with pops := 1 } := by
  simp only [popTaken, h2, hk, hp, ne_eq, not_false_eq_true, and_self, and_true, and_false, if_true, if_false]

theorem popTaken_unpopped (h2 : effUse s f.tag = 2) (hk : kind = 3) (hp : f.pops = 0) :
    popTaken s k f kind = removeFrame { s with tel := { s.tel with unpopped := s.tel.unpopped + 1 } } k f := by
  simp only [popTaken, h2, hk, hp, ne_eq, not_true_eq_false, and_self, and_true, and_false, if_true, if_false]

/-- A frame of one pop, or of two of which one is taken, goes. -/
theorem popTaken_last (h : effUse s f.tag ≠ 2 ∨ f.pops ≠ 0) : popTaken s k f kind = removeFrame s k f := by
  rcases h with h | h <;> simp only [popTaken, h, and_false, false_and, if_false]

end

/-! ### The end of a PUSH (R213, R223) -/

section
variable {step : Nat} (hk : m.kind = .push)
include hk

section
variable (hs : sealOf (moveShape m) m.bytes = m.carried)
include hs

/-- A frame that only W would read of a frozen layer is not kept. -/
theorem endMove_push_frozen (hu : tagUse m.ftag = 1) (hl : layerMode s (tagLayer m.ftag) = 1) :
    endMove s n m .arrived = closeMove (stepCount s 0) n m := by
  rw [endMove, hk]
  simp only [endPush, sealCheck_good hs, hu, hl, and_self, if_true, if_false, reduceCtorEq]
  rfl

theorem endMove_push_taken (h : tagUse m.ftag ≠ 1 ∨ layerMode s (tagLayer m.ftag) ≠ 1) (hstep : step = (coreAt s n).launch.elim 0 stepLow) :
    endMove s n m .arrived = (takePush s m.stack m step).elim s fun u => closeMove (stepCount u 0) n m := by
  subst hstep
  rw [endMove, hk]
  simp only [endPush, sealCheck_good hs, not_and_or.2 h, if_false, reduceCtorEq]
  cases takePush s m.stack m ((coreAt s n).launch.elim 0 stepLow) <;> rfl

end

theorem endMove_push_failed : endMove s n m .failed = endLost s n m m.src := by
  rw [endMove, hk]
  simp only [endPush, reduceCtorEq, if_false, if_true]

theorem endMove_push_uncorrectable : endMove s n m .uncorrectable = ownTileError s n m := by
  rw [endMove, hk]
  simp only [endPush, if_true]

end

/-! ### The read of a frame by a POP (R93, R100, R104) -/

section
variable {kind : Nat}

/-- An uncorrectable error of the top buffer is a seal fault of kind 4. -/
theorem endPopFrame_uncorrectable (ht : f.loc = .top) (hn : RecordNames s f) : endPopFrame s k st f n m kind .uncorrectable =
    endLate (spoil (logSeal s (sealRecord s (frameSource f) (unitId 2 (dieOf n) n) f.crc 0 4 (moveShape m))) n m) n m true := by
  simp only [endPopFrame, ht, topRefused_none hn, readFrame, if_true, decide_true, reduceCtorEq, if_false]

/-- A frame whose memory answers without an error. -/
theorem readFrame_arrived (h : f.loc ≠ .top → badGranule s f.addr (frameBytes f) = none) : readFrame s f .arrived = (false, s) := by
  by_cases ht : f.loc = .top
  · simp only [readFrame, ht, if_true, reduceCtorEq, decide_false, if_false]
  · simp only [readFrame, ht, if_false, readRange_arrived (h ht), Option.isSome_none]

/-- What a POP of a whole frame leaves: its tile in the destination slots, the pop taken, the move ended. -/
def popLanded (s : State) (f : Frame) (n : Nat) (m : Move) (kind : Nat) : State :=
  let p := (m.slots.headD (0, 0)).1
  closeMove (popTaken (ownSlots (putTile s (tileSlot n p) (moveShape m) (frameData s f) f.crc) n p (Shape.slots (moveShape m)))
    m.stack f kind) n m

theorem endPopFrame_lands (ht : f.loc = .top → RecordNames s f) (hb : f.loc ≠ .top → badGranule s f.addr (frameBytes f) = none)
    (hs : sealOf (moveShape m) (frameData s f) = f.crc) :
    endPopFrame s m.stack st f n m kind .arrived = popLanded s f n m kind := by
  simp only [endPopFrame, topCheck_none ht, readFrame_arrived hb, sealCheck_good hs]
  rfl

end

/-! ### The end of a POP (R215, R217, R221) -/

section
variable {o : MoveOutcome} {step : Nat} (hk : m.kind = .pop) (hst : stackAt s m.stack = some st)
include hk hst

theorem endMove_pop_late (hl : isLate s m = true) : endMove s n m o = endLate (spoil s n m) n m true := by
  rw [endMove, hk]
  simp only [endPop, hst, hl, if_true]

variable (hl : isLate s m = false) (hstep : step = (coreAt s n).launch.elim 0 stepLow)
include hl hstep

section
variable (hf : findFrame st m.ftag step = none)
include hf

theorem endMove_pop_overflowed (ho : st.overflow = true) : endMove s n m o = endLate (spoil s n m) n m true := by
  subst hstep
  rw [endMove, hk]
  simp only [endPop, hst, hl, hf, ho, Bool.false_eq_true, if_false, if_true]

/-- A tag that is not there is fault STACK of cause 1. -/
theorem endMove_pop_absent (ho : st.overflow = false) (hrun : (coreAt s n).stop = none) : endMove s n m o =
    closeMove (stopCore s n 0 fStack m.index m.word (2 ^ 60 + 2 ^ 57 * st.num + bits m.ftag.toNat 56 0) none) n m := by
  subst hstep
  rw [endMove, hk, ← stopMove_running hrun]
  simp only [endPop, hst, hl, hf, ho, Bool.false_eq_true, if_false]

end

section
variable (hf : findFrame st m.ftag step = some f)
include hf

theorem endMove_pop_returning (hr : f.loc = .returning) : endMove s n m o = s := by
  subst hstep
  rw [endMove, hk]
  simp only [endPop, hst, hl, hf, hr, Bool.false_eq_true, if_false]

theorem endMove_pop_dropped (hd : f.loc = .dropped) : endMove s n m o = endLate (spoil s n m) n m true := by
  subst hstep
  rw [endMove, hk]
  simp only [endPop, hst, hl, hf, hd, Bool.false_eq_true, if_false]

/-- A frame that lies somewhere is read, unless the transfer fails. -/
theorem endMove_pop_reads (hr : f.loc ≠ .returning) (hd : f.loc ≠ .dropped) : endMove s n m o =
    if o = .failed then endLate (spoil s n m) n m true
    else endPopFrame s m.stack st f n m (((coreAt s n).launch.bind (entryOf s)).elim 0 (·.kind)) o := by
  subst hstep
  rw [endMove, hk]
  simp only [endPop, hst, hl, hf, Bool.false_eq_true, if_false]

theorem endMove_pop_failed (hr : f.loc ≠ .returning) : endMove s n m .failed = endLate (spoil s n m) n m true := by
  by_cases hd : f.loc = .dropped
  · exact endMove_pop_dropped hk hst hl hstep hf hd
  · exact (endMove_pop_reads hk hst hl hstep hf hr hd).trans (if_pos rfl)

theorem endMove_pop_uncorrectable (ht : f.loc = .top) (hn : RecordNames s f) : endMove s n m .uncorrectable =
    endLate (spoil (logSeal s (sealRecord s (frameSource f) (unitId 2 (dieOf n) n) f.crc 0 4 (moveShape m))) n m) n m true :=
  (endMove_pop_reads hk hst hl hstep hf (by simp [ht]) (by simp [ht])).trans (endPopFrame_uncorrectable ht hn)

variable {kind : Nat} (hs : sealOf (moveShape m) (frameData s f) = f.crc)
  (hkind : kind = ((coreAt s n).launch.bind (entryOf s)).elim 0 (·.kind))
include hs hkind

theorem endMove_pop_top (ht : f.loc = .top) (hn : RecordNames s f) : endMove s n m .arrived = popLanded s f n m kind := by
  subst hkind
  exact (endMove_pop_reads hk hst hl hstep hf (by simp [ht]) (by simp [ht])).trans
    (endPopFrame_lands (fun _ => hn) (fun h => absurd ht h) hs)

theorem endMove_pop_memory (hm : f.loc = .body ∨ f.loc = .spilled ∨ f.loc = .spilling)
    (hb : badGranule s f.addr (frameBytes f) = none) : endMove s n m .arrived = popLanded s f n m kind := by
  subst hkind
  have there : f.loc ≠ .returning ∧ f.loc ≠ .dropped ∧ f.loc ≠ .top := by rcases hm with h | h | h <;> simp [h]
  obtain ⟨hr, hd, ht⟩ := there
  exact (endMove_pop_reads hk hst hl hstep hf hr hd).trans (endPopFrame_lands (fun h => absurd h ht) (fun _ => hb) hs)

end

end

/-- Settles O34: each instruction, each command of the stack unit and each end of a move by the lemma on its case. -/
theorem stackUnitMovesFrames : Obligations.StackUnitMovesFrames := by
  refine ⟨fun i sh tag p n k e st f hsh htag hp hn hk hst => ?_, fun s n m f u hu => ⟨startPop_late hu, fun hl hd =>
      ⟨startPop_unrefused hu hl hd, fun d => startPop_spilled hu hl hd⟩⟩, fun s k st hk hst => ?_,
    fun s f unit die hb hs ht => frameCheck_passes hb hs ht unit die, fun s n id m sh step hn hf hw hsh hstep => ?_,
    fun s k m step st hst => ?_, fun s k f kind two htwo => ?_⟩
  · subst hn
    exact ⟨fun hf h => tileInstr_done h (sdropBody_absent htag hk hst hf), fun hf =>
      ⟨fun hok he hshape huse hfree h => tileInstr_done h (popBody_starts htag hk hst hf hsh hp hok he hshape huse hfree),
        fun h => tileInstr_waitsWhile h (sdropBody_present htag hk hst hf)⟩⟩
  · exact ⟨fun h => exec_stackDrain hk (stackDrain_empty hst h),
      fun f a hd hb => ⟨fun hh => exec_stackDrain hk (stackDrain_held hst hd hb hh),
        fun u hh hc => exec_stackDrain hk (stackDrain_moves hst hd hb hh hc),
        fun u hh hc => exec_stackDrain hk (stackDrain_drops hst hd hb hh hc)⟩,
      fun f hd hb => exec_stackDrain hk (stackDrain_full hst hd hb),
      fun f hf => ⟨fun hh => exec_stackSpill hk (stackSpill_held hst hf hh),
        fun ok u hh hc => exec_stackSpill hk (stackSpill_arrives hst hf hh hc)⟩,
      fun u hf hu => ⟨fun hm => exec_stackSpill hk (stackSpill_idle hst hf hu hm),
        fun f a hm hn ha => exec_stackSpill hk (stackSpill_starts hst hf hu hm hn ha)⟩,
      fun req f ok hf => ⟨fun hh => exec_frameReturn hk (frameReturn_held hst hf hh),
        fun pass u hh hc => exec_frameReturn hk (frameReturn_lands hst hf hh hc)⟩,
      fun req r f ok hf hr hn hl hrf => ⟨fun h => exec_frameReturn hk (frameReturn_refuses hst hf hr hn hl hrf h),
        fun a h ha => exec_frameReturn hk (frameReturn_starts hst hf hr hn hl hrf h ha)⟩,
      fun req r d hr hd => exec_returnDeadline hk (returnDeadline_ends hst hr hd)⟩
  · subst hsh
    have pushEnds {o : MoveOutcome} {t : State} (hk : m.kind = .push) (h : endMove s n m o = t) : exec (.moveEnd n id o) s = .next t :=
      exec_moveEnd_plain hn hf hw (.inl (by simp [hk])) h
    have popEnds {o : MoveOutcome} {t : State} (hk : m.kind = .pop) (h : endMove s n m o = t) : exec (.moveEnd n id o) s = .next t :=
      exec_moveEnd_plain hn hf hw (.inl (by simp [hk])) h
    refine ⟨fun hk hs => ⟨fun hu hl => pushEnds hk (endMove_push_frozen hk hs hu hl),
        fun h => pushEnds hk (endMove_push_taken hk hs h hstep)⟩, fun hk => pushEnds hk (endMove_push_failed hk),
      fun hk => pushEnds hk (endMove_push_uncorrectable hk),
      fun st o hk hst => ⟨fun hl => popEnds hk (endMove_pop_late hk hst hl),
        fun hl hf => ⟨fun ho => popEnds hk (endMove_pop_overflowed hk hst hl hstep hf ho),
          fun ho hrun => popEnds hk (endMove_pop_absent hk hst hl hstep hf ho hrun)⟩,
        fun f hl hf => ⟨fun hr => popEnds hk (endMove_pop_returning hk hst hl hstep hf hr),
          fun hd => popEnds hk (endMove_pop_dropped hk hst hl hstep hf hd),
          fun hr => popEnds hk (endMove_pop_failed hk hst hl hstep hf hr),
          fun ht hrec hseal => popEnds hk (endMove_pop_uncorrectable hk hst hl hstep hf ht ⟨hrec, hseal⟩),
          fun p kind hloc hs hp hkind => popEnds hk ?_⟩⟩⟩
    subst hp
    rcases hloc with ⟨ht, hn⟩ | ⟨hm, hb⟩
    · exact endMove_pop_top hk hst hl hstep hf hs hkind ht hn
    · exact endMove_pop_memory hk hst hl hstep hf hs hkind hm hb
  · refine ⟨fun f hf => ⟨takePush_underway hst hf, takePush_same hst hf, fun h1 h2 hc => ?_⟩,
      fun hf => ⟨takePush_overflows hst hf, fun slot hs => ?_⟩⟩
    · rw [takePush_replaces hst hf h1 h2 hc]
      exact ⟨fun ha => ha ▸ rfl, fun a ha => ha ▸ rfl⟩
    · rw [takePush_stores hst hf hs]
      exact ⟨fun ha => ha ▸ rfl, fun a ha => ha ▸ rfl⟩
  · subst htwo
    exact ⟨popTaken_first, popTaken_unpopped, popTaken_last⟩

end Sys2Proof.Machine
end

section
/-! SUPPORT. JOB_START: the step that it may name, the walk that it begins, and the job that a restore leaves
(10_pipeline_sequencer.md, R229, R233; 16_resilience.md, R403, R454). -/

namespace Sys2Proof.Machine

variable {s : State} {mb : Nat} {c : Cmd} {n : Nat}

/-! ### The step that JOB_START names (R229) -/

theorem nextStep_committed {k : Nat} (hk : s.res.committed = some k) : nextStep s = k + 1 := by
  rw [nextStep, hk, Option.elim_some]

section
variable (hn : n = c.arg0.toNat) (hc : clean c (2 ^ 48 - 1) 0 false = true)
  (ht : tableStop s (s.job.swap.getD s.job.schedule) = none) (hl : s.res.lost = false)
include hn hc ht hl

theorem jobStartBody_loaded (hp : s.job.phase = .loaded) : jobStartBody mb c s = finish (startJob s n) mb c 0 :=
  (jobStartBody_fits hn hc (by simp [jobIn, hp]) ht hl).trans (if_neg fun h => h.1 hp)

/-- A job that has run goes on with the step after its last committed one, and with no other. -/
theorem jobStartBody_resumes (hp : s.job.phase = .stopped ∨ s.job.phase = .held) {k : Nat} (hk : s.res.committed = some k) :
    jobStartBody mb c s = if n = k + 1 then finish (startJob s n) mb c 0 else finish s mb c stJobStep := by
  have admitted : jobIn s [.loaded, .stopped, .held] = true := by rcases hp with h | h <;> simp [jobIn, h]
  have ran : s.job.phase ≠ .loaded := by rcases hp with h | h <;> simp [h]
  rw [jobStartBody_fits hn hc admitted ht hl, nextStep_committed hk]
  simp only [ran, ne_eq, not_false_eq_true, true_and, ite_not]

end

/-! ### The walk begins (R233, R238, R454) -/

/-- Every entry of the table that the walk follows is pending. -/
theorem startWalk_walk : (startWalk s n).job.walk = (startWalk s n).job.table.map fun _ => freshEntry := rfl

/-- The walk follows the loaded table of its number. -/
theorem startWalk_table {e : List Entry} (h : findTable s (s.job.swap.getD s.job.schedule) = some e) :
    (startWalk s n).job.table = e := by
  obtain ⟨t, found, rfl⟩ := Option.map_eq_some_iff.1 h
  show Option.elim (s.tables.find? _) _ _ = t.2
  rw [found, Option.elim_some]

theorem startWalk_opens : ∃ r, (startWalk s n).tel.stepRec = some r ∧ r.step = n ∧ r.seq = s.tel.nextSeq ∧ r.start = s.time :=
  ⟨_, rfl, rfl, rfl, rfl⟩

/-- Before its walk begins, JOB_START changes the job's length tables and the record of its commits alone (R237, R377). -/
theorem startJob_walks : ∃ lengths res, startJob s n = startWalk { s with job := { s.job with lengths }, res } n := by
  by_cases hp : s.job.phase = .loaded
  · exact ⟨_, _, by rw [startJob, if_pos hp]; rfl⟩
  · exact ⟨s.job.lengths, _, by rw [startJob, if_neg hp]; rfl⟩

/-- Settles O37: which step starts by what JOB_START's body asks in each phase, what starts by the walk that begins. -/
theorem jobStartNamesItsStep : Obligations.JobStartNamesItsStep := by
  refine ⟨fun s mb tag c n hn h hc ht hl => ⟨fun hp => h.answers (jobStartBody_loaded hn hc ht hl hp),
      fun hp k hk => ⟨fun he => ?_, fun he => ?_⟩⟩, fun s n => ?_, fun s b r => ⟨rfl, rfl⟩⟩
  · exact h.answers ((jobStartBody_resumes hn hc ht hl hp hk).trans (if_pos he))
  · exact h.answers ((jobStartBody_resumes hn hc ht hl hp hk).trans (if_neg he))
  · obtain ⟨lengths, res, hs⟩ := startJob_walks (s := s) (n := n)
    rw [hs]
    refine ⟨rfl, rfl, rfl, rfl, fun x hx => ?_, ?_, fun e he => startWalk_table he, startWalk_opens, rfl, rfl, rfl, rfl, rfl, rfl⟩
    · rw [startWalk_walk] at hx
      obtain ⟨_, -, rfl⟩ := List.mem_map.1 hx
      rfl
    · rw [startWalk_walk, List.length_map]

end Sys2Proof.Machine
end

section
/-! SUPPORT. A write of HBM bytes: what it leaves in memory, of the poison and in the telemetry (11_hbm.md; R244, R249, R255). -/

namespace Sys2Proof.Machine

variable {s : State} {a : Nat} {bs : List Byte}

/-! ### Bytes and poison (R244, R249, R255) -/

/-- Of the bytes that a masked write covers, those that the mask lets through change; every other byte stands. -/
theorem rd_writeMasked (m : Mem) (keep : Nat → Bool) (b : Nat) :
    rd (writeMasked m a bs keep) b = if a ≤ b ∧ b < a + bs.length ∧ keep (b - a) = true then bs.getD (b - a) 0 else rd m b := by
  rw [writeMasked, rd_writeRun, List.length_mapIdx]
  by_cases hb : a ≤ b ∧ b < a + bs.length
  · have inside : b - a < bs.length := by omega
    have back : a + (b - a) = b := by omega
    rw [if_pos hb]
    cases hk : keep (b - a) <;> simp [hb, hk, inside, back, List.getD]
  · rw [if_neg hb, if_neg fun h => hb ⟨h.1, h.2.1⟩]

theorem deadAt_sound (hh : s.hbm.failed = []) (hl : s.lpddr.failed = []) (b : Nat) : deadAt s b = false := by simp [deadAt, hh, hl]

theorem clearPoison_eq (a n : Nat) :
    clearPoison s a n = { s with poison := s.poison.filter fun g => !(a ≤ g && g + 64 ≤ a + n) || deadAt s g } := by
  by_cases hp : s.poison = []
  · have kept (keep : Nat → Bool) : s.poison.filter keep = s.poison := by rw [hp, List.filter_nil]
    rw [clearPoison, if_pos (List.isEmpty_iff.2 hp), kept]
  · rw [clearPoison, if_neg (mt List.isEmpty_iff.1 hp)]

/-- A write of physical bytes: the memory after it, the poison that it does not cover, and the poison reads that it makes. -/
theorem writePhys_eq : writePhys s a bs = { (partPoisoned s a bs.length).foldl uncorrectable s with
    dram := if s.hbm.failed.isEmpty && s.lpddr.failed.isEmpty then writeRun s.dram a bs
      else writeMasked s.dram a bs fun i => !deadAt s (a + i)
    poison := s.poison.filter fun g => !(a ≤ g && g + 64 ≤ a + bs.length) || deadAt s g } := by
  rw [writePhys, uncorrectables_tel (partPoisoned s a bs.length) s, clearPoison_eq]
  rfl

/-- A write of physical bytes lands on every byte that it covers but those of a failed channel. -/
theorem rd_writePhys (b : Nat) : rd (writePhys s a bs).dram b =
    if a ≤ b ∧ b < a + bs.length ∧ deadAt s b = false then bs.getD (b - a) 0 else rd s.dram b := by
  rw [writePhys_eq]
  by_cases hf : s.hbm.failed = [] ∧ s.lpddr.failed = []
  · simp [hf, rd_writeRun, deadAt_sound hf.1 hf.2 b]
  · rw [if_neg (by simpa using hf), rd_writeMasked]
    refine if_congr (and_congr_right fun ha => ?_) rfl rfl
    rw [Nat.add_sub_cancel' ha, Bool.not_eq_true']

theorem readRun_writePhys (hh : s.hbm.failed = []) (hl : s.lpddr.failed = []) : readRun (writePhys s a bs).dram a bs.length = bs := by
  rw [writePhys_eq, if_pos (by simp [hh, hl]), readRun_writeRun]

/-- A poisoned granule of a channel that works loses its poison to a write that covers it whole. -/
theorem mem_poison_writePhys {g : Nat} (hg : g ∈ s.poison) (hd : deadAt s g = false) :
    g ∈ (writePhys s a bs).poison ↔ ¬(a ≤ g ∧ g + 64 ≤ a + bs.length) := by
  simp [writePhys_eq, hg, hd, -not_and, not_and_or]

/-- Settles O50: in HBM a write is one of physical bytes, whose bytes, poison and poison reads have a lemma each. -/
theorem memoryReadsWhatWasWritten : Obligations.MemoryReadsWhatWasWritten := by
  intro s a bs ha hn
  refine ⟨_, writeLocal_hbm hn ha, readRun_writePhys, fun i hi => ?_, fun b hb => ?_, fun g => mem_poison_writePhys, ?_⟩
  · rw [rd_writePhys, Nat.add_sub_cancel_left]
    cases deadAt s (a + i) <;> simp [hi]
  · rw [rd_writePhys, if_neg (by omega)]
  · rw [writePhys_eq]

end Sys2Proof.Machine
end

section
/-! SUPPORT. The survey of the memory interfaces: the patrol scrub and its counts, lane repair, re-centring, recovery, and the windows of
HBM and LPDDR channels (11_hbm.md, R248, R251 to R258; 12_memory_tiers.md, R290, R291). -/

namespace Sys2Proof.Machine

variable {s : State} {ch pc lane : Nat}

/-! ### Scrub (R248, R251) -/

section
variable {scrubs : Bool} {g : Nat} {first second : List (Nat × Sym)}

theorem hbmRead_clean (hd : hbmDecoded s g first = .clean) :
    hbmRead s scrubs g first second = (false, endStreak s (hbmDecode s g).1 (hbmDecode s g).2.1) := by
  simp only [hbmRead, hd]

theorem hbmRead_corrected {l : Nat} (hd : hbmDecoded s g first = .corrected l) : hbmRead s scrubs g first second =
    (false, laneHit (hbmAccess s (if scrubs then 9 else 0) g l) (hbmDecode s g).1 (hbmDecode s g).2.1 l) := by
  simp only [hbmRead, hd]

section
variable {u : State} (hd : hbmDecoded s g first = .bad) (hu : u = endStreak s (hbmDecode s g).1 (hbmDecode s g).2.1)
include hd hu

/-- An uncorrectable read is made once more; when the scrub finds the second uncorrectable too, it poisons the granule. -/
theorem hbmRead_bad_twice (h : hbmDecoded u g second = .bad) :
    hbmRead s true g first second = (true, hbmAccess { u with poison := g :: u.poison } 10 g noLane) := by
  subst hu
  simp only [hbmRead, hd, h, if_true]

theorem hbmRead_bad_once (h : hbmDecoded u g second ≠ .bad) : hbmRead s scrubs g first second = (false, hbmAccess u 1 g noLane) := by
  subst hu
  simp only [hbmRead, hd, h, if_false]

end

/-- The scrub reads granule `n` next. -/
def scrubTo (s : State) (n : Nat) : State := { s with hbm := { s.hbm with scrub := n } }

@[simp] theorem scrubTo_failed (n : Nat) : (scrubTo s n).hbm.failed = s.hbm.failed := rfl
@[simp] theorem scrubTo_held (n : Nat) : (scrubTo s n).hbm.held = s.hbm.held := rfl
@[simp] theorem scrubTo_poison (n : Nat) : (scrubTo s n).poison = s.poison := rfl
@[simp] theorem hbmDecode_scrubTo (n a : Nat) : hbmDecode (scrubTo s n) a = hbmDecode s a := rfl

/-- The scrub has gone on to the granule after the one that it reads. -/
def scrubMoved (s : State) : State := scrubTo s (nextGranule s s.hbm.scrub)

@[simp] theorem hbmDecode_scrubMoved (a : Nat) : hbmDecode (scrubMoved s) a = hbmDecode s a := hbmDecode_scrubTo _ a

theorem scrub_eq : scrub s first second = if s.hbm.selfRefresh || !localExists s s.hbm.scrub 64 then s
    else if (scrubMoved s).hbm.failed.contains (hbmDecode s s.hbm.scrub).1 ||
      (scrubMoved s).hbm.held.any (fun h => h.ch = (hbmDecode s s.hbm.scrub).1) then scrubMoved s
    else if (scrubMoved s).poison.contains s.hbm.scrub then hbmAccess (scrubMoved s) 3 s.hbm.scrub noLane
    else (hbmRead (scrubMoved s) true s.hbm.scrub first second).2 := by
  unfold scrub
  rfl

/-- In self-refresh, and where there is no memory, the scrub stands still. -/
theorem scrub_rests (h : s.hbm.selfRefresh = true ∨ localExists s s.hbm.scrub 64 = false) : scrub s first second = s :=
  scrub_eq.trans (if_pos (by simpa using h))

theorem scrub_moves (hr : s.hbm.selfRefresh = false) (he : localExists s s.hbm.scrub 64 = true) : scrub s first second =
    if s.hbm.failed.contains (hbmDecode s s.hbm.scrub).1 || s.hbm.held.any (fun h => h.ch = (hbmDecode s s.hbm.scrub).1) then scrubMoved s
    else if s.poison.contains s.hbm.scrub then hbmAccess (scrubMoved s) 3 s.hbm.scrub noLane
    else (hbmRead (scrubMoved s) true s.hbm.scrub first second).2 := by
  rw [scrub_eq, if_neg (by simp [hr, he]), scrubMoved, scrubTo_failed, scrubTo_held, scrubTo_poison]

theorem scrub_skips (hr : s.hbm.selfRefresh = false) (he : localExists s s.hbm.scrub 64 = true)
    (h : s.hbm.failed.contains (hbmDecode s s.hbm.scrub).1 = true ∨ (s.hbm.held.any fun h => h.ch = (hbmDecode s s.hbm.scrub).1) = true) :
    scrub s first second = scrubMoved s :=
  (scrub_moves hr he).trans (if_pos (Bool.or_eq_true_iff.2 h))

section
variable (hr : s.hbm.selfRefresh = false) (he : localExists s s.hbm.scrub 64 = true)
  (hf : s.hbm.failed.contains (hbmDecode s s.hbm.scrub).1 = false) (hh : (s.hbm.held.any fun h => h.ch = (hbmDecode s s.hbm.scrub).1) = false)
include hr he hf hh

theorem scrub_poisoned (hp : s.poison.contains s.hbm.scrub = true) :
    scrub s first second = hbmAccess (scrubMoved s) 3 s.hbm.scrub noLane := by
  rw [scrub_moves hr he, hf, hh, if_neg (by simp), if_pos hp]

theorem scrub_reads (hp : s.poison.contains s.hbm.scrub = false) :
    scrub s first second = (hbmRead (scrubMoved s) true s.hbm.scrub first second).2 := by
  rw [scrub_moves hr he, hf, hh, if_neg (by simp), if_neg (by simp only [hp, Bool.false_eq_true, not_false_eq_true])]

theorem scrub_clean (hp : s.poison.contains s.hbm.scrub = false) (hd : hbmDecoded (scrubMoved s) s.hbm.scrub first = .clean) :
    scrub s first second = endStreak (scrubMoved s) (hbmDecode s s.hbm.scrub).1 (hbmDecode s s.hbm.scrub).2.1 := by
  rw [scrub_reads hr he hf hh hp, hbmRead_clean hd, hbmDecode_scrubMoved]

theorem scrub_corrects (hp : s.poison.contains s.hbm.scrub = false) {l : Nat}
    (hd : hbmDecoded (scrubMoved s) s.hbm.scrub first = .corrected l) : scrub s first second =
      laneHit (hbmAccess (scrubMoved s) 9 s.hbm.scrub l) (hbmDecode s s.hbm.scrub).1 (hbmDecode s s.hbm.scrub).2.1 l := by
  rw [scrub_reads hr he hf hh hp, hbmRead_corrected hd, hbmDecode_scrubMoved, if_pos rfl]

variable {u : State} (hp : s.poison.contains s.hbm.scrub = false) (hd : hbmDecoded (scrubMoved s) s.hbm.scrub first = .bad)
  (hu : u = endStreak (scrubMoved s) (hbmDecode s s.hbm.scrub).1 (hbmDecode s s.hbm.scrub).2.1)
include hp hd hu

theorem scrub_poisons (h : hbmDecoded u s.hbm.scrub second = .bad) :
    scrub s first second = hbmAccess { u with poison := s.hbm.scrub :: u.poison } 10 s.hbm.scrub noLane := by
  rw [scrub_reads hr he hf hh hp, hbmRead_bad_twice hd (by rw [hu, hbmDecode_scrubMoved]) h]

theorem scrub_rereads (h : hbmDecoded u s.hbm.scrub second ≠ .bad) : scrub s first second = hbmAccess u 1 s.hbm.scrub noLane := by
  rw [scrub_reads hr he hf hh hp, hbmRead_bad_once hd (by rw [hu, hbmDecode_scrubMoved]) h]

end
end

/-! ### Lane counts (R248, R252) -/

/-- The corrections of the last second, the present one first. -/
def recentHits (s : State) (ch pc lane : Nat) : List ((Nat × Nat × Nat) × Nat) :=
  ((ch, pc, lane), s.time) :: s.hbm.hits.filter fun x => s.time < x.2 + 1000000000

/-- A correction has been counted against its lane. -/
def laneCounted (s : State) (ch pc lane : Nat) : State := { s with hbm := { s.hbm with
  hits := recentHits s ch pc lane, streaks := ((ch, pc), lane, streakOf s ch pc lane) :: s.hbm.streaks.filter fun x => x.1 ≠ (ch, pc)
  laneCounts := ((ch, pc, lane), (s.hbm.laneCounts.find? fun x => x.1 = (ch, pc, lane)).elim 1 (·.2 + 1)) ::
    s.hbm.laneCounts.filter fun x => x.1 ≠ (ch, pc, lane) } }

theorem laneHit_eq : laneHit s ch pc lane =
    if 64 ≤ ((recentHits s ch pc lane).filter fun x => x.1 = (ch, pc, lane)).length || 16 ≤ streakOf s ch pc lane then
      scheduleRepair (laneCounted s ch pc lane) ch pc lane
    else laneCounted s ch pc lane := rfl

/-- The 64th correction of a lane in 1 s, or the 16th in a row, calls for its repair. -/
theorem laneHit_schedules (h : 64 ≤ ((recentHits s ch pc lane).filter fun x => x.1 = (ch, pc, lane)).length ∨ 16 ≤ streakOf s ch pc lane) :
    laneHit s ch pc lane = scheduleRepair (laneCounted s ch pc lane) ch pc lane :=
  laneHit_eq.trans (if_pos (by simpa only [Bool.or_eq_true, decide_eq_true_eq] using h))

theorem laneHit_counts (hn : ((recentHits s ch pc lane).filter fun x => x.1 = (ch, pc, lane)).length < 64)
    (hs : streakOf s ch pc lane < 16) : laneHit s ch pc lane = laneCounted s ch pc lane :=
  laneHit_eq.trans (if_neg (by simp only [Bool.or_eq_true, decide_eq_true_eq]; omega))

/-! ### Windows of HBM channels (R257, R258) -/

/-- The windows that wait on a stack and may open. -/
def mayOpenOn (s : State) (st : Nat) : List Survey := s.hbm.waiting.filter fun w => stackOf w.ch = st && mayOpen s w.ch

/-- A window opens: it waits no more and holds its channel from now on. -/
def openWindow (s : State) (w : Survey) : State := { s with hbm := { s.hbm with
  waiting := s.hbm.waiting.filter (· ≠ w), held := s.hbm.held ++ [{ w with since := s.time }] } }

/-- Taking the earlier in rank, window by window, finds the first of least rank. -/
theorem foldl_eq_argmin {pick : Option Survey → Survey → Option Survey} (first : ∀ w, pick none w = some w)
    (next : ∀ b w, pick (some b) w = if surveyRank w < surveyRank b then some w else some b) (ws : List Survey) :
    ws.foldl pick none = ws.argmin surveyRank := by
  have : pick = List.argAux fun b c => surveyRank b < surveyRank c := funext₂ fun
    | none, w => first w
    | some b, w => next b w
  rw [this, List.argmin]

theorem openNext_eq (st : Nat) : openNext s st = ((mayOpenOn s st).argmin surveyRank).elim s (openWindow s) := by
  unfold openNext
  dsimp only
  rw [foldl_eq_argmin (fun _ => by rfl) (fun _ _ => by rfl), mayOpenOn]
  cases List.argmin surveyRank _ <;> rfl

theorem argmin_of_least {ws : List Survey} {w : Survey} (hw : w ∈ ws) (least : ∀ x ∈ ws, x ≠ w → surveyRank w < surveyRank x) :
    ws.argmin surveyRank = some w := by
  cases h : ws.argmin surveyRank with
  | none => simp [List.argmin_eq_none.1 h] at hw
  | some x =>
    by_contra hx
    have below : surveyRank x ≤ surveyRank w := List.le_of_mem_argmin hw h
    have above : surveyRank w < surveyRank x := least x (List.argmin_mem h) fun e => hx (e ▸ rfl)
    omega

theorem openNext_none {st : Nat} (h : mayOpenOn s st = []) : openNext s st = s := by
  rw [openNext_eq, h, List.argmin_nil, Option.elim_none]

/-- Of the windows that may open, the one of least rank opens (log 116). -/
theorem openNext_least {st : Nat} {w : Survey} (hw : w ∈ mayOpenOn s st)
    (least : ∀ x ∈ mayOpenOn s st, x ≠ w → surveyRank w < surveyRank x) : openNext s st = openWindow s w := by
  rw [openNext_eq, argmin_of_least hw least, Option.elim_some]

/-- What follows when the window of a channel has lasted its time: the channel serves again. -/
def windowOver (s : State) (ch : Nat) (w : Survey) : State :=
  let u := advance s (w.since + surveyNs w.kind)
  { u with hbm := { u.hbm with
    held := u.hbm.held.filter fun h => h.ch ≠ ch, closedAt := (ch, u.time) :: u.hbm.closedAt.filter fun c => c.1 ≠ ch } }

section
variable {good : Bool} {margin : Nat} {w : Survey}

theorem closeWindow_none (hw : s.hbm.held.find? (fun h => h.ch = ch) = none) : closeWindow s ch good margin = s := by
  simp only [closeWindow, hw]

variable (hw : s.hbm.held.find? (fun h => h.ch = ch) = some w)
include hw

theorem closeWindow_repair (hk : w.kind = 0) : closeWindow s ch good margin = openNext
    (if good then repairLane (windowOver s ch w) ch w.pc w.lane else hbmDegrade (windowOver s ch w) ch w.pc w.lane) (stackOf ch) := by
  simp only [closeWindow, hw, hk, windowOver]

theorem closeWindow_recovery (hk : w.kind = 1) :
    closeWindow s ch good margin = openNext (laneEvent (windowOver s ch w) 5 ch w.pc w.lane) (stackOf ch) := by
  simp only [closeWindow, hw, hk, windowOver]

theorem closeWindow_recentre (hk : w.kind = 2) :
    closeWindow s ch good margin = openNext (recentred (windowOver s ch w) ch w.pc w.lane margin) (stackOf ch) := by
  simp only [closeWindow, hw, hk, windowOver]

theorem closeWindow_commandBus {t : State} (ht : t = windowOver s ch w) (hk : w.kind = 3) : closeWindow s ch good margin = openNext
    (if good then { t with hbm := { t.hbm with ca := (ch, t.time) :: t.hbm.ca.filter fun c => c.1 ≠ ch } } else hbmFail t ch) (stackOf ch) := by
  subst ht
  simp only [closeWindow, hw, hk, windowOver]

end

/-! ### Re-centring and recovery of HBM channels (R248, R253, R257) -/

theorem onChannel_exists (hc : ch < 384) (hp : pc < 2) (hl : lane < 37) (k : Out) : onChannel ch pc lane k = k := by
  rw [onChannel, onUnit_exists hc, onUnit_exists hp, onUnit_exists hl]

theorem shadowRecentre_starts {margin : Nat} (h : s.hbm.shadows.find? (fun w => w.ch = ch && w.pc = pc) = none) {t : State}
    (ht : t = advance s (laneDue s ch pc lane)) : shadowRecentre s ch pc lane margin =
      { t with hbm := { t.hbm with shadows := t.hbm.shadows ++ [⟨ch, 4, pc, lane, t.time⟩] } } := by
  subst ht
  simp only [shadowRecentre, h]

section
variable {margin : Nat} {w : Survey} (h : s.hbm.shadows.find? (fun w => w.ch = ch && w.pc = pc) = some w)
include h

/-- The lane that the spare has taken up is done 40 µs later. -/
theorem shadowRecentre_ends {t : State} (ht : t = advance s (w.since + surveyNs 4)) (hl : w.lane = lane) :
    shadowRecentre s ch pc lane margin =
      recentred { t with hbm := { t.hbm with shadows := t.hbm.shadows.filter (· ≠ w) } } ch pc lane margin := by
  subst ht
  simp only [shadowRecentre, h, hl, ne_eq, not_true_eq_false, if_false]

/-- While the spare carries one lane, no other lane of the pseudo-channel takes it. -/
theorem shadowRecentre_waits (hl : w.lane ≠ lane) : shadowRecentre s ch pc lane margin = s := by
  simp only [shadowRecentre, h, ne_eq, hl, not_false_eq_true, if_true]

end

section
variable (hc : ch < 384) (hp : pc < 2) (hl : lane < 37)
include hc hp hl

theorem exec_laneRepair : exec (.laneRepair ch pc lane) s = .next
    (if s.hbm.waiting.any fun w => w.ch = ch && w.kind = 0 && w.pc = pc && w.lane = lane then openNext s (stackOf ch) else s) :=
  onChannel_exists hc hp hl _

theorem exec_shadowRecentre_rests {margin : Nat}
    (h : spareUsed s ch pc = true ∨ s.hbm.selfRefresh = true ∨ s.hbm.failed.contains ch = true ∨ lane = spareLane) :
    exec (.hbmShadowRecentre ch pc lane margin) s = .next s :=
  (onChannel_exists hc hp hl _).trans (next_if (by simpa only [Bool.or_eq_true, decide_eq_true_eq, or_assoc] using h))

theorem exec_shadowRecentre_runs {margin : Nat} (hu : spareUsed s ch pc = false) (hr : s.hbm.selfRefresh = false)
    (hf : s.hbm.failed.contains ch = false) (hn : lane ≠ spareLane) :
    exec (.hbmShadowRecentre ch pc lane margin) s = .next (shadowRecentre s ch pc lane margin) :=
  (onChannel_exists hc hp hl _).trans (congrArg Host.Outcome.next (if_neg (by simp only [hu, hr, hf, hn]; simp)))

theorem exec_windowedRecentre : exec (.hbmWindowedRecentre ch pc lane) s = .next
    (if spareUsed s ch pc && !s.hbm.selfRefresh then askWindow (advance s (laneDue s ch pc lane)) ch 2 pc lane else s) :=
  onChannel_exists hc hp hl _

end

theorem exec_interfaceRecovery_rests {n : Nat} (hc : ch < 384) (h : s.hbm.failed.contains ch = true ∨ s.hbm.selfRefresh = true) :
    exec (.interfaceRecovery ch n) s = .next s :=
  (onUnit_exists hc _).trans (next_if (Bool.or_eq_true_iff.2 h))

theorem exec_interfaceRecovery_counts {n : Nat} {t : State} (hc : ch < 384) (hf : s.hbm.failed.contains ch = false)
    (hr : s.hbm.selfRefresh = false) (ht : t = (List.range (min n 4)).foldl (fun s _ => laneEvent s 4 ch 0 noLane) s) :
    exec (.interfaceRecovery ch n) s = .next (if 4 ≤ n then askWindow t ch 1 0 noLane else t) := by
  subst ht
  exact (onUnit_exists hc _).trans (congrArg Host.Outcome.next (if_neg (by simp only [hf, hr]; simp)))

/-! ### Windows of LPDDR channels (R290, R291) -/

section
variable {kind due : Nat} {done : State → State} {t : Nat}

theorem lpddrWindow_rests (h : lpddrRuns s ch = false) : lpddrWindow s ch kind due done = s := if_pos (by simp [h])

variable (ht : t = max (max s.time due) (nth s.lpddr.closedAt ch + 200000))
include ht

/-- Another window of the package, due by then, goes before this one. -/
theorem lpddrWindow_yields {x : Nat × Nat} (hx : lpddrFirst s (ch / 4) t = some x) (h : x.1 < kind ∨ x.1 = kind ∧ x.2 < ch) :
    lpddrWindow s ch kind due done = s := by
  subst ht
  exact if_pos (by rw [hx]; simpa using .inr h)

theorem lpddrWindow_opens (hr : lpddrRuns s ch = true)
    (h : ∀ x, lpddrFirst s (ch / 4) t = some x → kind < x.1 ∨ x.1 = kind ∧ ch ≤ x.2) {u : State} (hu : u = done (advance s (t + lpddrNs kind))) :
    lpddrWindow s ch kind due done = { u with lpddr := { u.lpddr with closedAt := u.lpddr.closedAt.set ch u.time } } := by
  have alone : (lpddrFirst s (ch / 4) t).any (fun x => x.1 < kind || (x.1 = kind && x.2 < ch)) = false := by
    cases hx : lpddrFirst s (ch / 4) t with
    | none => rfl
    | some x =>
      have := h x hx
      simp only [Option.any_some, Bool.or_eq_false_iff, Bool.and_eq_false_iff, decide_eq_false_iff_not]
      omega
  subst ht hu
  exact if_neg (by rw [alone, hr]; simp)

end

/-- Failed reissues are recorded, up to the fourth; short of it they ask for no window. -/
theorem exec_lpddrRetrain {n : Nat} {t : State} (hc : ch < 64)
    (ht : t = if lpddrRuns s ch then (List.range (min n 4)).foldl (fun s _ => lpddrEvent s 3 ch) s else s) :
    exec (.lpddrRetrain ch n) s = .next (if 0 < n ∧ n < 4 then t else
      lpddrWindow t ch 0 (if n = 0 then lpddrDue t ch 0 else 0) fun s => { lpddrEvent s 5 ch with lpddr := { (lpddrEvent s 5 ch).lpddr with
        drift := (lpddrEvent s 5 ch).lpddr.drift.set ch 0, retrain := (lpddrEvent s 5 ch).lpddr.retrain.set ch (lpddrEvent s 5 ch).time } }) := by
  subst ht
  exact onUnit_exists hc _

/-- Settles O49: each row by what it does on a unit that exists, the scrub and the windows by their cases. -/
theorem memorySurveyRuns : Obligations.MemorySurveyRuns := by
  refine ⟨?_, ?_, fun s counts scrubbed t ht => ht ▸ rfl, fun s ch pc lane hc hp hl => ?_, fun s ch good margin w u t hc hw hu ht => ?_,
    fun s ch good margin hc hw => ?_, fun s st mine hm => ?_, fun s ch hc => ⟨fun drift => onUnit_exists hc _, fun good => onUnit_exists hc _,
      fun n t ht => ⟨fun h0 h4 => ?_, fun h => ?_⟩⟩, fun s p hp => onUnit_exists hp _, fun s ch kind due done t ht => ?_⟩
  · rintro s _ _ _ t first second rfl rfl rfl (ht : t = scrubMoved s)
    subst ht
    exact ⟨fun h => congrArg _ (scrub_rests h), fun hr he => ⟨fun h => congrArg _ (scrub_skips hr he h), fun hf hh =>
      ⟨fun hp => congrArg _ (scrub_poisoned hr he hf hh hp), fun hp => ⟨fun hd => congrArg _ (scrub_clean hr he hf hh hp hd),
        fun l hd => congrArg _ (scrub_corrects hr he hf hh hp hd), fun u hd hu =>
          ⟨fun h => congrArg _ (scrub_poisons hr he hf hh hp hd hu h), fun h => congrArg _ (scrub_rereads hr he hf hh hp hd hu h)⟩⟩⟩⟩⟩
  · rintro s ch pc lane _ _ _ _ rfl rfl rfl rfl
    exact ⟨laneHit_schedules, laneHit_counts⟩
  · refine ⟨fun h => (exec_laneRepair hc hp hl).trans (next_if h), fun h => ?_, fun margin hu hr hf hn => ?_,
      fun margin => exec_shadowRecentre_rests hc hp hl, fun hu hr => (exec_windowedRecentre hc hp hl).trans (next_if (by simp [hu, hr])),
      fun h => ?_, fun n t => exec_interfaceRecovery_counts hc, fun n => exec_interfaceRecovery_rests hc, onUnit_exists hc _⟩
    · rw [exec_laneRepair hc hp hl, h]; rfl
    · have runs {t : State} (h : shadowRecentre s ch pc lane margin = t) : exec (.hbmShadowRecentre ch pc lane margin) s = .next t :=
        (exec_shadowRecentre_runs hc hp hl hu hr hf hn).trans (congrArg _ h)
      exact ⟨fun t ht h => runs (shadowRecentre_starts h ht),
        fun w t h ht => ⟨fun he => runs (shadowRecentre_ends h ht he), fun he => runs (shadowRecentre_waits h he)⟩⟩
    · rw [exec_windowedRecentre hc hp hl, if_neg (by rcases h with h | h <;> simp [h])]
  · subst hu ht
    have ends {t : State} (h : closeWindow s ch good margin = t) : exec (.surveyWindowClose ch good margin) s = .next t :=
      (onUnit_exists hc _).trans (congrArg _ h)
    exact ⟨fun hk => ends (closeWindow_repair hw hk), fun hk => ends (closeWindow_recovery hw hk), fun hk => ends (closeWindow_recentre hw hk),
      fun hk => ends (closeWindow_commandBus hw rfl hk)⟩
  · exact (onUnit_exists hc _).trans (congrArg _ (closeWindow_none hw))
  · subst hm
    exact ⟨openNext_none, fun w => openNext_least⟩
  · exact (exec_lpddrRetrain hc ht).trans (next_if ⟨h0, h4⟩)
  · exact (exec_lpddrRetrain hc ht).trans (congrArg _ (if_neg (by omega)))
  · exact ⟨lpddrWindow_rests, fun hr => ⟨fun x => lpddrWindow_yields ht, fun h u => lpddrWindow_opens ht hr h⟩⟩

end Sys2Proof.Machine
end

section
/-! SUPPORT. The moves of pages between the levels: promotion, demotion, the arrival of their granules, deadlines and the end of a pin
(12_memory_tiers.md; R271 to R287). -/

namespace Sys2Proof.Machine

variable {s : State} {n : Nat} {p : Page} {m : PageMove}

/-! ### A page without a move -/

/-- The page does not exist, or has no move. -/
abbrev Unmoved (s : State) (n : Nat) : Prop := findPage s n = none ∨ ∃ p, findPage s n = some p ∧ p.move = none

theorem expire_unmoved (h : Unmoved s n) (past : Nat → Bool) : expire s n past = s := by
  obtain h | ⟨p, hp, hm⟩ := h
  · simp only [expire, h]
  · simp only [expire, hp, hm]

theorem pagePromote_unmoved (h : Unmoved s n) : pagePromote s n = s := by
  obtain h | ⟨p, hp, hm⟩ := h
  · simp only [pagePromote, h]
  · simp only [pagePromote, hp, hm]

theorem granuleArrives_unmoved (h : Unmoved s n) (g : Nat) (gen : Byte) : granuleArrives s n g gen = s := by
  obtain h | ⟨p, hp, hm⟩ := h
  · simp only [granuleArrives, h]
  · simp only [granuleArrives, hp, hm]

theorem promoteFinal_unmoved (h : Unmoved s n) : promoteFinal s n = s := by
  obtain h | ⟨p, hp, hm⟩ := h
  · simp only [promoteFinal, h]
  · simp only [promoteFinal, hp, hm]

theorem pageDemote_unmoved (h : Unmoved s n) : pageDemote s n = s := by
  obtain h | ⟨p, hp, hm⟩ := h
  · simp only [pageDemote, h]
  · simp only [pageDemote, hp, hm]

theorem demoteFinal_unmoved (h : Unmoved s n) : demoteFinal s n = s := by
  obtain h | ⟨p, hp, hm⟩ := h
  · simp only [demoteFinal, h]
  · simp only [demoteFinal, hp, hm]

theorem promoteDeadline_unmoved (h : Unmoved s n) : promoteDeadline s n = s := by
  obtain h | ⟨p, hp, hm⟩ := h
  · simp [promoteDeadline, h]
  · simp [promoteDeadline, hp, hm]

/-! ### A page with a move -/

section
variable (hp : findPage s n = some p) (hm : p.move = some m)
include hp hm

/-! #### PAGE_PROMOTE (R271, R278, R284, R285) -/

theorem pagePromote_rests (h : m.promote = false ∨ m.started = true ∨ 1024 ≤ tokens s) : pagePromote s n = s := by
  simp only [pagePromote, hp, hm]
  exact if_pos (by simpa [or_assoc] using h)

section
variable (hd : m.promote = true) (hs : m.started = false) (ht : tokens s < 1024)
include hd hs ht

/-- A waiting promotion that may take a token looks for a frame. -/
theorem pagePromote_waiting : pagePromote s n =
    match m.frame.or (freeFrame s p) with
    | some f => setPage s n fun p => { p with
        gen := p.gen + 1, frame := f, dirty := 0, move := some { m with started := true, frame := some f, left := List.range 32 } }
    | none =>
      if s.tier.pages.any fun v => v.move.any fun x => x.heir = some n then s
      else match pickVictim s p with
        | some v => wantDemote s v.num m.cls [] (some n)
        | none => if m.ops.isEmpty && m.pin.isSome then tierSettle (tierCount (setPage s n fun p => { p with move := none }) 7 1) else s := by
  simp only [pagePromote, hp, hm]
  exact if_neg (by simp [hd, hs, ht])

theorem pagePromote_starts {f : Nat} (hf : m.frame.or (freeFrame s p) = some f) : pagePromote s n = setPage s n fun p => { p with
    gen := p.gen + 1, frame := f, dirty := 0, move := some { m with started := true, frame := some f, left := List.range 32 } } := by
  rw [pagePromote_waiting hp hm hd hs ht, hf]

variable (hf : m.frame = none) (hn : freeFrame s p = none)
include hf hn

/-- A page that is being demoted for this one is not joined by a second. -/
theorem pagePromote_awaits (h : (s.tier.pages.any fun v => v.move.any fun x => x.heir = some n) = true) : pagePromote s n = s := by
  rw [pagePromote_waiting hp hm hd hs ht, hf, hn]
  exact if_pos h

variable (h : (s.tier.pages.any fun v => v.move.any fun x => x.heir = some n) = false)
include h

theorem pagePromote_takesVictim {v : Page} (hv : pickVictim s p = some v) : pagePromote s n = wantDemote s v.num m.cls [] (some n) := by
  rw [pagePromote_waiting hp hm hd hs ht, hf, hn]
  simp only [Option.none_or, h, hv]
  rfl

theorem pagePromote_noVictim (hv : pickVictim s p = none) : pagePromote s n =
    if m.ops = [] ∧ m.pin ≠ none then tierSettle (tierCount (setPage s n fun p => { p with move := none }) 7 1) else s := by
  rw [pagePromote_waiting hp hm hd hs ht, hf, hn]
  simp only [Option.none_or, h, hv, Bool.and_eq_true, List.isEmpty_iff, Option.isSome_iff_ne_none]
  rfl

end

/-! #### GRANULE_COPY_ARRIVAL (R274, R276, R280) -/

section
variable {g : Nat} {gen : Byte}

theorem granuleArrives_rests (h : p.gen ≠ gen ∨ m.left.contains g = false) : granuleArrives s n g gen = s := by
  simp only [granuleArrives, hp, hm]
  exact if_pos (by simpa using h)

variable (hg : p.gen = gen) (hl : m.left.contains g = true)
include hg hl

/-- A granule under the page's generation whose copy has not come before. -/
theorem granuleArrives_fresh : granuleArrives s n g gen =
    if !m.promote then setPage (tierCount (copyGranule s (frameAddr s p.frame) (pageName p) g) 6 65536) n fun p =>
      { p with move := some { m with left := m.left.filter fun x => x ≠ g } }
    else if !granuleFails s (pageName p) g then setPage (copyGranule s (pageName p) (frameAddr s p.frame) g) n fun p =>
      { p with move := some { m with left := m.left.filter fun x => x ≠ g } }
    else if m.cls = 3 then uncorrectables s (pageName p + 65536 * g) 65536
    else failPromote (uncorrectables s (pageName p + 65536 * g) 65536) n m := by
  simp only [granuleArrives, hp, hm]
  exact if_neg (by simpa [hg] using hl)

theorem granuleArrives_demotes (hd : m.promote = false) : granuleArrives s n g gen =
    setPage (tierCount (copyGranule s (frameAddr s p.frame) (pageName p) g) 6 65536) n fun p =>
      { p with move := some { m with left := m.left.filter fun x => x ≠ g } } := by
  rw [granuleArrives_fresh hp hm hg hl, hd]
  rfl

theorem granuleArrives_promotes (hd : m.promote = true) (hf : granuleFails s (pageName p) g = false) : granuleArrives s n g gen =
    setPage (copyGranule s (pageName p) (frameAddr s p.frame) g) n fun p =>
      { p with move := some { m with left := m.left.filter fun x => x ≠ g } } := by
  rw [granuleArrives_fresh hp hm hg hl, hd, hf]
  rfl

theorem granuleArrives_fails (hd : m.promote = true) (hf : granuleFails s (pageName p) g = true) {w : State}
    (hw : w = uncorrectables s (pageName p + 65536 * g) 65536) :
    granuleArrives s n g gen = if m.cls = 3 then w else failPromote w n m := by
  rw [granuleArrives_fresh hp hm hg hl, hd, hf, hw]
  rfl

end

/-! #### PROMOTE_FINAL_STAGE (R271, R276, R280) -/

theorem promoteFinal_rests (h : m.promote = false ∨ m.started = false ∨ m.left ≠ []) : promoteFinal s n = s := by
  simp only [promoteFinal, hp, hm]
  cases m.frame with
  | none => rfl
  | some f => exact if_pos (by simpa only [Bool.not_eq_true', Bool.and_eq_false_iff, List.isEmpty_eq_false_iff, or_assoc] using h)

section
variable {f : Nat} (hd : m.promote = true) (hs : m.started = true) (hl : m.left = []) (hf : m.frame = some f)
include hd hs hl hf

/-- Once every granule has been copied, what was written meanwhile is read again. -/
theorem promoteFinal_copied : promoteFinal s n =
    match (dirtyList p.dirty).find? (granuleFails s (pageName p)) with
    | none => landPromotion s p m f
    | some g => if m.cls = 3 then uncorrectables s (pageName p + 65536 * g) 65536
      else failPromote (uncorrectables s (pageName p + 65536 * g) 65536) n m := by
  simp only [promoteFinal, hp, hm, hf]
  exact if_neg (by simp [hd, hs, hl])

theorem promoteFinal_lands (h : (dirtyList p.dirty).find? (granuleFails s (pageName p)) = none) :
    promoteFinal s n = landPromotion s p m f := by
  rw [promoteFinal_copied hp hm hd hs hl hf, h]

theorem promoteFinal_fails {g : Nat} {w : State} (h : (dirtyList p.dirty).find? (granuleFails s (pageName p)) = some g)
    (hw : w = uncorrectables s (pageName p + 65536 * g) 65536) :
    promoteFinal s n = if m.cls = 3 then w else failPromote w n m := by
  rw [promoteFinal_copied hp hm hd hs hl hf, h, hw]

end

/-! #### PAGE_DEMOTE (R272, R278) -/

/-- The demotion may take its token, or begin a second open pass. -/
theorem pageDemote_eq : pageDemote s n =
    if m.promote || !(if m.started then m.left.isEmpty && m.passes < 2 else tokens s < 1024) then s
    else setPage s n fun p => { p with
      gen := if m.started then p.gen else p.gen + 1, dirty := 0
      move := some { m with started := true, left := dirtyList p.dirty, passes := m.passes + 1 } } := by
  simp only [pageDemote, hp, hm]

theorem pageDemote_starts (hd : m.promote = false) (hs : m.started = false) (ht : tokens s < 1024) :
    pageDemote s n = setPage s n fun p => { p with
      gen := p.gen + 1, dirty := 0, move := some { m with started := true, left := dirtyList p.dirty, passes := m.passes + 1 } } := by
  rw [pageDemote_eq hp hm, if_neg (by simp [hd, hs, ht]), hs]
  rfl

theorem pageDemote_passes (hd : m.promote = false) (hs : m.started = true) (hl : m.left = []) (hk : m.passes < 2) :
    pageDemote s n = setPage s n fun p => { p with
      dirty := 0, move := some { m with started := true, left := dirtyList p.dirty, passes := m.passes + 1 } } := by
  rw [pageDemote_eq hp hm, if_neg (by simp [hd, hs, hl, hk]), hs]
  rfl

theorem pageDemote_rests (h : m.promote = true ∨ (m.started = false ∧ 1024 ≤ tokens s) ∨
    (m.started = true ∧ (m.left ≠ [] ∨ 2 ≤ m.passes))) : pageDemote s n = s := by
  rw [pageDemote_eq hp hm, if_pos]
  obtain hd | ⟨hs, ht⟩ | ⟨hs, hl⟩ := h
  · simp [hd]
  · simp [hs, ht]
  · simpa [hs, Nat.succ_le_iff] using Or.inr hl

/-! #### DEMOTE_FINAL_STAGE (R272) -/

theorem demoteFinal_rests (h : m.promote = true ∨ m.started = false ∨ m.left ≠ []) : demoteFinal s n = s := by
  simp only [demoteFinal, hp, hm]
  exact if_pos (by simpa [or_assoc] using h)

section
variable (hd : m.promote = false) (hs : m.started = true) (hl : m.left = []) {t v : State}
  (ht : t = (dirtyList p.dirty).foldl (fun s g => copyGranule s (frameAddr s p.frame) (pageName p) g) s)
  (hv : v = setPage (tierCount (tierCount (tierCount t 3 1) 5 (pageLookups s p)) 6 (65536 * (dirtyList p.dirty).length)) n (fun x => { x with
    high := false, dirty := 0, frame := 0, pinEnd := 0, defer := false, move := none }))
include hd hs hl ht hv

theorem demoteFinal_lands (hh : m.heir = none) : demoteFinal s n = tierSettle (outcomes v m.ops fun _ => oDone) := by
  subst ht hv
  simp only [demoteFinal, hp, hm, hh]
  exact if_neg (by simp [hd, hs, hl])

/-- The frame goes to the page for which the demotion was made, if that still waits. -/
theorem demoteFinal_gives {h : Nat} (hh : m.heir = some h) : demoteFinal s n = tierSettle (outcomes (setPage v h fun x => { x with
    move := x.move.map fun y => if y.promote && !y.started then { y with frame := some p.frame } else y }) m.ops fun _ => oDone) := by
  subst ht hv
  simp only [demoteFinal, hp, hm, hh]
  exact if_neg (by simp [hd, hs, hl])

end

/-! #### PROMOTE_DEADLINE (R284, R287) -/

theorem promoteDeadline_rests (h : ∀ o ∈ m.ops, o.deadline = none) : promoteDeadline s n = s := by
  have none : m.ops.filterMap (·.deadline) = [] := List.filterMap_eq_nil_iff.2 h
  simp [promoteDeadline, hp, hm, none]

section
variable {o : HintOp} {d code : Nat} {t : State} (hd : m.promote = true) (ho : m.ops = [o]) (hod : o.deadline = some d) (ht : t = advance s d)
  (hc : code = if wantsFrame t p m = true then oNoFrame else oLate)
include hd ho hod ht hc

/-- The deadline of the one operation on the token is reached. -/
theorem promoteDeadline_one : promoteDeadline s n =
    if m.pin.isNone then abandonPromote (outcomes (tierCount t 1 1) [o] fun _ => code) n m []
    else setPage (outcomes (tierCount t 1 1) [o] fun _ => code) n fun p => { p with move := some { m with ops := [] } } := by
  subst ht hc
  have same : findPage (advance s d) n = some p := by rw [advance_frame]; exact hp
  have reached : d ≤ (advance s d).time := by rw [advance_time]; exact le_max_right ..
  have begins : promoteDeadline s n = expire (advance s d) n (· ≤ (advance s d).time) := by
    simp only [promoteDeadline, hp, hm, ho, hod, Option.bind_some, Option.elim_some, List.filterMap_cons, List.filterMap_nil, List.foldl_nil]
    rfl
  rw [begins]
  simp [expire, same, hm, ho, hod, reached, hd]

theorem promoteDeadline_cancels (hi : m.pin = none) :
    promoteDeadline s n = abandonPromote (outcomes (tierCount t 1 1) [o] fun _ => code) n m [] := by
  rw [promoteDeadline_one hp hm hd ho hod ht hc, hi]
  rfl

/-- A promotion that stands on a use of its page goes on without the operation (R285). -/
theorem promoteDeadline_goesOn {pin : Nat} (hi : m.pin = some pin) : promoteDeadline s n =
    setPage (outcomes (tierCount t 1 1) [o] fun _ => code) n fun p => { p with move := some { m with ops := [] } } := by
  rw [promoteDeadline_one hp hm hd ho hod ht hc, hi]
  rfl

end

end

/-! ### PIN_END (R283) -/

theorem pinEnds_absent (hp : findPage s n = none) : pinEnds s n = s := by simp only [pinEnds, hp]

section
variable (hp : findPage s n = some p)
include hp

theorem pinEnds_rests (h : p.high = false ∨ p.move ≠ none ∨ (p.defer = false ∧ p.pinEnd = 0)) : pinEnds s n = s := by
  simp only [pinEnds, hp]
  refine if_neg ?_
  obtain h | h | ⟨hd, he⟩ := h
  · simp [h]
  · simp [h]
  · simp [hd, he]

/-- A page at level H, at rest, whose pin ends or whose demotion was put off. -/
theorem pinEnds_due (hh : p.high = true) (hm : p.move = none) (hd : p.defer = true ∨ p.pinEnd ≠ 0) {t : State}
    (ht : t = setPage (advance s p.pinEnd) n fun p => { p with pinEnd := 0, defer := false }) :
    pinEnds s n = if p.defer then wantDemote t n 3 [] none else t := by
  subst ht
  simp only [pinEnds, hp]
  exact if_pos (by simpa [hh, hm] using hd)

end

/-- Settles O48: each step by what it does for a page without a move, and by its cases for a page with one. -/
theorem pageMovesRun : Obligations.PageMovesRun := by
  refine ⟨?_, fun s n p m hn hp hm => ?_, fun s n hn h => ?_, fun s n p t hn hp ht => ?_,
    fun s n hn hp => (onUnit_exists hn _).trans (congrArg _ (pinEnds_absent hp))⟩
  · rintro s n _ p m hn rfl hp hm
    have promotes {t : State} (h : pagePromote (overdue s n) n = t) : exec (.pagePromote n) s = .next t :=
      (onUnit_exists hn _).trans (congrArg _ h)
    have lands {t : State} (h : promoteFinal (overdue s n) n = t) : exec (.promoteFinalStage n) s = .next t :=
      (onUnit_exists hn _).trans (congrArg _ h)
    refine ⟨fun hd hs ht => ⟨fun f hf => promotes (pagePromote_starts hp hm hd hs ht hf), fun hf hx =>
        ⟨fun h => promotes (pagePromote_awaits hp hm hd hs ht hf hx h), fun h =>
          ⟨fun v hv => promotes (pagePromote_takesVictim hp hm hd hs ht hf hx h hv),
            fun hv => promotes (pagePromote_noVictim hp hm hd hs ht hf hx h hv)⟩⟩⟩,
      fun h => promotes (pagePromote_rests hp hm h), ?_,
      fun f hd hs hl hf => ⟨fun h => lands (promoteFinal_lands hp hm hd hs hl hf h),
        fun g w h hw => lands (promoteFinal_fails hp hm hd hs hl hf h hw)⟩,
      fun h => lands (promoteFinal_rests hp hm h)⟩
    rintro g gen _ hg rfl
    have arrives {t : State} (h : granuleArrives (overdue s n) n g gen = t) : exec (.granuleCopyArrival n g gen) s = .next t :=
      (onUnit_exists hn _).trans ((onUnit_exists hg _).trans (congrArg _ h))
    exact ⟨fun h => arrives (granuleArrives_rests hp hm h), fun hgen hl =>
      ⟨fun hd hf => arrives (granuleArrives_promotes hp hm hgen hl hd hf),
        fun hd hf w hw => arrives (granuleArrives_fails hp hm hgen hl hd hf hw), fun hd => arrives (granuleArrives_demotes hp hm hgen hl hd)⟩⟩
  · have demotes {t : State} (h : pageDemote s n = t) : exec (.pageDemote n) s = .next t := (onUnit_exists hn _).trans (congrArg _ h)
    have lands {t : State} (h : demoteFinal s n = t) : exec (.demoteFinalStage n) s = .next t := (onUnit_exists hn _).trans (congrArg _ h)
    have expires {t : State} (h : promoteDeadline s n = t) : exec (.promoteDeadline n) s = .next t :=
      (onUnit_exists hn _).trans (congrArg _ h)
    exact ⟨fun hd hs ht => demotes (pageDemote_starts hp hm hd hs ht), fun hd hs hl hk => demotes (pageDemote_passes hp hm hd hs hl hk),
      fun h => demotes (pageDemote_rests hp hm h),
      fun t v hd hs hl ht hv => ⟨fun hh => lands (demoteFinal_lands hp hm hd hs hl ht hv hh),
        fun h hh => lands (demoteFinal_gives hp hm hd hs hl ht hv hh)⟩,
      fun h => lands (demoteFinal_rests hp hm h),
      fun o d t code hd hi ho hod ht hc => expires (promoteDeadline_cancels hp hm hd ho hod ht hc hi),
      fun o d hd ho hod pin t code hi ht hc => expires (promoteDeadline_goesOn hp hm hd ho hod ht hc hi),
      fun h => expires (promoteDeadline_rests hp hm h)⟩
  · have same : overdue s n = s := expire_unmoved h _
    have unit {t u : State} (h : t = u) : onUnit n pageCount (.next t) = .next u := (onUnit_exists hn _).trans (congrArg _ h)
    exact ⟨unit (same.symm ▸ pagePromote_unmoved h),
      fun g gen hg => (onUnit_exists hn _).trans ((onUnit_exists hg _).trans (congrArg _ (same.symm ▸ granuleArrives_unmoved h g gen))),
      unit (same.symm ▸ promoteFinal_unmoved h), unit (pageDemote_unmoved h), unit (demoteFinal_unmoved h), unit (promoteDeadline_unmoved h)⟩
  · have ends {t : State} (h : pinEnds s n = t) : exec (.pinEnd n) s = .next t := (onUnit_exists hn _).trans (congrArg _ h)
    exact ⟨fun hh hm hd => ends ((pinEnds_due hp hh hm (.inl hd) ht).trans (if_pos hd)),
      fun hh hm hd he => ends ((pinEnds_due hp hh hm (.inr he) ht).trans (if_neg (by simp [hd]))), fun h => ends (pinEnds_rests hp h)⟩

end Sys2Proof.Machine
end

section
/-! SUPPORT. TIER_HINT: what a PROMOTE does with a page at level L, and where the obligation on the tier commands says something else
(12_memory_tiers.md; R282, R286). -/

namespace Sys2Proof.Machine

variable {s : State} {p : Page} {o : HintOp}

/-- The move of a page at level L after a PROMOTE: the operation joins the move that there is, or starts one (R286). -/
def promoteJoined (o : HintOp) (move : Option PageMove) : PageMove :=
  match move with
  | some m => { m with cls := min m.cls (if o.deadline.isSome then 1 else 3), ops := m.ops ++ [o] }
  | none => ⟨true, false, if o.deadline.isSome then 1 else 3, [o], none, [], 0, none, none⟩

section
variable (hh : p.high = false) (hg : ((regionOf s p).any fun r => !r.deleting.isEmpty) = false)
  (hf : ((List.range (frameCount s)).any fun f => dieAllowed (regionOf s p) (frameDie s f)) = true)
  (hd : o.deadline = none ∨ ∃ d, o.deadline = some d ∧ s.time ≤ d ∧ admitted s (pageName p) pageBytes d = true)
include hh hg hf hd

/-- A PROMOTE that is in time and may have a frame looks at the move of each entry of the page's number by itself. -/
theorem hintPromote_low : hintPromote s p o = setPage s p.num fun x => { x with move := some (promoteJoined o x.move) } := by
  have inTime : (o.deadline.any fun d => d < s.time || (p.move.isNone && !p.high && !admitted s (pageName p) pageBytes d)) = false := by
    obtain hd | ⟨d, hd, ht, ha⟩ := hd
    · simp [hd]
    · simp [hd, ht, ha]
  exact (if_neg (by simp [hh])).trans <| (if_neg (by simp [hg])).trans <| (if_neg (by simp only [hf]; simp)).trans <|
    if_neg (by simp only [inTime]; simp)

/-- Where no entry of the number has a move, it starts a promotion, in class D where it has a deadline. -/
theorem hintPromote_starts (hu : ∀ x ∈ s.tier.pages, x.num = p.num → x.move = none) : hintPromote s p o = setPage s p.num fun x =>
    { x with move := some ⟨true, false, if o.deadline.isSome then 1 else 3, [o], none, [], 0, none, none⟩ } := by
  have starts (x : Page) (hx : x ∈ s.tier.pages) : (if x.num = p.num then { x with move := some (promoteJoined o x.move) } else x) =
      if x.num = p.num then
        { x with move := some ⟨true, false, if o.deadline.isSome then 1 else 3, [o], none, [], 0, none, none⟩ } else x := by
    split
    · rename_i hn
      rw [hu x hx hn]
      rfl
    · rfl
  rw [hintPromote_low hh hg hf hd, setPage, setPage, List.map_congr_left starts]

end

/-- An entry for page 0, at level L. -/
def lowPage (move : Option PageMove) : Page := ⟨0, 0, false, 0, 0, 0, 0, false, 0, move⟩

/-- A directory with two entries for page 0, the second of which has a token: an ON_USE promotion, with its pin. The pool is one frame. -/
def twoEntries : State := { State.reset with tier := { State.reset.tier with
  pool := [(0x40000000, 0x200000)], regions := [⟨0, 0x11, 0, lpddrBase, 0x200000, 5, []⟩]
  pages := [lowPage none, lowPage (some ⟨true, false, 3, [], none, [], 0, none, some 5000⟩)] } }

/-- Refutes O47: the directory of `twoEntries` finds for page 0 the entry without a token, and the statement has a PROMOTE of page 0 start a
promotion without a pin in both entries; but the PROMOTE joins the token of the second, which keeps its pin. The statement does not
ask that a number stands for one entry. As a new region may not overlap another (R269), no run makes two, and with one the clause
holds (`hintPromote_starts`). -/
theorem not_tierCommandsComplete : ¬ Obligations.TierCommandsComplete := by
  rintro ⟨-, hints⟩
  let c : Cmd := ⟨10, 0x42, 0, 5, 1, 0, 0, [], 0, 0, true, true, [256]⟩
  let o : HintOp := ⟨0, 5, 0, none, 0, true⟩
  obtain ⟨-, starts, -⟩ := (hints 0 c twoEntries 0 ⟨1, 0, 0, lpddrBase⟩ o rfl).2 (lowPage none) rfl
  have framed : ((List.range (frameCount twoEntries)).any fun f =>
    dieAllowed (regionOf twoEntries (lowPage none)) (frameDie twoEntries f)) = true := by decide
  have stated := starts rfl rfl rfl rfl framed (.inl rfl)
  have joins : applyHint 0 c twoEntries (0, ⟨1, 0, 0, lpddrBase⟩) = _ :=
    hintPromote_low (s := twoEntries) (p := lowPage none) (o := o) rfl rfl framed (.inl rfl)
  have pins := congrArg (fun s => s.tier.pages.map fun p => p.move.bind (·.pin)) (joins.symm.trans stated)
  exact absurd pins (by decide)

end Sys2Proof.Machine
end

section
/-! SUPPORT. What every command answers (00_scope.md; the model's choice, log 2), and the memories after a cold reset (log 1). -/

namespace Sys2Proof.Machine

/-! ### What a command answers (log 2) -/

/-- The answer of a command that names units: a next state where they exist, and else the refusal that no such unit exists. -/
def Answers (o : Out) (exist : Bool) : Prop := (exist = true → ∃ t, o = .next t) ∧ (exist = false → o = .refused .noSuchUnit)

theorem Answers.next {t : State} : Answers (.next t) true := ⟨fun _ => ⟨t, rfl⟩, (nomatch ·)⟩

/-- Below a check of a unit's number stands whatever answers the rest of the operands. -/
theorem Answers.onUnit {n count : Nat} {k : Out} {b : Bool} (h : Answers k b) : Answers (onUnit n count k) (decide (n < count) && b) := by
  by_cases hn : n < count
  · simpa [Machine.onUnit, hn] using h
  · simp [Machine.onUnit, hn, Answers]

theorem Answers.unit {n count : Nat} {k : Out} (h : Answers k true) : Answers (Machine.onUnit n count k) (decide (n < count)) := by
  simpa using h.onUnit (n := n) (count := count)

variable {s : State} {n : Nat}

theorem Answers.command {mb : Nat} {tag : DWord} {cls code : Nat} {body : Cmd → State → State} :
    Answers (mbCommand mb tag cls code body s) (decide (mb < 16)) := by
  unfold mbCommand
  split <;> exact next.unit

/-- A tile instruction issues, stops its core or waits. -/
theorem Answers.tile {op : Nat} {body : Ctx → Res} : Answers (tileInstr op body n s) (decide (n < 152)) := by
  refine unit ?_
  split
  · exact next
  · dsimp only
    split
    · exact next
    · split <;> exact next

theorem Answers.stack {f : State → Nat → State} : Answers (onStack s n f) (decide (n < 128)) := next.unit

theorem Answers.request {t : Byte} {p : Packet} {k : Nat} {f : State → State} : Answers (arriveAt t p k f s) true := by
  unfold arriveAt
  split <;> exact next

theorem Answers.channel {ch pc lane : Nat} {t : State} :
    Answers (onChannel ch pc lane (.next t)) (decide (ch < 384) && decide (pc < 2) && decide (lane < 37)) := by
  rw [Bool.and_assoc]
  exact next.unit.onUnit.onUnit

/-- The restore of the partner's vault goes on, or a RESTORE starts. -/
theorem Answers.restore {mb : Nat} {tag : DWord} {nand : NandRead} : Answers (execRestore mb tag nand s) (decide (mb < 16)) := by
  unfold execRestore
  split
  · exact next.unit
  · exact command

/-- What training and the self-test find is checked as a whole. -/
theorem Answers.check {p : Bool} {t : State} : Answers (if p = true then .next t else .refused .noSuchUnit) p := by
  cases p
  · exact ⟨(nomatch ·), fun _ => rfl⟩
  · exact next

theorem Answers.abort {mb : Nat} {tag : DWord} : Answers (execAbort mb tag s) (decide (mb < 16)) := by
  refine unit ?_
  split
  · split <;> exact next
  · exact next

theorem Answers.waitSatisfy : Answers (execWaitSatisfy n s) (decide (n < 152)) := by
  refine unit ?_
  split
  · split <;> exact next
  · exact next

theorem Answers.syncTimeout : Answers (execSyncTimeout n s) (decide (n < 152)) := by
  refine unit ?_
  dsimp only
  split
  · split <;> exact next
  · exact next

theorem Answers.vectorSpacingExpiry : Answers (execVectorSpacingExpiry n s) (decide (n = 16 ∨ n = 17)) := by
  unfold execVectorSpacingExpiry
  by_cases h6 : n = 16
  · simpa [h6] using next
  · by_cases h7 : n = 17
    · simpa [h6, h7] using next
    · simp [h6, h7, Answers]

/-- Every command answers, arm by arm: what it names is checked first, and a next state follows. -/
theorem exec_answers : ∀ (c : Instr) (s : State), Answers (exec c s) c.wf
  | .openSession .., _ | .prove .., _ | .closeSession .., _ | .provision .., _ | .rotate .., _ | .identify .., _ | .status .., _
  | .eventMask .., _ | .resetCmd .., _ | .echo .., _ | .query .., _ | .stage .., _ | .verify .., _ | .activate .., _ | .write .., _
  | .read .., _ | .fill .., _ | .writeTensor .., _ | .readTensor .., _ | .windowGrant .., _ | .windowRevoke .., _ | .pwrQuery .., _
  | .pwrLimit .., _ | .coreState .., _ | .coreFence .., _ | .coreRetest .., _ | .nearPort .., _ | .hbmMapout .., _ | .idleTimers .., _
  | .standby .., _ | .progLoad .., _ | .progDrop .., _ | .progList .., _ | .launch .., _ | .halt .., _ | .schedLoad .., _
  | .schedDrop .., _ | .jobLoad .., _ | .jobStart .., _ | .jobStop .., _ | .jobLengths .., _ | .jobStatus .., _ | .jobUnload .., _
  | .jobSwap .., _ | .topoRoute .., _ | .topoQuery .., _ | .collDefine .., _ | .collDrop .., _ | .reshard .., _ | .collStatus .., _
  | .tierPool .., _ | .tierRegion .., _ | .tierHint .., _ | .tierFlush .., _ | .tierCopy .., _ | .tierQuery .., _ | .farConfig .., _
  | .farKey .., _ | .farControl .., _ | .farQuery .., _ | .farPaths .., _ | .resConfig .., _ | .resQuery .., _ | .dataPos .., _
  | .snapTake .., _ | .snapList .., _ | .snapDrop .., _ | .snapExport .., _ | .lanternConfig .., _ | .takeover .., _ | .peerSwap .., _
  | .visOpen .., _ | .visClose .., _ | .visData .., _ | .visPull .., _ | .visBoxes .., _ | .visQuery .., _ | .telSteps .., _
  | .telStream .., _ | .telEvents .., _ | .telErrors .., _ | .fbCounters .., _ | .fbHistograms .., _ | .fbLog .., _ | .fbCommit .., _
  | .fbImage .., _ => .command
  | .endProg .., _ | .trap .., _ | .setsh .., _ | .dld .., _ | .li .., _ | .xalu .., _ | .br .., _ | .loop .., _ | .brf .., _
  | .rdst .., _ | .wrst .., _ | .drain .., _ | .mmul .., _ | .mload .., _ | .mstore .., _ | .xpose .., _ | .acfg .., _ | .aexp .., _
  | .afold .., _ | .ablk .., _ | .aclose .., _ | .adprep .., _ | .abblk .., _ | .vadd .., _ | .vsub .., _ | .vmul .., _ | .vmin .., _
  | .vmax .., _ | .vabs .., _ | .vneg .., _ | .vfma .., _ | .vdiv .., _ | .vsqrt .., _ | .vrsqrt .., _ | .vexp2 .., _ | .vlog2 .., _
  | .vcmp .., _ | .vsel .., _ | .viadd .., _ | .visub .., _ | .vimul .., _ | .vimin .., _ | .vimax .., _ | .vand .., _ | .vor .., _
  | .vxor .., _ | .vnot .., _ | .vshl .., _ | .vshr .., _ | .vsra .., _ | .vbcast .., _ | .viota .., _ | .vxpose .., _ | .vperm .., _
  | .vrand .., _ | .rclr .., _ | .rrow .., _ | .rcol .., _ | .radd .., _ | .rtopk .., _ | .rhist .., _ | .rread .., _ | .scan .., _
  | .vcvt .., _ | .fetch .., _ | .store .., _ | .movem .., _ | .gfetch .., _ | .atom .., _ | .msg .., _ | .vldr .., _ | .vstr .., _
  | .vldp .., _ | .vstp .., _ | .vgath .., _ | .vscat .., _ | .vscadd .., _ | .vrscat .., _ | .sealTile .., _ | .schk .., _ | .srec .., _
  | .sclr .., _ | .push .., _ | .pop .., _ | .sdrop .., _ | .signal .., _ | .wait .., _ | .fence .., _ => .tile
  | .nop .., _ => .tile (body := fun i => .done i.s)
  | .powerArrival .., _ | .powerLoss .., _ | .modResetNAssert .., _ | .modResetNRelease .., _ | .sysenWatchdogExpiry .., _
  | .inputExcursion .., _ | .powerSample .., _ | .clockRaise .., _ | .currentLimit .., _ | .thermalThrottle .., _ | .thermalTrip .., _
  | .entryStart .., _ | .returnRequest .., _ | .wLatestStart .., _ | .instanceDispatch .., _ | .genInstall .., _ | .collLimitExpiry .., _
  | .patrolScrub .., _ | .packetHoldExpiry .., _ | .fabricTimeout .., _ | .busyResend .., _ | .msgRetry .., _ | .writeEntryRelease .., _
  | .ready .., _ | .veto .., _ | .commit .., _ | .rollback .., _ | .ask .., _ | .commitStallTimeout .., _ | .vaultHello .., _
  | .vaultAccept .., _ | .vaultRefuse .., _ | .vaultCopyEnd .., _ | .snapshotStart .., _ | .snapshotCommit .., _ | .lanternEvaluate .., _
  | .fieldBookHourlyCommit .., _ | .fieldBookSample .., _ | .errorStatusClear .., _ | .timeLoRead .., _ | .registerWrite .., _
  | .sidebandColdReset .., _ | .sidebandWarmReset .., _ | .sidebandTripClear .., _ | .sidebandLimitWrite .., _ | .functionMaskWrite .., _
  | .bootPower .., _ | .bootRom .., _ | .bootFirmware .., _ | .bootFabric .., _ | .bootFlash .., _ | .bootReady .., _
  | .thermalHoldRelease .., _
  | .colData .., _ | .colCredit .., _ | .colResend .., _ | .colCounts .., _ | .colAbort .., _ | .ringBlock .., _ | .ringCredit .., _
  | .ringGrad .., _ | .ringResend .., _ | .rdData .., _ | .wrAck .., _ | .atResp .., _ | .msgPacket .., _ | .msgAck .., _ | .err .., _
  | .hbmEccCollect .., _ => .next
  | .rdReq .., _ | .wr .., _ | .atReq .., _ => .request
  | .packetAcknowledge .., _ | .hostReadTimeout .., _ | .functionReset .., _ | .warmReset .., _ | .coldReset .., _ | .powerFault .., _
  | .correctedErrorLimit .., _ | .reissue .., _ | .trapStop .., _ | .moveEnd .., _ | .fetchDeadline .., _ | .instanceEnd .., _
  | .gradientHandoff .., _ | .pagePromote .., _ | .promoteFinalStage .., _ | .pageDemote .., _ | .demoteFinalStage .., _
  | .promoteDeadline .., _ | .pinEnd .., _ | .hbmCaRecentre .., _ | .interfaceRecovery .., _ | .surveyWindowClose .., _
  | .lpddrOscRead .., _ | .lpddrRetrain .., _ | .lpddrCaRecentre .., _ | .zqLatch .., _ | .portTrained .., _ | .capabilityBlock .., _
  | .txRetune .., _ | .lossOfLock .., _ | .cableRemoved .., _ | .cableInserted .., _ | .flit .., _ | .tagSweepStart .., _
  | .farFrameSend .., _ | .stopResetTimeout .., _ | .farRetune .., _ | .farRetrain .., _ | .opticInserted .., _ | .opticRemoved .., _
  | .decodeStart .., _ | .decodeDone .., _ | .frameTokenize .., _ | .cplConsumerWrite .., _ | .irqHoldoffWrite .., _
  | .mailboxStatusClear .., _ | .t7TagQuarantineEnd .., _ | .farPortTrained .., _
  | .data .., _ | .ack .., _ | .hello .., _
  | .ackTimer .., _ | .retransmitTimeout .., _ | .pathResetTimeout .., _ | .pathIdleClose .., _ | .keepalive .., _
  | .doorbell .., _ | .pad .., _ | .coreLight .., _ | .coreDim .., _ | .coreDark .., _ | .coreClockStop .., _ | .noRetireTimeout .., _
  | .capabilityResend .., _ => Answers.next.unit
  | .stackDrain .., _ | .stackSpill .., _ => .stack
  | .frameReturn _ req ok, _ => .stack (f := fun s k => frameReturn s k req ok)
  | .returnDeadline _ req, _ => .stack (f := fun s k => returnDeadline s k req)
  | .immediateFence .., _ | .granuleCopyArrival .., _ | .laneSwap .., _ | .cplRingConfig .., _ => Answers.next.unit.onUnit
  | .hbmShadowRecentre .., _ | .hbmWindowedRecentre .., _ | .laneRepair .., _ => .channel
  | .restore .., _ => .restore
  | .challengeExpiry .., _ | .lockoutExpiry .., _ | .abortComplete .., _ | .irqHoldoffExpiry .., _ => .unit (by split <;> exact .next)
  | .abort .., _ => .abort
  | .waitSatisfy .., _ => .waitSatisfy
  | .syncTimeout .., _ => .syncTimeout
  | .vectorSpacingExpiry .., _ => .vectorSpacingExpiry
  | .bootMemory .., _ | .bootCores .., _ => .check

/-- Settles O2: the answer of every command, by its arm. -/
theorem everyCommandCompletesOrNamesNoUnit : Obligations.EveryCommandCompletesOrNamesNoUnit := exec_answers

/-! ### The memories after a cold reset (log 1) -/

/-- Settles O59: every memory is empty. -/
theorem resetMemoriesWf : Obligations.ResetMemoriesWf := by
  refine ⟨.nil, .nil, .nil, .nil, fun x hx => ?_⟩
  rw [List.eq_of_mem_replicate hx]
  exact .nil

end Sys2Proof.Machine
end

section
/-! SUPPORT. The registers of the endpoint (20_register_map.md; R469 to R482): the release of completion ring bytes, the mailbox registers,
the error and interrupt registers. -/

namespace Sys2Proof.Machine

variable {s : State} {mb : Nat} {v : Word}

/-! ### CPL_CONSUMER (R475) -/

/-- A record that has room touches the interrupt fields and the producer pointer of its mailbox alone. -/
theorem writeRecord_keeps {α : Type} (g : Mailbox → α) (h : ∀ m x y p, g { m with irqLast := x, irqWait := y, cplProd := p } = g m)
    (r : CplRec) (k : Nat) : g (mbAt (writeRecord s mb r) k) = g (mbAt s k) := by
  simp only [writeRecord]
  split
  · exact (raiseCompletion_keeps g (fun m x y => h m x y m.cplProd) k).trans (setMb_keeps g (fun m => h m m.irqLast m.irqWait _) k)
  · exact setMb_keeps g (fun m => h m m.irqLast m.irqWait _) k

theorem postRecord_length (r : CplRec) : (postRecord s mb r).host.mbs.length = s.host.mbs.length := by
  have raised (s : State) : (raiseCompletion s mb).host.mbs.length = s.host.mbs.length := by
    simp only [raiseCompletion]
    split <;> simp
  simp only [postRecord, writeRecord]
  split
  · split
    · rw [raised]; simp [hostWrite]
    · simp [hostWrite]
  · simp

/-- Behind a held record every due one is held. -/
theorem postRecords_behind (rs : List CplRec) (hmb : mb < s.host.mbs.length) (h : (mbAt s mb).held ≠ []) :
    (mbAt (rs.foldl (fun s r => postRecord s mb r) s) mb).held = (mbAt s mb).held ++ rs := by
  induction rs generalizing s with
  | nil => simp
  | cons r rs ih =>
    have held : (mbAt (postRecord s mb r) mb).held = (mbAt s mb).held ++ [r] := by rw [postRecord_full (.inl h), mbAt_setMb hmb]
    rw [List.foldl_cons, ih (by rwa [postRecord_length]) (by simp [held]), held, List.append_assoc, List.singleton_append]

/-- Due records are written in order as far as they have room; the rest is held (R42, R475). -/
theorem postRecords_held (rs : List CplRec) (hmb : mb < s.host.mbs.length) (h : (mbAt s mb).held = []) :
    ∃ n ≤ rs.length, (mbAt (rs.foldl (fun s r => postRecord s mb r) s) mb).held = rs.drop n := by
  induction rs generalizing s with
  | nil => exact ⟨0, Nat.le_refl 0, h⟩
  | cons r rs ih =>
    rw [List.foldl_cons]
    have hl : mb < (postRecord s mb r).host.mbs.length := by rwa [postRecord_length]
    cases hr : hasRoom (mbAt s mb) r with
    | true =>
      have held : (mbAt (postRecord s mb r) mb).held = [] := by
        rw [postRecord, if_pos (by simp [h, hr]), writeRecord_keeps Mailbox.held fun _ _ _ _ => rfl, h]
      obtain ⟨n, hn, hd⟩ := ih hl held
      exact ⟨n + 1, Nat.succ_le_succ hn, hd⟩
    | false =>
      have held : (mbAt (postRecord s mb r) mb).held = [r] := by rw [postRecord_full (.inr hr), mbAt_setMb hmb, h, List.nil_append]
      exact ⟨0, Nat.zero_le _, by rw [postRecords_behind rs hl (by simp [held]), held]; rfl⟩

section
variable {size : Nat} (hmb : mb < 16) (he : s.pwr.endpoint = true) (hs : serving s mb = true)
  (hz : size = if (mbAt s mb).cplSize = 0 then 0 else 2 ^ (mbAt s mb).cplSize)
include hmb he hs hz

theorem cplConsumerWrite_answers : exec (.cplConsumerWrite mb v) s = .next
    (if bits v.toNat 31 27 ≠ 0 ∨ bits v.toNat 5 0 ≠ 0 ∨ size ≤ ptrOff v ∨
        ptrDist size (mbAt s mb).cplProd (mbAt s mb).cplCons < ptrDist size (mbAt s mb).cplProd v then setMbStatus s mb sBadRelease
      else flushHeld (setMb s mb fun m => { m with cplCons := v }) mb) := by
  subst hz
  refine (onUnit_exists hmb _).trans (congrArg _ ((if_pos he).trans ?_))
  simp only [cplConsumer, hs, Bool.not_true, Bool.false_eq_true, if_false]

/-- A release that the rule admits frees its bytes, and the held records are due again (R475). -/
theorem cplConsumerWrite_releases (h1 : bits v.toNat 31 27 = 0) (h2 : bits v.toNat 5 0 = 0) (h3 : ptrOff v < size)
    (h4 : ptrDist size (mbAt s mb).cplProd v ≤ ptrDist size (mbAt s mb).cplProd (mbAt s mb).cplCons) :
    exec (.cplConsumerWrite mb v) s = .next ((mbAt s mb).held.foldl (fun s r => postRecord s mb r)
      (setMb (setMb s mb fun m => { m with cplCons := v }) mb fun m => { m with held := [] })) := by
  rw [cplConsumerWrite_answers hmb he hs hz, if_neg (by simp [h1, h2, h3, h4]), flushHeld]
  rw [setMb_keeps (s := s) (mb := mb) (f := fun m => { m with cplCons := v }) Mailbox.held (fun _ => rfl) mb]

end

/-- Settles O10: a release is refused or taken; what is held then is what had no room. -/
theorem completionReleaseIsChecked : Obligations.CompletionReleaseIsChecked := by
  intro s mb v size hmb he hs hz
  refine ⟨fun h => (cplConsumerWrite_answers hmb he hs hz).trans (congrArg _ (if_pos h)), fun h1 h2 h3 h4 =>
    cplConsumerWrite_releases hmb he hs hz h1 h2 h3 h4, fun h1 h2 h3 hlen h4 =>
    ⟨_, cplConsumerWrite_releases hmb he hs hz h1 h2 h3 h4, ?_, ?_⟩⟩
  · rw [foldl_keeps (fun s => (mbAt s mb).cplCons) (fun s r => postRecord_keeps Mailbox.cplCons (fun _ _ _ _ _ => rfl) r mb),
      mbAt_setMb (by simp [hlen, hmb]), mbAt_setMb (by omega)]
  · exact postRecords_held _ (by simp [hlen, hmb]) (by rw [mbAt_setMb (by simp [hlen, hmb])])

/-! ### The mailbox registers (R473, R476, R478, R480) -/

theorem cplRingConfig_answers {reg : Nat} (hmb : mb < 16) (he : s.pwr.endpoint = true) (hr : reg < 3) :
    exec (.cplRingConfig mb reg v) s = .next (cplConfig s mb reg v) :=
  (onUnit_exists hmb _).trans ((onUnit_exists hr _).trans (congrArg _ (if_pos he)))

/-- On an idle mailbox a base is taken (R476). -/
theorem cplConfig_base (hs : serving s mb = true) (h1 : (mbAt s mb).session = none) (h2 : (mbAt s mb).cmds = [])
    (h3 : (mbAt s mb).held = []) :
    cplConfig s mb 0 v = setMb s mb (fun m => { m with
      cplBase := BitVec.ofNat 64 (2 ^ 32 * bits m.cplBase.toNat 63 32 + 4096 * bits v.toNat 31 12), cplProd := 0, cplCons := 0 }) ∧
    cplConfig s mb 1 v = setMb s mb (fun m => { m with
      cplBase := BitVec.ofNat 64 (2 ^ 32 * v.toNat + bits m.cplBase.toNat 31 0), cplProd := 0, cplCons := 0 }) := by
  constructor <;> (simp only [cplConfig, hs, h1, h2, h3]; rfl)

/-- On an idle mailbox a size in range is taken (R476). -/
theorem cplConfig_size (hs : serving s mb = true) (h1 : (mbAt s mb).session = none) (h2 : (mbAt s mb).cmds = [])
    (h3 : (mbAt s mb).held = []) (h4 : bits v.toNat 7 0 = 0 ∨ (20 ≤ bits v.toNat 7 0 ∧ bits v.toNat 7 0 ≤ 26)) :
    cplConfig s mb 2 v = setMb s mb fun m => { m with cplSize := bits v.toNat 7 0, cplProd := 0, cplCons := 0 } := by
  have bad : ¬ (bits v.toNat 7 0 ≠ 0 ∧ (bits v.toNat 7 0 < 20 ∨ 26 < bits v.toNat 7 0)) := by omega
  simpa [cplConfig, hs, h1, h2, h3] using fun h h' => absurd ⟨h, h'⟩ bad

/-- With a session open the ring's registers are locked (R476). -/
theorem cplConfig_locked (hs : serving s mb = true) (h1 : (mbAt s mb).session ≠ none) (h2 : (mbAt s mb).cmds = [])
    (h3 : (mbAt s mb).held = []) : cplConfig s mb 0 v = setMbStatus s mb sLockViolation := by
  have open' : (mbAt s mb).session.isSome = true := Option.isSome_iff_ne_none.2 h1
  simp only [cplConfig, hs, open', h2, h3]
  rfl

/-- Settles O11: each register command by its register. -/
theorem registerWritesComplete : Obligations.RegisterWritesComplete := by
  intro s he
  refine ⟨fun mb v hmb hs => ⟨fun h1 h2 h3 => ⟨?_, ?_, fun h4 => ?_⟩, fun h1 h2 h3 => ?_, fun h => ?_, fun h => ?_, ?_⟩,
    fun mb t hmb hw ht => ?_, fun v => congrArg _ (if_pos he), ?_, fun v => ?_, fun off size v h4 h8 => ?_,
    congrArg _ (if_pos he), fun t hw ht => ?_, fun t hw ht => ?_⟩
  · exact (cplRingConfig_answers hmb he (by decide)).trans (congrArg _ (cplConfig_base hs h1 h2 h3).1)
  · exact (cplRingConfig_answers hmb he (by decide)).trans (congrArg _ (cplConfig_base hs h1 h2 h3).2)
  · exact (cplRingConfig_answers hmb he (by decide)).trans (congrArg _ (cplConfig_size hs h1 h2 h3 h4))
  · exact (cplRingConfig_answers hmb he (by decide)).trans (congrArg _ (cplConfig_locked hs h1 h2 h3))
  · refine (onUnit_exists hmb _).trans (congrArg _ ((if_pos he).trans ?_))
    simp [irqHoldoff, hs, Nat.not_lt.2 h]
  · refine (onUnit_exists hmb _).trans (congrArg _ ((if_pos he).trans ?_))
    simp [irqHoldoff, hs, h]
  · exact (onUnit_exists hmb _).trans (congrArg _ ((if_pos he).trans (if_pos hs)))
  · subst ht
    exact (onUnit_exists hmb _).trans (if_pos hw)
  · exact congrArg _ (if_pos he)
  · show Host.Outcome.next _ = _
    simp [he, barWrite]
  · show Host.Outcome.next _ = _
    simp only [he, h4, h8]
    rfl
  · subst ht
    exact congrArg _ (if_pos hw)
  · subst ht
    exact congrArg _ (if_pos hw)

end Sys2Proof.Machine
end

section
/-! SUPPORT. Atomics in HBM, and the chunks of a tensor (13_ewete_fabric.md, R311; 14_collectives_meridian.md, R334). -/

namespace Sys2Proof.Machine

variable {s : State} {a : Nat}

/-! ### Atomics (R311) -/

/-- A write of HBM bytes where no channel has failed and nothing is poisoned changes these bytes alone. -/
theorem writeLocal_sound {bs : List Byte} (hh : s.hbm.failed = []) (hl : s.lpddr.failed = []) (hp : s.poison = []) (hn : bs ≠ [])
    (ha : a + bs.length ≤ lpddrBase) : writeLocal s a bs = { s with dram := writeRun s.dram a bs } := by
  rw [writeLocal_hbm hn ha, writePhys_eq]
  simp [hh, hl, hp, partPoisoned]

/-- A little-endian string of n bytes holds its number modulo 256^n (R10). -/
theorem unle_le (n v : Nat) : unle (le n v) = v % 256 ^ n := by
  induction n generalizing v with
  | zero => simp [le, unle, Nat.mod_one]
  | succ n ih => rw [le, unle, ih, BitVec.toNat_ofNat, Nat.pow_succ' (m := 256), Nat.mod_mul]

theorem readLocal_hbm {n : Nat} (hn : n ≠ 0) (ha : a + n ≤ lpddrBase) : readLocal s a n = readRun s.dram a n := by
  simp [readLocal, pieces_hbm hn ha]

/-- An atomic on a doubleword of sound HBM (R311). -/
theorem atomLocal_hbm {aop : Nat} {arg : List Byte} (hh : s.hbm.failed = []) (hl : s.lpddr.failed = []) (hp : s.poison = [])
    (ha : a + 8 ≤ lpddrBase) : atomLocal s a aop arg = (readRun s.dram a 8, { s with dram := writeRun s.dram a (le 8
      (atomResult aop (BitVec.ofNat 64 (rdNat s.dram a 8)) (BitVec.ofNat 64 (field arg 0 8)) (BitVec.ofNat 64 (field arg 8 8))).toNat) }) := by
  have untouched : touchRead s a 8 = s := if_pos (by simp; omega)
  rw [atomLocal, untouched, readLocal_hbm (by decide) ha, writeLocal_sound hh hl hp (by simp [le]) (by simpa using ha)]
  rfl

/-- Settles O45: the atomic by its bytes in memory; its result by AOP. -/
theorem atomicsReadModifyWrite : Obligations.AtomicsReadModifyWrite := by
  intro s a aop arg hh hl hp ha hop
  refine ⟨_, _, _, _, atomLocal_hbm hh hl hp ha, rfl, rfl, rfl, ?_, fun b hb => ?_, rfl⟩
  · rintro x rfl
    have stored (v : DWord) : rdNat (writeRun s.dram a (le 8 v.toNat)) a 8 = v.toNat := by
      have back := readRun_writeRun s.dram a (le 8 v.toNat)
      rw [length_le] at back
      rw [rdNat, back, unle_le, Nat.mod_eq_of_lt (show v.toNat < 256 ^ 8 from v.isLt)]
    rw [stored, BitVec.ofNat_toNat, BitVec.setWidth_eq]
    interval_cases aop <;> rfl
  · rw [rd_writeRun, if_neg (by simp; omega)]

/-! ### Chunks (R334) -/

/-- The rank that owns a tile is the one whose chunk holds it. -/
theorem chunkOf_eq_iff {T N t r : Nat} (ht : t < T) (hN : 0 < N) : chunkOf T N t = r ↔ T * r / N ≤ t ∧ t < T * (r + 1) / N := by
  have some_ : 0 < (t + 1) * N := Nat.mul_pos t.succ_pos hN
  have first : T * r / N ≤ t ↔ r * T < (t + 1) * N := by rw [← Nat.lt_succ_iff, Nat.div_lt_iff_lt_mul hN, Nat.mul_comm T]
  have last : t < T * (r + 1) / N ↔ (t + 1) * N ≤ r * T + T := by
    rw [← Nat.succ_le_iff, Nat.le_div_iff_mul_le hN, Nat.mul_comm T, Nat.succ_mul r]
  rw [chunkOf, Nat.div_eq_iff (by omega), first, last]
  omega

theorem chunkOf_lt {T N t : Nat} (ht : t < T) (hN : 0 < N) : chunkOf T N t < N := by
  have some_ : 0 < (t + 1) * N := Nat.mul_pos t.succ_pos hN
  have within : (t + 1) * N ≤ T * N := Nat.mul_le_mul_right N ht
  rw [chunkOf, Nat.div_lt_iff_lt_mul (by omega), Nat.mul_comm N]
  omega

/-- Settles O42: row and column from a tile's index, and the owner from the bounds of its chunk. -/
theorem chunksPartitionTheTiles : Obligations.ChunksPartitionTheTiles := by
  refine ⟨fun d => ⟨rfl, fun i j hj => ?_⟩, fun T N t ht hN => ⟨chunkOf_lt ht hN, fun r => chunkOf_eq_iff ht hN⟩, fun T N h =>
    ⟨0, by omega, ?_⟩⟩
  · have row : (i * d.tc + j) / d.tc = i := by rw [Nat.add_comm, Nat.add_mul_div_right _ _ (by omega), Nat.div_eq_of_lt hj, Nat.zero_add]
    have col : (i * d.tc + j) % d.tc = j := by rw [Nat.add_comm, Nat.add_mul_mod_self_right, Nat.mod_eq_of_lt hj]
    rw [tileAt, sealAt, tileShape, row, col]
    exact ⟨rfl, rfl, rfl⟩
  · rw [Nat.mul_zero, Nat.zero_div, Nat.zero_add, Nat.mul_one, Nat.div_eq_of_lt h]

end Sys2Proof.Machine
end

section
/-! SUPPORT. What a far frame takes of the packets that wait (15_far_ports.md; R356, R363). -/

namespace Sys2Proof.Machine

variable {peer room credit : Nat} {waits : Bool} {e : Nat × Packet} {ps now later : List (Nat × Packet)}

/-- Bytes that a packet takes up in a frame. -/
def packetRoom (e : Nat × Packet) : Nat := 48 + e.2.payload.length

@[simp] theorem farBytes_nil : farBytes [] = 0 := rfl

@[simp] theorem farBytes_cons : farBytes (e :: ps) = packetRoom e + farBytes ps := by
  have sum (k : Nat) (ps : List (Nat × Packet)) : ps.foldl (fun k e => k + 48 + e.2.payload.length) k = k + farBytes ps := by
    unfold farBytes
    induction ps generalizing k with
    | nil => rfl
    | cons x ps ih => rw [List.foldl_cons, ih, List.foldl_cons, ih (0 + 48 + _)]; omega
  rw [farBytes, List.foldl_cons, sum, packetRoom]

@[simp] theorem farPaid_nil : farPaid peer [] = 0 := rfl

@[simp] theorem farPaid_cons :
    farPaid peer (e :: ps) = (if needsCredit peer e.2 = true then packetRoom e else 0) + farPaid peer ps := by
  cases h : needsCredit peer e.2 <;> simp [farPaid, h]

/-- What holds of the packets that a frame takes and of those that stay (R356, R363): with `waits` a packet that needs credit waits already. -/
structure Picked (peer room credit : Nat) (waits : Bool) (ps now later : List (Nat × Packet)) : Prop where
  perm : (now ++ later).Perm ps
  taken : now.Sublist ps
  stays : later.Sublist ps
  fits : farBytes now ≤ room
  paid : farPaid peer now ≤ credit
  blocked : waits = true → ∀ x ∈ now, needsCredit peer x.2 = false
  inOrder : ∀ a e b, ps = a ++ e :: b → needsCredit peer e.2 = true → e ∉ now → ps.Nodup → ∀ x ∈ b, needsCredit peer x.2 = true → x ∉ now

theorem Picked.none : Picked peer room credit waits ps [] ps :=
  ⟨.rfl, List.nil_sublist _, .refl _, Nat.zero_le _, Nat.zero_le _, by simp, by simp⟩

/-- A packet that lacks credit is passed over, and then so is every other that needs credit. -/
theorem Picked.pass (h : Picked peer room credit true ps now later) : Picked peer room credit waits (e :: ps) now (e :: later) where
  perm := List.perm_middle.trans (h.perm.cons e)
  taken := h.taken.cons e
  stays := h.stays.cons_cons e
  fits := h.fits
  paid := h.paid
  blocked _ := h.blocked rfl
  inOrder _ _ _ _ _ _ _ x _ hx hmem := by simp [h.blocked rfl x hmem] at hx

/-- A packet with room, and with credit where it needs some, is taken. -/
theorem Picked.take (hr : packetRoom e ≤ room) (hc : needsCredit peer e.2 = true → waits = false ∧ packetRoom e ≤ credit)
    (h : Picked peer (room - packetRoom e) (if needsCredit peer e.2 = true then credit - packetRoom e else credit) waits ps now later) :
    Picked peer room credit waits (e :: ps) (e :: now) later where
  perm := h.perm.cons e
  taken := h.taken.cons_cons e
  stays := h.stays.cons e
  fits := by
    have := h.fits
    rw [farBytes_cons]
    omega
  paid := by
    have := h.paid
    rw [farPaid_cons]
    split at this <;> simp_all
    omega
  blocked hw x hx := by
    rcases List.mem_cons.1 hx with rfl | hx
    · rw [Bool.eq_false_iff]
      exact fun hp => by simp [hw] at hc; simp [hc] at hp
    · exact h.blocked hw x hx
  inOrder a y b hps hy hny hnd x hx hpx hmem := by
    obtain ⟨hfirst, hrest⟩ := List.nodup_cons.1 hnd
    cases a with
    | nil => exact hny (by simp [(List.cons.inj hps).1])
    | cons z a =>
      obtain ⟨rfl, rfl⟩ := List.cons.inj hps
      rcases List.mem_cons.1 hmem with rfl | hmem
      · exact hfirst (by simp [hx])
      · exact h.inOrder a y b rfl hy (fun h => hny (List.mem_cons_of_mem _ h)) hrest x hx hpx hmem

/-- The packets that a frame takes, one after the other. -/
theorem farPick_picked (ps : List (Nat × Packet)) (room credit : Nat) (waits : Bool) :
    Picked peer room credit waits ps (farPick peer room credit waits ps).1 (farPick peer room credit waits ps).2 := by
  induction ps generalizing room credit waits with
  | nil => exact .none
  | cons e ps ih =>
    rw [farPick]
    dsimp only
    split
    · exact (ih room credit true).pass
    · next hpass =>
      split
      · exact .none
      · next hroom =>
        refine .take (Nat.not_lt.1 hroom) (fun hp => ?_) (ih _ _ waits)
        simpa [hp, packetRoom] using hpass

/-- Settles O52: what holds of the first packet and of the rest holds of all. -/
theorem farPicksWhatFits : Obligations.FarPicksWhatFits := by
  intro peer room credit ps now later h
  obtain ⟨hperm, htaken, hstays, hfits, hpaid, -, horder⟩ := h ▸ farPick_picked (peer := peer) ps room credit false
  exact ⟨hperm, htaken, hstays, hfits, hpaid, horder⟩

end Sys2Proof.Machine
end

section
/-! SUPPORT. The flip and the rollback of a step (16_resilience.md, R376, R377, R383, R384; 10_pipeline_sequencer.md, R238, R240). -/

namespace Sys2Proof.Machine

variable {α : Type} {g : State → α} {s : State}

/-! ### What a rollback does not touch (R384) -/

/-- What nobody changes who touches the host link, the telemetry, the state of a core but for its deferred fence, or the walk of the job. -/
structure Spared (g : State → α) : Prop where
  host : ∀ s h, g { s with host := h } = g s
  tel : ∀ s x, g { s with tel := x } = g s
  core : ∀ s n f, (∀ c : Core, (f c).deferred = c.deferred) → g (setCore s n f) = g s
  walk : ∀ s w r, g (jobOf s fun j => { j with walk := w, readyAt := r }) = g s
  coll : ∀ s k c, g { s with coll := c, freeCount := k } = g s

theorem Spared.clearLaunch (h : Spared g) (n : Nat) : g (clearLaunch s n) = g s := h.core _ _ _ fun _ => rfl

theorem Spared.telOnly {t : State} (h : Spared g) (ht : TelOnly s t) : g t = g s := (congrArg g ht).trans (h.tel s t.tel)

theorem Spared.haltCore (h : Spared g) (n : Nat) : g (haltCore s n) = g s := by
  simp only [Machine.haltCore]
  split
  · split
    · rfl
    · exact h.core _ _ _ fun _ => rfl
  · rfl

section
variable {s1 s2 s3 : State} {n : Nat} {l : Launch} {r : Stop}
  (h1 : s1 = logError s 3 (trapRecord n l r ++ le 8 (coreAt s n).nf0.toNat ++ le 8 (coreAt s n).nf1.toNat))
  (h2 : s2 = r.report.elim s1 (logSeal s1)) (h3 : s3 = if (coreAt s n).nf0.getLsbD 63 = true then stepCount s2 11 else s2)
include h1 h2 h3

theorem reportStop_logs : TelOnly s s3 := by
  have logged : TelOnly s s2 := by
    subst h1 h2
    cases r.report <;> rfl
  subst h3
  split
  · exact logged.trans rfl
  · exact logged

/-- A core that reports its stop touches its own state, the telemetry and the host link (R204). -/
theorem Spared.reportStop_logged (h : Spared g) : g (reportStop s n l r) = g s := by
  have emptied : g (setCore s3 n emptyUnits) = g s :=
    (h.core s3 n emptyUnits fun _ => rfl).trans (h.telOnly (reportStop_logs h1 h2 h3))
  rw [reportStop_eq h1 h2 h3]
  cases l.host with
  | none => exact (h.core _ n (fun c => { c with stop := none, ending := some (true, r.kind), idleSince := s3.time }) fun _ => rfl).trans emptied
  | some m =>
    rw [Option.elim_some]
    split
    · exact (h.clearLaunch n).trans emptied
    · exact ((finishTag_host _ _ _ _ _ _).keeps g h.host).trans ((h.clearLaunch n).trans emptied)

end

theorem Spared.reportStop (h : Spared g) (n : Nat) (l : Launch) (r : Stop) : g (reportStop s n l r) = g s :=
  h.reportStop_logged rfl rfl rfl

theorem Spared.haltInstances (h : Spared g) : g (haltInstances s) = g s := by
  refine foldl_keeps g (fun s n => ?_) _ s
  dsimp only
  split
  · split
    · exact (h.reportStop _ _ _).trans (h.haltCore n)
    · exact h.haltCore n
  · exact h.haltCore n

theorem Spared.endWalk (h : Spared g) : g (endWalk s) = g s := by
  refine (h.walk _ _ _).trans (foldl_keeps g (fun s n => ?_) _ s)
  split
  · exact h.clearLaunch n
  · rfl

theorem Spared.endCollectives (h : Spared g) : g (endCollectives s) = g s := by
  unfold Machine.endCollectives
  exact h.coll s _ _

theorem Spared.event (h : Spared g) (cls data : Nat) : g (event s cls data) = g s := by
  rw [event_frame]
  exact (h.tel { s with host := (Machine.event s cls data).host } _).trans (h.host s _)

theorem Spared.closeRecord (h : Spared g) (outcome : Nat) : g (closeRecord s outcome) = g s := by
  unfold Machine.closeRecord
  split
  · rfl
  · simp only [streamRecord]
    split
    · exact (h.host { s with tel := _ } _).trans (h.tel s _)
    · exact h.tel s _

/-- Where no frame lies in a stack none is left over. -/
theorem clearFrames_none {next : Nat} (h : ∀ k ∈ s.stackSet, k.frames = []) : (clearFrames s next).dram = s.dram := by
  show (List.foldl _ s _).dram = s.dram
  rw [foldl_fixed_of_mem fun k _ => ?_]
  split
  · next st hst => rw [h st (List.mem_of_getElem? hst)]; rfl
  · rfl

/-- How far the module and its job have come. -/
def progress (s : State) : Nat × Resil × JobState × Nat × Option Nat × List (Option Nat) :=
  (s.time, s.res, s.job.phase, s.job.step, s.job.swap, s.cores.map (·.deferred))

theorem spared_progress : Spared progress where
  host _ _ := rfl
  tel _ _ := rfl
  core s n f hf := by
    have kept : (s.cores.modify n f).map (·.deferred) = s.cores.map (·.deferred) := by
      refine List.ext_getElem? fun k => ?_
      rw [List.getElem?_map, List.getElem?_map, List.getElem?_modify]
      cases s.cores[k]? with
      | none => rfl
      | some c => by_cases h : n = k <;> simp [h, hf]
    simp [progress, kept]
  walk _ _ _ := rfl
  coll _ _ _ := rfl

theorem spared_dram : Spared State.dram := ⟨fun _ _ => rfl, fun _ _ => rfl, fun _ _ _ _ => rfl, fun _ _ _ => rfl, fun _ _ _ => rfl⟩

theorem spared_stackSet : Spared State.stackSet := ⟨fun _ _ => rfl, fun _ _ => rfl, fun _ _ _ _ => rfl, fun _ _ _ => rfl, fun _ _ _ => rfl⟩

theorem removeFrame_progress (k : Nat) (f : Frame) : progress (removeFrame s k f) = progress s := by
  simp only [removeFrame]
  split
  · rfl
  · rw [writePhys_frame]
    split <;> rfl

theorem leaveOver_progress (k : Nat) (f : Frame) : progress (leaveOver s k f) = progress s := removeFrame_progress k f

theorem clearFrames_progress (next : Nat) : progress (clearFrames s next) = progress s := by
  refine foldl_keeps progress (fun s k => ?_) _ s
  split
  · exact foldl_keeps progress (fun s f => leaveOver_progress k f) _ s
  · rfl

/-- Nothing of the step runs any more, and no frame of it is left. -/
def walkUndone (s : State) : State := clearFrames (endCollectives (endWalk (haltInstances s))) (s.job.step + 1)

theorem walkUndone_progress : progress (walkUndone s) = progress s := by
  rw [walkUndone, clearFrames_progress, spared_progress.endCollectives, spared_progress.endWalk, spared_progress.haltInstances]

theorem walkUndone_dram (h : ∀ k ∈ s.stackSet, k.frames = []) : (walkUndone s).dram = s.dram := by
  rw [walkUndone, clearFrames_none, spared_dram.endCollectives, spared_dram.endWalk, spared_dram.haltInstances]
  rwa [spared_stackSet.endCollectives, spared_stackSet.endWalk, spared_stackSet.haltInstances]

/-- The attempt is counted, and what the resilience engine knew of it is dropped. -/
def attemptLost (r : Resil) (n : Nat) : Resil :=
  { r with rollbacks := r.rollbacks + 1, ready := none, stalled := false, readys := r.readys.filter fun x => n < x.2.1 }

/-- A rollback up to the decision what becomes of the job. -/
def rolledBack (s : State) : State :=
  let t := resOf (walkUndone s) fun r => attemptLost r s.job.step
  event (countUp (closeRecord t 2) cRollback 1) 1 (attempt t)

/-- What of `rolledBack` everything but the attempt has from the state before. -/
theorem rolledBack_progress : progress (rolledBack s) =
    (s.time, attemptLost s.res s.job.step, s.job.phase, s.job.step, s.job.swap, s.cores.map (·.deferred)) := by
  have undone := walkUndone_progress (s := s)
  simp only [progress, Prod.mk.injEq] at undone
  obtain ⟨htime, hres, hphase, hstep, hswap, hcores⟩ := undone
  rw [rolledBack, spared_progress.event, spared_progress.telOnly (t := countUp _ _ _) rfl, spared_progress.closeRecord]
  simp [progress, htime, hres, hphase, hstep, hswap, hcores]

theorem rolledBack_dram (h : ∀ k ∈ s.stackSet, k.frames = []) : (rolledBack s).dram = s.dram := by
  rw [rolledBack, spared_dram.event, spared_dram.telOnly (t := countUp _ _ _) rfl, spared_dram.closeRecord]
  exact walkUndone_dram h

/-- No fence that waits: nothing happens (R106). -/
theorem fenceDeferred_none (h : ∀ n < 152, (coreAt s n).deferred = none) : fenceDeferred s = s :=
  foldl_fixed_of_mem fun n hn => by rw [h n (List.mem_range.1 hn)]

theorem coreAt_deferred (n : Nat) : (coreAt s n).deferred = ((s.cores.map (·.deferred))[n]?).getD none := by
  rw [coreAt, List.getD, List.getElem?_map]
  cases s.cores[n]? <;> rfl

/-! ### The rollback (R384) -/

/-- Whether the job begins the step again after a rollback. -/
def retries (s : State) : Bool := s.res.conf.any (fun c => c.retry && s.res.rollbacks + 1 ≤ c.retryLimit) && !s.res.replayFailed

theorem rolledBack_fields : (rolledBack s).time = s.time ∧ (rolledBack s).res = attemptLost s.res s.job.step ∧
    (rolledBack s).job.phase = s.job.phase ∧ (rolledBack s).job.step = s.job.step ∧ (rolledBack s).job.swap = s.job.swap ∧
    ∀ n, (coreAt (rolledBack s) n).deferred = (coreAt s n).deferred := by
  have all := rolledBack_progress (s := s)
  simp only [progress, Prod.mk.injEq] at all
  obtain ⟨htime, hres, hphase, hstep, hswap, hcores⟩ := all
  exact ⟨htime, hres, hphase, hstep, hswap, fun n => by rw [coreAt_deferred, hcores, ← coreAt_deferred]⟩

theorem rollback_eq : rollback s = match (rolledBack s).job.phase with
    | .running | .stopping | .held =>
      if (rolledBack s).res.conf.any (fun c => c.retry && (rolledBack s).res.rollbacks ≤ c.retryLimit) && !(rolledBack s).res.replayFailed then
        walkAgain (rolledBack s) s.job.step
      else fenceDeferred (jobOf (rolledBack s) fun j => { j with phase := .held })
    | _ => rolledBack s := rfl

/-- A job without a step under way keeps its phase (log 28). -/
theorem rollback_idle (h : s.job.phase = .idle ∨ s.job.phase = .loaded ∨ s.job.phase = .stopped) : rollback s = rolledBack s := by
  obtain ⟨-, -, hphase, -⟩ := rolledBack_fields (s := s)
  rw [rollback_eq, hphase]
  rcases h with h | h | h <;> rw [h]

/-- A job with a step begins it again, or is HELD where it may not. -/
theorem rollback_stepping (h : s.job.phase = .running ∨ s.job.phase = .stopping ∨ s.job.phase = .held)
    (hd : ∀ n < 152, (coreAt s n).deferred = none) : rollback s =
      if retries s = true then walkAgain (rolledBack s) s.job.step else jobOf (rolledBack s) fun j => { j with phase := .held } := by
  obtain ⟨-, hres, hphase, -, -, hcores⟩ := rolledBack_fields (s := s)
  have again : ((rolledBack s).res.conf.any (fun c => c.retry && (rolledBack s).res.rollbacks ≤ c.retryLimit) &&
      !(rolledBack s).res.replayFailed) = retries s := by rw [hres]; rfl
  have unfenced : fenceDeferred (jobOf (rolledBack s) fun j => { j with phase := .held }) =
      jobOf (rolledBack s) fun j => { j with phase := .held } := fenceDeferred_none fun n hn => (hcores n).trans (hd n hn)
  rw [rollback_eq, hphase, again, unfenced]
  rcases h with h | h | h <;> rw [h]

theorem rollback_cases (hd : ∀ n < 152, (coreAt s n).deferred = none) : rollback s = rolledBack s ∨
    rollback s = walkAgain (rolledBack s) s.job.step ∨ rollback s = jobOf (rolledBack s) fun j => { j with phase := .held } := by
  cases h : s.job.phase with
  | idle | loaded | stopped => exact .inl (rollback_idle (by simp [h]))
  | running | stopping | held =>
    rw [rollback_stepping (by simp [h]) hd]
    split
    · exact .inr (.inl rfl)
    · exact .inr (.inr rfl)

theorem walkAgain_keeps (n : Nat) : (walkAgain s n).time = s.time ∧ (walkAgain s n).res = s.res ∧ (walkAgain s n).dram = s.dram :=
  ⟨rfl, rfl, rfl⟩

/-- What becomes of the job, everything but the job is as `rolledBack` leaves it. -/
theorem rollback_keeps (hd : ∀ n < 152, (coreAt s n).deferred = none) : (rollback s).time = (rolledBack s).time ∧
    (rollback s).res = (rolledBack s).res ∧ (rollback s).dram = (rolledBack s).dram := by
  rcases rollback_cases hd with h | h | h <;> rw [h]
  · exact ⟨rfl, rfl, rfl⟩
  · exact walkAgain_keeps _
  · exact ⟨jobOf_time _ _, jobOf_res _ _, jobOf_dram _ _⟩

theorem retries_iff : retries s = true ↔
    (∃ c, s.res.conf = some c ∧ c.retry = true ∧ s.res.rollbacks + 1 ≤ c.retryLimit) ∧ s.res.replayFailed = false := by
  simp [retries, Option.any_eq_true]

/-- Settles O55: the flip writes the record of the commits alone; the rollback by what everything but the attempt has from before. -/
theorem flipCommitsTheStep : Obligations.FlipCommitsTheStep := by
  refine ⟨fun s n => ⟨rfl, rfl, rfl, fun h => ⟨if_pos h, if_neg (by omega)⟩, fun h => ⟨if_pos h, if_neg (by omega)⟩, rfl⟩, ?_⟩
  rintro s t rfl hd
  obtain ⟨htime, hres, hdram⟩ := rollback_keeps hd
  obtain ⟨htime', hres', hphase, hstep, hswap, -⟩ := rolledBack_fields (s := s)
  rw [hres, hres', htime, hdram]
  refine ⟨rfl, rfl, rfl, rfl, rfl, htime', rolledBack_dram, fun h => ?_, fun h => ⟨fun hc hf => ?_, fun hc => ?_⟩⟩
  · rw [rollback_idle h, hphase]
  · rw [rollback_stepping h hd, if_pos (retries_iff.2 ⟨hc, hf⟩)]
    exact ⟨rfl, rfl, hswap⟩
  · rw [rollback_stepping h hd, if_neg fun hr => ?_]
    · rfl
    · obtain ⟨⟨c, hconf, hretry, hlimit⟩, hf⟩ := retries_iff.1 hr
      rcases hc with hc | hc
      · rcases hc c hconf with h | h
        · simp [hretry] at h
        · omega
      · simp [hf] at hc

end Sys2Proof.Machine
end

section
/-! SUPPORT. The boot stages, the sensors, the power envelope and its faults (18_power_clocks_reset.md; 21_module_hardware.md; R434 to R443,
R449 to R453, R492, R496). -/

namespace Sys2Proof.Machine

variable {s : State}

/-! ### Boot stages (R434, R449) -/

/-- A boot row is performed at its stage. -/
theorem onStage {st : Stage} (h1 : s.pwr.powered = true) (h2 : s.pwr.pinHeld = false) (h3 : s.pwr.fault = false) (h4 : s.pwr.stage = st) :
    (resetOk s && !s.pwr.fault && s.pwr.stage = st) = true := by simp [resetOk_running h1 h2, h3, h4]

/-- Training and map-out after a cold reset, the end of self-refresh after a warm one. -/
theorem bootMemory_eq (hbm lpddr : List Nat) (lanes : List (Nat × Nat × Nat)) : bootMemory hbm lpddr lanes s =
    if s.pwr.level = 1 then setStage (leaveRefresh s) .fabric
    else setStage (lpddr.foldl lpddrFail (lanes.foldl laneFails (hbm.foldl hbmFail (mapLists (growMapout s))))) .cores := by
  unfold bootMemory
  exact if_congr (by simp [warmBoot]) rfl rfl

theorem bootRom_eq : bootRom s =
    if imVerdict s.fw.minSec (fwSlotAt s s.fw.next).image = 0 then
      { s with fw := { s.fw with running := s.fw.next, fallback := false }, pwr := { s.pwr with stage := .firmware } }
    else if imVerdict s.fw.minSec (fwSlotAt s (1 - s.fw.next)).image = 0 then
      { s with fw := { s.fw with running := 1 - s.fw.next, fallback := true }, pwr := { s.pwr with stage := .firmware } }
    else { s with pwr := { s.pwr with stage := .recovery } } :=
  if_congr (by simp [slotBoots]) rfl (if_congr (by simp [slotBoots]) rfl rfl)

/-- Boot goes on once every sensor is 10 °C below its throttle limit (R443). -/
theorem holdRelease_eq {temps : Temps} {u : State} (hu : u = readSensors s temps) : holdRelease s temps =
    if ∀ x ∈ sensors u, x.2 ≤ (sensorLimits u x.1).throttle - 100 then
      { u with pwr := { u.pwr with clock0 := 800, clock1 := 800, stage := .rom } } else u := by
  subst hu
  exact if_congr (by simp [holdOver]) rfl rfl

/-- Settles O15: at its stage each row does its work. -/
theorem bootStagesAdvance : Obligations.BootStagesAdvance := by
  intro s h1 h2 h3
  have there {st : Stage} (h : s.pwr.stage = st) := onStage h1 h2 h3 h
  refine ⟨fun h => next_if (there h), fun h => (next_if (there h)).trans (congrArg _ bootRom_eq), fun h => next_if (there h),
    fun hbm lpddr lanes hh hl hx h => ?_, fun failed hf h => ?_, fun h => next_if (there h), fun h => next_if (there h),
    fun h hm => (next_if (there h)).trans (next_if hm),
    fun temps u hu h => (next_if (there h)).trans (congrArg _ (holdRelease_eq hu))⟩
  · have exist : trainable hbm lpddr lanes = true := by
      simp only [trainable, Bool.and_eq_true, List.all_eq_true, decide_eq_true_eq, and_assoc]
      exact ⟨hh, hl, hx⟩
    exact (if_pos exist).trans ((next_if (there h)).trans (congrArg _ (bootMemory_eq hbm lpddr lanes)))
  · exact (if_pos (by simpa using hf)).trans (next_if (there h))

/-! ### Sensors (R442, R443, R496) -/

/-- The state in which the readings have come in and nothing has been made of them. -/
def withTemps (s : State) (temps : Temps) : State := { s with pwr := { s.pwr with temps } }

/-- The sensors whose throttle holds. -/
def hotSensors (s : State) (temps : Temps) : List (SensorClass × Nat) :=
  ((sensors (withTemps s temps)).filter (stillHot (withTemps s temps))).map (·.1)

/-- Whether the throttle of a sensor that acts on a die holds. -/
def dieHot (s : State) (temps : Temps) (die : Nat) : Bool := (hotSensors s temps).any fun x => (sensorDies x).contains die

/-- A note of a throttle queues an interrupt at most. -/
theorem noteThrottle_frame (before s : State) : ∃ ibis, noteThrottle before s = { s with pwr := { s.pwr with ibis } } := by
  unfold noteThrottle Pwr.interrupt; split <;> exact ⟨_, rfl⟩

/-- A reading writes what Lamplighter makes of it, the interrupts and the telemetry alone. -/
theorem readSensors_writes (s : State) (temps : Temps) : ∃ host tel ibis, readSensors s temps = { s with host, tel, pwr := { s.pwr with
    temps, ibis, hot := hotSensors s temps, therm0 := dieHot s temps 0, therm1 := dieHot s temps 1
    maxTemp := hottest ((sensors (withTemps s temps)).map (·.2)), overWarn := overWarning (withTemps s temps)
    lowSince := if (s.pwr.clock0 = 800 || s.pwr.clock1 = 800) && overThrottle (withTemps s temps) then some (s.pwr.lowSince.getD s.time)
      else none } } := by
  obtain ⟨ibis, hn⟩ := noteThrottle_frame s (watchLow { s with pwr := { s.pwr with
    temps, hot := hotSensors s temps, therm0 := dieHot s temps 0, therm1 := dieHot s temps 1
    maxTemp := hottest ((sensors (withTemps s temps)).map (·.2)), overWarn := overWarning (withTemps s temps) } })
  have hr : readSensors s temps = if (s.pwr.therm0 || s.pwr.therm1) = (dieHot s temps 0 || dieHot s temps 1) then _
    else throttleEvent _ (dieHot s temps 0 || dieHot s temps 1) true := if_congr Iff.rfl hn (congrArg (throttleEvent · _ _) hn)
  split at hr
  · exact ⟨_, _, ibis, hr⟩
  · rw [throttleEvent, event_frame] at hr
    exact ⟨_, _, ibis, hr⟩

variable {temps : Temps}

theorem sensors_readSensors : sensors (readSensors s temps) = sensors (withTemps s temps) := by
  obtain ⟨_, _, _, hu⟩ := readSensors_writes s temps
  rw [hu]; rfl

theorem sensorLimits_readSensors (x : SensorClass × Nat) : sensorLimits (readSensors s temps) x = sensorLimits s x := by
  obtain ⟨_, _, _, hu⟩ := readSensors_writes s temps
  rw [hu]; rfl

/-- A die's throttle holds when a sensor that acts on it does, or still does (R442). -/
theorem dieHot_iff (die : Nat) : dieHot s temps die = true ↔ ∃ x ∈ sensors (withTemps s temps), (sensorDies x.1).contains die = true ∧
    ((sensorLimits s x.1).throttle < x.2 ∨ (x.1 ∈ s.pwr.hot ∧ (sensorLimits s x.1).throttle - 20 < x.2)) := by
  have still (x) : stillHot (withTemps s temps) x = true ↔
      ((sensorLimits s x.1).throttle < x.2 ∨ (x.1 ∈ s.pwr.hot ∧ (sensorLimits s x.1).throttle - 20 < x.2)) := by
    unfold stillHot
    simp only [Bool.or_eq_true, Bool.and_eq_true, decide_eq_true_eq, List.contains_iff_mem]
    rfl
  simp only [dieHot, hotSensors, List.any_map, List.any_filter, List.any_eq_true, Bool.and_eq_true, Function.comp, still]
  exact exists_congr fun x => and_congr_right fun _ => and_comm

theorem le_foldl_max {l : List Nat} {n k : Nat} (h : n ∈ l) : n ≤ l.foldl max k := by
  rw [List.foldl_max]
  exact (List.le_max?_getD_of_mem h).trans (Nat.le_max_right _ _)

theorem le_overWarning {x : (SensorClass × Nat) × Int} (hx : x ∈ sensors s) :
    (x.2 - (sensorLimits s x.1).warning + 9) / 10 ≤ (overWarning s : Int) := by
  have h : ((x.2 - (sensorLimits s x.1).warning + 9) / 10).toNat ≤ overWarning s := le_foldl_max (List.mem_map_of_mem hx)
  omega

/-- A class's limits are only ever lowered, by an optic's own thresholds (R496). -/
theorem sensorLimits_le (x : SensorClass × Nat) : (sensorLimits s x).throttle ≤ (classLimits x.1).throttle ∧
    (sensorLimits s x).trip ≤ (classLimits x.1).trip ∧
    ∀ o, x.1 = .optics → (farAt s x.2).own = some o → (sensorLimits s x).throttle ≤ o.throttle := by
  obtain ⟨k, i⟩ := x
  by_cases hk : k = .optics
  · subst hk
    cases ho : (farAt s i).own with
    | none => simp [sensorLimits, ho]
    | some o => simp [sensorLimits, ho]
  · have hl : sensorLimits s (k, i) = classLimits k := by
      unfold sensorLimits
      dsimp only
      split
      · exact absurd rfl hk
      · rfl
    exact ⟨(congrArg _ hl).le, (congrArg _ hl).le, fun o h => absurd h hk⟩

/-- What a reading of the sensors comes to (R442, R443, R496). -/
theorem readSensors_sound (s : State) (temps : Temps) (u : State) (hu : u = readSensors s temps) :
    (∀ die, (if die = 0 then u.pwr.therm0 else u.pwr.therm1) = true ↔ ∃ x ∈ sensors u, (sensorDies x.1).contains (min die 1) = true ∧
      ((sensorLimits u x.1).throttle < x.2 ∨ (x.1 ∈ s.pwr.hot ∧ (sensorLimits u x.1).throttle - 20 < x.2))) ∧
    (∀ x ∈ sensors u, (x.2 - (sensorLimits u x.1).warning + 9) / 10 ≤ (u.pwr.overWarn : Int)) ∧
    (u.pwr.lowSince.isSome = true ↔ (s.pwr.clock0 = 800 ∨ s.pwr.clock1 = 800) ∧
      ∃ x ∈ sensors u, (sensorLimits u x.1).throttle < x.2) := by
  obtain ⟨_, _, _, hw⟩ := readSensors_writes s temps
  have hs : sensors u = sensors (withTemps s temps) := hu ▸ sensors_readSensors
  have hl (x) : sensorLimits u x = sensorLimits s x := hu ▸ sensorLimits_readSensors x
  have hp := hu.trans hw
  simp only [hs, hl]
  refine ⟨fun die => ?_, fun x hx => ?_, ?_⟩
  · rcases Nat.eq_zero_or_pos die with rfl | hd
    · rw [hp]; exact dieHot_iff 0
    · rw [if_neg hd.ne', Nat.min_eq_right hd, hp]; exact dieHot_iff 1
  · rw [hp]; exact le_overWarning hx
  · have exceeds : overThrottle (withTemps s temps) = true ↔ ∃ x ∈ sensors (withTemps s temps), (sensorLimits s x.1).throttle < x.2 := by
      simp only [overThrottle, List.any_eq_true, decide_eq_true_eq]; rfl
    rw [hp, ← exceeds]
    simp

/-! ### The power envelope (R440 to R442) -/

theorem clockGlide_eq (high : Bool) (cap c : Nat) :
    clockGlide high cap c = if high = true ∨ cap < c then (if c = 0 then 0 else max 800 (c - 25)) else c :=
  if_congr (by simp) rfl rfl

theorem overPower_eq {high : Bool} {a1 a10 : Nat} (h1 : s.pwr.avg1s = a1) (h10 : s.pwr.avg10ms = a10)
    (h : high = true ↔ 1000 * sustained s < a1 ∨ 1100 * sustained s < a10) : overPower s = high := by
  rw [Bool.eq_iff_iff, h]
  simp [overPower, h1, h10]

theorem readSensors_averages : (readSensors s temps).pwr.avg1s = s.pwr.avg1s ∧ (readSensors s temps).pwr.avg10ms = s.pwr.avg10ms := by
  obtain ⟨_, _, _, hu⟩ := readSensors_writes s temps
  rw [hu]; exact ⟨rfl, rfl⟩

/-- The end of a power sample, once the sensors are read: the clocks glide, and the throttle follows the averages. -/
theorem glide_eq {high : Bool} (h : overPower s = high) :
    setPowerThrottle (watchLow { s with pwr := { s.pwr with
      clock0 := clockGlide (overPower s) s.pwr.cap s.pwr.clock0, clock1 := clockGlide (overPower s) s.pwr.cap s.pwr.clock1 } }) (overPower s) =
    setPowerThrottle (watchLow { s with pwr := { s.pwr with
      clock0 := if high = true ∨ s.pwr.cap < s.pwr.clock0 then (if s.pwr.clock0 = 0 then 0 else max 800 (s.pwr.clock0 - 25)) else s.pwr.clock0
      clock1 := if high = true ∨ s.pwr.cap < s.pwr.clock1 then (if s.pwr.clock1 = 0 then 0 else max 800 (s.pwr.clock1 - 25))
        else s.pwr.clock1 } }) high := by
  simp only [h, clockGlide_eq]

theorem clockRaise_eq {t : State} (ht : t = advance s (s.time + 1000000)) : clockRaise s =
    if t.pwr.avg1s < 950 * sustained t ∧ t.pwr.avg10ms < 1045 * sustained t ∧ t.pwr.therm0 = false ∧ t.pwr.therm1 = false then
      watchLow { t with pwr := { t.pwr with
        clock0 := if t.pwr.clock0 = 0 then 0 else max t.pwr.clock0 (min t.pwr.cap (t.pwr.clock0 + 25))
        clock1 := if t.pwr.clock1 = 0 then 0 else max t.pwr.clock1 (min t.pwr.cap (t.pwr.clock1 + 25)) } }
    else t := by
  subst ht
  exact if_congr (by simp [underPower, and_assoc]) rfl rfl

/-- A die's clock steps down while its throttle holds; a stopped one stays stopped. -/
theorem throttledClock_eq (on : Bool) (c : Nat) :
    (if on = true then clockDown c else c) = if on = true ∧ c ≠ 0 then max 800 (c - 25) else c := by
  cases on with
  | false => simp
  | true => by_cases h : c = 0 <;> simp [clockDown, h]

theorem throttleClocks_eq (u : State) :
    watchLow { u with pwr := { u.pwr with
      clock0 := if u.pwr.therm0 = true then clockDown u.pwr.clock0 else u.pwr.clock0
      clock1 := if u.pwr.therm1 = true then clockDown u.pwr.clock1 else u.pwr.clock1 } } =
    watchLow { u with pwr := { u.pwr with
      clock0 := if u.pwr.therm0 = true ∧ u.pwr.clock0 ≠ 0 then max 800 (u.pwr.clock0 - 25) else u.pwr.clock0
      clock1 := if u.pwr.therm1 = true ∧ u.pwr.clock1 ≠ 0 then max 800 (u.pwr.clock1 - 25) else u.pwr.clock1 } } := by
  simp only [throttledClock_eq]

/-! ### Excursions, faults and trips (R434, R443, R492) -/

theorem advance_excursion (t : Nat) : (advance s t).pwr.excursion = s.pwr.excursion := by
  unfold advance; split <;> rfl

theorem inputInRange_iff (mv : Nat) : inputInRange mv = true ↔ 48000 ≤ mv ∧ mv ≤ 58000 := by simp [inputInRange]

theorem inputExcursion_eq {mv : Nat} {t : State} (ht : t = advance s (s.time + 100000)) : inputExcursion s mv =
    if s.pwr.excursion = false ∧ (mv < 48000 ∨ 58000 < mv) then { t with pwr := { t.pwr with mv := mv, excursion := true } }
    else if s.pwr.excursion = true ∧ 48000 ≤ mv ∧ mv ≤ 58000 then
      histCount { t with pwr := { t.pwr with mv := mv, excursion := false, excursions := t.pwr.excursions ++ [t.time] } } 20
        ((t.pwr.mv - 46000) / 500)
    else s := by
  subst ht
  have out : inputInRange mv = false ↔ mv < 48000 ∨ 58000 < mv := by
    rw [← Bool.not_eq_true, inputInRange_iff]; omega
  refine Eq.trans ?_ (if_congr (and_congr_right fun _ => out) rfl (if_congr (and_congr_right fun _ => inputInRange_iff mv) rfl rfl))
  unfold inputExcursion
  simp only [advance_excursion]
  cases s.pwr.excursion <;> cases inputInRange mv <;> rfl

theorem execPowerFault_input {mv : Nat} (h1 : s.pwr.powered = true) (h2 : s.pwr.pinHeld = false) (h3 : s.pwr.fault = false) :
    exec (.powerFault 0 mv) s = .next (if mv < 46000 then powerFault (advance s (s.time + 10000000))
      else if 60000 < mv then powerFault (advance s (s.time + 100000)) else s) := by
  refine (onUnit_exists (n := 0) (count := 10) (by decide) _).trans (congrArg _ ?_)
  rw [if_neg (by simp [resetOk_running h1 h2, h3]), if_neg (by simp), faultAfter]
  by_cases low : mv < 46000
  · simp only [if_pos low]
  · by_cases high : 60000 < mv
    · simp only [if_neg low, if_pos high]
    · simp only [if_neg low, if_neg high]

theorem execPowerFault_stage {rail mv : Nat} (h1 : s.pwr.powered = true) (h2 : s.pwr.pinHeld = false) (h3 : s.pwr.fault = false)
    (hr : rail ≠ 0) (hn : rail < 10) : exec (.powerFault rail mv) s = .next (powerFault s) :=
  (if_pos hn).trans (congrArg _ ((if_neg (by simp [resetOk_running h1 h2, h3])).trans (if_pos hr)))

theorem thermalTrip_eq {u : State} (hu : u = readSensors s temps) : thermalTrip s temps =
    if ∃ x ∈ sensors u, (sensorLimits u x.1).trip ≤ x.2 then tripNow u
    else match u.pwr.lowSince with
      | some t => tripNow (advance u (t + 1000000000))
      | none => u := by
  subst hu
  exact if_congr (by simp [tripReached]) rfl rfl

/-- What stands after a power fault: TRIP and its interrupt, PILOT alone, and nothing in DRAM. -/
theorem powerFault_sound (s : State) : let u := powerFault s
    u.pwr.fault = true ∧ u.pwr.trip = true ∧ u.pwr.thermN = true ∧ u.pwr.rails = 1 ∧ u.pwr.endpoint = false ∧ u.pwr.stage = .power ∧
    u.dram = [] ∧ u.time = s.time ∧ (s.pwr.trip = false → u.pwr.ibis = s.pwr.ibis ++ [(1, s.time)]) := by
  have hp : (fbEntry (raiseTrip s) 12 0).pwr = (raiseTrip s).pwr := by rw [fbEntry_frame]
  have ht : (fbEntry (raiseTrip s) 12 0).time = s.time := by rw [fbEntry_frame]; rfl
  have hd : (powerFault s).pwr = { (raiseTrip s).pwr.warm.dark with fault := true } := by rw [← hp]; rfl
  have raised : (raiseTrip s).pwr.trip = true ∧ (raiseTrip s).pwr.thermN = true ∧
      (s.pwr.trip = false → (raiseTrip s).pwr.ibis = s.pwr.ibis ++ [(1, s.time)]) := by
    unfold raiseTrip Pwr.interrupt
    cases h : s.pwr.trip <;> simp
  obtain ⟨trip, therm, ibis⟩ := raised
  intro u
  have hu : u.pwr = _ := hd
  rw [hu]
  exact ⟨rfl, trip, therm, rfl, rfl, rfl, rfl, ht, ibis⟩

/-- What Lamplighter's rows do on a module with 54 V. -/
theorem powerRows_complete (hp : s.pwr.powered = true) (temps : Temps) :
    (∀ mv a1 a10, exec (.powerSample mv a1 a10 temps) s = .next (powerSample s mv a1 a10 temps)) ∧
    exec .clockRaise s = .next (clockRaise s) ∧ (s.pwr.rails = 9 → exec .currentLimit s = .next (currentLimit s)) ∧
    exec (.thermalThrottle temps) s = .next (thermalThrottle s temps) ∧
    ∀ mv, exec (.inputExcursion mv) s = .next (inputExcursion s mv) :=
  ⟨fun _ _ _ => next_if hp, next_if hp, fun h => next_if (by simp [hp, h]), next_if hp, fun _ => next_if hp⟩

/-- Settles O16: each row's clause is its row with the condition read as a proposition, and the last is what a reading writes. -/
theorem powerEventsComplete : Obligations.PowerEventsComplete := by
  refine ⟨fun s hp => ⟨fun mv a1 a10 temps t u high ht hu hh => ?_, fun t ht => ?_, fun t u ht hu h9 => ?_, fun temps u hu => ?_,
    fun mv t ht => ?_, fun h2 h3 => ⟨fun rail mv => execPowerFault_stage hp h2 h3, fun mv => execPowerFault_input hp h2 h3,
      fun temps u hu h4 => (next_if (warmOk_running hp h2 h3 h4)).trans (congrArg _ (thermalTrip_eq hu))⟩⟩,
    powerFault_sound, fun s t ht => ht ▸ rfl, fun s temps => ?_⟩
  · obtain ⟨sample, -⟩ := powerRows_complete hp temps
    have averages := readSensors_averages (s := { t with pwr := { t.pwr with
      mv := mv, avg1s := a1, avg10ms := a10, lastSample := t.time,
      energy := t.pwr.energy + a10 * (max (s.pwr.lastSample + 10000) s.time - s.pwr.lastSample) } }) (temps := temps)
    rw [← hu] at averages
    rw [sample, ← glide_eq (overPower_eq averages.1 averages.2 hh), hu, ht]
    rfl
  · obtain ⟨-, raise, -⟩ := powerRows_complete hp ⟨[], [], [], [], [], [], [], [], []⟩
    rw [raise, clockRaise_eq ht]
  · obtain ⟨-, -, limit, -⟩ := powerRows_complete hp ⟨[], [], [], [], [], [], [], [], []⟩
    rw [limit h9, hu, ht]; rfl
  · obtain ⟨-, -, -, throttle, -⟩ := powerRows_complete hp temps
    rw [throttle, ← throttleClocks_eq, hu]; rfl
  · obtain ⟨-, -, -, -, excursion⟩ := powerRows_complete hp ⟨[], [], [], [], [], [], [], [], []⟩
    rw [excursion, inputExcursion_eq ht]
  · intro u
    obtain ⟨dies, warn, low⟩ := readSensors_sound s temps u rfl
    obtain ⟨_, _, _, hu⟩ := readSensors_writes s temps
    refine ⟨dies, ?_, warn, low, sensorLimits_le, ?_⟩
    · exact congrArg (·.pwr.temps) hu
    · rw [show u = _ from hu]
      exact ⟨rfl, rfl, rfl, rfl, rfl, rfl, rfl, rfl, rfl, rfl, rfl, rfl⟩

end Sys2Proof.Machine
end

section
/-! SUPPORT. The power states of cores, the triggers of a fence and the reissue of a fenced core's program (04_cores_tile_store_seals.md,
18_power_clocks_reset.md; R105 to R108, R436 to R438). -/

namespace Sys2Proof.Machine

variable {s : State} {n : Nat}

/-! ### Light, dim and dark cores (R436 to R438) -/

theorem coresRun_ready (h1 : s.pwr.stage = .ready) (h2 : s.pwr.standby = false) : coresRun s = true := by simp [coresRun, h1, h2]

/-- A core with nothing to do, and no access to its window, is idle. -/
theorem idle_of (h1 : (coreAt s n).launch = none) (h2 : (coreAt s n).moves = []) (h3 : windowBusy s n = false) : idle s n = true := by
  simp [idle, h1, h2, h3]

/-- A move of any core that has the window as its source or destination keeps it busy. -/
theorem windowBusy_of_move {k : Nat} {m : Move} (hk : k < 152) (hm : m ∈ (coreAt s k).moves)
    (hw : windowCore m.src = some n ∨ windowCore m.dst = some n) (hl : s.cores.length = 152) : windowBusy s n = true := by
  have hmem : coreAt s k ∈ s.cores := by
    have hlt : k < s.cores.length := hl ▸ hk
    simp only [coreAt, List.getD_eq_getElem _ _ hlt]
    exact List.getElem_mem hlt
  exact List.any_eq_true.mpr ⟨_, hmem, List.any_eq_true.mpr ⟨m, hm, by simpa using hw⟩⟩

theorem coreLight_lights (hn : n < 152) (h1 : s.pwr.stage = .ready) (h2 : s.pwr.standby = false) (he : (coreAt s n).enabled = true)
    (h : (coreAt s n).power ≠ .lit ∨ (coreAt s n).clockOn = false) : exec (.coreLight n) s = .next (lightCore s n) :=
  (onUnit_exists hn _).trans (next_if (by simpa [coresRun_ready h1 h2, he] using h))

theorem coreDim_dims (hn : n < 152) (h1 : s.pwr.stage = .ready) (h2 : s.pwr.standby = false) (he : (coreAt s n).enabled = true)
    (hp : (coreAt s n).power = .lit) (hi : idle s n = true) (hh : (coreAt s n).hold = false) :
    exec (.coreDim n) s = .next (dim (advance s ((coreAt s n).idleSince + s.pwr.dimAfter * 1000)) n) :=
  (onUnit_exists hn _).trans (next_if (by simp [coresRun_ready h1 h2, he, hp, hi, hh]))

theorem coreDark_darkens (hn : n < 152) (h1 : s.pwr.stage = .ready) (h2 : s.pwr.standby = false) (he : (coreAt s n).enabled = true)
    (hp : (coreAt s n).power = .dimmed) (hj : inJob s n = false) :
    exec (.coreDark n) s = .next (darken (advance s ((coreAt s n).dimSince + s.pwr.darkAfter * 1000000)) n) :=
  (onUnit_exists hn _).trans (next_if (by simp [coresRun_ready h1 h2, he, hp, hj]))

theorem coreClockStop_stops (hn : n < 152) (hp : (coreAt s n).power = .lit) (hc : (coreAt s n).clockOn = true) (hi : idle s n = true) :
    exec (.coreClockStop n) s = .next (setCore s n fun c => { c with clockOn := false }) :=
  (onUnit_exists hn _).trans (next_if (by simp [hp, hc, hi]))

theorem busyWindow_keeps (hn : n < 152) (h : windowBusy s n = true) : exec (.coreDim n) s = .next s ∧ exec (.coreClockStop n) s = .next s := by
  have hi : idle s n = false := by simp [idle, h]
  exact ⟨(onUnit_exists hn _).trans (congrArg _ (if_neg (by simp [hi]))), (onUnit_exists hn _).trans (congrArg _ (if_neg (by simp [hi])))⟩

/-! ### The triggers of a fence (R93, R105, R106) -/

theorem immediateFence_own (hn : n < 152) (h : (coreAt s n).cause = none) : exec (.immediateFence n 0) s =
    .next (failEmptyGroups (fenceCore (bump (logSeal s (ownErrorRecord s n)) 15) n 0)) :=
  (onUnit_exists hn _).trans (congrArg (fun t => Host.Outcome.next (failEmptyGroups t)) (if_neg (by rw [h]; exact Bool.false_ne_true)))

theorem immediateFence_fences {cause : Nat} (hn : n < 152) (h : cause = 1 ∨ cause = 4) : exec (.immediateFence n cause) s =
    .next (failEmptyGroups (fenceCore s n cause)) := by
  rcases h with rfl | rfl <;> exact onUnit_exists hn _

/-- A core's change depends on what it makes of that core alone. -/
theorem setCore_congr {f g : Core → Core} (h : f (coreAt s n) = g (coreAt s n)) : setCore s n f = setCore s n g := by
  have hm : s.cores.modify n f = s.cores.modify n g := by
    apply List.ext_getElem?
    intro i
    simp only [List.getElem?_modify]
    split
    · next hi =>
      subst hi
      cases hc : s.cores[n]? with
      | none => rfl
      | some c => simpa [coreAt, hc] using h
    · rfl
  simp only [setCore, hm]

/-- What is left of an hour's 65 corrected errors comes: the core is fenced, at once or at the end of the step (R93, R106). -/
theorem correctedLimit_fences {anew : Bool} {known k : Nat} {t : State} (ha : anew = decide ((coreAt s n).hour + 3600000000000 ≤ s.time))
    (hn : known = if anew then 0 else (coreAt s n).corrected) (hk : k = max 1 (65 - known))
    (ht : t = setCore (countUp s cSram k) n fun c => { c with corrected := known + k, hour := if anew then s.time else (coreAt s n).hour })
    (hc : (coreAt s n).cause = none) : correctedLimit s n = failEmptyGroups
      (if stepRuns s = true then setCore t n fun c => { c with deferred := c.deferred.or (some 3) } else fenceCore t n 3) := by
  have known_eq : known = if (coreAt s n).hour + 3600000000000 ≤ s.time then 0 else (coreAt s n).corrected := by
    rw [hn, ha]; simp only [decide_eq_true_eq]
  have beyond : ¬ (decide (known + k ≤ 64) || (coreAt s n).cause.isSome) = true := by
    simp only [hc, Option.isSome_none, Bool.or_false, decide_eq_true_eq]; omega
  have errors : storeErrors s n k =
      if stepRuns s = true then setCore t n fun c => { c with deferred := c.deferred.or (some 3) } else fenceCore t n 3 := by
    rw [hn] at beyond
    rw [show t = setCore (countUp s cSram k) n fun c => { c with corrected := known + k, hour := if anew then s.time else c.hour } from
      ht.trans (setCore_congr rfl), hn]
    subst ha
    exact if_neg beyond
  rw [← errors, hk, known_eq]; rfl

/-! ### REISSUE (R108) -/

section
variable {l : Launch} {p : Program} {die : List Nat} {aborted : Bool} (hl : (coreAt s n).launch = some l)
  (hc : (coreAt s n).cause.isSome = true) (hs : (coreAt s n).stop = none) (he : (coreAt s n).ending = none)
  (hd : die = (enabledCores s).filter fun k => dieOf k = dieOf n) (hp : findProg s l.prog = some p)
  (ha : aborted = l.host.any fun h => (findCmd s h.1 h.2).any ending)
include hl hc hs he hd hp ha

theorem reissue_idle {k : Nat} (hk : (die.find? fun k => (coreAt s k).launch.isNone) = some k) :
    reissue s n = if l.bound = true ∨ aborted = true then loseLaunch s n l else moveLaunch s n k l p := by
  subst hd ha
  simp only [reissue, hl, hk, hp]
  rw [if_neg (by simp [hs, he, Option.isSome_iff_ne_none.mp hc])]
  exact if_congr (by simp) rfl rfl

theorem reissue_busy (hk : (die.find? fun k => (coreAt s k).launch.isNone) = none) :
    reissue s n = if l.bound = true ∨ aborted = true ∨ die = [] then loseLaunch s n l else s := by
  subst hd ha
  simp only [reissue, hl, hk, hp]
  rw [if_neg (by simp [hs, he, Option.isSome_iff_ne_none.mp hc])]
  exact if_congr (by simp [or_assoc]) rfl rfl

end

/-- The launch starts from its first index on core `k`, with `k`'s place in the group (R226) and the pairs of die and hub semaphores. -/
theorem moveLaunch_eq {k : Nat} {l : Launch} {p : Program} {place : Nat × Nat}
    (hp : place = if l.sched.isSome then groupPlace s k else (l.rank, l.size)) :
    moveLaunch s n k l p = launchCore (setInstance (clearLaunch s n) l fun x => { x with phase := .running k }) k p
      { l with pc := l.first, remote := false, localIn := false, own := [], seqs := [], rank := place.1, size := place.2
               counted := l.counted.filter fun q => semScope q.1 ≠ 0 } := by
  subst hp; rfl

/-! ### What a fence leaves of its core (R107) -/

/-- A fence's renewed places change launches alone. -/
theorem coreAt_replaced (h : n < s.cores.length) : ∃ launch, coreAt (replaced s) n = { coreAt s n with launch } := by
  simp only [coreAt, replaced, List.getD_eq_getElem?_getD, List.getElem?_mapIdx, List.getElem?_eq_getElem h, Option.map_some,
    Option.getD_some]
  exact ⟨_, rfl⟩

/-- What a fence makes of its core (R107, R436). -/
def Core.fenced (n cause : Nat) (c : Core) : Core :=
  { c.wiped n with
    enabled := false, cause := some cause, retested := false, deferred := none, power := .dark, clockOn := false, stop := c.stop,
    nf0 := if c.stop.isSome then c.nf0 else 0, nf1 := if c.stop.isSome then c.nf1 else 0 }

/-- The state in which a fence has discarded the core's writes and darkened it. -/
def fencedState (s : State) (n cause : Nat) : State := setCore (darkenStore ((coreAt s n).moves.foldl discardMove s) n) n (Core.fenced n cause)

theorem fenceCore_eq {cause : Nat} {u : State} (hu : u = fencedState s n cause) (hc : (coreAt s n).cause = none) : fenceCore s n cause =
    settleFences (event (markFenced (fbState (fbEntry (replaced u) 1 (coreData u n cause)))) 14 (n + 256 * cause)) n := by
  subst hu
  exact if_neg (by simp [hc])

/-- After the dark, what a fence still settles leaves the cores alone. -/
theorem settleFences_cores : (settleFences s n).cores = s.cores :=
  foldl_keeps (f := fun s c => finish s 0 c 0) State.cores (fun _ c => (finish_host 0 c 0 [] 0 0).keeps State.cores fun _ _ => rfl) _ s

theorem event_cores (cls data : Nat) : (event s cls data).cores = s.cores := by rw [event_frame]

theorem discardMoves_cores (ms : List Move) : (ms.foldl discardMove s).cores = s.cores :=
  foldl_keeps State.cores (fun _ => discardMove_keeps (g := State.cores) fun _ _ _ _ _ _ _ => rfl) ms s

theorem coreAt_fencedState (cause : Nat) (hn : n < s.cores.length) :
    n < (fencedState s n cause).cores.length ∧ ∃ c, coreAt (fencedState s n cause) n = Core.fenced n cause c := by
  have hl : n < (darkenStore ((coreAt s n).moves.foldl discardMove s) n).cores.length := (discardMoves_cores (s := s) _).symm ▸ hn
  exact ⟨by simpa [fencedState, setCore] using hl, _, coreAt_setCore hl _⟩

theorem fenceCore_dark {t : State} {cause : Nat} (ht : t = fenceCore s n cause) (hc : (coreAt s n).cause = none) (hn : n < s.cores.length) :
    (coreAt t n).enabled = false ∧ (coreAt t n).cause = some cause ∧ (coreAt t n).power = .dark ∧ (coreAt t n).moves = [] := by
  obtain ⟨hl, c, hf⟩ := coreAt_fencedState cause hn
  obtain ⟨launch, hr⟩ := coreAt_replaced hl
  have ht : t.cores = (replaced (fencedState s n cause)).cores := by
    rw [ht, fenceCore_eq rfl hc, settleFences_cores, event_cores, fbEntry_frame]; rfl
  have hcore : coreAt t n = { Core.fenced n cause c with launch } := by
    rw [← hf, ← hr, coreAt, ht]; rfl
  rw [hcore]
  exact ⟨rfl, rfl, rfl, rfl⟩

/-- Settles O18: each row's condition holds, and its effect is the fence, the reissue or the change of state it names. -/
theorem coresChangeStateAndAreFenced : Obligations.CoresChangeStateAndAreFenced := by
  refine ⟨fun s n hn h1 h2 he => ⟨coreLight_lights hn h1 h2 he, fun hp hl hm hw hh => coreDim_dims hn h1 h2 he hp (idle_of hl hm hw) hh,
      coreDark_darkens hn h1 h2 he⟩,
    fun s n hn hp hc hl hm hw => coreClockStop_stops hn hp hc (idle_of hl hm hw),
    fun s n k m hn hk hm hw hlen => busyWindow_keeps hn (windowBusy_of_move hk hm hw hlen),
    fun s n hn => ⟨immediateFence_own hn, fun cause => immediateFence_fences hn,
      fun h => (onUnit_exists hn _).trans (next_if h), fun anew known k t ha hk hm ht hc => ?_, fun l p die aborted hl hc hs he hd hp ha => ⟨?_, ?_⟩,
      fun t ht hc hlen => fenceCore_dark ht hc (hlen ▸ hn)⟩⟩
  · exact (onUnit_exists hn _).trans ((congrArg _ (if_neg (by simp [hc]))).trans (congrArg _ (correctedLimit_fences ha hk hm ht hc)))
  · intro k place hk hplace
    rw [← moveLaunch_eq hplace, ← reissue_idle hl hc hs he hd hp ha hk]
    exact onUnit_exists hn _
  · intro hk
    rw [← reissue_busy hl hc hs he hd hp ha hk]
    exact onUnit_exists hn _

end Sys2Proof.Machine
end

section
/-! SUPPORT. Telemetry, the field book and the registers of BAR2 (19_telemetry_field_book.md, 20_register_map.md; R456 to R469). -/

namespace Sys2Proof.Machine

variable {s : State} {mb : Nat} {c : Cmd}

/-! ### Step records, events and error logs (R456 to R460) -/

/-- A count of records that a reading command may ask for. -/
theorem countOk {k : Nat} (h1 : 1 ≤ k) (h2 : k ≤ 1024) : ¬ ((decide (k = 0) || decide (1024 < k)) = true) := by
  simp only [Bool.or_eq_true, decide_eq_true_eq]; omega

theorem telStepsBody_answers {k : Nat} (hk : k = c.arg1.toNat) (hc : clean c all64 0x7FF false = true) (h1 : 1 ≤ k) (h2 : k ≤ 1024)
    (hj : s.job.phase ≠ .idle) : telStepsBody mb c s = finish s mb c 0 ((fromPoint s.tel.closed (·.seq) c.arg0.toNat k).1.flatMap stepBytes)
      (fromPoint s.tel.closed (·.seq) c.arg0.toNat k).2 := by
  subst hk
  exact (if_neg (by simp [hc])).trans ((if_neg (countOk h1 h2)).trans (if_neg hj))

/-- A well-formed TEL_STREAM with a job loaded ends the stream, or starts one into a window that holds it (R457). -/
theorem telStreamBody_clean {w o n : Nat} (hw : w = field c.payload 0 1) (ho : o = field c.payload 8 8) (hn : n = field c.payload 16 8)
    (hc : clean c 0 0 true = true) (hl : c.payload.length = 24) (hz : sub c.payload 2 6 = zeros 6) (hm : n % 4096 = 0)
    (hj : s.job.phase ≠ .idle) :
    (field c.payload 1 1 = 0 → telStreamBody mb c s = finish { s with tel := { s.tel with stream := none } } mb c 0) ∧
    (field c.payload 1 1 = 1 → n ≠ 0 → windowHolds s w o n = true →
      telStreamBody mb c s = finish { s with tel := { s.tel with stream := some ⟨w, o, n⟩ } } mb c 0) := by
  subst hw ho hn
  have wellFormed : ¬ (!clean c 0 0 true || decide (c.payload.length ≠ 24)) = true := by simp [hc, hl]
  refine ⟨fun hf => ?_, fun hf h0 hh => ?_⟩
  · exact (if_neg wellFormed).trans ((if_neg (by simp [hf, hz, hm])).trans ((if_neg hj).trans (if_pos hf)))
  · refine (if_neg wellFormed).trans ((if_neg (by simp [hf, hz, hm, h0])).trans ((if_neg hj).trans ((if_neg (by simp [hf])).trans ?_)))
    exact if_neg (by simp [hh])

theorem telEventsBody_answers {k : Nat} (hk : k = c.arg0.toNat) (hc : clean c 0x7FF 0 false = true) (h1 : 1 ≤ k) (h2 : k ≤ 1024) :
    telEventsBody mb c s =
      finish { s with tel := { s.tel with events := s.tel.events.drop k } } mb c 0 ((s.tel.events.take k).flatMap eventBytes) := by
  subst hk
  exact (if_neg (by simp [hc])).trans (if_neg (countOk h1 h2))

theorem telErrorsBody_answers {l : ErrLog} {r : List (Nat × List Byte) × DWord} (hl : l = s.tel.logs.getD c.arg0.toNat ⟨0, []⟩)
    (hr : r = fromPoint l.entries (·.1) c.arg1.toNat l.entries.length) (hc : clean c 3 all64 false = true) :
    telErrorsBody mb c s = finish s mb c 0 (r.1.flatMap fun e => le 8 e.1 ++ e.2) r.2 := by
  subst hr hl
  exact if_neg (by simp [hc])

/-! ### The field book (R462 to R466) -/

theorem fbCountersBody_answers (hc : clean c 0 0 false = true) :
    fbCountersBody mb c s = finish (countFec s) mb c 0 (counterBlock (countFec s)) := if_neg (by simp [hc])

theorem fbHistogramsBody_answers {k : Nat} {bins : List Nat} (hk : k = c.arg0.toNat) (hb : bins = s.tel.hist.getD k [])
    (hc : clean c 0x1F 0 false = true) (h : k ≤ 27) : fbHistogramsBody mb c s =
      finish s mb c 0 (le 2 k ++ le 2 bins.length ++ le 8 s.tel.committedAt ++ zeros 4 ++ bins.flatMap (le 4)) := by
  subst hb hk
  exact (if_neg (by simp [hc])).trans (if_neg (by omega))

theorem fbLogBody_answers {r : List FbEntry × DWord} (hr : r = fromPoint s.tel.fbLog (·.seq) c.arg0.toNat c.arg1.toNat)
    (hc : clean c 0xFFFFFFFF 0xFFFF false = true) : fbLogBody mb c s = finish s mb c 0 (r.1.flatMap fbBytes) r.2 := by
  subst hr
  exact if_neg (by simp [hc])

theorem fbCommitBody_answers (hc : clean c 0 0 false = true) (hw : within s s.tel.commitTime 60000000000 = false) :
    fbCommitBody mb c s = finish (commitImage s) mb c 0 [] (BitVec.ofNat 64 (commitImage s).tel.committedAt) :=
  (if_neg (by simp [hc])).trans (if_neg (by simp [hw]))

theorem fbImageBody_answers (hc : clean c 0 0 false = true) : fbImageBody mb c s = finish s mb c 0 (fbSectors s) := if_neg (by simp [hc])

/-! ### The registers of BAR2 (R468, R469, R472) -/

theorem barRead4_other {off : Nat} (h : off ≠ 0x1010) : barRead4 s off = (barRead s off, s) := congrArg _ (if_neg h)

theorem barReadAccess_four {off : Nat} (h : off % 4 = 0) :
    barReadAccess s off 4 = ((barRead4 s off).1.setWidth 64, (barRead4 s off).2) := if_pos ⟨rfl, h⟩

theorem barReadAccess_eight {off : Nat} (h : off % 8 = 0) (hne : off ≠ 0x1010) :
    barReadAccess s off 8 = (barRead s (off + 4) ++ barRead s off, s) := by
  refine (if_neg (by omega)).trans ((if_pos ⟨rfl, h⟩).trans ?_)
  simp only [barRead4_other hne, barRead4_other (show off + 4 ≠ 0x1010 by omega)]

theorem barReadAccess_refused {off size : Nat} (h4 : ¬ (size = 4 ∧ off % 4 = 0)) (h8 : ¬ (size = 8 ∧ off % 8 = 0)) :
    barReadAccess s off size = (0, setError s 4) := (if_neg h4).trans (if_neg h8)

theorem barReadAccess_timeLo : barReadAccess s 0x1010 4 = (BitVec.ofNat 64 (s.time % 2 ^ 32), latchTime s) := by
  have low : barRead s 0x1010 = BitVec.ofNat 32 s.time := rfl
  rw [barReadAccess_four (by decide), barRead4, low, if_pos rfl, Prod.mk.injEq]
  exact ⟨BitVec.eq_of_toNat_eq (by simp), rfl⟩

/-- The identity block holds no register from 0x34 on, the pilot block none from 0x1C on. -/
theorem identityRead_hole {off : Nat} (h : 0x34 ≤ off) : identityRead s off = 0 := by
  unfold identityRead
  split <;> try omega
  rfl

theorem pilotRead_hole {off : Nat} (h : 0x1C ≤ off) : pilotRead s off = 0 := by
  unfold pilotRead
  split <;> try omega
  rfl

/-- Offsets that no register has, within each block and between the blocks. -/
theorem barRead_hole {off : Nat} (h : 0x34 ≤ off) (hole : off < 0x1000 ∨ 0x101C ≤ off ∧ off < 0x2000 ∨ 0x2008 ≤ off ∧ off < 0x10000 ∨
    0x11000 ≤ off ∧ off < 0x20000 ∨ 0x20200 ≤ off ∧ off < 0x21000 ∨ 0x21004 ≤ off) : barRead s off = 0 := by
  unfold barRead
  by_cases identity : off < 0x40
  · exact (if_pos identity).trans (identityRead_hole h)
  rw [if_neg identity]
  by_cases pilot : 0x1000 ≤ off ∧ off < 0x1020
  · exact (if_pos pilot).trans (pilotRead_hole (by omega))
  rw [if_neg pilot, if_neg (by omega), if_neg (by omega), if_neg (by omega), if_neg (by omega), if_neg (by omega)]

/-- Settles O58: each command's checks hold, and its body answers; the samples, commits and register reads are their definitions. -/
theorem telemetryIsRead : Obligations.TelemetryIsRead := by
  refine ⟨fun s mb tag c => ⟨fun k hk h hc h1 h2 hj => h.answers (telStepsBody_answers hk hc h1 h2 hj),
      fun w o n hw ho hn h hc hl hz hm hj => ?_, fun k hk h hc h1 h2 => h.answers (telEventsBody_answers hk hc h1 h2),
      fun l r hl hr h hc => h.answers (telErrorsBody_answers hl hr hc), fun h hc => h.answers (fbCountersBody_answers hc),
      fun k bins hk hb h hc hle => h.answers (fbHistogramsBody_answers hk hb hc hle), fun r hr h hc => h.answers (fbLogBody_answers hr hc),
      fun h hc hw => h.answers (fbCommitBody_answers hc hw), fun h hc => h.answers (fbImageBody_answers hc)⟩,
    fun s t u ht hu => ?_, fun s mv t ht => ?_,
    fun s off => ⟨fun h4 hne => ?_, barReadAccess_timeLo, barReadAccess_eight, fun size => barReadAccess_refused, rfl, rfl, barRead_hole,
      fun hp => (next_if hp).trans (by rw [barReadAccess_timeLo])⟩⟩
  · obtain ⟨ends, starts⟩ := telStreamBody_clean (s := s) (mb := mb) hw ho hn hc hl hz hm hj
    exact ⟨fun hf => h.answers (ends hf), fun hf h0 hh => h.answers (starts hf h0 hh)⟩
  · subst hu ht; rfl
  · subst ht; rfl
  · rw [barReadAccess_four h4, barRead4_other hne]

end Sys2Proof.Machine
end

section
/-! SUPPORT. The vision front end: its commands, its engines and its frames (17_vision_front_end.md; R416 to R431). -/

namespace Sys2Proof.Machine

variable {s : State} {mb : Nat} {c : Cmd} {n : Nat} {v : VisCtx}

/-! ### VIS_OPEN (R419, R420) -/

theorem visOpenBody_malformed {x : Nat × Bool} (hc : clean c 0 0 true = true) (hl : c.payload.length = 256)
    (hx : (visChecks s c.payload).find? (fun x => !x.2) = some x) :
    visOpenBody mb c s = finish s mb c 0x0801 [] (BitVec.ofNat 64 x.1) := by
  refine (if_neg (by simp [hc, hl])).trans ?_
  rw [hx]; rfl

theorem visOpenBody_opens {d : List Byte} (hd : d = c.payload) (hc : clean c 0 0 true = true) (hl : d.length = 256)
    (hx : ∀ x ∈ visChecks s d, x.2 = true) (hf : (visAt s (field d 0 1)).phase = .free)
    (ha : ∀ a ∈ visAreas d, touches (reservedRanges s ++ (openVis s).flatMap visAreas) a.1 a.2 = false)
    (h1 : visSemBad s (vReadySem d) = false) (h2 : visSemBad s (vFreeSem d) = false) :
    visOpenBody mb c s = finish (setVis s (field d 0 1) fun _ => { VisCtx.reset with desc := d, phase := .running }) mb c 0 := by
  subst hd
  have pass : (visChecks s c.payload).find? (fun x => !x.2) = none := List.find?_eq_none.mpr fun x hx' => by simp [hx x hx']
  refine (if_neg (by simp [hc, hl])).trans ?_
  rw [pass]
  refine (if_neg (by simp [hf])).trans ((if_neg ?_).trans (if_neg (by simp [h1, h2])))
  rw [Bool.not_eq_true, List.any_eq_false]
  exact fun a h => by simp [ha a h]

/-! ### VIS_DATA and VIS_PULL (R421) -/

/-- What lets a feeding command go on or wait: a context that takes bytes, no EOS before it, and a length that the ring can hold. -/
structure Feeds (s : State) (n : Nat) (c : Cmd) : Prop where
  takes : (visAt s n).phase = .running ∨ (visAt s n).phase = .resync
  open_ : (visAt s n).eos = false
  fits : visLength c ≤ vRingLen (visAt s n).desc

theorem visFeed_feeds (h : Feeds s n c) (hw : ∀ w ∈ (visAt s n).waits, ∀ x, findCmd s w.1 w.2 = some x → (visBytes s x).2 = false) :
    visFeed mb n c s =
      if !(visAt s n).waits.isEmpty then setVis (markStarted s mb c.tag [n]) n fun v => { v with waits := v.waits ++ [(mb, c.tag)] }
      else visEnter s n mb c := by
  have noEos : ((visAt s n).waits.any fun w => (findCmd s w.1 w.2).any fun c => (visBytes s c).2) = false :=
    List.any_eq_false.mpr fun w hm => by
      cases hf : findCmd s w.1 w.2 with
      | none => simp
      | some x => simp [hw w hm x hf]
  refine (if_neg ?_).trans (if_neg (Nat.not_lt.mpr h.fits))
  rw [noEos, h.open_]
  rcases h.takes with hp | hp <;> simp [hp]

theorem visFeed_enters (h : Feeds s n c) (hw : (visAt s n).waits = []) : visFeed mb n c s = visEnter s n mb c := by
  rw [visFeed_feeds h (by simp [hw]), hw]; rfl

/-- What does not fit, or comes behind what waits, waits in order. -/
theorem visFeed_waits (h : Feeds s n c) (hw : ∀ w ∈ (visAt s n).waits, ∀ x, findCmd s w.1 w.2 = some x → (visBytes s x).2 = false)
    (hq : (visAt s n).waits ≠ [] ∨ vRingLen (visAt s n).desc < (visAt s n).tail - (visAt s n).head + visLength c) :
    visFeed mb n c s = setVis (markStarted s mb c.tag [n]) n fun v => { v with waits := v.waits ++ [(mb, c.tag)] } := by
  rw [visFeed_feeds h hw]
  by_cases he : (visAt s n).waits = []
  · rw [if_neg (by simp [he])]
    exact if_pos (hq.resolve_left (not_not.mpr he))
  · exact if_pos (by simpa using he)

theorem visEnter_appends {bs : List Byte} {eos : Bool} (h : (visAt s n).tail - (visAt s n).head + visLength c ≤ vRingLen (visAt s n).desc)
    (hb : visBytes s c = (some bs, eos)) : visEnter s n mb c = settleVis (finish (appendRing s n bs eos) mb c 0) n := by
  refine (if_neg (Nat.not_lt.mpr h)).trans ?_
  rw [hb]

theorem visEnter_lost {eos : Bool} (h : (visAt s n).tail - (visAt s n).head + visLength c ≤ vRingLen (visAt s n).desc)
    (hb : visBytes s c = (none, eos)) : visEnter s n mb c = finish s mb c stTierWindowLost := by
  refine (if_neg (Nat.not_lt.mpr h)).trans ?_
  rw [hb]

theorem visBytes_data (h : c.code = 3) : visBytes s c = (some c.payload, c.arg0.getLsbD 8) := if_pos h
theorem visLength_data (h : c.code = 3) : visLength c = c.payload.length := if_pos h
theorem visLength_pull (h : c.code = 4) : visLength c = field c.payload 16 8 := if_neg (by omega)

theorem visBytes_pull {w o k : Nat} (h : c.code = 4) (hw : w = field c.payload 1 1) (ho : o = field c.payload 8 8)
    (hk : k = field c.payload 16 8) : visBytes s c =
      (if windowHolds s w o k then some (readRun s.host.mem (windowAddr s w o) k) else none, bit (field c.payload 2 1) 0) := by
  subst hw ho hk
  exact if_neg (by omega)

theorem visDataBody_clean (hc : clean c 0x1FF 0 true = true) : visDataBody mb c s = visFeed mb (bits c.arg0.toNat 7 0) c s :=
  if_neg (by simp [hc])

theorem visPullBody_clean (hc : clean c 0 0 true = true) (hl : c.payload.length = 24) (hf : field c.payload 2 1 ≤ 1)
    (hz : sub c.payload 3 5 = zeros 5) : visPullBody mb c s = visFeed mb (field c.payload 0 1) c s :=
  (if_neg (by simp [hc, hl])).trans ((if_neg (by omega)).trans (if_neg (by simp [hz])))

/-! ### VIS_BOXES (R423, R426 to R428) -/

theorem findSome?_mapIdx_none {α : Type} {l : List α} {f : Nat → α → Option Nat} (h : ∀ x ∈ l, ∀ i, f i x = none) :
    (l.mapIdx f).findSome? id = none := by
  rw [List.findSome?_eq_none_iff]
  intro o ho
  obtain ⟨i, hi, rfl⟩ := List.mem_mapIdx.mp ho
  exact h _ (List.getElem_mem hi) i

theorem visBoxesBody_within {bs : List (List Byte)} (hn : n = bits c.arg0.toNat 7 0) (hv : v = visAt s n) (hb : bs = boxesOf c.payload)
    (hc : clean c 0x1FF all64 true = true) (hl : c.payload.length % 24 = 0) (hne : c.payload ≠ [])
    (hp : v.phase = .running ∨ v.phase = .resync ∨ v.phase = .draining)
    (hx : ∀ b ∈ bs, boxBad b = none ∧ 1 ≤ gridW v.desc b ∧ 1 ≤ gridH v.desc b) (hm : bs.length ≤ vMaxBoxes v.desc)
    (ht : listTokens v.desc bs ≤ vMaxTokens v.desc) (hf : bs.all (boxFits v.desc) = true) : visBoxesBody mb c s =
      if c.arg0.getLsbD 8 then finish (setStatic s n c.payload) mb c 0
      else if c.arg1.toNat < v.out ∨ 16 ≤ (v.lists.filter fun l => l.1 ≠ c.arg1.toNat).length then finish s mb c stVisState
      else finish (setVis s n fun w => { w with
        lists := (v.lists.filter fun l => l.1 ≠ c.arg1.toNat) ++ [(c.arg1.toNat, c.payload)] }) mb c 0 := by
  subst hb hv hn
  have fields : ((boxesOf c.payload).mapIdx fun i b => (boxBad b).map (24 * i + ·)).findSome? id = none :=
    findSome?_mapIdx_none fun b hb i => by rw [(hx b hb).1]; rfl
  have grids : ((boxesOf c.payload).mapIdx fun i b =>
      if gridW (visAt s (bits c.arg0.toNat 7 0)).desc b < 1 || gridH (visAt s (bits c.arg0.toNat 7 0)).desc b < 1 then some (24 * i + 0x10)
      else none).findSome? id = none :=
    findSome?_mapIdx_none fun b hb i => if_neg (by simpa using (hx b hb).2)
  unfold visBoxesBody
  simp only [fields, grids]
  rw [if_neg (by simp [hc, hl, hne]), if_neg (by rcases hp with h | h | h <;> simp [h]), if_neg (by simp [hm, ht]), if_neg (by simp [hf])]
  exact if_congr Iff.rfl rfl (if_congr (by simp) rfl rfl)

/-! ### VIS_CLOSE and VIS_QUERY (R422) -/

theorem visCloseBody_clean (hn : n = bits c.arg0.toNat 7 0) (hv : v = visAt s n) (hc : clean c 0xFF 1 false = true) (hp : v.phase ≠ .free) :
    (c.arg1 = 0 → visCloseBody mb c s = finish (visStop s n stAborted) mb c 0) ∧
    (c.arg1 = 1 → v.phase = .ended → visCloseBody mb c s = finish s mb c 0) ∧
    (c.arg1 = 1 → v.phase = .running ∨ v.phase = .resync → visCloseBody mb c s =
      settleVis (setVis (markStarted s mb c.tag [n]) n fun v => { v with
        phase := .draining, hunt := v.phase = .resync, eos := true, drain := some (mb, c.tag) }) n) := by
  subst hv hn
  refine ⟨fun ha => ?_, fun ha he => ?_, fun ha hr => ?_⟩
  all_goals refine (if_neg (by simp [hc])).trans ((if_neg hp).trans ?_)
  · exact if_pos (by simp [ha])
  · exact (if_neg (by simp [ha])).trans (if_pos he)
  · refine (if_neg (by simp [ha])).trans ((if_neg ?_).trans (if_neg ?_)) <;> rcases hr with h | h <;> simp [h]

/-! ### The end of a stream (R421, R422) -/

theorem settleVis_goes (hv : v = visAt s n) (h : v.eos = false) : settleVis s n = s := by
  subst hv
  exact if_neg (by simp [h])

theorem settleVis_ended {w : VisCtx} (hv : v = visAt s n) (hp : v.phase = .running ∨ v.phase = .resync ∨ v.phase = .draining)
    (he : v.eos = true) (hw : v.waits = []) (hu : unitBytes s v = 0) (hb : (s.vis.engines.any fun e => e.any fun x => x.1 = n) = false)
    (ho : w = outputPictures v true) :
    (w.waiting ≠ [] → settleVis s n = setVis s n fun _ => w) ∧
    ∀ t, t = setVis s n (fun _ => { w with phase := .ended, drain := none }) → w.waiting = [] →
      settleVis s n = v.drain.elim t fun x => finishTag t x.1 x.2 0 := by
  subst ho hv
  have settles : ((decide ((visAt s n).phase = .running) || decide ((visAt s n).phase = .resync) || decide ((visAt s n).phase = .draining)) &&
      (visAt s n).eos && (visAt s n).waits.isEmpty && !(s.vis.engines.any fun e => e.any fun x => x.1 = n) &&
      decide (unitBytes s (visAt s n) = 0)) = true := by
    rw [he, hw, hu, hb]
    rcases hp with h | h | h <;> simp [h]
  refine ⟨fun hq => (if_pos settles).trans (if_neg (by simpa using hq)), fun t ht hq => (if_pos settles).trans ((if_pos (by simp [hq])).trans ?_)⟩
  subst ht
  cases (visAt s n).drain <;> rfl

/-! ### Decode engines (R414 to R418) -/

theorem decodeStart_nothing {e : Nat} (h : (s.vis.engines.getD e none).isSome = true ∨ pickContext s e = none) : decodeStart s e = s := by
  unfold decodeStart
  split
  · rfl
  · next hb => rw [h.resolve_left hb]

theorem decodeStart_takes {e k : Nat} {t : State} (hf : s.vis.engines.getD e none = none) (hp : pickContext s e = some n) (hv : v = visAt s n)
    (hk : k = unitBytes s v) (ht : t = ((ringPieces v.desc v.head k).findSome? fun p => badGranule s p.1 p.2).elim s (uncorrectable s)) :
    decodeStart s e = { t with vis := { t.vis with
      engines := t.vis.engines.set e (some (n, k, ((ringPieces v.desc v.head k).findSome? fun p => badGranule s p.1 p.2).isSome)),
      served := t.vis.served.set e n } } := by
  subst ht hk hv
  refine (if_neg (by rw [hf]; exact Bool.false_ne_true)).trans ?_
  rw [hp]
  dsimp only
  cases (ringPieces (visAt s n).desc (visAt s n).head (unitBytes s (visAt s n))).findSome? fun p => badGranule s p.1 p.2 <;> rfl

theorem decodeDone_nothing {e : Nat} {x : Option ReadEvent} (h : s.vis.engines.getD e none = none) : decodeDone s e x = s := by
  unfold decodeDone; rw [h]

theorem decodeDone_ends {e k : Nat} {x : Option ReadEvent} {bad : Bool} {r : Bool × State} {t : State}
    (he : s.vis.engines.getD e none = some (n, k, bad)) (hv : v = visAt s n) (hr : r = decodeReads (touchRing s v.desc v.head k) v k x)
    (ht : t = setVis (havocLocal { r.2 with vis := { r.2.vis with engines := r.2.vis.engines.set e none } } (vDpbBase v.desc) (vDpbLen v.desc)) n
      (fun v => { v with head := v.head + k })) :
    decodeDone s e x = pumpVis (unitDone t n (readRing s v.desc v.head k) (bad || r.1)) n := by
  subst ht hr hv
  unfold decodeDone; rw [he]

/-- A context that hunts for a random access point discards what is none (R417). -/
theorem unitDone_discards {u : List Byte} {lost : Bool} (hv : v = visAt s n) (hh : (decide (v.phase = .resync) || v.hunt) = true)
    (h : lost = true ∨ Config.randomAccess (vCodec v.desc) v.stream u = false) :
    unitDone s n u lost = setVis s n fun v => { v with stream := v.stream ++ [(true, u)] } := by
  subst hv
  refine if_pos ?_
  rw [hh]
  rcases h with h | h <;> simp [h]

/-- Any other unit ends as its fault says, or puts its pictures out. -/
theorem unitDone_ends {u : List Byte} {lost hunts : Bool} (hv : v = visAt s n) (hh : hunts = (decide (v.phase = .resync) || v.hunt))
    (h : hunts = false ∨ lost = false ∧ Config.randomAccess (vCodec v.desc) v.stream u = true) : unitDone s n u lost =
      match unitFault v u lost with
      | some 0 => visDrop (setVis s n fun v => { v with stream := v.stream ++ [(true, u)] }) n
      | some k => visFail (setVis s n fun v => { v with stream := v.stream ++ [(true, u)] }) n k
      | none => setVis s n fun v => outputPictures { v with
          stream := v.stream ++ [(false, u)], phase := if v.phase = .resync then .running else v.phase, hunt := false,
          resumed := if hunts then some v.stream.length else v.resumed } false := by
  subst hh hv
  refine (if_neg ?_).trans (by rfl)
  rcases h with h | ⟨h1, h2⟩
  · simp [h]
  · simp [h1, h2]

/-! ### Frames (R423, R431) -/

theorem frameTokenize_nothing (hv : v = visAt s n)
    (h : v.waiting = [] ∨ listFor v v.out = none ∨ v.phase = .free ∨ v.phase = .error ∨ slotFree s n v = false) : frameTokenize s n = s := by
  subst hv
  unfold frameTokenize
  dsimp only
  split
  · next x l hx hl =>
    refine if_pos ?_
    rcases h with h | h | h | h | h
    · simp [h] at hx
    · simp [h] at hl
    all_goals simp [h]
  · rfl

theorem frameTokenize_frame {x : Shot} {l : List Byte} (hv : v = visAt s n) (hx : v.waiting.head? = some x) (hl : listFor v v.out = some l)
    (h1 : v.phase ≠ .free) (h2 : v.phase ≠ .error) (h3 : slotFree s n v = true) {d : List Byte} (hd : d = v.desc) :
    ∃ base tokens bs total el q t, base = vSlotBase d + vSlotBytes d * (v.out % vSlots d) ∧ tokens = base + 4096 * vRt d ∧
      bs = placedBoxes d 0 (boxesOf l) ∧ total = listTokens d (boxesOf l) ∧ el = frameElem d (shotPicture v x) bs ∧
      q = (if v.out < vSlots d then s else semTake s 0 (Config.visDie n % 2) (vFreeSem d) 1) ∧
      t = writeRecordTiles (writeTokens q d tokens (tokens + vTokenBytes d + 512) total el) d base (tokens + vTokenBytes d)
        (frameRecord v n (shotPicture v x) (v.discont || x.disc) bs total (firstHit d total el) tokens (tokens + vTokenBytes d + 512)) ∧
      frameTokenize s n = settleVis (setVis (semAdd t 0 (Config.visDie n % 2) (vReadySem d) 1) n fun v => { v with
        waiting := v.waiting.drop 1, out := v.out + 1, lists := v.lists.filter fun l => l.1 ≠ v.out
        taken := v.taken.filter fun l => l.1 ≠ v.out, discont := false }) n := by
  subst hd hv
  refine ⟨_, _, _, _, _, _, _, rfl, rfl, rfl, rfl, rfl, rfl, rfl, ?_⟩
  unfold frameTokenize
  simp only [hx, hl]
  exact if_neg (by simp [h1, h2, h3])

/-- Settles O57: each command's checks hold, and each engine's or frame's row takes the branch that its state names. -/
theorem visionRuns : Obligations.VisionRuns := by
  refine ⟨fun s mb tag c => ⟨fun d hd h hc hl => ⟨fun x hx => ?_, fun hx hf ha h1 h2 => h.answers (visOpenBody_opens hd hc hl hx hf ha h1 h2)⟩,
      fun n v hn hv h hc hp he hl => ?_, fun n v w o k hn hv hw ho hk h hc hl hf hz hp he hle => ?_,
      fun n v bs hn hv hb h hc hl hne hp hx hm ht hf => ?_, fun n v hn hv h hc hp => ?_, fun h hc => h.answers (if_neg (by simp [hc]))⟩,
    fun s n v hv => ⟨settleVis_goes hv, fun hp he hw hu hb w t ho => ?_⟩,
    fun s e he => ⟨fun h => ?_, fun n v k t hf hp hv hk ht => ?_, fun x h => ?_, fun x n k bad v r t hb hv hr ht => ?_⟩,
    fun s n v u lost g hunts hv hg hh => ⟨fun h1 h2 => ?_, fun h => ?_⟩,
    fun s n v hn hv => ⟨fun h => ?_, fun x l d hx hl h1 h2 h3 hd => ?_⟩⟩
  · subst hd
    exact h.answers (visOpenBody_malformed hc hl hx)
  · have code := (starting_some h.2.1).2.2.1
    subst hv
    have feeds : Feeds s n c := ⟨hp, he, visLength_data code ▸ hl⟩
    refine ⟨fun hw hlen => h.answers ?_, fun hw hq => h.answers ?_⟩
    · rw [visDataBody_clean hc, ← hn, visFeed_enters feeds hw]
      exact visEnter_appends (visLength_data code ▸ hlen) (visBytes_data code)
    · rw [visDataBody_clean hc, ← hn]
      exact visFeed_waits feeds hw (visLength_data code ▸ hq)
  · have code := (starting_some h.2.1).2.2.1
    subst hv
    have length : visLength c = k := (visLength_pull code).trans hk.symm
    have feeds : Feeds s n c := ⟨hp, he, length ▸ hle⟩
    have bytes := visBytes_pull (s := s) code hw ho hk
    refine ⟨fun hq hlen hh => h.answers ?_, fun hq hlen hh => h.answers ?_, fun hq hlen => h.answers ?_⟩
    all_goals rw [visPullBody_clean hc hl hf hz, ← hn]
    · rw [visFeed_enters feeds hq]
      exact visEnter_appends (length ▸ hlen) (by rw [bytes, if_pos hh])
    · rw [visFeed_enters feeds hq]
      exact visEnter_lost (length ▸ hlen) (by rw [bytes, if_neg (by simp [hh])])
    · exact visFeed_waits feeds hq (length ▸ hlen)
  · have boxes := visBoxesBody_within (mb := mb) hn hv hb hc hl hne hp hx hm ht hf
    refine ⟨fun held hh hs => h.answers ?_, fun hs ho hlen => h.answers ?_⟩
    · rw [boxes, if_pos hs, hh, hv]; rfl
    · rw [boxes, if_neg (by rw [hs]; exact Bool.false_ne_true), if_neg (by omega)]
  · obtain ⟨now, ended, drains⟩ := visCloseBody_clean (mb := mb) hn hv hc hp
    exact ⟨fun ha => h.answers (now ha), fun ha hx => h.answers (ended ha hx), fun ha hx => h.answers (drains ha hx)⟩
  · obtain ⟨left, none_left⟩ := settleVis_ended hv hp he hw hu hb ho
    exact ⟨left, none_left t⟩
  · exact (onUnit_exists he _).trans (congrArg _ (decodeStart_nothing h))
  · exact (onUnit_exists he _).trans (congrArg _ (decodeStart_takes hf hp hv hk ht))
  · exact (onUnit_exists he _).trans (congrArg _ (decodeDone_nothing h))
  · exact (onUnit_exists he _).trans (congrArg _ (decodeDone_ends hb hv hr ht))
  · exact (unitDone_discards hv (hh ▸ h1) h2).trans hg.symm
  · rw [unitDone_ends hv hh h, ← hg]
    exact ⟨fun hf => by rw [hf]; rfl, fun k hf => by rw [hf]; rfl, fun hf => by rw [hf]⟩
  · exact (onUnit_exists hn _).trans (congrArg _ (frameTokenize_nothing hv h))
  · obtain ⟨base, tokens, bs, total, el, q, t, h1, h2, h3, h4, h5, h6, h7, h8⟩ := frameTokenize_frame hv hx hl h1 h2 h3 hd
    exact ⟨base, tokens, bs, total, el, q, t, h1, h2, h3, h4, h5, h6, h7, (onUnit_exists hn _).trans (congrArg _ h8)⟩

end Sys2Proof.Machine
end

section
/-! SUPPORT. Near ports: capability blocks, windows, lanes, cables, flits (13_ewete_fabric.md, 21_module_hardware.md; R294 to R303, R444,
R486). -/

namespace Sys2Proof.Machine

variable {s t u : State} {n : Nat} {b : List Byte}

/-! ### A port of the module -/

/-- A port that is not DOWN is one the module has. -/
theorem near_exists (h : (nearAt s n).state ≠ .down) : n < s.fab.near.length := by
  by_contra hn
  exact h (by simp [nearAt, List.getD, List.getElem?_eq_none (not_lt.mp hn)]; rfl)

theorem nearAt_setNear (h : n < s.fab.near.length) (f : Near → Near) : nearAt (setNear s n f) n = f (nearAt s n) := by
  simp [nearAt, setNear, List.getD, h]

/-- A port's change depends on what it makes of that port alone. -/
theorem setNear_congr {f g : Near → Near} (h : f (nearAt s n) = g (nearAt s n)) : setNear s n f = setNear s n g := by
  have hm : s.fab.near.modify n f = s.fab.near.modify n g := by
    apply List.ext_getElem?
    intro i
    simp only [List.getElem?_modify]
    split
    · next hi =>
      subst hi
      cases hc : s.fab.near[n]? with
      | none => rfl
      | some c => simpa [nearAt, hc] using h
    · rfl
  simp only [setNear, hm]

/-! ### What goes out of a port leaves the module's number and topology -/

/-- What a capability block is judged by: the module's number and its topology. -/
def numbering (s : State) : Option Nat × Option Topo := (s.fab.device, s.fab.topo)

theorem sendFlit_numbering (bs : List Byte) (vc units : Nat) (nak : Bool) : numbering (sendFlit s n bs vc units nak) = numbering s := by
  unfold sendFlit; split <;> rfl

theorem roomBack_numbering (p : Packet) : numbering (roomBack s p) = numbering s := by
  unfold roomBack; split
  · exact sendFlit_numbering ..
  · rfl

theorem noteLeft_numbering (p : Packet) : numbering (noteLeft s p) = numbering s := by
  unfold noteLeft; split <;> rfl

theorem putOut_numbering (p : Packet) : numbering (putOut s n p) = numbering s := by
  unfold putOut
  dsimp only
  rw [roomBack_numbering, noteLeft_numbering]
  exact foldl_keeps (f := fun s i => sendFlit s n (((packetBytes p).drop (504 * i)).take 504) 0 0 false) numbering
    (fun _ _ => sendFlit_numbering ..) _ _

theorem drainEgress_numbering : numbering (drainEgress s n) = numbering s := by
  unfold drainEgress; split
  · refine foldl_keeps (f := fun s _ => drainOne s n) numbering (fun s e => ?_) _ s
    unfold drainOne; split
    · exact putOut_numbering _
    · rfl
  · rfl

theorem blockExpected_numbering (h : numbering t = numbering s) : blockExpected t n b = blockExpected s n b := by
  obtain ⟨hd, ht⟩ := Prod.mk.injEq _ _ _ _ ▸ h
  simp only [blockExpected, hd, ht]

/-! ### Capability blocks (R300) -/

theorem blockWhole_nil : blockWhole [] = false := by decide

theorem blockWhole_of_expected (h : blockExpected s n b = true) : blockWhole b = true := by
  by_contra hw
  simp [blockExpected, hw] at h

/-- A port in EXCHANGE comes UP with the lower version and the announced credits when its peer's block fits. -/
theorem settlePort_up (hs : (nearAt s n).state = .exchange) (hf : blockExpected s n (nearAt s n).block = true) (hb : (nearAt s n).block = b) :
    settlePort s n = drainEgress (setNear s n fun x => { x with
      state := .up, version := min 2 (field b 4 1), since := s.time, tuned := s.time
      credits := (List.range 4).map fun k => 4 * field b (0xE + k) 1 }) n := by
  subst hb
  refine (if_pos (by simp [hs, hf])).trans (congrArg (drainEgress · n) ?_)
  exact setNear_congr rfl

theorem settlePort_stays (h : (nearAt s n).state = .exchange ∧ blockExpected s n (nearAt s n).block = false ∨
    ((nearAt s n).state = .up ∨ (nearAt s n).state = .held) ∧ blockExpected s n (nearAt s n).block = true) : settlePort s n = s := by
  rcases h with ⟨hs, hf⟩ | ⟨hs | hs, hf⟩ <;> exact (if_neg (by simp [hs, hf])).trans (if_neg (by simp [hs, hf]))

theorem settlePort_back (hs : (nearAt s n).state = .up ∨ (nearAt s n).state = .held) (hf : blockExpected s n (nearAt s n).block = false) :
    settlePort s n = setNear s n fun x => { x with state := .exchange, version := 0, window := none } := by
  rcases hs with hs | hs <;> exact (if_neg (by simp [hs])).trans (if_pos (by simp [hs, hf]))

theorem settlePort_numbering : numbering (settlePort s n) = numbering s := by
  unfold settlePort
  dsimp only
  split
  · exact drainEgress_numbering
  · split <;> rfl

/-- The state in which a block that came has been kept, if it is whole, and the port judged by it. -/
def judgedBlock (s : State) (n : Nat) (b : List Byte) : State :=
  let t := if blockWhole b then setNear s n fun x => { x with block := b } else s
  if blockWhole b || (nearAt s n).state = .exchange then settlePort t n else t

theorem judgedBlock_numbering : numbering (judgedBlock s n b) = numbering s := by
  have keep : numbering (if blockWhole b then setNear s n fun x => { x with block := b } else s) = numbering s := by split <;> rfl
  unfold judgedBlock
  dsimp only
  split
  · exact settlePort_numbering.trans keep
  · exact keep

theorem takeBlock_linked (h : (nearAt s n).state = .exchange ∨ (nearAt s n).state = .up ∨ (nearAt s n).state = .held) :
    takeBlock s n b = if blockExpected s n b then judgedBlock s n b else event (judgedBlock s n b) 12 n := by
  have judged : takeBlock s n b =
      if blockExpected (judgedBlock s n b) n b then judgedBlock s n b else event (judgedBlock s n b) 12 n :=
    if_pos (by rcases h with h | h | h <;> simp [h])
  rw [judged, blockExpected_numbering judgedBlock_numbering]

/-- What a port makes of a block depends on the state in which the block came. -/
theorem takeBlock_cases (ht : t = setNear s n fun x => { x with block := b }) :
    ((nearAt s n).state = .exchange → blockExpected s n b = true → takeBlock s n b =
      drainEgress (setNear t n fun x => { x with
        state := .up, version := min 2 (field b 4 1), since := s.time, tuned := s.time
        credits := (List.range 4).map fun k => 4 * field b (0xE + k) 1 }) n) ∧
    ((nearAt s n).state = .exchange → blockExpected s n b = false → (nearAt s n).block = [] →
      takeBlock s n b = event (if blockWhole b then t else s) 12 n) ∧
    ((nearAt s n).state = .up ∨ (nearAt s n).state = .held → blockExpected s n b = true → takeBlock s n b = t) ∧
    ((nearAt s n).state = .up ∨ (nearAt s n).state = .held → blockExpected s n b = false → takeBlock s n b =
      event (if blockWhole b then setNear t n (fun x => { x with state := .exchange, version := 0, window := none }) else s) 12 n) ∧
    ((nearAt s n).state = .down ∨ (nearAt s n).state = .train ∨ (nearAt s n).state = .failed → takeBlock s n b = s) := by
  have same : blockExpected t n b = blockExpected s n b := blockExpected_numbering (ht ▸ rfl)
  have kept (h : (nearAt s n).state = .exchange ∨ (nearAt s n).state = .up ∨ (nearAt s n).state = .held) :
      nearAt t n = { nearAt s n with block := b } :=
    ht ▸ nearAt_setNear (near_exists fun hd => by simp [hd] at h) _
  have whole (hw : blockWhole b = true) : judgedBlock s n b = settlePort t n := by
    unfold judgedBlock; simp only [hw, if_pos, Bool.true_or, ← ht]
  refine ⟨fun hs he => ?_, fun hs he hb => ?_, fun hs he => ?_, fun hs he => ?_, fun hs => ?_⟩
  · have hk := kept (.inl hs)
    rw [takeBlock_linked (.inl hs), if_pos he, whole (blockWhole_of_expected he),
      settlePort_up (b := b) (by simp [hk, hs]) (by simp [hk, same, he]) (by simp [hk]), ht]
    rfl
  · rw [takeBlock_linked (.inl hs), if_neg (by simp [he])]
    congr 1
    by_cases hw : blockWhole b = true
    · rw [whole hw, if_pos hw]
      exact settlePort_stays (.inl (by simp [kept (.inl hs), hs, same, he]))
    · simp only [judgedBlock, if_neg hw, hs, decide_true, Bool.or_true, if_true]
      exact settlePort_stays (.inl (by simp [hs, hb, blockExpected, blockWhole_nil]))
  · rw [takeBlock_linked (.inr hs), if_pos he, whole (blockWhole_of_expected he)]
    exact settlePort_stays (.inr (by simp [kept (.inr hs), hs, same, he]))
  · rw [takeBlock_linked (.inr hs), if_neg (by simp [he])]
    congr 1
    by_cases hw : blockWhole b = true
    · rw [whole hw, if_pos hw]
      exact settlePort_back (by simp [kept (.inr hs), hs]) (by simp [kept (.inr hs), same, he])
    · have none : ¬ (nearAt s n).state = .exchange := by rcases hs with h | h <;> simp [h]
      rw [if_neg hw]
      simp [judgedBlock, hw, none]
  · exact if_neg (by rcases hs with h | h | h <;> simp [h])

/-! ### Lanes and windows (R294, R296, R297) -/

variable {out : Bool} {lane : Nat} {fault : LaneFault}

theorem laneSwap_held (h : (nearAt s n).state = .held) : laneSwap s n out lane fault = closeNear s n := if_pos h

/-- A swap that is due, at a port that is UP, in EXCHANGE or training. -/
theorem laneSwap_due (h : (nearAt s n).state = .up ∨ (nearAt s n).state = .exchange ∨ (nearAt s n).state = .train)
    (hd : swapDue fault = true) : laneSwap s n out lane fault =
      if noSpare s n out then failPort s n lane
      else if (nearAt s n).state = .up then openNear s n s.time ⟨1, 0, out, lane, true⟩
      else swapped s n out lane := by
  rcases h with h | h | h <;> exact (if_neg (by simp [h])).trans (if_neg (by simp [h, hd]))

theorem laneSwap_nothing (h : ((nearAt s n).state ≠ .held ∧ swapDue fault = false) ∨ (nearAt s n).state = .down ∨ (nearAt s n).state = .failed) :
    laneSwap s n out lane fault = s := by
  rcases h with ⟨h, hd⟩ | h | h
  · exact (if_neg h).trans (if_pos (by simp [hd]))
  all_goals exact (if_neg (by simp [h])).trans (if_pos (by simp [h]))

theorem txRetune_cases (m : Nat) :
    ((nearAt s n).state = .held → txRetune s n m = closeNear s n) ∧
    ((nearAt s n).state = .up → txRetune s n m =
      openNear s n (if m < 75 then s.time else (nearAt s n).tuned + 60000000000) ⟨0, 0, false, 0, true⟩) ∧
    ((nearAt s n).state ≠ .up → (nearAt s n).state ≠ .held → txRetune s n m = s) :=
  ⟨fun h => if_pos h, fun h => (if_neg (by simp [h])).trans (if_pos h), fun hu hh => (if_neg hh).trans (if_neg hu)⟩

theorem lossOfLock_again {w : NearWindow} (r : Bool) (hw : (nearAt s n).window = some w) (hk : w.kind = 2) :
    lossOfLock s n r = closeNear s n := if_pos (by simp [hw, hk])

theorem lossOfLock_cases (r : Bool) (h : ∀ w, (nearAt s n).window = some w → w.kind ≠ 2) :
    ((nearAt s n).state = .held → lossOfLock s n r = openNear (closeNear s n) n 0 ⟨2, 0, false, 0, r⟩) ∧
    ((nearAt s n).state = .up → lossOfLock s n r = openNear s n s.time ⟨2, 0, false, 0, r⟩) ∧
    ((nearAt s n).state = .exchange → lossOfLock s n r = if r then s else failPort (advance s (s.time + 150000)) n 0) ∧
    ((nearAt s n).state = .down ∨ (nearAt s n).state = .train ∨ (nearAt s n).state = .failed → lossOfLock s n r = s) := by
  have first : ¬ ((nearAt s n).window.any fun w => w.kind = 2) = true := by
    cases hw : (nearAt s n).window with
    | none => simp
    | some w => simpa using h w hw
  unfold lossOfLock
  dsimp only
  rw [if_neg first]
  refine ⟨fun h => if_pos h, fun h => (if_neg (by simp [h])).trans (if_pos h), fun h => ?_, fun h => ?_⟩
  · rw [if_neg (by simp [h]), if_neg (by simp [h])]
    cases r <;> simp [h]
  · rcases h with h | h | h <;> simp [h]

theorem closeNear_cases {w : NearWindow} (hw : (nearAt s n).window = some w)
    (hu : u = advance s (w.start + (if w.kind = 0 then 30000 else 150000))) :
    (w.kind = 2 → w.good = false → closeNear s n = failPort u n 0) ∧
    (w.kind = 1 → closeNear s n =
      drainEgress (swapped (setNear u n fun x => { x with state := .up, window := none, since := u.time }) n w.out w.lane) n) ∧
    (w.kind ≠ 1 → (w.kind = 2 → w.good = true) → closeNear s n =
      drainEgress (setNear u n fun x => { x with state := .up, window := none, since := u.time, tuned := u.time }) n) := by
  have hu : u = advance s (w.start + nearNs w.kind) := hu
  subst hu
  unfold closeNear
  rw [hw]
  dsimp only
  refine ⟨fun hk hg => if_pos (by simp [hk, hg]), fun hk => ?_, fun hk hg => ?_⟩
  · rw [if_neg (by simp [hk]), if_pos hk]
    simp only [if_pos hk]
  · rw [if_neg (by simpa using hg), if_neg hk]
    simp only [if_neg hk]

theorem openNear_cases {due : Nat} {w : NearWindow} (hu : u = closeNear s (otherPort n)) :
    (w.kind = 2 ∨ drained s n = true → ∃ v, v = advance u (max due ((nearAt u n).since + 10000000)) ∧
      openNear s n due w = steer (setNear v n fun x => { x with state := .held, window := some { w with start := v.time } }) n) ∧
    (w.kind ≠ 2 → drained s n = false → openNear s n due w = s) := by
  subst hu
  refine ⟨fun h => ⟨_, rfl, if_neg ?_⟩, fun hk hd => if_pos (by simp [hk, hd])⟩
  rcases h with h | h <;> simp [h]

/-! ### Flits (R298, R299, R303) -/

theorem takeFlit_cases {h : Nat} (ht : t = endWindow s n) (hh : h = field b 0 4) :
    (linked t n = false → takeFlit s n b = t) ∧
    (linked t n = true → b.length ≠ 512 ∨ field b 508 4 ≠ (crc32c (b.take 508)).toNat ∨ bit h 23 = true →
      takeFlit s n b = sendFlit t n [] 0 0 true) ∧
    (linked t n = true → b.length = 512 → field b 508 4 = (crc32c (b.take 508)).toNat → bit h 23 = false → u = flitControl t n h →
      (bits h 9 0 = (nearAt t n).rxNext → takeFlit s n b = drainEgress (deliverFlit u n h (sub b 4 504)) n) ∧
      (bits h 9 0 ≠ (nearAt t n).rxNext → takeFlit s n b = drainEgress
        (if (nearAt t n).nak = false ∧ (bits h 9 0 + 1024 - (nearAt t n).rxNext) % 1024 < 512 then sendFlit u n [] 0 0 true else u) n)) := by
  subst ht hh
  unfold takeFlit
  dsimp only
  refine ⟨fun hl => if_pos (by simp [hl]), fun hl hb => (if_neg (by simp [hl])).trans (if_pos (by simpa [or_assoc] using hb)),
    fun hl h1 h2 h3 hu => ?_⟩
  subst hu
  rw [if_neg (by simp [hl]), if_neg (by simp [h1, h2, h3])]
  refine ⟨fun hq => by rw [if_pos hq], fun hq => ?_⟩
  rw [if_neg hq]
  exact congrArg (drainEgress · n) (if_congr (by simp) rfl rfl)

/-- Settles O43: each row is its port's case analysis, at the state that its clause names. -/
theorem nearPortsMoveOn : Obligations.NearPortsMoveOn := by
  refine ⟨fun s n x hn hx => ?_, fun s pair t hp => ?_, fun s mb tag c h hc h3 => h.answers (if_neg (by simpa [hc] using h3))⟩
  · subst hx
    have row (k : Out) : onUnit n 36 k = k := onUnit_exists hn k
    refine ⟨fun h => (row _).trans (next_if h), fun h => (row _).trans (congrArg _ (if_neg h)), fun b t ht => ?_,
      fun h hb => (row _).trans (next_if (by simp [h, hb])), fun h => (row _).trans (congrArg _ (if_neg (by simpa [imp_iff_not_or] using h))),
      fun out lane fault hl => ?_, fun m => ?_, fun r => ⟨fun ⟨w, hw, hk⟩ => (row _).trans (congrArg _ (lossOfLock_again r hw hk)), fun h => ?_⟩,
      fun w u hw hu => closeNear_cases hw hu, fun due w u hu => openNear_cases hu, fun b h t u ht hh => ?_⟩
    · obtain ⟨up, unfit, fits, back, none⟩ := takeBlock_cases (b := b) ht
      exact ⟨fun h1 h2 => (row _).trans (congrArg _ (up h1 h2)), fun h1 h2 h3 => (row _).trans (congrArg _ (unfit h1 h2 h3)),
        fun h1 h2 => (row _).trans (congrArg _ (fits h1 h2)), fun h1 h2 => (row _).trans (congrArg _ (back h1 h2)),
        fun h1 => (row _).trans (congrArg _ (none h1))⟩
    · have swap (u : State) (hu : laneSwap s n out lane fault = u) : exec (.laneSwap n out lane fault) s = .next u :=
        (row _).trans ((onUnit_exists hl _).trans (congrArg _ hu))
      refine ⟨fun h => swap _ (laneSwap_held h), fun h hd hs => swap _ ?_, fun h hd hs => swap _ ?_, fun h hd hs => swap _ ?_,
        fun h => swap _ (laneSwap_nothing h)⟩
      · rw [laneSwap_due (.inl h) hd, if_neg (by simp [hs]), if_pos h]
      · rw [laneSwap_due (.inr h) hd, if_neg (by simp [hs]), if_neg (by rcases h with h | h <;> simp [h])]
      · rw [laneSwap_due h hd, if_pos hs]
    · obtain ⟨held, up, none⟩ := txRetune_cases (s := s) (n := n) m
      exact ⟨fun h => (row _).trans (congrArg _ (held h)), fun h => (row _).trans (congrArg _ (up h)),
        fun h1 h2 => (row _).trans (congrArg _ (none h1 h2))⟩
    · obtain ⟨held, up, exchange, none⟩ := lossOfLock_cases r h
      exact ⟨fun h => (row _).trans (congrArg _ (held h)), fun h => (row _).trans (congrArg _ (up h)),
        fun h => (row _).trans (congrArg _ (exchange h)), fun h => (row _).trans (congrArg _ (none h))⟩
    · obtain ⟨down, bad, good⟩ := takeFlit_cases (u := u) ht hh
      refine ⟨fun hl => (row _).trans (congrArg _ (down hl)), fun hl hb => (row _).trans (congrArg _ (bad hl hb)), fun hl h1 h2 h3 hu => ?_⟩
      obtain ⟨next, other⟩ := good hl h1 h2 h3 hu
      exact ⟨fun hq => (row _).trans (congrArg _ (next hq)), fun hq => (row _).trans (congrArg _ (other hq))⟩
  · have row (k : Out) : onUnit pair 18 k = k := onUnit_exists hp k
    refine ⟨fun h => (row _).trans (next_if h), fun h => (row _).trans (congrArg _ (if_neg ?_)), fun h => (row _).trans (next_if h),
      fun h ht => (row _).trans ?_⟩
    · rw [h]; exact Bool.false_ne_true
    · subst ht
      exact congrArg _ (if_neg (by rw [h]; exact Bool.false_ne_true))

end Sys2Proof.Machine
end

section
/-! SUPPORT. Far ports: their frames, paths, timers, windows, optics and commands (15_far_ports.md, 21_module_hardware.md; R356 to R373, R487,
R488). -/

namespace Sys2Proof.Machine

variable {s t u v : State} {n peer mb : Nat} {c : Cmd} {q : FarPath} {f : FarFrame}

/-! ### Frames that arrive (R354, R357, R369) -/

section
variable {b : List Byte} {k : Nat} {take : FarFrame → State → Nat → State} (hn : n < 8) (hu : u = endFarWindow s n)
include hn hu

theorem farArrive_deaf (h : farListens u (farAt u n) = false) : farArrive k n b take s = .next u := by
  subst hu
  exact (onUnit_exists hn _).trans (congrArg _ (if_pos (by simp [h])))

theorem farArrive_received (hl : farListens u (farAt u n) = true) : farArrive k n b take s = .next
    (match farReceive u n b with
    | (t, some f) => if f.kind.toNat % 16 = k then take f t (bits f.src.toNat 20 0) else u
    | (t, none) => t) := by
  subst hu
  exact (onUnit_exists hn _).trans (congrArg _ (if_neg (by simp [hl])))

theorem farArrive_none (hl : farListens u (farAt u n) = true) (hr : farReceive u n b = (t, none)) : farArrive k n b take s = .next t := by
  rw [farArrive_received hn hu hl, hr]

theorem farArrive_frame (hl : farListens u (farAt u n) = true) (hr : farReceive u n b = (t, some f)) (hp : peer = bits f.src.toNat 20 0) :
    farArrive k n b take s = .next (if f.kind.toNat % 16 = k then take f t peer else u) := by
  rw [farArrive_received hn hu hl, hr, hp]

end

theorem farReceive_ignored {b : List Byte} (h : macReceive (farAt s n).config (farAt s n).assocs b = .ignored) : farReceive s n b = (s, none) := by
  simp only [farReceive, h]

theorem farReceive_lost {b : List Byte} (h : macReceive (farAt s n).config (farAt s n).assocs b = .lost) :
    farReceive s n b = (farIcv s n, none) := by
  simp only [farReceive, h]

section
variable {b bs w : List Byte} {an pn : Nat} (h : macReceive (farAt s n).config (farAt s n).assocs b = .plain an pn bs) (hv : v = farTook s n an pn)
include h hv

theorem farReceive_foreign (hi : ipBody (farAt s n).config n (v.fab.device.getD 0) bs = none) : farReceive s n b = (v, none) := by
  subst hv
  simp only [farReceive, h, hi]

theorem farReceive_dropped (hi : ipBody (farAt s n).config n (v.fab.device.getD 0) bs = some w)
    (hf : (parseMessage w).filter (farHeaderOk v n) = none) :
    farReceive s n b = (setFar v n fun x => { x with dropped := x.dropped + 1 }, none) := by
  subst hv
  simp only [farReceive, h, hi, hf]

theorem farReceive_frame (hi : ipBody (farAt s n).config n (v.fab.device.getD 0) bs = some w)
    (hf : (parseMessage w).filter (farHeaderOk v n) = some f) : farReceive s n b = (v, some f) := by
  subst hv
  simp only [farReceive, h, hi, hf]

end

/-! ### DATA, ACK and HELLO (R358 to R360, R366) -/

theorem take_noPath (h : pathAt s n peer = none) : takeFarData n f s peer = s ∧ takeAck n f s peer = s := by
  constructor
  · unfold takeFarData; rw [h]
  · unfold takeAck; rw [h]

theorem take_otherEpoch (h : pathAt s n peer = some q) (he : f.epoch.toNat ≠ q.epoch) : takeFarData n f s peer = s ∧ takeAck n f s peer = s := by
  constructor
  · unfold takeFarData; rw [h]; exact if_pos he
  · unfold takeAck; rw [h]; exact if_pos he

/-- A DATA frame of the path's EPOCH: the next one is delivered, one from the future may ask for a resend, one of the past does nothing. -/
theorem takeFarData_epoch (h : pathAt s n peer = some q) (he : f.epoch.toNat = q.epoch) : takeFarData n f s peer =
    if f.seq.toNat = q.expect then
      let s := setPath s n peer fun q => { q with expect := q.expect + 1, traffic := s.time }
      farDue (farCredit (farAck (farDeliver s n peer f) n peer f) n peer f) n peer
    else if q.expect < f.seq.toNat && q.lastNak.all (fun t => t + 100000 ≤ s.time) then
      farControlFrame (setPath s n peer fun q => { q with lastNak := some s.time }) n peer 0x12
    else s := by
  unfold takeFarData; rw [h]
  exact if_neg (not_not.mpr he)

theorem takeAck_epoch (h : pathAt s n peer = some q) (he : f.epoch.toNat = q.epoch)
    (ht : t = farCredit (farAck (setPath (farSample s n peer f) n peer fun q => { q with demand := f.demand.toNat }) n peer f) n peer f) :
    takeAck n f s peer = farGrant (if f.kind.getLsbD 4 then goBack t n peer else t) n := by
  subst ht
  unfold takeAck; rw [h]
  exact if_neg (not_not.mpr he)

/-- A HELLO makes the path there is none of, up to 1,024 of a port. -/
theorem takeHello_path (hv : v = (if (pathAt s n peer).isSome ∨ 1024 ≤ (farAt s n).paths.length then s else setFar s n fun x => { x with
      paths := x.paths ++ [newPath x.nextNum peer s.time], nextNum := x.nextNum + 1 })) :
    v = if (pathAt s n peer).isSome || 1024 ≤ (farAt s n).paths.length then s else setFar s n fun x => { x with
      paths := x.paths ++ [newPath x.nextNum peer s.time], nextNum := x.nextNum + 1 } :=
  hv.trans (if_congr (by simp) rfl rfl)

theorem takeHello_none (hv : v = if (pathAt s n peer).isSome || 1024 ≤ (farAt s n).paths.length then s else setFar s n fun x => { x with
      paths := x.paths ++ [newPath x.nextNum peer s.time], nextNum := x.nextNum + 1 }) (h : pathAt v n peer = none) : takeHello n f s peer = v := by
  unfold takeHello
  dsimp only
  rw [← hv, h]

theorem takeHello_met {w y z r : State} {ahead : Nat} (hv : v = if (pathAt s n peer).isSome || 1024 ≤ (farAt s n).paths.length then s else
      setFar s n fun x => { x with paths := x.paths ++ [newPath x.nextNum peer s.time], nextNum := x.nextNum + 1 })
    (h : pathAt v n peer = some q)
    (hw : w = if q.inc.any (· ≠ f.incarnation) then resetPath (setPath v n peer fun q => { q with samples := [], echo := none }) n peer else v)
    (ha : ahead = (f.epoch.toNat + 65536 - (pathAt w n peer).elim 0 (·.epoch)) % 65536)
    (hy : y = if 0 < ahead ∧ ahead < 32768 then
      setPath (if q.state = 1 then resetPath w n peer else w) n peer fun q => { q with epoch := f.epoch.toNat } else w)
    (hz : z = setPath (farSample y n peer f) n peer fun q => { q with inc := some f.incarnation })
    (hr : r = if (pathAt z n peer).any (fun q => q.epoch = f.epoch.toNat) then
      farCredit (farAck (setPath z n peer fun q => { q with state := 1 }) n peer f) n peer f else z) :
    takeHello n f s peer = if f.kind.getLsbD 5 then r else farControlFrame r n peer 0x23 := by
  have hy' : y = if 0 < ahead && ahead < 32768 then
      setPath (if q.state = 1 then resetPath w n peer else w) n peer fun q => { q with epoch := f.epoch.toNat } else w :=
    hy.trans (if_congr (by simp) rfl rfl)
  unfold takeHello
  dsimp only
  rw [← hv, h]
  dsimp only
  rw [← hw, ← ha, ← hy', ← hz, ← hr]

/-! ### Timers (R358, R360, R366, R367) -/

theorem onPath_some {k : FarPath → State → State} (hn : n < 8) (h : pathAt s n peer = some q) : onPath n peer k s = .next (k q s) := by
  refine (onUnit_exists hn _).trans ?_
  rw [h]

theorem onPath_none {k : FarPath → State → State} (hn : n < 8) (h : pathAt s n peer = none) : onPath n peer k s = .next s := by
  refine (onUnit_exists hn _).trans ?_
  rw [h]

/-- The timers of a path, at the times that the path gives. -/
theorem timers_path (hn : n < 8) (h : pathAt s n peer = some q) :
    execAckTimer n peer s = .next (if q.dueCount = 0 then s else farControlFrame (advance s (q.dueSince + 10000)) n peer 2) ∧
    execRetransmitTimeout n peer s =
      .next (if q.unacked = [] then s else goBack (advance s (q.ackMoved + q.srtt + 200000)) n peer) ∧
    (q.unacked = [] → execPathResetTimeout n peer s = .next s) ∧
    (∀ f, q.unacked.head? = some f → execPathResetTimeout n peer s = .next (resetPath (advance s (f.first + 8000000)) n peer)) ∧
    execPathIdleClose n peer s = .next (setFar (farReturn (advance s (q.traffic + 60000000000)) n q) n fun x =>
      { x with paths := x.paths.filter fun y => y.peer ≠ peer }) ∧
    execKeepalive n peer s = .next (farControlFrame (advance s (q.lastSent + 10000000)) n peer (if q.state = 1 then 2 else 3)) := by
  refine ⟨onPath_some hn h, (onPath_some hn h).trans (congrArg _ (if_congr (by simp) rfl rfl)), fun hu => ?_, fun f hf => ?_,
    onPath_some hn h, onPath_some hn h⟩
  · refine (onPath_some hn h).trans ?_
    rw [hu]; rfl
  · refine (onPath_some hn h).trans ?_
    rw [hf]

theorem timers_noPath (hn : n < 8) (h : pathAt s n peer = none) : execAckTimer n peer s = .next s ∧ execRetransmitTimeout n peer s = .next s ∧
    execPathResetTimeout n peer s = .next s ∧ execPathIdleClose n peer s = .next s ∧ execKeepalive n peer s = .next s :=
  ⟨onPath_none hn h, onPath_none hn h, onPath_none hn h, onPath_none hn h, onPath_none hn h⟩

theorem stopResetTimeout_cases (hn : n < 8) : ((farAt s n).stopped = none → exec (.stopResetTimeout n) s = .next s) ∧
    ∀ t, (farAt s n).stopped = some t → exec (.stopResetTimeout n) s =
      .next (resetPaths (setFar (advance s (t + 8000000)) n fun x => { x with stopped := none }) n) := by
  refine ⟨fun h => (onUnit_exists hn _).trans ?_, fun t h => (onUnit_exists hn _).trans ?_⟩ <;> rw [h]

/-! ### Sending DATA (R356, R361, R363) -/

section
variable (ht : t = endFarWindow (advance s (farAt s n).busy) n)
include ht

theorem farSend_noPath (h : pathAt t n peer = none) : farSend s n peer = t := by
  unfold farSend
  dsimp only
  rw [← ht, h]

variable (hq : pathAt t n peer = some q)
include hq

theorem farSend_mayNot (h : (farAt t n).state ≠ .up ∨ farMayData t (farAt t n) = false ∨ farReady t q = false) : farSend s n peer = t := by
  unfold farSend
  dsimp only
  rw [← ht, hq]
  exact if_pos (by simpa [or_assoc] using h)

/-- What a path that may send makes of its queue: nothing to take, no room in the buffer, or a frame. -/
theorem farSend_may {live now later : List (Nat × Packet)} {bytes : Nat} (h1 : (farAt t n).state = .up) (h2 : farMayData t (farAt t n) = true)
    (h3 : farReady t q = true) (hl : live = farAlive t q q.queue)
    (hp : (now, later) = farPick peer (field (farAt t n).config 6 2 - 80) (q.credit - q.used) false live)
    (hb : bytes = roundUp (32 + farBytes now) 64 + 64) (hu : u = farData t n q q.nextSeq now)
    (hv : v = setPath t n peer fun q => { q with queue := live }) : farSend s n peer =
      if now = [] then (if live = [] then v else farControlFrame v n peer 2)
      else if farBuffer < farUsed (farAt t n) + bytes then t
      else setPath u n peer fun q => { q with
        queue := later, nextSeq := q.nextSeq + 1, used := q.used + farPaid peer now, traffic := u.time
        ackMoved := if q.unacked.isEmpty then u.time else q.ackMoved
        unacked := q.unacked ++ [⟨q.nextSeq, now, u.time, u.time, bytes⟩] } := by
  unfold farSend
  dsimp only
  rw [← ht, hq]
  dsimp only
  rw [if_neg (by simp [h1, h2, h3]), ← hl, ← hp]
  dsimp only
  rw [← hb, ← hu, ← hv]
  exact if_congr (by simp) (if_congr (by simp) rfl rfl) rfl

end

/-- Settles O51: an arriving frame by what `farReceive` makes of it, each KIND, timer and send by its own case analysis. -/
theorem farPathsMoveOn : Obligations.FarPathsMoveOn := by
  refine ⟨fun s n b u x hn hu hx => ?_, fun s n f peer q h => ⟨take_otherEpoch h, fun he => ?_⟩, fun s n f peer h => take_noPath h,
    fun s n f peer v hv => ⟨takeHello_none (takeHello_path hv), fun q w ahead y z r h hw ha hy hz hr =>
      takeHello_met (takeHello_path hv) h hw ha hy hz hr⟩,
    fun s n peer q hn h => ?_, fun s n peer hn h => timers_noPath hn h,
    fun s n hn => stopResetTimeout_cases hn,
    fun s t n peer x hn ht hx => ⟨fun h => (onUnit_exists hn _).trans (congrArg _ (farSend_noPath ht h)), ?_⟩⟩
  · subst hx
    refine ⟨fun h => ⟨farArrive_deaf hn hu h, farArrive_deaf hn hu h, farArrive_deaf hn hu h⟩, fun hl => ?_⟩
    have nothing {t : State} (hr : farReceive u n b = (t, none)) :
        exec (.data n b) s = .next t ∧ exec (.ack n b) s = .next t ∧ exec (.hello n b) s = .next t :=
      ⟨farArrive_none hn hu hl hr, farArrive_none hn hu hl hr, farArrive_none hn hu hl hr⟩
    refine ⟨fun h => nothing (farReceive_ignored h), fun h => nothing (farReceive_lost h), fun an pn bs v h hv =>
      ⟨fun hi => nothing (farReceive_foreign h hv hi), fun w hi => ⟨fun y hy hf => hy ▸ nothing (farReceive_dropped h hv hi hf), ?_⟩⟩⟩
    intro f peer k hf hp hk
    have hr := farReceive_frame h hv hi hf
    subst hk
    exact ⟨farArrive_frame hn hu hl hr hp, farArrive_frame hn hu hl hr hp, farArrive_frame hn hu hl hr hp⟩
  · have epoch := takeFarData_epoch h he
    refine ⟨fun t hs ht => ?_, fun hs hk => ?_, fun hs hk => ?_, fun hs => ?_, fun t => takeAck_epoch h he⟩
    · subst ht
      rw [epoch, if_pos hs]
    · rw [epoch, if_neg (by omega), if_pos (by simp only [hk, hs, decide_true, Bool.and_self])]
    · rw [epoch, if_neg (by omega), if_neg (by simp only [hk, Bool.and_false, Bool.false_eq_true, not_false_eq_true])]
    · rw [epoch, if_neg (by omega), if_neg (by simp only [Bool.and_eq_true, decide_eq_true_eq]; omega)]
  · exact timers_path hn h
  · intro q live now later bytes u hq hl hp hb hu
    subst hx
    have send (w : State) (h : farSend s n peer = w) : exec (.farFrameSend n peer) s = .next w :=
      (onUnit_exists hn _).trans (congrArg _ h)
    refine ⟨fun h => send _ (farSend_mayNot ht hq h), fun h1 h2 h3 => ?_⟩
    have may := farSend_may (v := setPath t n peer fun q => { q with queue := live }) ht hq h1 h2 h3 hl hp hb hu rfl
    refine ⟨fun v hv hnow => send _ ?_, fun hnow hlt => send _ ?_, fun hnow hle => send _ ?_⟩
    · rw [may, if_pos hnow, ← hv]
    · rw [may, if_neg hnow, if_pos hlt]
    · rw [may, if_neg hnow, if_neg (Nat.not_lt.mpr hle)]

end Sys2Proof.Machine
end

section
/-! SUPPORT. The commands, windows and optics of far ports (15_far_ports.md, 21_module_hardware.md; R367, R370 to R373, R487, R488). -/

namespace Sys2Proof.Machine

variable {s t v : State} {n mb : Nat} {c : Cmd}

/-! ### FAR_CONFIG, FAR_CONTROL, FAR_QUERY, FAR_PATHS (R372, R373) -/

theorem farConfigBody_stores {k : Nat} {rs : List (List Byte)} (hk : k = c.payload.length / 320)
    (hr : rs = (List.range k).map fun i => sub c.payload (320 * i) 320) (hc : clean c 0 0 true = true) (hl : c.payload.length % 320 = 0)
    (h1 : 1 ≤ k) (h8 : k ≤ 8) (hok : rs.all farRecordOk = true)
    (ho : ∀ r ∈ rs, (farAt s (field r 0 1)).state = .down ∨ (farAt s (field r 0 1)).state = .stopped) :
    farConfigBody mb c s = finish (rs.foldl (fun s r => setFar s (field r 0 1) fun x => { x with config := r }) s) mb c 0 := by
  have allOpen : (rs.all fun r => decide ((farAt s (field r 0 1)).state = .down) || decide ((farAt s (field r 0 1)).state = .stopped)) = true :=
    List.all_eq_true.mpr fun r hm => by simpa using ho r hm
  have shape : ¬ (!clean c 0 0 true || decide (c.payload.length % 320 ≠ 0) || decide (k = 0) || decide (8 < k) || !rs.all farRecordOk) = true := by
    rw [hc, hl, hok]
    simp only [Bool.not_true, Bool.false_or, Bool.or_false, ne_eq, not_true, decide_false, Bool.or_eq_true, decide_eq_true_eq]
    omega
  subst hr hk
  exact (if_neg shape).trans (if_neg (by rw [allOpen]; exact Bool.false_ne_true))

theorem farControlBody_applies {ns : List Nat} (hn : ns = (List.range 8).filter fun n => c.arg0.getLsbD n) (hc : clean c 0xFF 3 false = true)
    (h3 : c.arg1 ≠ 3) (h0 : c.arg1 = 0 → ∀ n ∈ ns, (farAt s n).config ≠ [] ∧ (farAt s n).txAn.isSome = true) :
    farControlBody mb c s = finish (ns.foldl (fun s n => farRequest s n c.arg1.toNat) s) mb c 0 := by
  subst hn
  refine (if_neg (by simpa [hc] using h3)).trans (if_neg ?_)
  rw [Bool.and_eq_true, decide_eq_true_eq, List.any_eq_true]
  rintro ⟨hz, n, hm, hbad⟩
  obtain ⟨hcfg, htx⟩ := h0 hz n hm
  simp [hcfg, Option.isSome_iff_ne_none.mp htx] at hbad

/-- What FAR_CONTROL asks of one port. -/
theorem farRequest_cases :
    ((farAt s n).state = .down → (farAt s n).optic.any (·.2) = true → farRequest s n 0 = setFar s n fun x => { x with state := .train }) ∧
    ((farAt s n).state = .stopped → farRequest s n 0 = farUp s n) ∧
    ((farAt s n).state = .up → (farAt s n).held = none →
      farRequest s n 1 = setFar s n fun x => { x with state := .stopped, stopped := some s.time }) ∧
    farRequest s n 2 = farDown s n .down := by
  refine ⟨fun h ho => by simp [farRequest, h, ho], fun h => by simp [farRequest, h], fun h hh => ?_, rfl⟩
  have close : closeFar s n = s := by unfold closeFar; rw [hh]
  unfold farRequest
  simp only [if_pos, close, h]

/-! ### FAR_KEY (R370) -/

section
variable {p : List Byte} {an : Nat} {tx on : Bool} {x : FarPort} {same : Assoc → Bool} (hp : p = c.payload) (hn : n = field p 0 1)
  (han : an = field p 1 1) (htx : tx = decide (field p 2 1 = 0)) (hx : x = farAt s n) (hon : on = (tx && decide (x.txAn = some an)))
  (hsame : same = fun a => decide (a.an = an) && a.tx == tx) (hc : clean c 0 0 true = true) (hl : p.length = 64) (h7 : n ≤ 7) (h3 : an ≤ 3)
  (h1 : field p 2 1 ≤ 1) (hz : sub p 0x14 12 = zeros 12)
include hp hn han htx hx hon hsame hc hl h7 h3 h1 hz

/-- A well-formed key record: what its action does to the associations of its port. -/
theorem farKeyBody_clean (ha : field p 3 1 ≤ 2) (hat : field p 3 1 = 1 → tx = true) : farKeyBody mb c s =
    match field p 3 1 with
    | 0 =>
      if on then finish s mb c stFarKeyState
      else if 2 ≤ ((x.assocs.filter fun a => !same a).filter fun a => a.tx == tx).length then finish s mb c stResource
      else finish (setFar s n fun y => { y with assocs := (x.assocs.filter fun a => !same a) ++
        [⟨an, tx, BitVec.ofNat 32 (field p 4 4), sub p 8 12, farSak s mb c, 1⟩] }) mb c 0
    | 1 =>
      if on then finish s mb c 0
      else if x.assocs.any same then
        finish (setFar s n fun x => { x with
          txAn := some an, txPn := 1, assocs := x.assocs.filter fun a => !(a.tx && x.txAn = some a.an) }) mb c 0
      else finish s mb c stFarKeyState
    | _ => if on then finish s mb c stFarKeyState else finish (setFar s n fun x => { x with assocs := x.assocs.filter fun a => !same a }) mb c 0 := by
  have shape : ¬ (!clean c 0 0 true || decide (p.length ≠ 64) || decide (7 < n) || decide (3 < an) || decide (1 < field p 2 1) ||
      decide (2 < field p 3 1) || (decide (field p 3 1 = 1) && !decide (field p 2 1 = 0)) || !(sub p 0x14 12 == zeros 12)) = true := by
    have act : ¬ (decide (field p 3 1 = 1) && !tx) = true := by
      rw [Bool.and_eq_true, decide_eq_true_eq]
      rintro ⟨h, hf⟩
      simp [hat h] at hf
    rw [← htx]
    simp only [hc, hl, hz, act, Bool.or_eq_true, decide_eq_true_eq, beq_self_eq_true, Bool.not_true, Bool.false_eq_true, ne_eq, not_true,
      false_or, or_false]
    omega
  subst hsame hon hx htx han hn hp
  exact (if_neg shape).trans (by rfl)

theorem farKeyBody_cases :
    (field p 3 1 = 0 → on = false →
      (((x.assocs.filter fun a => !same a).filter fun a => a.tx == tx).length < 2 → farKeyBody mb c s =
        finish (setFar s n fun y => { y with assocs := (x.assocs.filter fun a => !same a) ++
          [⟨an, tx, BitVec.ofNat 32 (field p 4 4), sub p 8 12, farSak s mb c, 1⟩] }) mb c 0) ∧
      (2 ≤ ((x.assocs.filter fun a => !same a).filter fun a => a.tx == tx).length → farKeyBody mb c s = finish s mb c stResource)) ∧
    (field p 3 1 = 1 → tx = true →
      (on = true → farKeyBody mb c s = finish s mb c 0) ∧
      (on = false → x.assocs.any same = true → farKeyBody mb c s = finish (setFar s n fun x => { x with
        txAn := some an, txPn := 1, assocs := x.assocs.filter fun a => !(a.tx && x.txAn = some a.an) }) mb c 0) ∧
      (on = false → x.assocs.any same = false → farKeyBody mb c s = finish s mb c 0x0A51)) ∧
    (field p 3 1 = 2 → on = false →
      farKeyBody mb c s = finish (setFar s n fun x => { x with assocs := x.assocs.filter fun a => !same a }) mb c 0) ∧
    (field p 3 1 = 0 ∨ field p 3 1 = 2 → on = true → farKeyBody mb c s = finish s mb c 0x0A51) := by
  have key := farKeyBody_clean (mb := mb) hp hn han htx hx hon hsame hc hl h7 h3 h1 hz
  refine ⟨fun ha ho => ⟨fun hlt => ?_, fun hle => ?_⟩, fun ha ht => ⟨fun ho => ?_, fun ho hs => ?_, fun ho hs => ?_⟩, fun ha ho => ?_,
    fun ha ho => ?_⟩
  · rw [key (by omega) (by omega), ha, ho]
    exact if_neg (Nat.not_le.mpr hlt)
  · rw [key (by omega) (by omega), ha, ho]
    exact if_pos hle
  · rw [key (by omega) fun _ => ht, ha, ho]; rfl
  · rw [key (by omega) fun _ => ht, ha, ho]
    exact if_pos hs
  · rw [key (by omega) fun _ => ht, ha, ho]
    exact if_neg (c := x.assocs.any same = true) (by rw [hs]; exact Bool.false_ne_true)
  · rw [key (by omega) (by omega), ha, ho]; rfl
  · rcases ha with ha | ha <;> rw [key (by omega) (by omega), ha, ho] <;> rfl

end

/-! ### Windows, retraining and optics (R371, R487, R488) -/

theorem closeFar_cases : (∀ t v, (farAt s n).held = some t → v = advance s (t + 20000) → closeFar s n = setFar v n fun x => { x with
      state := if x.state = .held then .up else x.state, held := none, window := v.time, tuned := v.time }) ∧
    ((farAt s n).held = none → closeFar s n = s) := by
  refine ⟨fun t v h hv => ?_, fun h => ?_⟩
  · subst hv
    unfold closeFar; rw [h]
  · unfold closeFar; rw [h]

theorem farRetune_cases (k m : Nat) : ((farAt s n).state = .held → farRetune s n k m = closeFar s n) ∧
    (∀ t v, (farAt s n).state = .up → t = (List.range 8).foldl closeFar s →
      v = advance t (max (if m < 100000 * k then s.time else (farAt s n).tuned + 60000000000) ((farAt t n).window + 10000000) + 1000) →
      farRetune s n k m = setFar v n fun x => { x with state := .held, held := some v.time }) ∧
    ((farAt s n).state ≠ .held → (farAt s n).state ≠ .up → farRetune s n k m = s) := by
  refine ⟨fun h => if_pos h, fun t v h ht hv => ?_, fun hh hu => (if_neg hh).trans (if_neg hu)⟩
  subst hv ht
  exact (if_neg (by rw [h]; decide)).trans (if_pos h)

theorem farRetrain_cases (hn : n < 8) : exec (.farRetrain n true) s = .next s ∧
    ((farAt s n).state = .up ∨ (farAt s n).state = .held ∨ (farAt s n).state = .stopped →
      exec (.farRetrain n false) s = .next (failFar (advance s (s.time + 5000000)) n)) ∧
    ((farAt s n).state = .down ∨ (farAt s n).state = .train ∨ (farAt s n).state = .failed → exec (.farRetrain n false) s = .next s) := by
  refine ⟨(onUnit_exists hn _).trans (congrArg _ (if_neg (by simp))), fun h => (onUnit_exists hn _).trans (next_if ?_),
    fun h => (onUnit_exists hn _).trans (congrArg _ (if_neg ?_))⟩
  · rcases h with h | h | h <;> simp [h]
  · rcases h with h | h | h <;> simp [h]

/-- What an empty cage makes of an optic, by the power it asks for. -/
theorem opticInserted_asks (hn : n < 8) (power : Option Nat) (own : Option TempLimits) (ho : (farAt s n).optic = none) :
    exec (.opticInserted n power own) s = .next (setFar (if power.isNone then advance s (s.time + 2000000000) else s) n fun x => { x with
      optic := some (power, power.any fun p => p ≤ 16000), own
      refused := if power.any fun p => p ≤ 16000 then x.refused else x.refused + 1 }) :=
  (onUnit_exists hn _).trans (congrArg _ (if_neg (by simp [ho])))

/-- An optic in an empty cage is powered within 16 W; one beyond, or one that does not answer in 2 s, is refused. -/
theorem opticInserted_empty (hn : n < 8) (own : Option TempLimits) (ho : (farAt s n).optic = none) :
    (∀ w, w ≤ 16000 → exec (.opticInserted n (some w) own) s = .next (setFar s n fun x => { x with optic := some (some w, true), own := own })) ∧
    (∀ w, 16000 < w → exec (.opticInserted n (some w) own) s =
      .next (setFar s n fun x => { x with optic := some (some w, false), own := own, refused := x.refused + 1 })) ∧
    exec (.opticInserted n none own) s = .next (setFar (advance s (s.time + 2000000000)) n fun x =>
      { x with optic := some (none, false), own := own, refused := x.refused + 1 }) := by
  refine ⟨fun w hw => ?_, fun w hw => ?_, ?_⟩
  · have good : (some w).any (fun p => decide (p ≤ 16000)) = true := by simpa using hw
    rw [opticInserted_asks hn _ _ ho, good, if_neg (by simp)]
    simp only [if_pos]
  · have bad : (some w).any (fun p => decide (p ≤ 16000)) = false := by simpa using hw
    rw [opticInserted_asks hn _ _ ho, bad, if_neg (by simp)]
    simp only [Bool.false_eq_true, if_false]
  · rw [opticInserted_asks hn _ _ ho, if_pos (by simp)]
    simp only [Option.any_none, Bool.false_eq_true, if_false]

theorem optic_cases (hn : n < 8) :
    (∀ w own, (farAt s n).optic.isSome = true → exec (.opticInserted n w own) s = .next s) ∧
    ((farAt s n).optic.isSome = true →
      exec (.opticRemoved n) s = .next (farDown (setFar s n fun x => { x with optic := none, own := none }) n .down)) ∧
    ((farAt s n).optic = none → exec (.opticRemoved n) s = .next s) :=
  ⟨fun _ _ h => (onUnit_exists hn _).trans (next_if h), fun h => (onUnit_exists hn _).trans (next_if h),
    fun h => (onUnit_exists hn _).trans (congrArg _ (if_neg (by simp [h])))⟩

/-- Settles O53: each command's checks hold and its body stores or answers; each row takes the branch of its port's state. -/
theorem farPortsAndCommandsComplete : Obligations.FarPortsAndCommandsComplete := by
  refine ⟨fun s mb tag c => ⟨fun k rs hk hr h hc hl h1 h8 hok ho => h.answers (farConfigBody_stores hk hr hc hl h1 h8 hok ho),
      fun p n an tx x on same hp hn han htx hx hon hsame h hc hl h7 h3 h1 hz => ?_,
      fun ns hn h hc h3 h0 => h.answers (farControlBody_applies hn hc h3 h0), fun h hc => h.answers (if_neg (by simp [hc])),
      fun h hc => h.answers (if_neg (by simp [hc]))⟩,
    fun s n x hx => hx ▸ farRequest_cases, fun s n x hn hx => ?_⟩
  · obtain ⟨install, activate, remove, refuse⟩ := farKeyBody_cases (mb := mb) hp hn han htx hx hon hsame hc hl h7 h3 h1 hz
    refine ⟨fun ha ho => ⟨fun hlt => h.answers ((install ha ho).1 hlt), fun hle => h.answers ((install ha ho).2 hle)⟩, fun ha ht => ?_,
      fun ha ho => h.answers (remove ha ho), fun ha ho => h.answers (refuse ha ho)⟩
    obtain ⟨again, now, missing⟩ := activate ha ht
    exact ⟨fun ho => h.answers (again ho), fun ho hs => h.answers (now ho hs), fun ho hs => h.answers (missing ho hs)⟩
  · subst hx
    have row (k : Out) : onUnit n 8 k = k := onUnit_exists hn k
    obtain ⟨closes, stays⟩ := closeFar_cases (s := s) (n := n)
    obtain ⟨locked, fails, idle⟩ := farRetrain_cases (s := s) hn
    obtain ⟨filled, removed, absent⟩ := optic_cases (s := s) hn
    refine ⟨fun h => (row _).trans (next_if h), fun h => (row _).trans (congrArg _ (if_neg h)), fun k m => ?_, closes, stays, locked, fails, idle,
      fun own ho => opticInserted_empty hn own ho, filled, removed, absent⟩
    obtain ⟨held, up, none⟩ := farRetune_cases (s := s) (n := n) k m
    exact ⟨fun h => (row _).trans (congrArg _ (held h)), fun t v h ht hv => (row _).trans (congrArg _ (up t v h ht hv)),
      fun h1 h2 => (row _).trans (congrArg _ (none h1 h2))⟩

end Sys2Proof.Machine
end

section
/-! SUPPORT. What a destination serves, and what the router makes of a packet (13_ewete_fabric.md; R301 to R313, R321, R322). -/

namespace Sys2Proof.Machine

variable {s t u : State} {p : Packet} {n : Nat}

/-! ### Arrival (R253, R304 to R307) -/

theorem arriveAt_held {ty : Byte} {f : State → State} (h : heldRequest s p n = true) : arriveAt ty p n f s = .next s := if_pos h

theorem arriveAt_free {ty : Byte} {f : State → State} (h : heldRequest s p n = false) : arriveAt ty p n f s = arrive ty p f s :=
  if_neg (by rw [h]; exact Bool.false_ne_true)

theorem arriveAt_serves {ty : Byte} {f : State → State} (hh : heldRequest s p n = false) (h : Arrives s p ty) (ht : t = taken s p) :
    arriveAt ty p n f s = .next (f t) := by
  rw [arriveAt_free hh, arrive_serves h, ht]

/-! ### Reads (R308) -/

theorem serveRead_malformed (h : p.total = 0 ∨ 1024 < p.total) : serveRead t p = reply t p [answer t p 0x02 9] :=
  if_pos (by simpa using h)

theorem serveRead_sized (h0 : p.total ≠ 0) (h1 : p.total ≤ 1024) (hn : n = 64 * p.total) : serveRead t p =
    match refuses t p p.addr n 0 with
    | some st => reply t p [answer t p tRdData st]
    | none =>
      match (badGranule t p.addr n).or (if p.sealed then badGranule t (bits p.spec2.toNat 40 0) 4 else none) with
      | some _ =>
        let s := if (badGranule t p.addr n).isSome then uncorrectables t p.addr n else uncorrectables t (bits p.spec2.toNat 40 0) 4
        reply s p [answer s p tRdData rMemory]
      | none =>
        let s := touchRead t p.addr n
        let q := answer s p tRdData rOk
        let q := if p.sealed then
          { q with flags := 2, spec0 := BitVec.ofNat 32 (unle (readLocal s (bits p.spec2.toNat 40 0) 4)), spec1 := p.spec1 } else q
        reply s p (dataPackets s q (readLocal s p.addr n)) := by
  subst hn
  exact (if_neg (by simp only [Bool.or_eq_true, decide_eq_true_eq]; omega)).trans (by rfl)

/-- An admitted read answers its data, with the stored seal where it asks for one, or MEMORY where a granule cannot be read. -/
theorem serveRead_admitted {a : Nat} (h0 : p.total ≠ 0) (h1 : p.total ≤ 1024) (hn : n = 64 * p.total) (hr : refuses t p p.addr n 0 = none)
    (ha : a = bits p.spec2.toNat 40 0) (hu : u = touchRead t p.addr n) :
    (badGranule t p.addr n = none → p.sealed = false →
      serveRead t p = reply u p (dataPackets u (answer u p 0x02 0) (readLocal u p.addr n))) ∧
    (badGranule t p.addr n = none → p.sealed = true → badGranule t a 4 = none →
      serveRead t p = reply u p (dataPackets u { answer u p 0x02 0 with
        flags := 2, spec0 := BitVec.ofNat 32 (unle (readLocal u a 4)), spec1 := p.spec1 } (readLocal u p.addr n))) ∧
    (∀ v, v = uncorrectables t p.addr n → badGranule t p.addr n ≠ none → serveRead t p = reply v p [answer v p 0x02 5]) ∧
    (∀ v, v = uncorrectables t a 4 → badGranule t p.addr n = none → p.sealed = true → badGranule t a 4 ≠ none →
      serveRead t p = reply v p [answer v p 0x02 5]) := by
  have sized := serveRead_sized (t := t) h0 h1 hn
  rw [hr] at sized
  subst hu ha
  refine ⟨fun hb hs => ?_, fun hb hs hb2 => ?_, fun v hv hb => ?_, fun v hv hb hs hb2 => ?_⟩
  · rw [sized, hb, hs]; rfl
  · rw [sized, hb, hs, if_pos rfl, hb2]; rfl
  · obtain ⟨g, hg⟩ := Option.ne_none_iff_exists'.mp hb
    rw [sized, hg, hv]; rfl
  · obtain ⟨g, hg⟩ := Option.ne_none_iff_exists'.mp hb2
    rw [sized, hb, hs, if_pos rfl, hg, hv]; rfl

/-! ### Writes (R309, R310) -/

theorem serveWrite_first (hi : p.index = 0) (hu : u = dropEntry t p) : serveWrite t p =
    if p.total = 0 || 1024 < p.total then reply u p [answer u p tWrAck rMalformed]
    else
      match refuses u p p.addr (64 * p.total) 1 with
      | some st => reply u p [answer u p tWrAck st]
      | none =>
        if 16384 ≤ (u.fab.entries.filter fun e => e.die = min 1 (portDie p.port)).length then reply u p [answer u p tWrAck rBusy]
        else writePacket u p ⟨p.src, p.tag, p.addr, p.total, 0, p.sealed, p.spec0, p.spec1.toNat, bits p.spec2.toNat 40 0, p.resend, u.time,
          min 1 (portDie p.port)⟩ := by
  subst hu
  exact if_pos hi

theorem serveWrite_first_cases {e : WrEntry} (hi : p.index = 0) (hu : u = dropEntry t p) (h0 : p.total ≠ 0) (h1 : p.total ≤ 1024) :
    (∀ st, refuses u p p.addr (64 * p.total) 1 = some st → serveWrite t p = reply u p [answer u p 0x04 st]) ∧
    (refuses u p p.addr (64 * p.total) 1 = none → 16384 ≤ (u.fab.entries.filter fun e => e.die = min 1 (portDie p.port)).length →
      serveWrite t p = reply u p [answer u p 0x04 7]) ∧
    (refuses u p p.addr (64 * p.total) 1 = none → (u.fab.entries.filter fun e => e.die = min 1 (portDie p.port)).length < 16384 →
      e = ⟨p.src, p.tag, p.addr, p.total, 0, p.sealed, p.spec0, p.spec1.toNat, bits p.spec2.toNat 40 0, p.resend, u.time,
        min 1 (portDie p.port)⟩ → serveWrite t p = writePacket u p e) := by
  have first := (serveWrite_first hi hu).trans (if_neg (by simp only [Bool.or_eq_true, decide_eq_true_eq]; omega))
  refine ⟨fun st hr => ?_, fun hr hf => ?_, fun hr hf he => ?_⟩
  · rw [first, hr]; rfl
  · rw [first, hr]
    exact if_pos hf
  · rw [first, hr, he]
    exact if_neg (Nat.not_le.mpr hf)

theorem serveWrite_later (hi : p.index ≠ 0) : serveWrite t p =
    match t.fab.entries.find? (fun e => e.src = p.src && e.tag = p.tag) with
    | some e => writePacket t p e
    | none => t := if_neg hi

/-- The end of a whole write (R309): MEMORY, OK without a seal to check, or what the seal comes to. -/
theorem endWriteTx_cases {w d : State} {e : WrEntry} {crc : Word} {ack : State → Nat → State} (hd : d = dropEntry w p)
    (ha : ack = fun (s : State) (st : Nat) => reply s p [{ answer s p 0x04 st with address := BitVec.ofNat 64 e.addr }])
    (hc : crc = sealOf (shapeOf e.header) (readLocal d e.addr (64 * e.total))) :
    (deadRange d e.addr (64 * e.total) = true → endWriteTx w p e = ack d 5) ∧
    (deadRange d e.addr (64 * e.total) = false →
      (e.sealed = false → endWriteTx w p e = ack d 0) ∧
      (e.sealed = true → crc = e.crc → endWriteTx w p e = ack (writeLocal d e.sealAddr (le 4 e.crc.toNat)) 0) ∧
      (e.sealed = true → crc ≠ e.crc → e.resend = false → endWriteTx w p e = ack d 1) ∧
      (e.sealed = true → crc ≠ e.crc → e.resend = true → endWriteTx w p e = ack (writeLocal
        (logSeal d (sealRecord d e.addr (memUnit d (physOf d e.addr)) e.crc crc 0 (shapeOf e.header))) e.sealAddr (le 4 (~~~e.crc).toNat)) 2)) := by
  have shape : endWriteTx w p e = if deadRange d e.addr (64 * e.total) then ack d rMemory
      else if !e.sealed then ack d rOk
      else if crc = e.crc then ack (writeLocal d e.sealAddr (le 4 e.crc.toNat)) rOk
      else if !e.resend then ack d rResend
      else ack (writeLocal (logSeal d (sealRecord d e.addr (memUnit d (physOf d e.addr)) e.crc crc 0 (shapeOf e.header))) e.sealAddr
        (le 4 (~~~e.crc).toNat)) rSeal := by
    subst hc ha hd; rfl
  rw [shape]
  refine ⟨fun h => if_pos h, fun h => ?_⟩
  rw [if_neg (by rw [h]; exact Bool.false_ne_true)]
  refine ⟨fun hs => if_pos (by rw [hs]; rfl), fun hs hq => ?_, fun hs hq hr => ?_, fun hs hq hr => ?_⟩ <;> rw [if_neg (by simp [hs])]
  · exact if_pos hq
  · exact (if_neg hq).trans (if_pos (by rw [hr]; rfl))
  · exact (if_neg hq).trans (if_neg (by simp [hr]))

theorem writePacket_outside {e : WrEntry} (h : p.addr < e.addr ∨ e.addr + 64 * e.total < p.addr + p.payload.length) :
    writePacket s p e = s := if_pos (by simpa using h)

/-- The bytes of a packet within its write's range are stored; the last ends the write. -/
theorem writePacket_inside {e : WrEntry} {w : State} (hw : w = writeLocal s p.addr p.payload) (h1 : e.addr ≤ p.addr)
    (h2 : p.addr + p.payload.length ≤ e.addr + 64 * e.total) : writePacket s p e =
      if 64 * e.total ≤ e.got + p.payload.length then endWriteTx w p { e with got := e.got + p.payload.length, last := s.time }
      else { dropEntry w p with fab := { (dropEntry w p).fab with
        entries := (dropEntry w p).fab.entries ++ [{ e with got := e.got + p.payload.length, last := s.time }] } } := by
  subst hw
  exact if_neg (by simp only [Bool.or_eq_true, decide_eq_true_eq]; omega)

/-! ### Atomics and messages (R311, R312) -/

theorem serveAtomic_malformed (h : p.addr % 8 ≠ 0 ∨ 8 ≤ p.spec0.toNat ∨ p.payload.length ≠ 16) :
    serveAtomic t p = reply t p [answer t p 0x06 9] := if_pos (by simpa [or_assoc] using h)

theorem serveAtomic_cases (h1 : p.addr % 8 = 0) (h2 : p.spec0.toNat < 8) (h3 : p.payload.length = 16) :
    (∀ st, refuses t { p with flags := 0 } p.addr 8 2 = some st → serveAtomic t p = reply t p [answer t p 0x06 st]) ∧
    (∀ g u, refuses t { p with flags := 0 } p.addr 8 2 = none → badGranule t p.addr 8 = some g → u = uncorrectable t g →
      serveAtomic t p = reply u p [answer u p 0x06 5]) ∧
    (∀ old u, refuses t { p with flags := 0 } p.addr 8 2 = none → badGranule t p.addr 8 = none →
      (old, u) = atomLocal t p.addr p.spec0.toNat p.payload → serveAtomic t p = reply u p [{ answer u p 0x06 0 with payload := old }]) := by
  have formed : ¬ (decide (p.addr % 8 ≠ 0) || decide (8 ≤ p.spec0.toNat) || decide (p.payload.length ≠ 16)) = true := by simp [h1, h2, h3]
  refine ⟨fun st hr => ?_, fun g u hr hb hu => ?_, fun old u hr hb ho => ?_⟩
  · simp only [serveAtomic, if_neg formed, hr, tAtResp]
  · simp only [serveAtomic, if_neg formed, hr, hb, hu, tAtResp, rMemory]
  · simp only [serveAtomic, if_neg formed, hr, hb, ← ho, tAtResp, rOk]

theorem serveMsg_cases : (p.payload.length ≠ 128 → serveMsg t p = reply t p [answer t p 0x08 9]) ∧
    (∀ u, p.payload.length = 128 → deliver t (bits p.addr 5 0) p.payload = some u → serveMsg t p = reply u p [answer u p 0x08 0]) ∧
    (p.payload.length = 128 → deliver t (bits p.addr 5 0) p.payload = none → serveMsg t p = reply t p [answer t p 0x08 6]) := by
  refine ⟨fun h => if_pos h, fun u h hd => (if_neg (not_not.mpr h)).trans ?_, fun h hd => (if_neg (not_not.mpr h)).trans ?_⟩
  · rw [hd]; rfl
  · rw [hd]; rfl

/-! ### The router (R301, R304, R321, R322) -/

/-- A packet of the type that its row takes, at a port that carries traffic or has delivered it, goes to the router. -/
theorem arrive_routes {f : State → State} (h : p.port < 36 → (nearAt (atPort s p) p.port).state = .up ∨ inIngress (atPort s p) p = true) :
    arrive p.type p f s = .next (route p f (takeIngress (atPort s p) p)) := by
  refine congrArg _ (if_neg ?_)
  simp only [ne_eq, not_true, decide_false, Bool.false_or, Bool.and_eq_true, decide_eq_true_eq, Bool.not_eq_true']
  rintro ⟨⟨h1, h2⟩, h3⟩
  rcases h h1 with hu | hi
  · exact h2 hu
  · exact Bool.false_ne_true (h3.symm.trans hi)

/-- What the router makes of a packet that it does not serve. -/
theorem route_cases {f : State → State} :
    (packetOk p = false → route p f s = roomBack (fabCount s 0 1) p) ∧
    (packetOk p = true → onV1 s p = true → v1Ok s p = false → route p f s = replyErr (roomBack (fabCount s 3 1) p) p 9) ∧
    (packetOk p = true → (onV1 s p = true → v1Ok s p = true) →
      (s.fab.device = none → route p f s = replyErr (roomBack s p) p 10) ∧
      (∀ own, s.fab.device = some own → p.target ≠ own → route p f s = forward s p)) := by
  refine ⟨fun h => if_pos (by rw [h]; rfl), fun h h1 h2 => (if_neg (by simp [h])).trans (if_pos (by rw [h1, h2]; rfl)), fun h hv => ?_⟩
  have fits : route p f s = match s.fab.device with
      | none => replyErr (roomBack s p) p rNoDevice
      | some own => if p.target ≠ own then forward s p else f (roomBack s p) :=
    (if_neg (by simp [h])).trans (if_neg (by simpa using hv))
  refine ⟨fun hd => ?_, fun own hd hne => ?_⟩
  · rw [fits, hd]; rfl
  · rw [fits, hd]
    exact if_pos hne

theorem forward_cases {known : Option Nat} (hk : known = if p.index = 0 then none else (s.fab.flows.find? fun f => f.1 = flowKey p).map (·.2)) :
    (p.hops = 0 → forward s p = roomBack (fabCount s 1 1) p) ∧
    (∀ port, p.hops ≠ 0 → known.or (pickPort s p.target (vcOf p.type)) = some port → forward s p = sendOn { s with fab := { s.fab with
      flows := (flowKey p, port) :: s.fab.flows.filter fun f => f.1 ≠ flowKey p } } port [{ p with hops := p.hops - 1 }]) ∧
    (p.hops ≠ 0 → known.or (pickPort s p.target (vcOf p.type)) = none → forward s p = replyErr (roomBack (fabCount s 4 1) p) p 8) := by
  subst hk
  refine ⟨fun h => if_pos h, fun port h hp => (if_neg h).trans ?_, fun h hp => (if_neg h).trans ?_⟩
  · dsimp only
    rw [hp]
  · dsimp only
    rw [hp]; rfl

/-- Every row of a packet type hands its packet to the router where no survey window holds its memory. -/
theorem packetRow_routes {c : Instr} (hc : (c, p.type) ∈ [(Instr.rdReq p, (0x01 : Byte)), (.wr p, 0x03), (.atReq p, 0x05), (.rdData p, 0x02),
      (.wrAck p, 0x04), (.atResp p, 0x06), (.msgPacket p, 0x07), (.msgAck p, 0x08), (.err p, 0x09), (.colData p, 0x20), (.colCredit p, 0x21),
      (.colResend p, 0x22), (.colCounts p, 0x23), (.colAbort p, 0x24), (.ringBlock p, 0x30), (.ringCredit p, 0x31), (.ringGrad p, 0x32),
      (.ringResend p, 0x33)])
    (hh : ∀ n, heldRequest s p n = false)
    (h : p.port < 36 → (nearAt (atPort s p) p.port).state = .up ∨ inIngress (atPort s p) p = true) :
    ∃ f, exec c s = .next (route p f (takeIngress (atPort s p) p)) := by
  have row (ty : Byte) (f : State → State) (ht : p.type = ty) : arrive ty p f s = .next (route p f (takeIngress (atPort s p) p)) :=
    ht ▸ arrive_routes h
  simp only [List.mem_cons, List.not_mem_nil, or_false, Prod.mk.injEq] at hc
  rcases hc with ⟨rfl, ht⟩ | ⟨rfl, ht⟩ | ⟨rfl, ht⟩ | hc
  · exact ⟨_, (arriveAt_free (hh _)).trans (row _ _ ht)⟩
  · exact ⟨_, (arriveAt_free (hh _)).trans (row _ _ ht)⟩
  · exact ⟨_, (arriveAt_free (hh _)).trans (row _ _ ht)⟩
  · rcases hc with ⟨rfl, ht⟩ | ⟨rfl, ht⟩ | ⟨rfl, ht⟩ | ⟨rfl, ht⟩ | ⟨rfl, ht⟩ | ⟨rfl, ht⟩ | ⟨rfl, ht⟩ | ⟨rfl, ht⟩ | ⟨rfl, ht⟩ | ⟨rfl, ht⟩ |
      ⟨rfl, ht⟩ | ⟨rfl, ht⟩ | ⟨rfl, ht⟩ | ⟨rfl, ht⟩ | ⟨rfl, ht⟩ <;> exact ⟨_, row _ _ ht⟩

/-- Settles O44: a request that may be served is served on the state without it, and any other packet goes as the router's cases say. -/
theorem requestsAreServed : Obligations.RequestsAreServed := by
  refine ⟨fun s p n hh => ⟨fun hn => ?_, fun hn => ?_, fun hn => ?_⟩, fun s p n t hn hh ha ht => ⟨fun h => ?_, fun h0 h1 => ⟨fun st hr => ?_, fun hr a u hau hu => ?_⟩⟩,
    fun s p t u e hh ha ht hu => ⟨fun hi hm => ?_, fun hi h0 h1 => ?_, fun hi he => ?_, fun hi he => ?_⟩,
    fun s p e w hw => ⟨writePacket_outside, fun h1 h2 => ⟨fun hlt => ?_, fun hle d ack crc hd hack hc => ?_⟩⟩,
    fun s p t hh ha ht => ⟨fun h => ?_, fun h1 h2 h3 => ?_⟩, fun s p t ha ht => ?_, fun s p c v hc hh hp hv => ?_,
    fun s p known hk => forward_cases hk⟩
  · subst hn; exact arriveAt_held hh
  · subst hn; exact arriveAt_held hh
  · subst hn; exact arriveAt_held hh
  · subst hn
    exact (arriveAt_serves hh ha ht).trans (congrArg _ (serveRead_malformed h))
  · have read := serveRead_sized (t := t) h0 h1 hn
    subst hn
    rw [hr] at read
    exact (arriveAt_serves hh ha ht).trans (congrArg _ read)
  · have row : exec (.rdReq p) s = .next (serveRead t p) := by subst hn; exact arriveAt_serves hh ha ht
    obtain ⟨plain, tagged, bad, badSeal⟩ := serveRead_admitted (t := t) h0 h1 hn hr hau hu
    exact ⟨fun hb hs => row.trans (congrArg _ (plain hb hs)), fun hb hs h2 => row.trans (congrArg _ (tagged hb hs h2)),
      fun v hv hb => row.trans (congrArg _ (bad v hv hb)), fun v hv hb hs h2 => row.trans (congrArg _ (badSeal v hv hb hs h2))⟩
  · exact (arriveAt_serves hh ha ht).trans (congrArg _ ((serveWrite_first hi hu).trans (if_pos (by simpa using hm))))
  · obtain ⟨refused, busy, opens⟩ := serveWrite_first_cases (e := e) hi hu h0 h1
    have row : exec (.wr p) s = .next (serveWrite t p) := arriveAt_serves hh ha ht
    exact ⟨fun st hr => row.trans (congrArg _ (refused st hr)), fun hr hf => row.trans (congrArg _ (busy hr hf)),
      fun hr hf he => row.trans (congrArg _ (opens hr hf he))⟩
  · exact (arriveAt_serves hh ha ht).trans (congrArg _ ((serveWrite_later hi).trans (by rw [he])))
  · exact (arriveAt_serves hh ha ht).trans (congrArg _ ((serveWrite_later hi).trans (by rw [he])))
  · exact (writePacket_inside hw h1 h2).trans (if_neg (Nat.not_le.mpr hlt))
  · rw [writePacket_inside hw h1 h2, if_pos hle]
    exact endWriteTx_cases (e := { e with got := e.got + p.payload.length, last := s.time }) hd hack hc
  · exact (arriveAt_serves hh ha ht).trans (congrArg _ (serveAtomic_malformed h))
  · have row : exec (.atReq p) s = .next (serveAtomic t p) := arriveAt_serves hh ha ht
    obtain ⟨refused, bad, done⟩ := serveAtomic_cases (t := t) h1 h2 h3
    exact ⟨fun st hr => row.trans (congrArg _ (refused st hr)), fun g u hr hb hu => row.trans (congrArg _ (bad g u hr hb hu)),
      fun old u hr hb ho => row.trans (congrArg _ (done old u hr hb ho))⟩
  · have row : exec (.msgPacket p) s = .next (serveMsg t p) := by subst ht; exact arrive_serves ha
    obtain ⟨malformed, stored, full⟩ := serveMsg_cases (t := t) (p := p)
    exact ⟨fun h => row.trans (congrArg _ (malformed h)), fun u h hd => row.trans (congrArg _ (stored u h hd)),
      fun h hd => row.trans (congrArg _ (full h hd))⟩
  · obtain ⟨f, row⟩ := packetRow_routes hc hh hp
    rw [← hv] at row
    obtain ⟨fails, barred, other⟩ := route_cases (s := v) (p := p) (f := f)
    refine ⟨fun h => row.trans (congrArg _ (fails h)), fun h h1 h2 => row.trans (congrArg _ (barred h h1 h2)), fun h hv1 => ?_⟩
    obtain ⟨numberless, passing⟩ := other h hv1
    exact ⟨fun hd => row.trans (congrArg _ (numberless hd)), fun own hd hne => row.trans (congrArg _ (passing own hd hne))⟩

end Sys2Proof.Machine
end

section
/-! SUPPORT. The messages of the commit tree and of the partner vault (16_resilience.md; R379 to R389). -/

namespace Sys2Proof.Machine

variable {s t u : State} {m : CommitMsg} {d n a : Nat} {b : List Byte}

theorem next_congr (h : t = u) : (.next t : Out) = .next u := congrArg _ h

/-! ### The engine and queue 63 (R379) -/

/-- The rows that take a message from queue 63. -/
def commitRows : List Instr := [.ready, .veto, .commit, .rollback, .ask, .vaultHello, .vaultAccept, .vaultRefuse]

/-- Each of those rows, with the KIND that it takes. -/
def commitKinds : List (Instr × Nat) :=
  [(.ready, 1), (.veto, 2), (.commit, 3), (.rollback, 4), (.ask, 5), (.vaultHello, 6), (.vaultAccept, 7), (.vaultRefuse, 8)]

theorem commitRow_takes {c : Instr} (h : c ∈ commitRows) (s : State) :
    ∃ kind f, (c, kind) ∈ commitKinds ∧ exec c s = .next (takeCommit s kind f) := by
  simp only [commitRows, List.mem_cons, List.not_mem_nil, or_false] at h
  rcases h with rfl | rfl | rfl | rfl | rfl | rfl | rfl | rfl
  · exact ⟨1, childReady, by simp [commitKinds], rfl⟩
  · exact ⟨2, childVeto, by simp [commitKinds], rfl⟩
  · exact ⟨3, parentDecides true, by simp [commitKinds], rfl⟩
  · exact ⟨4, parentDecides false, by simp [commitKinds], rfl⟩
  · exact ⟨5, askArrives, by simp [commitKinds], rfl⟩
  · exact ⟨6, vaultHello, by simp [commitKinds], rfl⟩
  · exact ⟨7, vaultAccept, by simp [commitKinds], rfl⟩
  · exact ⟨8, vaultRefuse, by simp [commitKinds], rfl⟩

variable {kind : Nat} {f : CommitMsg → State → State}

theorem takeCommit_empty (h : queueHead s 63 = none) : takeCommit s kind f = s := by
  unfold takeCommit; rw [h]

theorem takeCommit_junk (h : queueHead s 63 = some b) (hp : parseCommit b = none) : takeCommit s kind f =
    if ownsQueue s then resOf (dropHead s) (fun r => { r with junk := r.junk + 1 }) else s := by
  unfold takeCommit; rw [h]; dsimp only; rw [hp]

theorem takeCommit_message {x : Nat} (h : queueHead s 63 = some b) (hp : parseCommit b = some (x, m)) :
    takeCommit s kind f = if x = kind then f m (dropHead s) else s := by
  unfold takeCommit; rw [h]; dsimp only; rw [hp]

/-- A message of the row's KIND is taken. -/
theorem takeCommit_takes (h : queueHead s 63 = some b) (hp : parseCommit b = some (kind, m)) (ht : t = semTake s 0 0 (2048 + 1023) 1) :
    takeCommit s kind f = f m t := by
  rw [takeCommit_message h hp, if_pos rfl, ht]; rfl

/-! ### READY, VETO, COMMIT, ROLLBACK, ASK (R381, R382, R385) -/

section
variable (hd : d = m.sender) (hn : n = m.step) (ha : a = m.attempt)
include hd hn ha

theorem childReady_cases :
    (ownsQueue t = true → d ∈ confChildren t → t.res.readys.contains (d, n, a) = false →
      childReady m t = pumpReady (resOf t fun r => { r with readys := r.readys ++ [(d, n, a)] })) ∧
    (ownsQueue t = false ∨ d ∉ confChildren t ∨ t.res.readys.contains (d, n, a) = true → childReady m t = t) := by
  subst hd hn ha
  refine ⟨fun ho hc hr => if_pos ?_, fun h => if_neg ?_⟩
  · simp only [ho, hr, List.contains_iff_mem.mpr hc, Bool.not_false, Bool.and_self]
  · simp only [Bool.and_eq_true, List.contains_iff_mem, Bool.not_eq_true', not_and, Bool.not_eq_false]
    rintro ⟨ho, hc⟩
    rcases h with h | h | h
    · exact absurd (h.symm.trans ho) Bool.false_ne_true
    · exact absurd hc h
    · exact List.contains_iff_mem.mp h

theorem childVeto_cases :
    (∀ p, ownsQueue t = true → d ∈ confChildren t → confParent t = some p → childVeto m t = sendTree t p 2 n a) ∧
    (ownsQueue t = true → d ∈ confChildren t → confParent t = none →
      childVeto m t = if t.job.step = n ∧ attempt t = a then decide' t n a false else t) ∧
    (ownsQueue t = false ∨ d ∉ confChildren t → childVeto m t = t) := by
  subst hd hn ha
  have child (ho : ownsQueue t = true) (hc : m.sender ∈ confChildren t) : childVeto m t = veto' t m.step m.attempt :=
    if_pos (by rw [ho, List.contains_iff_mem.mpr hc]; rfl)
  refine ⟨fun p ho hc hp => (child ho hc).trans ?_, fun ho hc hp => (child ho hc).trans ?_, fun h => if_neg ?_⟩
  · unfold veto'; rw [hp]
  · unfold veto'; rw [hp]
    exact if_congr (by simp) rfl rfl
  · simp only [Bool.and_eq_true, List.contains_iff_mem, not_and]
    intro ho
    exact h.resolve_left fun hf => Bool.false_ne_true (hf.symm.trans ho)

theorem parentDecides_cases (commit : Bool) :
    (ownsQueue t = true → confParent t = some d → decisionOf t n a = none →
      parentDecides commit m t = applyDecision (spread (recordDecision t n a commit) n a commit) n a commit) ∧
    (ownsQueue t = false ∨ confParent t ≠ some d ∨ decisionOf t n a ≠ none → parentDecides commit m t = t) := by
  subst hd hn ha
  refine ⟨fun ho hp hx => (if_pos (by simp [ho, hp])).trans (if_neg (by simp [hx])), fun h => ?_⟩
  by_cases hp : (ownsQueue t && confParent t = some m.sender) = true
  · refine (if_pos hp).trans (if_pos ?_)
    simp only [Bool.and_eq_true, decide_eq_true_eq] at hp
    obtain ⟨ho, hs⟩ := hp
    rcases h with h | h | h
    · exact absurd (h.symm.trans ho) Bool.false_ne_true
    · exact absurd hs h
    · exact Option.isSome_iff_ne_none.mpr h
  · exact if_neg hp

omit hd hn ha in
theorem applyDecision_commit : applyDecision t n a true = applyCommit t n a := if_pos rfl

omit hd hn ha in
theorem applyDecision_rollback : applyDecision t n a false = applyRollback t n a := if_neg Bool.false_ne_true

theorem askArrives_cases :
    (ownsQueue t = false → askArrives m t = t) ∧
    (∀ x, ownsQueue t = true → decisionOf t n a = some x → askArrives m t = sendTree t d (if x = true then 3 else 4) n a) ∧
    (∀ u, ownsQueue t = true → decisionOf t n a = none →
      u = resOf t (fun r => { r with asks := (d, n, a) :: r.asks.filter fun y => y ≠ (d, n, a) }) →
      (∀ p, confParent u = some p → askArrives m t = sendTree u p 5 n a) ∧ (confParent u = none → askArrives m t = u)) := by
  subst hd hn ha
  refine ⟨fun ho => if_pos (by rw [ho]; rfl), fun x ho hx => (if_neg (by simp [ho])).trans ?_, fun u ho hx hu => ?_⟩
  · rw [hx]; rfl
  · have asked : askArrives m t = match confParent u with
        | some p => sendTree u p 5 m.step m.attempt
        | none => u := by
      refine (if_neg (by simp [ho])).trans ?_
      rw [hx, hu] <;> rfl
    exact ⟨fun p hp => by rw [asked, hp], fun hp => by rw [asked, hp]⟩

end

/-! ### The partner vault's messages (R387 to R389) -/

theorem vaultHello_cases (hd : d = m.sender) (hn : n = m.step) :
    (∀ f, t.fab.topo = some f → f.partner = some d → m.feed ≠ f.feed ∨ bit f.flags 1 = true → vaultHello m t =
      sendRes t d 7 (commitBytes t 7 (attempt t) n f.feed (stepOrNone (heldFor t d 0)) (stepOrNone (heldFor t d 1)))) ∧
    ((∀ f, t.fab.topo = some f → f.partner = some d → m.feed = f.feed ∧ bit f.flags 1 = false) →
      vaultHello m t = sendRes t d 8 (commitBytes t 8 (attempt t) n 0 0 0)) := by
  subst hd hn
  refine ⟨fun f hf hp h => ?_, fun h => ?_⟩
  · unfold vaultHello
    dsimp only
    rw [hf]
    exact if_pos (by simpa [hp] using h)
  · unfold vaultHello
    dsimp only
    cases hf : t.fab.topo with
    | none => rfl
    | some f =>
      refine if_neg ?_
      simp only [Bool.and_eq_true, decide_eq_true_eq, Bool.or_eq_true, not_and]
      intro hp
      obtain ⟨h1, h2⟩ := h f hf hp
      simp [h1, h2]

theorem vaultAccept_accepted {c e : VaultCopy} (hd : d = m.sender) (hc : t.res.copy = some c) (hp : partner t = some d)
    (ha : c.accepted = false) (hn : m.step = c.step) (he : e = ⟨c.step, true, slotField m.slot0, slotField m.slot1, c.start⟩)
    (hu : u = resOf t (fun r => { r with
      copy := some e
      vault0 := if c.step % 2 = 0 then none else slotField m.slot0
      vault1 := if c.step % 2 = 1 then none else slotField m.slot1 })) : vaultAccept m t =
      if readsFail u (copyReads u e) then pumpReady (copyFails (readRecords (vaultWrite u d e 0 0 (zeros 4096)) (copyReads u e)))
      else copySettles u (copyWrites u d e) := by
  subst hu he hd
  unfold vaultAccept
  rw [hc]
  exact if_pos (by simp [hp, ha, hn])

theorem vaultAccept_nothing (hd : d = m.sender) (hn : n = m.step)
    (h : ∀ c, t.res.copy = some c → partner t ≠ some d ∨ c.accepted = true ∨ n ≠ c.step) : vaultAccept m t = t := by
  subst hd hn
  unfold vaultAccept
  cases hc : t.res.copy with
  | none => rfl
  | some c =>
    refine if_neg ?_
    rcases h c hc with h | h | h <;> simp [h]

theorem vaultCopyEnd_cases : (s.res.copy = none → vaultCopyEnd s = s) ∧ ∀ c, s.res.copy = some c →
    (c.accepted = false ∨ copyWaits s c.step = true → vaultCopyEnd s = s) ∧
    (∀ u, u = vaultWrite s ((partner s).getD 0) c 2 0 (readRun (copyImage s c) 0 4096) → c.accepted = true → copyWaits s c.step = false →
      vaultCopyEnd s = if u.fab.txs.any fun x => x.owner = .vault c.step 2 then vaultDone u c
        else pumpReady (resOf u fun r => { r with copy := none })) := by
  refine ⟨fun h => by unfold vaultCopyEnd; rw [h], fun c hc => ⟨fun h => ?_, fun u hu ha hw => ?_⟩⟩
  · unfold vaultCopyEnd; rw [hc]
    refine if_pos ?_
    rcases h with h | h <;> simp [h]
  · unfold vaultCopyEnd; rw [hc, hu]
    exact if_neg (by simp [ha, hw])

/-- A set that changed, or any set where the slot holds no image of two steps before, is among the parts that a copy writes (R388). -/
theorem copyParts_mem {c : VaultCopy} {conf : ResConf} (hc : s.res.conf = some conf) {p : WSet × ImgSet}
    (hp : p ∈ conf.sets.zip (placeSets conf.sets imgData 0))
    (h : setChanged s p.1 = true ∨ ∀ n, c.target = some n → n + 2 ≠ c.step) : (p.2.off, p.2.len) ∈ copyParts s c := by
  simp only [copyParts, hc, Option.elim_some]
  refine List.mem_append_left _ (List.mem_map.mpr ⟨p, List.mem_filter.mpr ⟨hp, ?_⟩, rfl⟩)
  rcases h with h | h
  · rw [h, Bool.or_true]
  · have fresh : c.target.any (fun n => n + 2 = c.step) = false := by
      cases ht : c.target with
      | none => rfl
      | some n => simpa using h n ht
    rw [fresh]; rfl

/-! ### The stall limit (R385) -/

theorem commitStall_nothing (h : s.res.ready = none ∨ s.res.conf = none) : commitStall s = s := by
  unfold commitStall
  split
  · next hr hc => rcases h with h | h <;> simp_all
  · rfl

theorem commitStall_asks {c : ResConf} (hr : s.res.ready = some (n, a)) (hc : s.res.conf = some c)
    (ht : t = advance s (s.res.asked + c.limitMs * 1000000))
    (hu : u = resOf (if t.res.stalled then t else event t 2 0) (fun r => { r with
      stalled := true, asked := (if t.res.stalled then t else event t 2 0).time })) :
    commitStall s = c.parent.elim u fun p => sendTree u p 5 n a := by
  unfold commitStall
  rw [hr, hc]
  dsimp only
  rw [← ht, ← hu]
  cases c.parent <;> rfl

/-- Settles O54: the head of queue 63 decides which row takes it, and each row's message is handled by its own case analysis. -/
theorem commitTreeDecides : Obligations.CommitTreeDecides := by
  refine ⟨fun s c hq hc => ?_, fun s b c t hq ht hc hp => ?_, fun s b t k m c hq ht hp hk hc => ?_,
    fun s b t m k d n a hq ht hp hd hn ha => ⟨fun hk => ?_, fun hk => ?_, fun e he => ?_, fun hk => ?_, fun hk => ?_, fun hk => ?_, fun hk => ?_⟩,
    fun s n a c t u hr hc ht hu => next_congr (commitStall_asks hr hc ht hu), fun s h => next_congr (commitStall_nothing h), fun s => ?_,
    fun s c conf hc p hp h => copyParts_mem hc hp h⟩
  · obtain ⟨kind, f, -, row⟩ := commitRow_takes hc s
    rw [row, takeCommit_empty hq]
  · obtain ⟨kind, f, -, row⟩ := commitRow_takes hc s
    rw [row, takeCommit_junk hq hp, ht]; rfl
  · obtain ⟨kind, f, hmem, row⟩ := commitRow_takes hc s
    rw [row, takeCommit_message hq hp, if_neg]
    rintro rfl
    exact hk hmem
  · subst hk
    have row : exec .ready s = .next (childReady m t) := next_congr (takeCommit_takes hq hp ht)
    obtain ⟨first, other⟩ := childReady_cases (t := t) hd hn ha
    exact ⟨fun h1 h2 h3 => row.trans (next_congr (first h1 h2 h3)), fun h => row.trans (next_congr (other h))⟩
  · subst hk
    have row : exec .veto s = .next (childVeto m t) := next_congr (takeCommit_takes hq hp ht)
    obtain ⟨up, root, other⟩ := childVeto_cases (t := t) hd hn ha
    exact ⟨fun p h1 h2 h3 => row.trans (next_congr (up p h1 h2 h3)), fun h1 h2 h3 => row.trans (next_congr (root h1 h2 h3)),
      fun h => row.trans (next_congr (other h))⟩
  · rcases he with ⟨rfl, rfl⟩ | ⟨rfl, rfl⟩
    · have row : exec .commit s = .next (parentDecides true m t) := next_congr (takeCommit_takes hq hp ht)
      obtain ⟨decides, other⟩ := parentDecides_cases (t := t) hd hn ha true
      rw [applyDecision_commit] at decides
      rw [if_pos rfl]
      exact ⟨fun h1 h2 h3 => row.trans (next_congr (decides h1 h2 h3)), fun h => row.trans (next_congr (other h))⟩
    · have row : exec .rollback s = .next (parentDecides false m t) := next_congr (takeCommit_takes hq hp ht)
      obtain ⟨decides, other⟩ := parentDecides_cases (t := t) hd hn ha false
      rw [applyDecision_rollback] at decides
      rw [if_neg (by decide)]
      exact ⟨fun h1 h2 h3 => row.trans (next_congr (decides h1 h2 h3)), fun h => row.trans (next_congr (other h))⟩
  · subst hk
    have row : exec .ask s = .next (askArrives m t) := next_congr (takeCommit_takes hq hp ht)
    obtain ⟨foreign, answered, held⟩ := askArrives_cases (t := t) hd hn ha
    refine ⟨fun h => row.trans (next_congr (foreign h)), fun x h1 h2 => row.trans (next_congr (answered x h1 h2)), fun u h1 h2 hu => ?_⟩
    obtain ⟨on, root⟩ := held u h1 h2 hu
    exact ⟨fun p h => row.trans (next_congr (on p h)), fun h => row.trans (next_congr (root h))⟩
  · subst hk
    have row : exec .vaultHello s = .next (vaultHello m t) := next_congr (takeCommit_takes hq hp ht)
    obtain ⟨accepts, refuses⟩ := vaultHello_cases (t := t) hd hn
    exact ⟨fun f h1 h2 h3 => row.trans (next_congr (accepts f h1 h2 h3)), fun h => row.trans (next_congr (refuses h))⟩
  · subst hk
    have row : exec .vaultAccept s = .next (vaultAccept m t) := next_congr (takeCommit_takes hq hp ht)
    refine ⟨fun c h1 h2 h3 h4 e u he hu => ?_, fun h => row.trans (next_congr (vaultAccept_nothing hd hn h))⟩
    rw [row, vaultAccept_accepted hd h1 h2 h3 (hn ▸ h4) he hu]
    exact ⟨fun hf => by rw [if_neg (by rw [hf]; exact Bool.false_ne_true)], fun hf => by rw [if_pos hf]⟩
  · subst hk hd
    refine next_congr ((takeCommit_takes hq hp ht).trans (if_congr ?_ rfl rfl))
    simp [Option.isSome_iff_ne_none]
  · obtain ⟨none, copying⟩ := vaultCopyEnd_cases (s := s)
    refine ⟨fun h => next_congr (none h), fun c hc => ?_⟩
    obtain ⟨waits, ends⟩ := copying c hc
    refine ⟨fun h => next_congr (waits h), fun u hu ha hw => ?_⟩
    have row : exec .vaultCopyEnd s = .next _ := next_congr (ends u hu ha hw)
    rw [row]
    exact ⟨fun h => by rw [if_pos h]; rfl, fun h => by rw [if_neg (by rw [h]; exact Bool.false_ne_true)]⟩

end Sys2Proof.Machine
end

section
/-! SUPPORT. The resilience commands, flash snapshots, restores and Lantern (16_resilience.md; R391 to R413). -/

namespace Sys2Proof.Machine

variable {s t : State} {mb n : Nat} {tag : DWord} {c : Cmd} {b : List Byte} {nand : NandRead}

/-- Not a malformed command of R36. -/
theorem clean_not_malformed {m0 m1 : Nat} {p : Bool} (hc : clean c m0 m1 p = true) : ¬ (!clean c m0 m1 p) = true := by simp [hc]

/-- Nor one whose payload has another length. -/
theorem clean_length_not_malformed {m0 m1 : Nat} {p : Bool} {k : Nat} (hc : clean c m0 m1 p = true) (hl : c.payload.length = k) :
    ¬ (!clean c m0 m1 p || decide (c.payload.length ≠ k)) = true := by simp [hc, hl]

/-! ### RES_CONFIG, DATA_POS (R391, R413) -/

theorem resConfigBody_stores (hc : clean c 0 0 true = true) (hj : jobIn s [.loaded, .stopped, .held] = true)
    (hok : firstBad (confChecks s c.payload) = none) :
    resConfigBody mb c s = finish (resOf s fun r => { r with conf := some (parseConf c.payload) }) mb c 0 := by
  refine (if_neg (clean_not_malformed hc)).trans ((if_neg (by simp [hj])).trans ?_)
  rw [hok]

theorem dataPosBody_stores (hn : n = c.arg0.toNat) (hc : clean c step48 all64 false = true) (hk : ∀ k, s.res.committed = some k → k < n)
    (h4 : (s.res.dataPos.filter fun d => d.1 ≠ n).length < 4) : dataPosBody mb c s =
      finish (resOf s fun r => { r with dataPos := (n, c.arg1) :: s.res.dataPos.filter fun d => d.1 ≠ n }) mb c 0 := by
  subst hn
  have uncommitted : ¬ s.res.committed.any (c.arg0.toNat ≤ ·) = true := by
    rw [Option.any_eq_true]
    rintro ⟨k, hs, hle⟩
    exact absurd (hk k hs) (Nat.not_lt.mpr (of_decide_eq_true hle))
  exact (if_neg (clean_not_malformed hc)).trans ((if_neg uncommitted).trans (if_neg (Nat.not_le.mpr h4)))

/-! ### Flash snapshots (R395 to R400) -/

theorem snapTakeBody_waits (hc : clean c 0 0 false = true) (hn : s.res.committed = some n) (hw : hasSets s = true) :
    snapTakeBody mb c s =
      resOf (markStarted s mb c.tag []) fun r => { r with waiting := r.waiting ++ [⟨3, n, 0, 0, some (mb, c.tag)⟩] } := by
  refine (if_neg (clean_not_malformed hc)).trans ?_
  rw [hn]
  exact if_neg (by simp [hw])

theorem snapDropBody_frees {x : SnapSlot} (hc : clean c 0x3F 0 false = true) (hx : validSlot s c.arg0.toNat = some x) :
    snapDropBody mb c s = finish (resOf s fun r => { r with slots := r.slots.set c.arg0.toNat ⟨0, 0, 0, 0, 0, []⟩ }) mb c 0 :=
  (if_neg (clean_not_malformed hc)).trans (if_neg (by simp [hx]))

theorem snapExportBody_writes {x : SnapSlot} {w o a : Nat} {img : Mem} (hw : w = bits c.arg1.toNat 63 60) (ho : o = bits c.arg1.toNat 47 0)
    (hc : clean c 0x3F 0xF000FFFFFFFFFFFF false = true) (hx : validSlot s c.arg0.toNat = some x) (hn : n = imageLen x.image)
    (hin : windowHolds s w o n = true) (ha : a = windowAddr s w o) (hi : (img, t) = flashImage (nandCount s nand) x.image nand.unreadable) :
    snapExportBody nand mb c s =
      finish { t with host := { t.host with mem := pasteCells t.host.mem a n (cutCells img 0 n a) } } mb c 0 := by
  subst hw ho hn ha
  unfold snapExportBody
  dsimp only
  rw [if_neg (clean_not_malformed hc), hx]
  dsimp only
  rw [if_neg (by simp [hin]), ← hi]

/-- SNAPSHOT_START (R395, R396): nothing to start, or the snapshot that is due starts or ends with a failure. -/
theorem snapshotStart_nothing (h : s.res.snap.isSome = true ∨ s.res.waiting.findIdx? (fun x => s.res.committed.any (x.step ≤ ·)) = none) :
    snapshotStart s = s := by
  unfold snapshotStart
  dsimp only
  rcases h with h | h
  · obtain ⟨x, hx⟩ := Option.isSome_iff_exists.mp h
    rw [hx]
  · rw [h]
    cases s.res.snap <;> rfl

theorem snapshotStart_due {i : Nat} {x : SnapRun} (hs : s.res.snap = none)
    (hi : s.res.waiting.findIdx? (fun x => s.res.committed.any (x.step ≤ ·)) = some i) (hx : s.res.waiting[i]? = some x)
    (ht : t = resOf s fun r => { r with waiting := r.waiting.eraseIdx i }) : snapshotStart s = startSnap t x := by
  unfold snapshotStart
  dsimp only
  rw [hs, hi]
  dsimp only
  rw [hx, ht]

theorem startSnap_cases {x : SnapRun} :
    (sideHolds t x.step = false → startSnap t x = endTake (event t 8 0xFF) x 0x070B) ∧
    (sideHolds t x.step = true → pickSlot t = none → startSnap t x = endTake (event t 8 0xFF) x 0x0703) ∧
    ∀ k, sideHolds t x.step = true → pickSlot t = some k → startSnap t x = resOf t fun r => { r with
      snap := some { x with slot := k, start := t.time }, slots := r.slots.modify k fun _ => ⟨1, 0, 0, 0, 0, []⟩ } := by
  refine ⟨fun h => if_pos (by simp [h]), fun h hp => (if_neg (by simp [h])).trans ?_, fun k h hp => (if_neg (by simp [h])).trans ?_⟩
  · rw [hp]
  · rw [hp]

/-- SNAPSHOT_COMMIT (R397). -/
theorem snapshotCommit_nothing (h : s.res.snap = none) : snapshotCommit s = s := by unfold snapshotCommit; rw [h]

theorem snapshotCommit_cases {x : SnapRun} (hx : s.res.snap = some x) :
    (readsFail s (snapReads s x.step) = true → snapshotCommit s = abandonSnap (readRecords s (snapReads s x.step))) ∧
    ∀ pos seed gen img, readsFail s (snapReads s x.step) = false → recordedAt s x.step = (pos, seed, gen) →
      img = buildImage s (s.res.conf.elim [] (·.sets)) ⟨x.step, pos, seed, gen, x.kind, x.start⟩ →
      snapshotCommit s = endTake (event (resOf s fun r => { r with
        snap := none, slots := r.slots.set x.slot ⟨2, x.kind, x.step, pos, s.time, img⟩ }) 7 x.slot) x 0 := by
  unfold snapshotCommit
  rw [hx]
  refine ⟨fun h => if_pos h, fun pos seed gen img h hr hi => (if_neg (by simp [h])).trans ?_⟩
  subst hi
  rw [hr]

/-! ### RESTORE (R401 to R405) -/

/-- A RESTORE whose vault read is not under way starts like any command. -/
theorem execRestore_starts {c : Cmd} (h : Starts s mb tag 7 8 c) (hr : ∀ r, s.res.reading = some r → r.mb ≠ mb ∨ r.tag ≠ tag) {t : State}
    (hb : restoreBody nand mb c s = t) : exec (.restore mb tag nand) s = .next t := by
  have other : s.res.reading.filter (fun r => r.mb = mb && r.tag = tag) = none := by
    rw [Option.filter_eq_none_iff]
    intro r hs
    rcases hr r hs with h | h <;> simp [h]
  have row : execRestore mb tag nand s = mbCommand mb tag 7 8 (restoreBody nand mb) s := by
    unfold execRestore
    rw [other]
  exact row.trans (h.answers hb)

/-- The command whose vault read is under way goes on with it (R402). -/
theorem execRestore_reads {r : VaultRead} (hm : mb < 16) (hr : s.res.reading = some r) (h1 : r.mb = mb) (h2 : r.tag = tag)
    (hc : findCmd s mb tag = some c) : execRestore mb tag nand s = .next (vaultReadGoes s c r) := by
  have own : s.res.reading.filter (fun r => r.mb = mb && r.tag = tag) = some r := by
    rw [hr]
    simp [h1, h2]
  unfold execRestore
  rw [own, hc]
  exact onUnit_exists hm _

/-- While one RESTORE reads the vault another waits (log 134). -/
theorem restoreBody_waits (h : s.res.reading.isSome = true) : restoreBody nand mb c s = s := if_pos h

/-- A RESTORE that passes its first checks goes on by its source. -/
theorem restoreBody_source (hb : b = c.payload) (hr : s.res.reading = none) (hc : clean c 0 0 true = true) (hl : b.length = 64)
    (hok : firstBad (restoreChecks b) = none) (hj : jobIn s [.loaded, .stopped, .held] = true) (hf : s.res.conf.isSome = true) :
    restoreBody nand mb c s = match field b 0 1 with
      | 0 => (ownStop s b).elim (finish (restored s b (recordedAt s (field b 8 8))) mb c 0) (restoreStops s mb c)
      | 1 => startVaultRead s mb c
      | _ => restoreFrom nand mb c s := by
  subst hb
  unfold restoreBody
  dsimp only
  rw [if_neg (by simp [hr]), if_neg (clean_length_not_malformed hc hl), hok]
  dsimp only
  exact (if_neg (by simp [hj, Option.isSome_iff_ne_none.mp hf])).trans (by rfl)

theorem restoreFrom_unnamed (hb : b = c.payload) (h : restoreImage s b = none) :
    restoreFrom nand mb c s = restoreStops (restoreLost s) mb c (0x0709, 0, 0) := by
  subst hb
  unfold restoreFrom
  dsimp only
  rw [h] <;> rfl

theorem restoreFrom_image {img : Mem} {r : NandRead} (hb : b = c.payload) (h : restoreImage s b = some img) (hr : r = flashRead s b nand)
    (ht : t = nandCount s r) :
    (imageStop t b img r.unreadable = none → restoreFrom nand mb c s = restoreEnds t mb c img) ∧
    ∀ x, imageStop t b img r.unreadable = some x →
      restoreFrom nand mb c s = restoreStops (restoreLost (tornAt t b r.unreadable x)) mb c x := by
  subst hb ht hr
  unfold restoreFrom
  dsimp only
  rw [h]
  dsimp only
  refine ⟨fun hs => ?_, fun x hs => ?_⟩ <;> rw [hs]

/-- RESTORE by its four sources (R401 to R405). -/
theorem restoreBody_cases (hb : b = c.payload) (hr : s.res.reading = none) (hc : clean c 0 0 true = true) (hl : b.length = 64)
    (hok : firstBad (restoreChecks b) = none) (hj : jobIn s [.loaded, .stopped, .held] = true) (hf : s.res.conf.isSome = true) :
    (field b 0 1 = 0 → ownStop s b = none →
      restoreBody nand mb c s = finish (restored s b (recordedAt s (field b 8 8))) mb c 0) ∧
    (∀ x, field b 0 1 = 0 → ownStop s b = some x → restoreBody nand mb c s = restoreStops s mb c x) ∧
    (field b 0 1 = 1 → restoreBody nand mb c s = startVaultRead s mb c) ∧
    (2 ≤ field b 0 1 → restoreBody nand mb c s = restoreFrom nand mb c s) := by
  rw [restoreBody_source hb hr hc hl hok hj hf]
  refine ⟨fun h ho => ?_, fun x h ho => ?_, fun h => ?_, fun h => ?_⟩
  · rw [h, ho]; rfl
  · rw [h, ho]; rfl
  · rw [h] <;> rfl
  · split
    · omega
    · omega
    · rfl

theorem startVaultRead_cases (hb : b = c.payload) :
    (partner s = none → startVaultRead s mb c = restoreStops (restoreLost s) mb c (0x0709, 0, 0)) ∧
    ∀ p, partner s = some p → startVaultRead s mb c =
      readNext (setReading (markStarted s mb c.tag []) (some ⟨mb, c.tag, p, field b 8 8 % 2, [], [(0, imgData)], 0⟩)) := by
  subst hb
  unfold startVaultRead
  refine ⟨fun h => ?_, fun p h => ?_⟩
  · rw [h]; rfl
  · rw [h]

/-! ### Lantern and hot spares (R406 to R410) -/

theorem lanternConfigBody_stores (hc : clean c 0 0 true = true) (hl : c.payload.length = 64) (hok : firstBad (lanternChecks c.payload) = none) :
    lanternConfigBody mb c s = finish (resOf s fun r => { r with
      bias := field c.payload 0 2, weights := (List.range 15).map fun k => field c.payload (4 * k + 4) 2
      caps := (List.range 15).map fun k => field c.payload (4 * k + 6) 2 }) mb c 0 := by
  refine (if_neg (clean_length_not_malformed hc hl)).trans ?_
  rw [hok]

theorem takeoverBody_gives_up (hc : clean c 0x1FFFFF 0 false = true) (hj : jobIn s [.idle, .loaded] = true)
    (hd : sameCell s c.arg0.toNat = true) : takeoverBody mb c s = finish (takeOver s c.arg0.toNat) mb c 0 :=
  (if_neg (clean_not_malformed hc)).trans (if_neg (by simp [hj, hd]))

theorem peerSwapBody_swaps (hc : clean c 0x1FFFFF 0x1FFFFF false = true) (hj : s.job.phase ≠ .idle) :
    peerSwapBody mb c s = finish (peerSwap s c.arg0.toNat c.arg1.toNat) mb c 0 :=
  (if_neg (clean_not_malformed hc)).trans (if_neg (by simp [jobIn, hj]))

/-- An evaluation stores its score and takes the state that R407 gives. The definition is put in for the function and not for its value at `s`:
there the kernel would count the clock's 100,000,000 ns in unary. -/
theorem lanternEvaluate_scores {u : State} {st : Nat} (ht : t = advance s (s.res.evalAt + 100000000)) (hst : st = lanternOf (lanternScore t))
    (hu : u = resOf t fun r => { r with
      score := lanternScore t, evalAt := t.time, lossAt := (t.time, (farTotals t).1, (farTotals t).2) :: (r.lossAt.take 700)
      below := if lanternScore t < lanternLimit r.lantern then r.below + 1 else 0 }) :
    lanternEvaluate s = if u.res.lantern < st ∨ (10 ≤ u.res.below ∧ st < u.res.lantern) then enterLantern u st else u := by
  have body : lanternEvaluate = lanternEvaluate := rfl
  conv at body => rhs; delta lanternEvaluate
  rw [body]
  beta_reduce
  rw [← ht]
  clear body ht
  subst hu hst
  exact if_congr (by simp) rfl rfl

/-- Settles O56: each command's body under its conditions; a RESTORE by its four sources, and by whether its vault read is under way. -/
theorem resilienceCommandsComplete : Obligations.ResilienceCommandsComplete := by
  unfold Obligations.ResilienceCommandsComplete
  refine ⟨fun s mb tag c => ⟨fun h hc hj hok => h.answers (resConfigBody_stores hc hj hok), fun h hc => h.answers (if_neg (clean_not_malformed hc)),
      fun n hn h hc hk h4 => h.answers (dataPosBody_stores hn hc hk h4), fun n h hc hn hw => h.answers (snapTakeBody_waits hc hn hw),
      fun h hc => h.answers (if_neg (clean_not_malformed hc)), fun x h hc hx => h.answers (snapDropBody_frees hc hx),
      fun x w o a n nand img t hw ho h hc hx hn hin ha hi => h.answers (snapExportBody_writes hw ho hc hx hn hin ha hi),
      fun nand b hb h hr => ⟨fun hs => execRestore_starts h hr (restoreBody_waits hs), fun hn hc hl hok hj hf => ?_⟩,
      fun nand r hm hr h1 h2 hc => execRestore_reads hm hr h1 h2 hc,
      fun h hc hl hok => h.answers (lanternConfigBody_stores hc hl hok), fun h hc hj hd => h.answers (takeoverBody_gives_up hc hj hd),
      fun h hc hj => h.answers (peerSwapBody_swaps hc hj)⟩,
    fun s c img mb t ht => by subst ht; rfl, fun s => ⟨fun h => next_congr (snapshotStart_nothing h), fun i x t hs hi hx ht => ?_⟩,
    fun s => ⟨fun h => next_congr (snapshotCommit_nothing h), fun x hx => ?_⟩,
    fun s t u st ht hst hu => next_congr (lanternEvaluate_scores ht hst hu)⟩
  · obtain ⟨own, stops, vault, image⟩ := restoreBody_cases (mb := mb) (nand := nand) hb hn hc hl hok hj hf
    obtain ⟨lonely, reads⟩ := startVaultRead_cases (s := s) (mb := mb) hb
    refine ⟨fun h0 ho => execRestore_starts h hr (own h0 ho), fun x h0 ho => execRestore_starts h hr (stops x h0 ho),
      fun h1 hp => execRestore_starts h hr ((vault h1).trans (lonely hp)), fun p h1 hp => execRestore_starts h hr ((vault h1).trans (reads p hp)),
      fun h2 hi => execRestore_starts h hr ((image h2).trans (restoreFrom_unnamed hb hi)), fun img r t h2 hi hrd ht => ?_⟩
    obtain ⟨ends, fails⟩ := restoreFrom_image (mb := mb) hb hi hrd ht
    exact ⟨fun hs => execRestore_starts h hr ((image h2).trans (ends hs)), fun x hs => execRestore_starts h hr ((image h2).trans (fails x hs))⟩
  · have row : exec .snapshotStart s = .next (startSnap t x) := next_congr (snapshotStart_due hs hi hx ht)
    obtain ⟨lost, full, starts⟩ := startSnap_cases (t := t) (x := x)
    exact ⟨fun h => row.trans (next_congr (lost h)), fun h hp => row.trans (next_congr (full h hp)),
      fun k h hp => row.trans (next_congr (starts k h hp))⟩
  · obtain ⟨unread, commits⟩ := snapshotCommit_cases hx
    exact ⟨fun h => next_congr (unread h), fun pos seed gen img h hr hi => next_congr (commits pos seed gen img h hr hi)⟩

end Sys2Proof.Machine
end

section
/-! SUPPORT. The packets of collective operations and rings (14_collectives_meridian.md; R336 to R352). -/

namespace Sys2Proof.Machine

variable {s t u : State} {p : Packet} {o : OpCtx} {r : CollRun} {q item : Nat}

/-! ### What a packet without an operation does (R342) -/

theorem colData_stale (h : runOf t p = none) : colData t p = stale t := by unfold colData; rw [h]

theorem colCredit_stale (h : runOf t p = none) : colCredit t p = stale t := by unfold colCredit; rw [h]; rfl

theorem colResend_stale (h : runOf t p = none) : colResend t p = stale t := by unfold colResend; rw [h]

theorem colCounts_stale (h : runOf t p = none) : colCounts t p = stale t := by unfold colCounts; rw [h]

theorem colAbort_stale (h : runOf t p = none) : colAbort t p = stale t := by unfold colAbort; rw [h]; rfl

/-! ### COL_DATA (R336, R337, R342) -/

theorem colData_unexpected (h : runOf t p = some (o, r)) (hq : q = p.spec3.toNat) (hi : item = p.addr % 2 ^ 32)
    (he : itemExpected t o r q item = false) : colData t p = stale t := by
  subst hq hi
  unfold colData
  rw [h]
  exact if_pos (by rw [he]; rfl)

/-- A packet of a tile that is expected: passed over out of order, kept, or the one that makes the tile whole. -/
theorem colData_expected {idx : Nat} {bs : List Byte} {rest : List (Nat × Nat × Nat × List Byte)} (h : runOf t p = some (o, r))
    (hq : q = p.spec3.toNat) (hi : item = p.addr % 2 ^ 32) (he : itemExpected t o r q item = true)
    (hp : (idx, bs) = (if p.index = 0 then (0, []) else (r.parts.find? fun x => x.1 = q && x.2.1 = item).elim (0, []) (·.2.2)))
    (hr : rest = r.parts.filter (fun x => !(x.1 = q && x.2.1 = item))) :
    (p.index.toNat ≠ idx → colData t p = t) ∧
    (p.index.toNat = idx → bs.length + p.payload.length < Shape.bytes (expectShape o p) → colData t p =
      setRun t o.h fun r => { r with parts := (q, item, idx + 1, bs ++ p.payload) :: rest }) ∧
    (p.index.toNat = idx → Shape.bytes (expectShape o p) ≤ bs.length + p.payload.length → u = setRun t o.h (fun r => { r with parts := rest }) →
      colData t p = tileWhole u o r p (bs ++ p.payload)) := by
  subst hq hi
  have known : colData t p = if p.index.toNat ≠ idx then t else
      let whole := Shape.bytes (expectShape o p) ≤ (bs ++ p.payload).length
      let s := setRun t o.h fun r' => { r' with parts := if whole then rest else (p.spec3.toNat, p.addr % 2 ^ 32, idx + 1, bs ++ p.payload) :: rest }
      if whole then tileWhole s o r p (bs ++ p.payload) else s := by
    unfold colData
    rw [h]
    dsimp only
    rw [if_neg (by rw [he]; exact Bool.false_ne_true), ← hp, hr]
  rw [known]
  refine ⟨fun hx => if_pos hx, fun hx hl => (if_neg (not_not.mpr hx)).trans ?_, fun hx hl hu => (if_neg (not_not.mpr hx)).trans ?_⟩
  · rw [← List.length_append, ← Nat.not_le] at hl
    simp only [hl, if_false]
  · rw [← List.length_append] at hl
    simp only [hl, if_true, hu]

/-! ### COL_CREDIT, COL_RESEND, COL_COUNTS, COL_ABORT (R339 to R345) -/

theorem colCredit_cases (h : runOf t p = some (o, r)) (hq : q = p.spec3.toNat) (hi : item = p.addr % 2 ^ 32) :
    (o.receivers.contains q = false → colCredit t p = stale t) ∧
    (o.receivers.contains q = true → colCredit t p = pumpRun (setRun (setMate t o.h q fun m => { m with limit := max m.limit p.spec0.toNat }) o.h
      fun r => { r with out := r.out.filter fun x => !(x.rcv = q && x.place.any (· < item)) }) o.h) := by
  subst hq hi
  unfold colCredit
  rw [h]
  refine ⟨fun hr => ?_, fun hr => ?_⟩ <;> rw [Option.filter_some, hr] <;> rfl

theorem colResend_cases {x : Outgo} (h : runOf t p = some (o, r)) (hq : q = p.spec3.toNat) (hi : item = p.addr % 2 ^ 32)
    (hx : (r.out.filter fun x => x.rcv = q && x.item = item && x.place.isSome).getLast? = some x) :
    (sendTile t 0x20 (o.dev x.rcv) o.rank o.h x = some u → colResend t p = u) ∧
    (sendTile t 0x20 (o.dev x.rcv) o.rank o.h x = none → colResend t p = collFail t o.h 1) := by
  subst hq hi
  unfold colResend
  rw [h]
  dsimp only
  rw [hx]
  dsimp only
  refine ⟨fun hs => ?_, fun hs => ?_⟩ <;> rw [hs]

theorem colCounts_cases (h : runOf t p = some (o, r)) (hq : q = p.spec3.toNat) :
    (dOp o.d = 5 → (r.counts.any fun c => c.1 = q) = false → p.payload.length = 8 → colCounts t p =
      pumpRun (creditAll (placeHeld (setRun t o.h fun r =>
        { r with counts := r.counts ++ [(q, field p.payload 0 4, field p.payload 4 4)] }) o) o) o.h) ∧
    (dOp o.d ≠ 5 ∨ (r.counts.any fun c => c.1 = q) = true → colCounts t p = stale t) := by
  subst hq
  unfold colCounts
  rw [h]
  refine ⟨fun h5 hc hl => if_neg (by simp only [h5, hc, hl]; decide), fun hbad => if_pos ?_⟩
  rw [Bool.or_eq_true, Bool.or_eq_true, decide_eq_true_eq]
  exact .inl hbad

theorem colAbort_cases (h : runOf t p = some (o, r)) (hq : q = p.spec3.toNat) :
    ((r.mates.any fun m => m.rank = q) = true → colAbort t p = collFail t o.h 5) ∧
    ((r.mates.any fun m => m.rank = q) = false → colAbort t p = stale t) := by
  subst hq
  unfold colAbort
  rw [h]
  refine ⟨fun hr => ?_, fun hr => ?_⟩ <;> rw [Option.filter_some, hr] <;> rfl

/-- A whole tile whose seal disagrees (R104): asked for once more, or the end of the operation. -/
theorem tileWhole_disagrees {n : Nat} {sh : Shape} {bs : List Byte} (hq : q = p.spec3.toNat) (hn : n = p.addr % 2 ^ 32) (hsh : sh = expectShape o p)
    (h : arrivalOk s p sh bs = none) :
    (r.asked.contains (q, n) = true → tileWhole s o r p bs = collFail (tileSpoiled s o r p q n sh bs) o.h 2) ∧
    ∀ port, r.asked.contains (q, n) = false →
      pickPort (setRun s o.h fun r => { r with asked := (q, n) :: r.asked }) (o.dev q) 2 = some port →
      tileWhole s o r p bs = sendOn (setRun s o.h fun r => { r with asked := (q, n) :: r.asked }) port
        [collPacket (setRun s o.h fun r => { r with asked := (q, n) :: r.asked }) 0x22 (o.dev q) n 0 0 o.rank o.h false] := by
  subst hq hn hsh
  unfold tileWhole
  dsimp only
  rw [h]
  refine ⟨fun ha => if_pos ha, fun port ha hp => (if_neg (by rw [ha]; exact Bool.false_ne_true)).trans ?_⟩
  unfold sendColl
  rw [hp]; rfl

/-- COL_ABORT by the bit of its CHANNEL that names a ring (R345). -/
theorem abortArrives_list (h : bit p.channel.toNat 15 = false) : abortArrives t p = colAbort t p := if_neg (by rw [h]; exact Bool.false_ne_true)

theorem abortArrives_ring (h : bit p.channel.toNat 15 = true) :
    (ringOf t p true = none → ringOf t p false = none → abortArrives t p = stale t) ∧
    ∀ c r, ringOf t p true = some (c, r) → abortArrives t p = ringFail t r.ring 5 := by
  unfold abortArrives
  rw [if_pos h]
  refine ⟨fun h1 h2 => ?_, fun c r h1 => ?_⟩
  · rw [h1, h2]; rfl
  · rw [h1]; rfl

/-- A packet that arrives is looked at in the state that it was taken into. -/
theorem arrive_gives {ty : Byte} {f : State → State} (h : Arrives s p ty) (ht : t = taken s p) (hf : f t = u) : arrive ty p f s = .next u := by
  rw [arrive_serves h, ← ht, hf]

/-- Settles O40: each kind of packet by the operation that it belongs to. -/
theorem collectivePacketsAct : Obligations.CollectivePacketsAct := by
  unfold Obligations.CollectivePacketsAct
  refine ⟨fun s p t ht => ⟨fun ha h => arrive_gives ha ht (colData_stale h), fun ha h => arrive_gives ha ht (colCredit_stale h),
      fun ha h => arrive_gives ha ht (colResend_stale h), fun ha h => arrive_gives ha ht (colCounts_stale h),
      fun ha hb h => arrive_gives ha ht ((abortArrives_list hb).trans (colAbort_stale h)),
      fun ha hb h1 h2 => arrive_gives ha ht ((abortArrives_ring hb).1 h1 h2)⟩,
    fun s p t o r q item ht h hq hi => ⟨fun ha he => arrive_gives ha ht (colData_unexpected h hq hi he),
      fun idx bs rest u ha he hp hr => ?_, fun ha => (arrive_gives ha ht <| (colCredit_cases h hq hi).1 ·),
      fun ha => (arrive_gives ha ht <| (colCredit_cases h hq hi).2 ·), fun x u ha hx => ?_,
      fun ha h5 hc hl => arrive_gives ha ht ((colCounts_cases h hq).1 h5 hc hl), fun ha hbad => arrive_gives ha ht ((colCounts_cases h hq).2 hbad),
      fun ha hb => ?_⟩,
    fun s p c r ha hb h => arrive_gives ha rfl ((abortArrives_ring hb).2 c r h),
    fun s o r p q n sh bs hq hn hsh h => tileWhole_disagrees hq hn hsh h⟩
  · obtain ⟨passed, kept, whole⟩ := colData_expected (u := u) h hq hi he hp hr
    exact ⟨fun hx => arrive_gives ha ht (passed hx), fun hx hl => arrive_gives ha ht (kept hx hl),
      fun hx hl hu => arrive_gives ha ht (whole hx hl hu)⟩
  · obtain ⟨again, fails⟩ := colResend_cases (u := u) h hq hi hx
    exact ⟨fun hs => arrive_gives ha ht (again hs), fun hs => arrive_gives ha ht (fails hs)⟩
  · obtain ⟨ends, foreign⟩ := colAbort_cases h hq
    exact ⟨fun hm => arrive_gives ha ht ((abortArrives_list hb).trans (ends hm)),
      fun hm => arrive_gives ha ht ((abortArrives_list hb).trans (foreign hm))⟩

end Sys2Proof.Machine
end

section
/-! SUPPORT. The packets of Meridian rings (14_collectives_meridian.md; R347 to R352). -/

namespace Sys2Proof.Machine

variable {s t u : State} {p : Packet} {c : RingCtx} {r : RingRun} {q j idx count : Nat} {bs : List Byte} {sh : Shape} {grad : Bool}

/-! ### RING_BLOCK and RING_GRAD (R349, R352) -/

theorem ringData_stale (h : ringOf t p true = none) : ringData t p grad = stale t := by unfold ringData; rw [h]

theorem ringCredit_stale (h : ringOf t p false = none) : ringCredit t p = stale t := by unfold ringCredit; rw [h]

theorem ringResend_stale (h : ringOf t p false = none) : ringResend t p = stale t := by unfold ringResend; rw [h]

/-- The first item of a flow: gradient items are numbered on from the block items (log 35). -/
def firstItem (c : RingCtx) (grad : Bool) : Nat := if grad then c.items else 0

/-- Whether the predecessor may send item `q` of a flow (R349, R350, R352). -/
def ItemDue (c : RingCtx) (r : RingRun) (grad : Bool) (q : Nat) : Prop :=
  (grad = true → r.backward = true) ∧ firstItem c grad ≤ q ∧ q < firstItem c grad + c.items ∧ (r.flow grad).got.contains q = false ∧
    q < (r.flow grad).told.2

theorem itemDue_block : ItemDue c r false q ↔ q < c.items ∧ r.blk.got.contains q = false ∧ q < r.blk.told.2 := by
  simp [ItemDue, firstItem, RingRun.flow]

theorem itemDue_gradient : ItemDue c r true q ↔
    r.backward = true ∧ c.items ≤ q ∧ q < 2 * c.items ∧ r.grad.got.contains q = false ∧ q < r.grad.told.2 := by
  simp [ItemDue, firstItem, RingRun.flow, Nat.two_mul]

/-- The test of `ringData` passes what the predecessor may send. -/
theorem ringData_test_iff : ((grad && !r.backward) || q < firstItem c grad || firstItem c grad + c.items ≤ q || (r.flow grad).got.contains q ||
    (r.flow grad).told.2 ≤ q) = true ↔ ¬ ItemDue c r grad q := by
  unfold ItemDue
  simp only [Bool.or_eq_true, Bool.and_eq_true, Bool.not_eq_true', decide_eq_true_eq, not_and_or, Classical.not_imp, Nat.not_le, Nat.not_lt,
    Bool.not_eq_true, Bool.not_eq_false, or_assoc]

theorem ringData_undue (h : ringOf t p true = some (c, r)) (hq : q = p.addr % 2 ^ 32) (hd : ¬ ItemDue c r grad q) :
    ringData t p grad = stale t := by
  subst hq
  unfold ringData
  rw [h]
  exact if_pos (ringData_test_iff.mpr hd)

/-- A packet of an item that is due: passed over out of order, kept, or the one that makes its tile whole. -/
theorem ringData_due (h : ringOf t p true = some (c, r)) (hq : q = p.addr % 2 ^ 32) (hd : ItemDue c r grad q)
    (hp : (j, idx, bs) = ((r.flow grad).parts.find? fun x => x.1 = q).elim (0, 0, []) (·.2)) :
    (p.index.toNat ≠ idx → ringData t p grad = t) ∧
    (p.index.toNat = idx → bs.length + p.payload.length < Shape.bytes (ringShape c grad j p) → ringData t p grad =
      setRing t r.ring fun r => r.withFlow grad fun w => { w with
        parts := (q, j, idx + 1, bs ++ p.payload) :: w.parts.filter fun x => x.1 ≠ q }) ∧
    (p.index.toNat = idx → Shape.bytes (ringShape c grad j p) ≤ bs.length + p.payload.length →
      ringData t p grad = ringTile t c r grad q j p (bs ++ p.payload)) := by
  subst hq
  have known : ringData t p grad = if p.index.toNat ≠ idx then t else
      if Shape.bytes (ringShape c grad j p) ≤ (bs ++ p.payload).length then ringTile t c r grad (p.addr % 2 ^ 32) j p (bs ++ p.payload)
      else setRing t r.ring fun r => r.withFlow grad fun w =>
        { w with parts := (p.addr % 2 ^ 32, j, idx + 1, bs ++ p.payload) :: w.parts.filter fun x => x.1 ≠ p.addr % 2 ^ 32 } := by
    unfold ringData
    rw [h]
    refine (if_neg (fun hbad => ringData_test_iff.mp hbad hd)).trans ?_
    dsimp only
    rw [← hp]
  rw [known, List.length_append]
  exact ⟨fun hx => if_pos hx, fun hx hl => (if_neg (not_not.mpr hx)).trans (if_neg (Nat.not_le.mpr hl)),
    fun hx hl => (if_neg (not_not.mpr hx)).trans (if_pos hl)⟩

/-! ### RING_CREDIT and RING_RESEND (R350) -/

theorem ringCredit_flow (h : ringOf t p false = some (c, r)) (hq : q = p.addr % 2 ^ 32)
    (hg : grad = (r.backward && decide (c.items < p.spec0.toNat))) : ringCredit t p =
      pumpRing (setRing t r.ring fun r => r.withFlow grad fun w => { w with
        limit := max w.limit p.spec0.toNat, cred := max w.cred q, out := w.out.filter fun x => !(x.place.isSome && x.item < q) }) r.ring := by
  subst hq hg
  unfold ringCredit
  rw [h]

theorem ringResend_cases {kept : List Outgo} {sent : Option State} (h : ringOf t p false = some (c, r)) (hq : q = p.addr % 2 ^ 32)
    (hg : grad = decide (c.items ≤ q)) (hk : kept = (r.flow grad).out.filter (fun x => x.item = q && x.place.isSome))
    (hs : sent = kept.foldl (fun (s : Option State) x =>
      s.bind fun s => sendTile s (if grad then 0x32 else 0x30) c.nextDev c.rank (ringChannel r.ring) x) (some t)) :
    (kept = [] → ringResend t p = stale t) ∧
    (∀ u, kept ≠ [] → sent = some u → ringResend t p = u) ∧
    (sent = none → ringResend t p = ringFail t r.ring 1) := by
  unfold ringResend
  rw [h]
  dsimp only
  rw [← hq, ← hg, ← hk, ← hs]
  refine ⟨fun h0 => ?_, fun u h0 hu => ?_, fun h0 => ?_⟩
  · subst h0
    rw [hs]
    rfl
  · rw [hu]
    exact if_neg (by simpa using h0)
  · rw [h0]

/-! ### A whole tile (R104, R349) -/

theorem ringTile_cases (hsh : sh = ringShape c grad j p)
    (hc : count = (if grad then gradTiles c.rec' else (imageShapes c.rec').length)) :
    ((r.flow grad).redo.contains q = true → ringTile s c r grad q j p bs = nextTile s r.ring grad q j count) ∧
    (∀ crc u, (r.flow grad).redo.contains q = false → (r.flow grad).asked.contains q = false → arrivalOk s p sh bs = some crc →
      u = setDef (putTile s (slotAt (ringPlace c grad q j)) sh bs crc) r.handle (fun d => { d with received := d.received + 1 }) →
      ringTile s c r grad q j p bs = pumpRing (if j + 1 = count then itemWhole u c grad q else nextTile u r.ring grad q j count) r.ring) ∧
    ((r.flow grad).redo.contains q = false → arrivalOk s p sh bs = none →
      ringTile s c r grad q j p bs = ringSpoiled s c r grad q j count p sh bs) := by
  subst hsh hc
  unfold ringTile
  dsimp only
  refine ⟨fun hr => if_pos hr, fun crc u hr ha hok hu => (if_neg (by rw [hr]; exact Bool.false_ne_true)).trans ?_,
    fun hr hok => (if_neg (by rw [hr]; exact Bool.false_ne_true)).trans ?_⟩
  · have first : ¬ ((r.flow grad).asked.contains q && decide (j + 1 = if grad then gradTiles c.rec' else (imageShapes c.rec').length)) = true := by
      rw [ha]
      exact Bool.false_ne_true
    rw [hok, hu]
    dsimp only
    rw [if_neg first]
  · rw [hok]

/-- Settles O41: each kind of packet by the ring that it belongs to, block and gradient items alike. -/
theorem ringPacketsAct : Obligations.RingPacketsAct := by
  unfold Obligations.RingPacketsAct
  refine ⟨fun s p t ht => ⟨fun ha h => arrive_gives ha ht (ringData_stale h), fun ha h => arrive_gives ha ht (ringCredit_stale h),
      fun ha h => arrive_gives ha ht (ringData_stale h), fun ha h => arrive_gives ha ht (ringResend_stale h)⟩,
    fun s p t c r q j idx bs ht h hq => ⟨fun ha hb => ?_, fun ha hb => ?_, fun ha h1 h2 h3 hp hx => ?_, fun ha h1 h2 h3 h4 h5 hp hx => ?_,
      fun ha h1 h2 h3 hp hx => ?_, fun ha h1 h2 h3 h4 h5 hp hx => ?_⟩,
    fun s p t c r q ht h hq => ⟨fun ha hg => arrive_gives ha ht (ringCredit_flow (grad := false) h hq ?_),
      fun ha hb hi => arrive_gives ha ht (ringCredit_flow (grad := true) h hq (by simp [hb, hi])), fun grad kept sent ha hg hk hs => ?_⟩,
    fun s c r grad q j p bs sh count hsh hc => ringTile_cases hsh hc⟩
  · refine arrive_gives ha ht (ringData_undue h hq ?_)
    rw [itemDue_block]
    rintro ⟨h1, h2, h3⟩
    rcases hb with hb | hb | hb
    · omega
    · exact Bool.false_ne_true (h2.symm.trans hb)
    · omega
  · refine arrive_gives ha ht (ringData_undue h hq ?_)
    rw [itemDue_gradient]
    rintro ⟨h1, h2, h3, h4, h5⟩
    rcases hb with hb | hb | hb | hb | hb
    · exact Bool.false_ne_true (hb.symm.trans h1)
    · omega
    · omega
    · exact Bool.false_ne_true (h4.symm.trans hb)
    · omega
  · exact arrive_gives ha ht ((ringData_due (grad := false) h hq (itemDue_block.mpr ⟨h1, h2, h3⟩) hp).1 hx)
  · exact arrive_gives ha ht ((ringData_due (grad := true) h hq (itemDue_gradient.mpr ⟨h1, h2, h3, h4, h5⟩) hp).1 hx)
  · obtain ⟨-, kept, whole⟩ := ringData_due (grad := false) h hq (itemDue_block.mpr ⟨h1, h2, h3⟩) hp
    exact ⟨fun hl => arrive_gives ha ht (kept hx hl), fun hl => arrive_gives ha ht (whole hx hl)⟩
  · obtain ⟨-, kept, whole⟩ := ringData_due (grad := true) h hq (itemDue_gradient.mpr ⟨h1, h2, h3, h4, h5⟩) hp
    exact ⟨fun hl => arrive_gives ha ht (kept hx hl), fun hl => arrive_gives ha ht (whole hx hl)⟩
  · rcases hg with hg | hg
    · simp [hg]
    · simp [Nat.not_lt.mpr hg]
  · obtain ⟨none, again, fails⟩ := ringResend_cases h hq hg hk hs
    exact ⟨fun h0 => arrive_gives ha ht (none h0), fun u h0 hu => arrive_gives ha ht (again u h0 hu),
      fun h0 => arrive_gives ha ht (fails h0)⟩

end Sys2Proof.Machine
end
